-- ==== Sys2Proof/Word.lean ====
section
/-! DEFINITION. The word types of the KZ-7410 and the plainest arithmetic over them (spec/00_scope.md R1, spec/05_state.md R48). -/

namespace Sys2Proof

/-- A byte of memory. -/
abbrev Byte := BitVec 8

/-- A 32-bit lane or scalar value. -/
abbrev W32 := BitVec 32

/-- A 64-bit instruction word, address pair or system register. -/
abbrev W64 := BitVec 64

/-- A virtual address or PC of 57 bits (R82, R261). -/
abbrev VA := BitVec 57

/-- The 1,024 bits of one vector register; lane `l` holds bits [32l + 31 : 32l] (R52). -/
abbrev VReg := BitVec 1024

/-- A 128-byte line with its 8-byte sideband: data byte `i` in bits [8i + 7 : 8i], sideband byte `j` at byte 128 + `j` (R73, R158). -/
abbrev Line := BitVec 1088

/-- One bit for each of a line's 136 bytes (R158, R173). -/
abbrev LineMask := BitVec 136

/-- A set of the 32 lanes of a group (R16). -/
abbrev Lanes := BitVec 32

end Sys2Proof
end

