-- ==== Sys2Proof/Config.lean ====
section
/-! DEFINITION. What an implementation fixes and the free values: constants without a body, so that no proof can use a value of them, and the few constants that the model chooses. -/

namespace Sys2Proof

/-- The free value drawn with a number: nothing constrains it (assumption log 5). -/
opaque Config.freeNat : Nat → Nat

/-- The hash that picks the set of its LLC slice that a line falls into, which the manual leaves to the device (15 R178; assumption log 5). -/
opaque Config.llcSet : Nat → Nat

/-- The images that bring-up measures: firmware, die firmware, calendar microcode (33 R336; assumption log 5). -/
opaque Config.bootImage : Nat → List Byte
/-- The bytes that the numbers of a configuration are measured as (33 R336; assumption log 5). -/
opaque Config.configImage : List Nat → List Byte
/-- What is written at manufacture: the serial, the attestation key and its certificate chain, which no rule reads (33 R338; assumption log 5). -/
opaque Config.serial : List Byte
opaque Config.attestKey : Nat
opaque Config.certificates : List (List Byte)
/-- The info that HKDF forms from source, destination and session number (33 R339; assumption log 5). -/
opaque Config.sessionInfo : Nat → Nat → Nat → List Byte

/-- The physical address from which on HBM is reserved for page tables and line maps (25 R262, R275): DESIGN CHOICE, assumption log 11. -/
def Config.reservedBase : Nat := 2 ^ 40 - 2 ^ 34
/-- The root of the device's global page table (25 R261): DESIGN CHOICE, assumption log 11. -/
def Config.globalRoot : Nat := 2 ^ 40 - 2 ^ 19
/-- Bytes of a line as the budgets count them (31 R326): DESIGN CHOICE, assumption log 12. -/
def Config.lineBytes : Nat := 136

end Sys2Proof
end

