-- ==== Sys2Proof/Word/Formats.lean ====
section
/-! DEFINITION. The fields of the ten instruction formats, as spec/09_encoding.md R91 names them. -/

namespace Sys2Proof

/-- Format F-V (R91). -/
structure FV where
  mod  : BitVec 4
  prs  : BitVec 7
  pneg : Bool
  vd   : BitVec 8
  va   : BitVec 8
  vb   : BitVec 8
  vc   : BitVec 8
  ty   : BitVec 4
  rm   : BitVec 2
  sat  : Bool
  bs   : Bool
  cs   : Bool
deriving DecidableEq, Repr

/-- Format F-VI, the immediate form of the dual vector opcodes (R91, R92). -/
structure FVI where
  mod  : BitVec 4
  prs  : BitVec 7
  pneg : Bool
  vd   : BitVec 8
  va   : BitVec 8
  ty   : BitVec 4
  imm  : BitVec 24
deriving DecidableEq, Repr

/-- Format F-S (R91). -/
structure FS where
  mod : BitVec 4
  sd  : BitVec 7
  sa  : BitVec 7
  sb  : BitVec 7
  sc  : BitVec 7
  ty  : BitVec 4
deriving DecidableEq, Repr

/-- Format F-SI, the immediate form of the dual scalar opcodes (R91, R92). -/
structure FSI where
  mod : BitVec 4
  sd  : BitVec 7
  sa  : BitVec 7
  imm : BitVec 32
deriving DecidableEq, Repr

/-- Format F-B (R91). -/
structure FB where
  mod  : BitVec 4
  prs  : BitVec 7
  pneg : Bool
  tgt  : BitVec 24
  rcv  : BitVec 20
deriving DecidableEq, Repr

/-- Format F-M (R91). -/
structure FM where
  mod  : BitVec 4
  prs  : BitVec 7
  pneg : Bool
  vd   : BitVec 8
  va   : BitVec 8
  sb   : BitVec 7
  off  : BitVec 15
  col  : BitVec 3
  sco  : BitVec 3
deriving DecidableEq, Repr

/-- Format F-X (R91). -/
structure FX where
  mod : BitVec 4
  cd  : BitVec 3
  ce  : BitVec 3
  ta  : BitVec 4
  tb  : BitVec 4
  tg  : BitVec 4
  fa  : BitVec 3
  fb  : BitVec 3
  sub : BitVec 3
  spr : Bool
deriving DecidableEq, Repr

/-- Format F-E (R91). -/
structure FE where
  mod : BitVec 4
  sr  : BitVec 7
  vc  : BitVec 8
  tok : BitVec 3
  sx  : BitVec 7
  rid : BitVec 8
deriving DecidableEq, Repr

/-- Format F-W (R91); the same waits stand in a clause header (R83). -/
structure FW where
  wld  : BitVec 6
  wst  : BitVec 6
  wcp  : BitVec 4
  wtl  : BitVec 4
  tokw : BitVec 8
deriving DecidableEq, Repr

/-- Format F-Y (R91). -/
structure FY where
  mod    : BitVec 4
  sd     : BitVec 7
  sa     : BitVec 7
  sysreg : BitVec 12
deriving DecidableEq, Repr

end Sys2Proof
end

