-- ==== Sys2Proof/Word/Payload.lean ====
section
/-! DEFINITION. What arrives from outside the device, or is chosen by an agent that the spec leaves free, as the operands of the steps that are no instruction words: requests to a home, Gallery packets and frames, host accesses, commands, soft errors. -/

namespace Sys2Proof

/-- What a request asks of a line's home (15_memory_model.md R160): a read or fill, an ownership request, or an eviction. -/
inductive HomeKind where
  | read | own | evict
deriving DecidableEq, Repr

/-- A request for one line, from a core's die, at the line's home (R160). -/
structure HomeReq where
  core : Nat
  asid : Nat
  va   : VA
  kind : HomeKind
deriving DecidableEq, Repr

/-- What a Gallery packet carries (29_gallery.md R301, R302, R308 to R313). Addresses are offsets in the target's export window, units are 64 KiB units of it. -/
inductive PktKind where
  /-- The masked bytes of a line (R173, R232). -/
  | write (addr : Nat)
  /-- A mirrored write at a VA, of the context space or, with ASID 0, of the global window (R313). -/
  | mirror (va : Nat)
  /-- A read of a line with its sideband (R183). -/
  | read (addr : Nat)
  /-- An atomic or VRED: the operation code of the access kind, its width and its operands (R189, R190). -/
  | atomic (addr : Nat) (fl ret : Bool) (op : Nat) (operands : List W32)
  /-- The increment of a flag (R233). -/
  | signal (addr : Nat) (inc : W32)
  /-- A translation request and its reply (R309). -/
  | xlat (unit : Nat)
  | xlatReply (unit server : Nat) (w : Bool)
  /-- An invalidation of a translation and its acknowledgement (R310). -/
  | inval (unit : Nat)
  | invalAck (unit : Nat)
  /-- Responses: the line read, the value before an atomic, performed, MOVED, refused, not present (R302, R308, R309). -/
  | readReply
  | atomicReply (vals : List W32) (poisoned : Bool)
  | performed
  | moved
  | refused
  | notPresent
  /-- A domain barrier's arrival, and its completion with the tags of the arrivals that it releases (R311). -/
  | gbarArrive (n : Nat) (count : W32)
  | gbarDone (n : Nat) (tags : List Nat)
  /-- A device total of a norm collective and its domain total (R312). -/
  | normTotal (j : Nat) (t : W32)
  | normReturn (j : Nat) (u : W32)
deriving DecidableEq, Repr

/-- A Gallery packet: its origin, its destination, the domain job, its colour, its place in the sequence of R301, the tag that ties a response to its request, the line it carries with its poison, the colours of a mirrored write (R313), the die that sends it, and, for an access through a remote translation, the device that its address names (R309, R310), and the session whose frame carries it (R305, R306). -/
structure Packet where
  src    : Nat := 0
  dst    : Nat := 0
  djob   : W32 := 0
  colour : Nat := 0
  seq    : Option Nat := none
  tag    : Nat := 0
  kind   : PktKind := .performed
  line   : Line := 0
  mask   : LineMask := 0
  poison : Bool := false
  cols   : Byte := 0
  die    : Nat := 0
  named  : Nat := 0
  sess   : Option Nat := none
deriving DecidableEq, Repr

/-- The host's answer to a back-invalidation snoop: an address of the line, and the bytes from its first on that the host has modified (31_host.md R318). -/
structure SnoopAnswer where
  pa   : Nat
  data : List Byte := []
deriving DecidableEq, Repr

/-- What names a frame on every hop: source, destination, session and counter (29_gallery.md R303, R305). -/
structure FrameId where
  src     : Nat
  dst     : Nat
  session : Nat
  counter : Nat
deriving DecidableEq, Repr

/-- A frame (29_gallery.md R303). `crcOk`, `tagOk` and `lineOk` are what the receiver's checks of the CRC, of the GCM tag and of the line checks find; `hopAcks` and `credit` are the trailer. -/
structure GalFrame where
  src     : Nat
  dst     : Nat
  xmit    : Nat
  relayed : Bool
  retrans : Bool
  session : Nat
  counter : Nat
  pkts    : List Packet
  crcOk   : Bool
  tagOk   : Bool
  lineOk  : Bool
  hopAcks : List FrameId
  credit  : Nat
deriving DecidableEq, Repr

/-- A host access through CXL.mem (31_host.md R318, R343): a read, a read of a line that the host then holds, a write of bytes, an atomic add, swap or compare-and-swap; a host write or read of its own memory, where the command ring, the fault logs and the host-memory ranges of the CXL tier lie (25 R268, 31 R317, R323); a read of a BAR0 register of port 0 (31 R323); and the ring words that a kernel's `.ring` directives give, by context, ENTRY and ring number (21 R228; assumption log 8). -/
inductive HostOp where
  | read (bytes : Nat)
  | hold
  | write (data : List Byte)
  | fetchAdd (bytes : Nat) (addend : Nat)
  | swap (bytes : Nat) (value : Nat)
  | cas (bytes : Nat) (compare value : Nat)
  | own (data : List Byte)
  | ownRead (bytes : Nat)
  | register (offset : Nat)
  | rings (ctx entry : Nat) (words : List (BitVec 64))
deriving DecidableEq, Repr

/-- The arrays and registers a soft error may hit (33_debug_platform.md R340; 05 R49; 17 R342; 25 R278). -/
inductive SoftSite where
  /-- Corrected ECC, any array of a die. -/
  | corrected (die : Nat)
  /-- An uncorrectable error in lane `l` of vector register `n` of a group. -/
  | vector (g n l : Nat)
  | scaleByte (g n b : Nat)
  | scalar (g n : Nat)
  | tile (g n : Nat)
  | acc (g n : Nat)
  /-- An uncorrectable error in a word of a team's scratchpad. -/
  | spad (team word : Nat)
  /-- An uncorrectable error in an L1 or LLC line. -/
  | l1 (core asid : Nat) (va : VA)
  | llc (die asid : Nat) (va : VA)
  /-- What a link that failed its own retry does to the next line that crosses a boundary: the bits it flips (01 R15). -/
  | crossing (boundary : Nat) (flips : Line)
deriving DecidableEq, Repr

/-- A CXL range that the host gives at bring-up: its bytes, and where it lies in host memory, or none for pool memory (31_host.md R317). -/
structure CxlRange where
  size : Nat
  host : Option Nat
deriving DecidableEq, Repr

/-- What bring-up brings with it from outside: whether the firmware image and the die firmware verify, the domain, with the calendar table that the optical controller loads, and the CXL ranges of the host (29_gallery.md R296 to R298; 31_host.md R317; 33 R336). -/
structure PowerUp where
  imageOk : Bool
  dieOk   : Bool
  devices : Nat
  me      : Nat
  stepNs  : Nat
  epoch   : Nat
  nowNs   : Nat
  caltab  : List (Nat × BitVec 16)
  ranges  : List CxlRange := []
deriving DecidableEq, Repr

end Sys2Proof
end

