-- ==== Sys2Proof/Syntax.lean ====
section
/-! DEFINITION. The one syntax of the KZ-7410: every instruction word of the opcode map (09_encoding.md R99, R100), and
every step that is no instruction word (95_what_each_step_holds.md). A step that is no word carries, as its operands, what its agent
brings to it from outside the state: which of several agents or operations moves, and what arrives from outside the device. -/

namespace Sys2Proof

/-- One constructor per row of the opcode table; the docstring of each names the rule of spec/. -/
inductive Instr where
  /-- SMOV (R111). -/
  | smov (f : FS)
  /-- SMOVI (R111). -/
  | smovi (f : FSI)
  /-- SADD (R111). -/
  | sadd (f : FS)
  /-- SADD_IMM (R111). -/
  | saddImm (f : FSI)
  /-- SSUB (R111). -/
  | ssub (f : FS)
  /-- SSUB_IMM (R111). -/
  | ssubImm (f : FSI)
  /-- SMUL (R111). -/
  | smul (f : FS)
  /-- SMUL_IMM (R111). -/
  | smulImm (f : FSI)
  /-- SMULHI (R111). -/
  | smulhi (f : FS)
  /-- SAND (R111). -/
  | sand (f : FS)
  /-- SAND_IMM (R111). -/
  | sandImm (f : FSI)
  /-- SOR (R111). -/
  | sor (f : FS)
  /-- SOR_IMM (R111). -/
  | sorImm (f : FSI)
  /-- SXOR (R111). -/
  | sxor (f : FS)
  /-- SXOR_IMM (R111). -/
  | sxorImm (f : FSI)
  /-- SSHL (R111). -/
  | sshl (f : FS)
  /-- SSHL_IMM (R111). -/
  | sshlImm (f : FSI)
  /-- SSHR (R111). -/
  | sshr (f : FS)
  /-- SSHR_IMM (R111). -/
  | sshrImm (f : FSI)
  /-- SSAR (R111). -/
  | ssar (f : FS)
  /-- SSAR_IMM (R111). -/
  | ssarImm (f : FSI)
  /-- SMIN (R111). -/
  | smin (f : FS)
  /-- SMIN_IMM (R111). -/
  | sminImm (f : FSI)
  /-- SMAX (R111). -/
  | smax (f : FS)
  /-- SMAX_IMM (R111). -/
  | smaxImm (f : FSI)
  /-- SCMP (R112). -/
  | scmp (f : FS)
  /-- SCMP_IMM (R112). -/
  | scmpImm (f : FSI)
  /-- SSEL (R111). -/
  | ssel (f : FS)
  /-- SPOPC (R111). -/
  | spopc (f : FS)
  /-- SCLZ (R111). -/
  | sclz (f : FS)
  /-- SBFX (R111). -/
  | sbfx (f : FS)
  /-- SGET (R113). -/
  | sget (f : FSI)
  /-- BRA (R115). -/
  | bra (f : FB)
  /-- BRD (R116). -/
  | brd (f : FB)
  /-- BRI (R117). -/
  | bri (f : FS)
  /-- CALL (R119). -/
  | call (f : FB)
  /-- WAIT (R124). -/
  | wait (f : FW)
  /-- BAR (R126). -/
  | bar (f : FS)
  /-- BARRIVE (R126). -/
  | barrive (f : FS)
  /-- EXIT (R128). -/
  | exit (f : FB)
  /-- REGROUP (R129). -/
  | regroup (f : FV)
  /-- TRAP (R131). -/
  | trap (f : FSI)
  /-- VADD (R138). -/
  | vadd (f : FV)
  /-- VADD_IMM (R138). -/
  | vaddImm (f : FVI)
  /-- VSUB (R138). -/
  | vsub (f : FV)
  /-- VSUB_IMM (R138). -/
  | vsubImm (f : FVI)
  /-- VMUL (R138). -/
  | vmul (f : FV)
  /-- VMUL_IMM (R138). -/
  | vmulImm (f : FVI)
  /-- VMAD (R138). -/
  | vmad (f : FV)
  /-- VMIN (R138). -/
  | vmin (f : FV)
  /-- VMIN_IMM (R138). -/
  | vminImm (f : FVI)
  /-- VMAX (R138). -/
  | vmax (f : FV)
  /-- VMAX_IMM (R138). -/
  | vmaxImm (f : FVI)
  /-- VABS (R138). -/
  | vabs (f : FV)
  /-- VAND (R138). -/
  | vand (f : FV)
  /-- VAND_IMM (R138). -/
  | vandImm (f : FVI)
  /-- VOR (R138). -/
  | vor (f : FV)
  /-- VOR_IMM (R138). -/
  | vorImm (f : FVI)
  /-- VXOR (R138). -/
  | vxor (f : FV)
  /-- VXOR_IMM (R138). -/
  | vxorImm (f : FVI)
  /-- VNOT (R138). -/
  | vnot (f : FV)
  /-- VBFN3 (R138). -/
  | vbfn3 (f : FV)
  /-- VSHL (R138). -/
  | vshl (f : FV)
  /-- VSHL_IMM (R138). -/
  | vshlImm (f : FVI)
  /-- VSHR (R138). -/
  | vshr (f : FV)
  /-- VSHR_IMM (R138). -/
  | vshrImm (f : FVI)
  /-- VSAR (R138). -/
  | vsar (f : FV)
  /-- VSAR_IMM (R138). -/
  | vsarImm (f : FVI)
  /-- VBFX (R138). -/
  | vbfx (f : FV)
  /-- VBFI (R138). -/
  | vbfi (f : FV)
  /-- VPOPC (R138). -/
  | vpopc (f : FV)
  /-- VCLZ (R138). -/
  | vclz (f : FV)
  /-- VFADD (R140). -/
  | vfadd (f : FV)
  /-- VFADD_IMM (R140). -/
  | vfaddImm (f : FVI)
  /-- VFSUB (R140). -/
  | vfsub (f : FV)
  /-- VFSUB_IMM (R140). -/
  | vfsubImm (f : FVI)
  /-- VFMUL (R140). -/
  | vfmul (f : FV)
  /-- VFMUL_IMM (R140). -/
  | vfmulImm (f : FVI)
  /-- VFMA (R140). -/
  | vfma (f : FV)
  /-- VFMIN (R140). -/
  | vfmin (f : FV)
  /-- VFMIN_IMM (R140). -/
  | vfminImm (f : FVI)
  /-- VFMAX (R140). -/
  | vfmax (f : FV)
  /-- VFMAX_IMM (R140). -/
  | vfmaxImm (f : FVI)
  /-- VFRND (R140). -/
  | vfrnd (f : FV)
  /-- VFRCP (R141). -/
  | vfrcp (f : FV)
  /-- VFRSQ (R141). -/
  | vfrsq (f : FV)
  /-- VFSQRT (R141). -/
  | vfsqrt (f : FV)
  /-- VFEXP2 (R141). -/
  | vfexp2 (f : FV)
  /-- VFLOG2 (R141). -/
  | vflog2 (f : FV)
  /-- VFTRIG (R141). -/
  | vftrig (f : FV)
  /-- VFTANH (R141). -/
  | vftanh (f : FV)
  /-- VCMP (R143). -/
  | vcmp (f : FV)
  /-- VCMP_IMM (R143). -/
  | vcmpImm (f : FVI)
  /-- VFCMP (R143). -/
  | vfcmp (f : FV)
  /-- VFCMP_IMM (R143). -/
  | vfcmpImm (f : FVI)
  /-- VSEL (R144). -/
  | vsel (f : FV)
  /-- VCVT (R146). -/
  | vcvt (f : FV)
  /-- VPACK (R147). -/
  | vpack (f : FV)
  /-- VUNPACK (R148). -/
  | vunpack (f : FV)
  /-- VRQ (R149). -/
  | vrq (f : FV)
  /-- VMOV (R152). -/
  | vmov (f : FV)
  /-- VMOVI (R152). -/
  | vmovi (f : FVI)
  /-- VBCAST (R152). -/
  | vbcast (f : FV)
  /-- VLANE (R152). -/
  | vlane (f : FV)
  /-- VSHFL (R153). -/
  | vshfl (f : FV)
  /-- VVOTE (R154). -/
  | vvote (f : FV)
  /-- VMATCH (R154). -/
  | vmatch (f : FV)
  /-- VSCAN (R155). -/
  | vscan (f : FV)
  /-- VREDUCE (R155). -/
  | vreduce (f : FV)
  /-- VRAND (R156). -/
  | vrand (f : FV)
  /-- XMOV (R150). -/
  | xmov (f : FV)
  /-- XSET (R150). -/
  | xset (f : FV)
  /-- XMAXE (R149). -/
  | xmaxe (f : FV)
  /-- VLD (R186). -/
  | vld (f : FM)
  /-- VST (R186). -/
  | vst (f : FM)
  /-- VLDS (R186). -/
  | vlds (f : FM)
  /-- VSTS (R186). -/
  | vsts (f : FM)
  /-- SLD (R186). -/
  | sld (f : FM)
  /-- SST (R186). -/
  | sst (f : FM)
  /-- VLDX (R187). -/
  | vldx (f : FM)
  /-- VSTX (R187). -/
  | vstx (f : FM)
  /-- VATOM (R191). -/
  | vatom (f : FM)
  /-- VFATOM (R190). -/
  | vfatom (f : FM)
  /-- VATOMS (R191). -/
  | vatoms (f : FM)
  /-- SATOM (R191). -/
  | satom (f : FM)
  /-- VRED (R191). -/
  | vred (f : FM)
  /-- LDRSV (R192). -/
  | ldrsv (f : FM)
  /-- STCND (R192). -/
  | stcnd (f : FM)
  /-- FENCE (R193). -/
  | fence (f : FM)
  /-- PREF (R194). -/
  | pref (f : FM)
  /-- LPIN (R195). -/
  | lpin (f : FS)
  /-- LUNPIN (R195). -/
  | lunpin (f : FS)
  /-- DRAIN (R193). -/
  | drain (f : FM)
  /-- PRESQ (R197). -/
  | presq (f : FM)
  /-- STASH (R200). -/
  | stash (f : FE)
  /-- SPJOIN (R198). -/
  | spjoin (f : FS)
  /-- TSHAPE (R244). -/
  | tshape (f : FV)
  /-- TSCL (R245). -/
  | tscl (f : FV)
  /-- TZERO (R244). -/
  | tzero (f : FX)
  /-- TLDS (R246). -/
  | tlds (f : FM)
  /-- TSTS (R246). -/
  | tsts (f : FM)
  /-- TMOV (R249). -/
  | tmov (f : FV)
  /-- MMA (R251). -/
  | mma (f : FX)
  /-- MMAS (R252). -/
  | mmas (f : FX)
  /-- MMAD (R253). -/
  | mmad (f : FX)
  /-- MMAF (R251). -/
  | mmaf (f : FX)
  /-- MMAI (R251). -/
  | mmai (f : FX)
  /-- CZERO (R258). -/
  | czero (f : FX)
  /-- CLDS (R247). -/
  | clds (f : FM)
  /-- CSTS (R247). -/
  | csts (f : FM)
  /-- CRQ (R257). -/
  | crq (f : FV)
  /-- CTOV (R250). -/
  | ctov (f : FV)
  /-- VTOC (R250). -/
  | vtoc (f : FV)
  /-- CSCALE (R258). -/
  | cscale (f : FV)
  /-- TCOPY (R224). -/
  | tcopy (f : FE)
  /-- TCOPYS (R224). -/
  | tcopys (f : FE)
  /-- TCQRY (R225). -/
  | tcqry (f : FE)
  /-- TOKCLR (R226). -/
  | tokclr (f : FE)
  /-- RPUSH (R230). -/
  | rpush (f : FE)
  /-- RPOP (R229). -/
  | rpop (f : FE)
  /-- RWAIT (R231). -/
  | rwait (f : FE)
  /-- RREL (R230). -/
  | rrel (f : FE)
  /-- GCOPY (R232). -/
  | gcopy (f : FE)
  /-- GFLUSH (R234). -/
  | gflush (f : FE)
  /-- GSIG (R233). -/
  | gsig (f : FE)
  /-- GBAR (R236). -/
  | gbar (f : FE)
  /-- GSLOT (R235). -/
  | gslot (f : FE)
  /-- NRMADD (R237). -/
  | nrmadd (f : FE)
  /-- NRMRD (R238). -/
  | nrmrd (f : FE)
  /-- MIRROR (R239). -/
  | mirror (f : FE)
  /-- SRD (R286). -/
  | srd (f : FY)
  /-- SWR (R286). -/
  | swr (f : FY)
  /-- TRET (R283). -/
  | tret (f : FY)
  /-- CTXSV (R287). -/
  | ctxsv (f : FY)
  /-- CTXLD (R287). -/
  | ctxld (f : FY)
  /-- TLBINV (R265). -/
  | tlbinv (f : FY)
  /-- CINV (R265). -/
  | cinv (f : FY)
  /-- HEATRD (R274). -/
  | heatrd (f : FY)
  /-- DBGRD (R335). -/
  | dbgrd (f : FY)
  /-- DBGWR (R335). -/
  | dbgwr (f : FY)
  /-- QPOST (R322). -/
  | qpost (f : FY)
  /-- LOAD_DATA_RETURN (R53). -/
  | loadDataReturn (op reg : Nat) (lanes : Lanes)
  /-- STORE_PERFORMED (R53). -/
  | storePerformed (op : Nat) (lanes : Lanes)
  /-- TILE_MOVE_COMPLETE (R248). -/
  | tileMoveComplete (op : Nat) (units : Option (List Nat))
  /-- LANE_FAULT (R202). -/
  | laneFault (op : Nat)
  /-- ACCESS_VIOLATION (R202). -/
  | accessViolation (op : Nat)
  /-- TEAM_SAVE (R289). -/
  | teamSave (park : List Nat)
  /-- RELEASE_PULL (R165). -/
  | releasePull (asid : Nat) (va : VA)
  /-- PULL_ACK (R165). -/
  | pullAck (asid : Nat) (va : VA)
  /-- HOME_REQUEST (R160). -/
  | homeRequest (r : HomeReq)
  /-- DIRECTORY_INVALIDATE (R160). -/
  | directoryInvalidate (asid : Nat) (va : VA)
  /-- L1_WRITE_BACK (R158). -/
  | l1WriteBack (asid : Nat) (va : VA) (evict : Bool)
  /-- HOME_ATOMIC (R171). -/
  | homeAtomic (op : Nat) (lanes : Lanes)
  /-- MIGRATE_WAIT_TIMEOUT (R271). -/
  | migrateWaitTimeout (op : Nat)
  /-- NORM_DEPOSIT (R260). -/
  | normDeposit (answer : Bool)
  /-- TIMING_MARK (R298). -/
  | timingMark (n : Nat) (ok : Bool)
  /-- ALIGNMENT_LOSS (R298). -/
  | alignmentLoss (exceeded : Bool)
  /-- DEVICE_LOST (R316). -/
  | deviceLost (dev : Nat)
  /-- FRAME_RECEIVE (R304). -/
  | frameReceive (f : GalFrame)
  /-- END_TO_END_ACK (R302). -/
  | endToEndAck (id : FrameId)
  /-- GCM_RESEND (R306). -/
  | gcmResend (id : FrameId)
  /-- SESSION_ESTABLISH (R339). -/
  | sessionEstablish (peer number : Nat) (key : Option (List Byte))
  /-- HOST_MEM_ACCESS (R318). -/
  | hostMemAccess (pa : Nat) (op : HostOp)
  /-- SIDEBAND_WINDOW_ACCESS (R343). -/
  | sidebandWindowAccess (pa : Nat) (op : HostOp)
  /-- SNOOP_RESPONSE (R318). -/
  | snoopResponse (x : SnoopAnswer)
  /-- CRWP_DOORBELL (R323). -/
  | crwpDoorbell (wp : W32)
  /-- CR_ENABLE (R324). -/
  | crEnable (v : W32)
  /-- REGISTER_WRITE (R323). -/
  | registerWrite (off : Nat) (v : W64)
  /-- HEATCTL_WRITE (R272). -/
  | heatctlWrite (f : FY)
  /-- BARST_WRITE (R60). -/
  | barstWrite (f : FY)
  /-- RINGST_WRITE (R227). -/
  | ringstWrite (f : FY)
  /-- PCBRK_WRITE (R329). -/
  | pcbrkWrite (f : FY)
  /-- SAMPCTL_WRITE (R331). -/
  | sampctlWrite (f : FY)
  /-- NORMBOX_WRITE (R259). -/
  | normboxWrite (f : FY)
  /-- PC_SAMPLE (R332). -/
  | pcSample (core k : Nat)
  /-- GATE_HOLD (R13). -/
  | gateHold (held : Bool)
  /-- POWER_ON (R336). -/
  | powerOn (p : PowerUp)
  /-- P1_ENTER (R337). -/
  | p1Enter (die temp watts : Nat)
  /-- P1_EXIT (R337). -/
  | p1Exit (die temp watts : Nat)
  /-- THERMAL_SHUTDOWN (R337). -/
  | thermalShutdown (temp : Nat)
  /-- POWER_STATE_SELECT (R337). -/
  | powerStateSelect (p : Nat)
  /-- ATTESTATION_REPORT (R338). -/
  | attestationReport (nonce : BitVec 384)
  /-- MR_EXTEND (R338). -/
  | mrExtend (n : Nat) (data : List Byte)
  /-- SOFT_ERROR (R340). -/
  | softError (site : SoftSite)
  /-- NOP (R113). -/
  | nop
  /-- RET (R120). -/
  | ret
  /-- JOIN (R121). -/
  | join
  /-- WIDEN (R123). -/
  | widen
  /-- NARROW (R123). -/
  | narrow
  /-- YIELD (R125). -/
  | yield
  /-- SPLEAVE (R199). -/
  | spleave
  /-- ERRCLR (R58). -/
  | errclr
  /-- ICINV (R294). -/
  | icinv
  /-- CLAUSE_BEGIN (R85). -/
  | clauseBegin
  /-- PENDING_ENTER (R25). -/
  | pendingEnter
  /-- FORCED_SWAP (R28). -/
  | forcedSwap
  /-- PATH_SWITCH (R33). -/
  | pathSwitch
  /-- FAULT_RECORD_ENQUEUE (R268). -/
  | faultRecordEnqueue
  /-- ABSENT_LINE_REISSUE (R197). -/
  | absentLineReissue
  /-- REGROUP_EXCHANGE (R44). -/
  | regroupExchange
  /-- GROUP_RETIRE (R45). -/
  | groupRetire
  /-- GRID_END (R46). -/
  | gridEnd
  /-- TEAM_PLACEMENT (R21). -/
  | teamPlacement
  /-- PREEMPT_POINT (R288). -/
  | preemptPoint
  /-- TEAM_LEAVE_CORE (R289). -/
  | teamLeaveCore
  /-- RESUME_RESTORE (R290). -/
  | resumeRestore
  /-- WCB_AGE_EXPIRY (R174). -/
  | wcbAgeExpiry
  /-- WCB_ACK (R174). -/
  | wcbAck
  /-- REMOTE_REQUEST (R308). -/
  | remoteRequest
  /-- REMOTE_TRANSLATION_REQUEST (R309). -/
  | remoteTranslationRequest
  /-- MOVED (R309). -/
  | moved
  /-- REMOTE_INVALIDATE (R310). -/
  | remoteInvalidate
  /-- ENGINE_SLOT_GRANT (R204). -/
  | engineSlotGrant
  /-- RECORD_READ_COMPLETE (R205). -/
  | recordReadComplete
  /-- COPY_WRITE_LAND (R216). -/
  | copyWriteLand
  /-- ENGINE_OP_FAULT (R219). -/
  | engineOpFault
  /-- ENGINE_OP_COMPLETE (R217). -/
  | engineOpComplete
  /-- RING_OP_EFFECT (R230). -/
  | ringOpEffect
  /-- RWAIT_RELEASE (R231). -/
  | rwaitRelease
  /-- MATRIX_CHUNK_COMPLETE (R255). -/
  | matrixChunkComplete
  /-- NORM_TOTAL_RECEIVE (R312). -/
  | normTotalReceive
  /-- GBAR_ARRIVAL (R311). -/
  | gbarArrival
  /-- GBAR_COMPLETION (R311). -/
  | gbarCompletion
  /-- MIRRORED_WRITE (R313). -/
  | mirroredWrite
  /-- MIRROR_ACK (R239). -/
  | mirrorAck
  /-- GALLERY_STEP (R297). -/
  | galleryStep
  /-- CTX_CREATE (R325). -/
  | ctxCreate
  /-- CTX_DESTROY (R325). -/
  | ctxDestroy
  /-- MAP (R262). -/
  | map
  /-- REPLAY (R270). -/
  | replay
  /-- BUDGET (R326). -/
  | budget
  /-- GPARAM (R307). -/
  | gparam
  /-- ARM (R320). -/
  | arm
  /-- OVFPOOL (R276). -/
  | ovfpool
  /-- BUDGET_PERIOD (R326). -/
  | budgetPeriod
  /-- HEAT_DECAY (R273). -/
  | heatDecay
deriving DecidableEq, Repr

end Sys2Proof
end

