-- ==== Sys2Proof/Machine/Encoding.lean ====
section
/-! DEFINITION. What the encoding chapters fix of each instruction word without looking at the machine: its class and place in a clause, the roles that may issue it, its must-be-zero fields, its reserved values, its privilege and the registers it names (09_encoding.md R89, R90, R101; 11 R109; 13 R132 to R151; 17 R181; 21 R222; 23 R240, R241; 25 R265; 27 R286; 31 R322; 33 R335). -/

namespace Sys2Proof

/-- The clause classes, CLS 0 to 4 (R83). -/
inductive Class where
  | vec | mem | mtx | eng | sys
deriving DecidableEq, Repr

/-- The placement rules of R89. -/
inductive Position where
  | any | first | last
deriving DecidableEq, Repr

/-- What the encoding fixes of one instruction word. `cls = none` stands for the scalar and control family, which any class admits (R89). `pred` is the predicate register and its inversion (R5). The lists name the registers read and written, by number (R90): scalar, vector, scale and accumulator; `sd` and `vd` are those read as the data of a store, which in a `store` a system handler may read poisoned (27 R291); `sn` are only named, and must lie in the file (25 R265). `ownPoison` marks an instruction whose vector and scale units read are not the lanes of ACTIVE of `vr` and all bytes of `xr`: its meaning looks at their poison itself (R136, R187, R223, R241). -/
structure Info where
  isWord  : Bool := true
  cls     : Option Class := none
  pos     : Position := .any
  vector  : Bool := true
  feed    : Bool := true
  matrix  : Bool := true
  mbz     : Bool := true
  priv    : Bool := false
  sysOk   : Bool := true
  valid   : Bool := true
  legal   : Bool := true
  mtxFam  : Bool := false
  pred : Nat × Bool := (0, false)
  ownPoison : Bool := false
  store : Bool := false
  sr : List Nat := []
  sd : List Nat := []
  sw : List Nat := []
  sn : List Nat := []
  vr : List Nat := []
  vd : List Nat := []
  vw : List Nat := []
  xr : List Nat := []
  xw : List Nat := []
  cr : List Nat := []
deriving DecidableEq, Repr

/-- The numbers `a` to `a + n - 1`. -/
def regSpan (a n : Nat) : List Nat := (List.range n).map (a + ·)

/-- Bit 7 of an 8-bit field that names a scalar register is must-be-zero (R90). -/
def namesScalar (x : BitVec 8) : Bool := x.toNat < 128

/-- The fields of F-V that an instruction's description may use (R90, R91). -/
inductive VField where
  | mod | pred | vd | va | vb | vc | ty | rm | sat | bs | cs
deriving DecidableEq, Repr

/-- Every field of F-V outside `u` is zero, and a field that BS or CS turns into a scalar register has bit 7 zero (R90, R132). -/
def FV.only (f : FV) (u : List VField) : Bool :=
  (u.contains .mod || f.mod == 0) && (u.contains .pred || (f.prs == 0 && f.pneg == false)) &&
  (u.contains .vd || f.vd == 0) && (u.contains .va || f.va == 0) && (u.contains .vb || f.vb == 0) &&
  (u.contains .vc || f.vc == 0) && (u.contains .ty || f.ty == 0) && (u.contains .rm || f.rm == 0) &&
  (u.contains .sat || f.sat == false) && (u.contains .bs || f.bs == false) && (u.contains .cs || f.cs == false) &&
  (!f.bs || namesScalar f.vb) && (!f.cs || namesScalar f.vc)

/-- The fields of F-M that an instruction's description may use (R90, R91). -/
inductive MField where
  | mod | pred | vd | va | sb | off | col | sco
deriving DecidableEq, Repr

/-- Every field of F-M outside `u` is zero (R90). -/
def FM.only (f : FM) (u : List MField) : Bool :=
  (u.contains .mod || f.mod == 0) && (u.contains .pred || (f.prs == 0 && f.pneg == false)) &&
  (u.contains .vd || f.vd == 0) && (u.contains .va || f.va == 0) && (u.contains .sb || f.sb == 0) &&
  (u.contains .off || f.off == 0) && (u.contains .col || f.col == 0) && (u.contains .sco || f.sco == 0)

/-- The fields of F-S that an instruction's description may use (R90, R91); TY is used by none (R110). -/
def FS.only (f : FS) (mod sd sa sb sc : Bool) : Bool :=
  (mod || f.mod == 0) && (sd || f.sd == 0) && (sa || f.sa == 0) && (sb || f.sb == 0) && (sc || f.sc == 0) && f.ty == 0

/-- The fields of F-X that an instruction's description may use (R90, R91). SUB and SPR are judged with the opcode (R241). -/
def FX.only (f : FX) (cd ce ta tb tg fab : Bool) : Bool :=
  (cd || f.cd == 0) && (ce || f.ce == 0) && (ta || f.ta == 0) && (tb || f.tb == 0) && (tg || f.tg == 0) &&
  (fab || (f.fa == 0 && f.fb == 0))

/-- The fields of F-E that an instruction's description may use (R90, R91, R222). -/
def FE.only (f : FE) (sr vc tok sx : Bool) (ridMax : Nat) : Bool :=
  (sr || f.sr == 0) && (vc || f.vc == 0) && (tok || f.tok == 0) && (sx || f.sx == 0) && f.rid.toNat ≤ ridMax

/-- The fields of F-Y that an instruction's description may use (R90, R91). -/
def FY.only (f : FY) (mod sd sa sysreg : Bool) : Bool :=
  (mod || f.mod == 0) && (sd || f.sd == 0) && (sa || f.sa == 0) && (sysreg || f.sysreg == 0)

/-- TY codes of R94. -/
def isIntTy (t : BitVec 4) : Bool := t.toNat ∈ [0, 1, 2, 4, 5, 6]
/-- TY codes f32, f16 and bf16 (R139). -/
def isFpTy (t : BitVec 4) : Bool := t.toNat ∈ [8, 9, 10]
/-- TY codes e5m2 to e2m1 (R145). -/
def isMxTy (t : BitVec 4) : Bool := 11 ≤ t.toNat
/-- TY codes f16, bf16 and e5m2 to e2m1 (R145). -/
def isPackTy (t : BitVec 4) : Bool := 9 ≤ t.toNat
/-- TY codes that VCVT accepts as source or destination (R145). -/
def isCvtTy (t : BitVec 4) : Bool := isIntTy t || 8 ≤ t.toNat
/-- Elements per lane of a packed type (R145). -/
def packCount (t : BitVec 4) : Nat := if t == 15 then 8 else if 11 ≤ t.toNat then 4 else 2

/-- Scalar and control instructions (R109). -/
def ctl : Info := {}
/-- A clause-final control instruction. -/
def ctlLast : Info := { pos := .last }
/-- Vector instructions: VECTOR groups only, class VEC (R132). -/
def vecI : Info := { cls := some .vec, feed := false, matrix := false }
/-- Memory instructions: FEED and VECTOR groups, class MEM (R181). -/
def memI : Info := { cls := some .mem, matrix := false }
/-- Matrix instructions: MATRIX groups only, class MTX (R240). -/
def mtxI : Info := { cls := some .mtx, vector := false, feed := false, mtxFam := true }
/-- Engine instructions, class ENG; the copy, Gallery and collective opcodes belong to FEED and VECTOR groups (R18). -/
def engI : Info := { cls := some .eng, matrix := false }
/-- System instructions: every role, class SYS (R18). -/
def sysI : Info := { cls := some .sys }

/-- Dual scalar opcode, register form: MOD[3] is 0 and `m` gives the meaning of MOD[2:0] (R92, R109). -/
def sBin (f : FS) (m : Nat → Bool := fun x => x == 0) : Info :=
  { ctl with mbz := f.only true true true true false && m f.mod.toNat && f.mod.toNat < 8,
             sr := [f.sa.toNat, f.sb.toNat], sw := [f.sd.toNat] }
/-- Dual scalar opcode, immediate form: MOD[3] is 1 (R92). -/
def sBinI (f : FSI) (m : Nat → Bool := fun x => x == 0) : Info :=
  { ctl with mbz := m (f.mod.toNat - 8) && 8 ≤ f.mod.toNat, sr := [f.sa.toNat], sw := [f.sd.toNat] }

/-- The scalar registers that BS and CS make VB and VC name (R132), beside the predicate register. -/
def FV.scalars (f : FV) : List Nat :=
  f.prs.toNat :: ((if f.bs then [f.vb.toNat] else []) ++ (if f.cs then [f.vc.toNat] else []))

/-- A vector instruction of one vector destination whose sources are VA, and VB and VC where `u` lists them (R132). -/
def vOp (f : FV) (u : List VField) (valid : Bool) : Info :=
  { vecI with mbz := f.only (.pred :: .vd :: u), valid := valid, pred := (f.prs.toNat, f.pneg), sr := f.scalars, vw := [f.vd.toNat],
              vr := (if u.contains .va then [f.va.toNat] else []) ++
                    (if u.contains .vb && !f.bs then [f.vb.toNat] else []) ++
                    (if u.contains .vc && !f.cs then [f.vc.toNat] else []) }

/-- A dual vector opcode, register form (R92, R137, R139). -/
def vBin (f : FV) (extra : List VField) (valid : Bool) (m : Nat → Bool := fun x => x == 0) : Info :=
  let i := vOp f ([.mod, .va, .vb, .bs] ++ extra) valid
  { i with mbz := i.mbz && m f.mod.toNat && f.mod.toNat < 8 }

/-- A dual vector opcode, immediate form (R92, R135). -/
def vBinI (f : FVI) (valid : Bool) (m : Nat → Bool := fun x => x == 0) : Info :=
  { vecI with mbz := m (f.mod.toNat - 8) && 8 ≤ f.mod.toNat, valid := valid,
              pred := (f.prs.toNat, f.pneg), sr := [f.prs.toNat], vr := [f.va.toNat], vw := [f.vd.toNat] }

/-- A conversion opcode with its option byte in VC (R145): `acc` is the set of OPT bits it accepts. -/
def vOpt (f : FV) (acc : BitVec 8) (rm : Bool) : Bool :=
  f.only ([.mod, .pred, .vd, .va, .vc, .ty] ++ (if rm then [.rm] else [])) && (f.vc &&& ~~~acc) == 0

/-- The registers that form the global address: a vector pair without scalar base, else the base pair and one vector register (R182). -/
def FM.addrV (f : FM) : List Nat := if f.sb == 0 then [f.va.toNat, f.va.toNat + 1] else [f.va.toNat]
/-- The scalar base pair of a global address (R182). -/
def FM.addrS (f : FM) : List Nat := if f.sb == 0 then [] else [f.sb.toNat, f.sb.toNat + 1]
/-- The scalar base of a scratchpad address (R184). -/
def FM.addrT (f : FM) : List Nat := if f.sb == 0 then [] else [f.sb.toNat]

/-- Registers of one access width (R185). -/
def widthRegs (m : BitVec 4) : Nat := match m.toNat % 8 with | 5 => 2 | 6 => 4 | _ => 1
/-- Scopes 0 to 5 are defined (R96). -/
def scoOk (s : BitVec 3) : Bool := s.toNat ≤ 5
/-- Scopes a scratchpad access accepts (R184). -/
def scoSpad (s : BitVec 3) : Bool := s.toNat ≤ 2

/-- A per-lane global access: the fields it uses, its reserved values, and its data registers read and written (R181, R182). -/
def gMem (f : FM) (valid : Bool) (rd wr : List Nat) : Info :=
  { memI with valid := valid && scoOk f.sco, pred := (f.prs.toNat, f.pneg), sr := f.prs.toNat :: f.addrS, vr := f.addrV, vd := rd, vw := wr }
/-- A per-lane scratchpad access (R184). -/
def sMem (f : FM) (valid : Bool) (rd wr : List Nat) : Info :=
  { memI with mbz := f.only [.mod, .pred, .vd, .va, .sb, .off, .sco], valid := valid && scoSpad f.sco,
              pred := (f.prs.toNat, f.pneg), sr := f.prs.toNat :: f.addrT, vr := [f.va.toNat], vd := rd, vw := wr }
/-- A group-level global access on scalar registers (R181, R186). -/
def cMem (f : FM) (valid : Bool) (rd wr : List Nat) : Info :=
  { memI with mbz := f.only [.mod, .vd, .sb, .off, .col, .sco] && namesScalar f.vd, valid := valid && scoOk f.sco,
              sr := f.addrS, sd := rd, sw := wr }

/-- Registers an atomic reads from VD on, by MOD (R189). -/
def atomReads (m : BitVec 4) : Nat := match m.toNat with | 9 => 2 | 10 => 2 | 11 => 2 | 12 => 4 | _ => 1
/-- Registers an atomic writes from VD on, by MOD (R189). -/
def atomWrites (m : BitVec 4) : Nat := match m.toNat with | 10 => 2 | 11 => 2 | 12 => 2 | _ => 1
/-- The ordering field ORD of the atomics, OFF[14:13] (R188). -/
def FM.ord (f : FM) : Nat := f.off.toNat / 8192

/-- An 8-bit field that names a tile (R241). -/
def namesTile (x : BitVec 8) : Bool := x.toNat < 16
/-- An 8-bit field that names an accumulator (R241). -/
def namesAcc (x : BitVec 8) : Bool := x.toNat < 8

/-- A matrix instruction of F-V (R240, R241): the scalar operand VB needs BS = 1 (check 11). -/
def mtxV (f : FV) (u : List VField) : Info :=
  { mtxI with mbz := f.only ([.vd, .vb, .bs] ++ u), legal := f.bs, sr := [f.vb.toNat] }
/-- A tile or accumulator move to or from the scratchpad (R246, R247): VA names the scalar pair of pitch and area. -/
def mtxM (f : FM) (mod : Bool) (ok : Bool) : Info :=
  { mtxI with mbz := f.only ([.vd, .va, .sb, .off, .sco] ++ (if mod then [.mod] else [])) && f.mod.toNat < 2 && namesScalar f.va && ok,
              valid := scoSpad f.sco, sr := [f.va.toNat, f.va.toNat + 1] ++ f.addrT }
/-- A matrix product (R240, R241); `fmts` is the number of defined FA and FB codes (R98). -/
def mtxP (f : FX) (ce tg spr : Bool) (modMax fmts : Nat) : Info :=
  { mtxI with mbz := f.only true ce true true tg true && f.mod.toNat ≤ modMax && (spr || f.spr == false),
              valid := f.sub == 0 && (!spr || f.spr) && f.fa.toNat < fmts && f.fb.toNat < fmts,
              cr := f.cd.toNat :: (if ce then [f.ce.toNat] else []) }

/-- The system register indices of R55. -/
def sysRegOk (r : BitVec 12) : Bool :=
  let n := r.toNat
  n ≤ 8 || n == 0x10 || (0x20 ≤ n && n ≤ 0x37) || n == 0x40 || n == 0x41 || n == 0x50 || n == 0x60 ||
  (0x100 ≤ n && n ≤ 0x107) || n == 0x110
/-- Registers marked P for reading; a reserved index is not one of them (R55). -/
def sysRegReadPriv (r : BitVec 12) : Bool := (0x100 ≤ r.toNat && r.toNat ≤ 0x107) || r.toNat == 0x110
/-- Registers marked P for writing (R55). -/
def sysRegWritePriv (r : BitVec 12) : Bool :=
  let n := r.toNat
  n == 4 || n == 5 || n == 6 || n == 8 || n == 0x10 || (0x30 ≤ n && n ≤ 0x37) || n == 0x40 || n == 0x41 || n == 0x50 || n == 0x60 ||
  (0x100 ≤ n && n ≤ 0x107) || n == 0x110
/-- Registers whose write column reads none (R55). -/
def sysRegNoWrite (r : BitVec 12) : Bool := r.toNat ≤ 1

/-- The rows of the opcode table that SWR words fall into: the generic one, and those of registers with a row of their own. -/
inductive SwrRow where
  | swr | heatctl | barst | ringst | pcbrk | sampctl | normbox
deriving DecidableEq, Repr

/-- The row of an SWR word, by its SYSREG (R55). -/
def swrRowOf (r : BitVec 12) : SwrRow :=
  let n := r.toNat
  if n == 0x60 then .heatctl
  else if 0x20 ≤ n && n ≤ 0x2F then .barst
  else if 0x30 ≤ n && n ≤ 0x37 then .ringst
  else if 0x100 ≤ n && n ≤ 0x107 then .pcbrk
  else if n == 0x110 then .sampctl
  else if n == 0x40 then .normbox
  else .swr

/-- SWR, in each of its rows of the opcode table (R55, R286). -/
def swrI (f : FY) (row : SwrRow) : Info :=
  { sysI with isWord := swrRowOf f.sysreg == row, mbz := f.only true false true true && f.mod.toNat < 2, priv := sysRegWritePriv f.sysreg,
              sysOk := sysRegOk f.sysreg, legal := !sysRegNoWrite f.sysreg, sr := [f.sa.toNat] }

/-- A step that is no instruction word. -/
def stepI : Info := { isWord := false }

/-- The encoding facts of every instruction word, in the order of the opcode table. -/
def Instr.info : Instr → Info
  | .nop => ctl
  | .smov f => { ctl with mbz := f.only false true true false false, sr := [f.sa.toNat], sw := [f.sd.toNat] }
  | .smovi f => { ctl with mbz := f.mod == 0 && f.sa == 0, sw := [f.sd.toNat] }
  | .sadd f => sBin f
  | .saddImm f => sBinI f
  | .ssub f => sBin f
  | .ssubImm f => sBinI f
  | .smul f => sBin f
  | .smulImm f => sBinI f
  | .smulhi f => { ctl with mbz := f.only true true true true false && f.mod.toNat < 2, sr := [f.sa.toNat, f.sb.toNat], sw := [f.sd.toNat] }
  | .sand f => sBin f
  | .sandImm f => sBinI f
  | .sor f => sBin f
  | .sorImm f => sBinI f
  | .sxor f => sBin f
  | .sxorImm f => sBinI f
  | .sshl f => sBin f
  | .sshlImm f => sBinI f
  | .sshr f => sBin f
  | .sshrImm f => sBinI f
  | .ssar f => sBin f
  | .ssarImm f => sBinI f
  | .smin f => sBin f (· < 2)
  | .sminImm f => sBinI f (· < 2)
  | .smax f => sBin f (· < 2)
  | .smaxImm f => sBinI f (· < 2)
  | .scmp f => sBin f (· < 8)
  | .scmpImm f => sBinI f (· < 8)
  | .ssel f => { ctl with mbz := f.only false true true true true, sr := [f.sa.toNat, f.sb.toNat, f.sc.toNat], sw := [f.sd.toNat] }
  | .spopc f => { ctl with mbz := f.only false true true false false, sr := [f.sa.toNat], sw := [f.sd.toNat] }
  | .sclz f => { ctl with mbz := f.only false true true false false, sr := [f.sa.toNat], sw := [f.sd.toNat] }
  | .sbfx f => { ctl with mbz := f.only true true true true true && f.mod.toNat < 2, sr := [f.sa.toNat, f.sb.toNat, f.sc.toNat], sw := [f.sd.toNat] }
  | .sget f => { ctl with mbz := f.mod == 0 && f.sa == 0, legal := f.imm.toNat ≤ 12, sw := [f.sd.toNat] }
  | .bra f => { ctlLast with mbz := f.mod == 0 && f.rcv == 0, sr := [f.prs.toNat] }
  | .brd f => { ctlLast with mbz := f.mod == 0, sr := [f.prs.toNat] }
  | .bri f => { ctlLast with mbz := f.only false false true true false, sr := [f.sa.toNat, f.sb.toNat] }
  | .call f => { ctlLast with mbz := f.mod == 0 && f.rcv == 0 && f.prs == 0 && f.pneg == false }
  | .ret => ctlLast
  | .join => { ctl with pos := .first }
  | .widen => ctl
  | .narrow => ctl
  | .wait _ => ctlLast
  | .yield => ctlLast
  | .bar f => { ctlLast with mbz := f.only true false false false false }
  | .barrive f => { ctl with mbz := f.only true false false false false }
  | .exit f => { ctl with mbz := f.mod == 0 && f.tgt == 0 && f.rcv == 0, sr := [f.prs.toNat] }
  | .regroup f => { ctlLast with feed := false, matrix := false, mbz := f.only [.vd, .va, .vb, .vc] && namesScalar f.vd,
                                 legal := f.vb.toNat ≤ f.vc.toNat, sw := [f.vd.toNat] }
  | .trap f => { ctl with mbz := f.mod == 0 && f.sd == 0 && f.sa == 0 }
  | .vadd f => vBin f [.ty, .sat] (isIntTy f.ty)
  | .vaddImm f => vBinI f (isIntTy f.ty)
  | .vsub f => vBin f [.ty, .sat] (isIntTy f.ty)
  | .vsubImm f => vBinI f (isIntTy f.ty)
  | .vmul f => let i := vBin f [.ty, .sat] (isIntTy f.ty) (· < 2); { i with mbz := i.mbz && (f.mod == 0 || f.sat == false) }
  | .vmulImm f => vBinI f (isIntTy f.ty) (· < 2)
  | .vmad f => vOp f [.va, .vb, .vc, .bs, .cs, .ty, .sat] (isIntTy f.ty)
  | .vmin f => vBin f [.ty] (isIntTy f.ty)
  | .vminImm f => vBinI f (isIntTy f.ty)
  | .vmax f => vBin f [.ty] (isIntTy f.ty)
  | .vmaxImm f => vBinI f (isIntTy f.ty)
  | .vabs f => vOp f [.va, .ty, .sat] (f.ty.toNat ≤ 2)
  | .vand f => vBin f [] true
  | .vandImm f => { vBinI f true with valid := f.ty == 0 }
  | .vor f => vBin f [] true
  | .vorImm f => { vBinI f true with valid := f.ty == 0 }
  | .vxor f => vBin f [] true
  | .vxorImm f => { vBinI f true with valid := f.ty == 0 }
  | .vnot f => vOp f [.va] true
  | .vbfn3 f => vOp f [.mod, .va, .vb, .vc, .bs, .cs, .ty] true
  | .vshl f => vBin f [.ty] (isIntTy f.ty)
  | .vshlImm f => vBinI f (isIntTy f.ty)
  | .vshr f => vBin f [.ty] (isIntTy f.ty)
  | .vshrImm f => vBinI f (isIntTy f.ty)
  | .vsar f => vBin f [.ty] (isIntTy f.ty)
  | .vsarImm f => vBinI f (isIntTy f.ty)
  | .vbfx f => let i := vOp f [.mod, .va, .vb, .vc, .bs, .cs] true; { i with mbz := i.mbz && f.mod.toNat < 2 }
  | .vbfi f => let i := vOp f [.va, .vb, .vc, .bs, .cs] true; { i with vr := f.vd.toNat :: i.vr }
  | .vpopc f => vOp f [.va] true
  | .vclz f => vOp f [.va] true
  | .vfadd f => vBin f [.ty, .rm] (isFpTy f.ty)
  | .vfaddImm f => vBinI f (isFpTy f.ty)
  | .vfsub f => vBin f [.ty, .rm] (isFpTy f.ty)
  | .vfsubImm f => vBinI f (isFpTy f.ty)
  | .vfmul f => vBin f [.ty, .rm] (isFpTy f.ty)
  | .vfmulImm f => vBinI f (isFpTy f.ty)
  | .vfma f => vOp f [.va, .vb, .vc, .bs, .cs, .ty, .rm] (isFpTy f.ty)
  | .vfmin f => vBin f [.ty, .rm] (isFpTy f.ty)
  | .vfminImm f => vBinI f (isFpTy f.ty)
  | .vfmax f => vBin f [.ty, .rm] (isFpTy f.ty)
  | .vfmaxImm f => vBinI f (isFpTy f.ty)
  | .vfrnd f => vOp f [.va, .ty, .rm] (isFpTy f.ty)
  | .vfrcp f => vOp f [.va, .ty, .rm] (isFpTy f.ty)
  | .vfrsq f => vOp f [.va, .ty, .rm] (isFpTy f.ty)
  | .vfsqrt f => vOp f [.va, .ty, .rm] (isFpTy f.ty)
  | .vfexp2 f => vOp f [.va, .ty, .rm] (isFpTy f.ty)
  | .vflog2 f => vOp f [.va, .ty, .rm] (isFpTy f.ty)
  | .vftrig f => let i := vOp f [.mod, .va, .ty, .rm] (isFpTy f.ty); { i with mbz := i.mbz && f.mod.toNat < 2 }
  | .vftanh f => vOp f [.va, .ty, .rm] (isFpTy f.ty)
  | .vcmp f => let i := vBin f [.ty] (f.ty.toNat ∈ [2, 6] && f.mod.toNat ≤ 5) (fun _ => true)
               { i with mbz := i.mbz && namesScalar f.vd, vw := [], sw := [f.vd.toNat], sr := f.vd.toNat :: i.sr }
  | .vcmpImm f => let i := vBinI f (f.ty.toNat ∈ [2, 6] && f.mod.toNat ≤ 13) (fun _ => true)
               { i with mbz := i.mbz && namesScalar f.vd, vw := [], sw := [f.vd.toNat], sr := f.vd.toNat :: i.sr }
  | .vfcmp f => let i := vBin f [.ty] (f.ty == 8) (fun _ => true)
               { i with mbz := i.mbz && namesScalar f.vd, vw := [], sw := [f.vd.toNat], sr := f.vd.toNat :: i.sr }
  | .vfcmpImm f => let i := vBinI f (f.ty == 8) (fun _ => true)
               { i with mbz := i.mbz && namesScalar f.vd, vw := [], sw := [f.vd.toNat], sr := f.vd.toNat :: i.sr }
  | .vsel f => vOp f [.va, .vb, .vc, .bs, .cs] true
  | .vcvt f => { vecI with mbz := vOpt f 0x03 true, valid := isCvtTy f.ty && isCvtTy f.mod && (!f.vc.getLsbD 0 || f.rm == 0),
                           legal := (!f.vc.getLsbD 1 || f.mod == 11) && (!f.vc.getLsbD 0 || 8 ≤ f.mod.toNat),
                           pred := (f.prs.toNat, f.pneg), sr := [f.prs.toNat], vr := [f.va.toNat], vw := [f.vd.toNat] }
  | .vpack f => { vecI with ownPoison := true, mbz := vOpt f 0x0B true, valid := f.ty == 8 && isPackTy f.mod && (!f.vc.getLsbD 0 || f.rm == 0),
                            legal := (!f.vc.getLsbD 1 || f.mod == 11) && (!f.vc.getLsbD 3 || isMxTy f.mod),
                            pred := (f.prs.toNat, f.pneg), sr := [f.prs.toNat], vr := regSpan f.va.toNat (packCount f.mod), vw := [f.vd.toNat],
                            xr := if f.vc.getLsbD 3 then [f.vd.toNat] else [] }
  | .vunpack f => { vecI with ownPoison := true, mbz := vOpt f 0x08 true && f.mod == 0, valid := isPackTy f.ty,
                              legal := !f.vc.getLsbD 3 || isMxTy f.ty,
                              pred := (f.prs.toNat, f.pneg), sr := [f.prs.toNat], vr := [f.va.toNat], vw := regSpan f.vd.toNat (packCount f.ty),
                              xr := if f.vc.getLsbD 3 then [f.va.toNat] else [] }
  | .vrq f => { vecI with ownPoison := true, mbz := vOpt f 0x05 false, valid := f.ty == 8 && isMxTy f.mod,
                          pred := (f.prs.toNat, f.pneg), sr := [f.prs.toNat], vr := regSpan f.va.toNat (packCount f.mod), vw := [f.vd.toNat], xw := [f.vd.toNat] }
  | .vmov f => { vecI with mbz := f.only [.pred, .vd, .va, .vb, .bs] && (if f.bs then f.va == 0 else f.vb == 0),
                           pred := (f.prs.toNat, f.pneg), sr := f.scalars, vr := if f.bs then [] else [f.va.toNat], vw := [f.vd.toNat] }
  | .vmovi f => { vecI with mbz := f.mod == 0 && f.va == 0, valid := f.ty.toNat ∈ [2, 6, 8, 9, 10], pred := (f.prs.toNat, f.pneg), sr := [f.prs.toNat], vw := [f.vd.toNat] }
  | .vbcast f => vOp f [.va] true
  | .vlane f => { vOp f [.mod] true with valid := f.mod.toNat ≤ 4 }
  | .vshfl f => { vOp f [.mod, .va, .vb, .bs] true with ownPoison := true }
  | .vvote f => { vecI with mbz := f.only [.mod, .pred, .vd, .va] && namesScalar f.vd, valid := f.mod.toNat ≤ 3,
                            pred := (f.prs.toNat, f.pneg), sr := [f.prs.toNat], vr := [f.va.toNat], sw := [f.vd.toNat] }
  | .vmatch f => vOp f [.va, .ty] (f.ty.toNat ∈ [4, 5, 6])
  | .vscan f => let op := f.mod.toNat % 8
                vOp f ([.mod, .va, .ty] ++ (if op == 0 then [.sat] else []) ++ (if op == 6 then [.rm] else []))
                  (op != 7 && (if op == 6 then f.ty == 8 else f.ty.toNat ∈ [2, 6]))
  | .vreduce f => let op := f.mod.toNat % 8
                { vecI with mbz := f.only ([.mod, .pred, .vd, .va, .ty] ++ (if op == 0 then [.sat] else []) ++ (if op == 6 then [.rm] else []))
                                   && namesScalar f.vd && f.mod.toNat < 8,
                            valid := op != 7 && (if op == 6 then f.ty == 8 else f.ty.toNat ∈ [2, 6]),
                            pred := (f.prs.toNat, f.pneg), sr := [f.prs.toNat], vr := [f.va.toNat], sw := [f.vd.toNat] }
  | .vrand f => { vOp f [.mod] true with valid := f.mod.toNat ≤ 1 }
  | .xmov f =>
      let b : Info := { vecI with mbz := f.only [.mod, .pred, .vd, .va] && f.mod.toNat < 4, valid := f.mod.toNat ≤ 2, pred := (f.prs.toNat, f.pneg), sr := [f.prs.toNat] }
      match f.mod.toNat with
      | 0 => { b with xr := [f.va.toNat], xw := [f.vd.toNat] }
      | 1 => { b with mbz := b.mbz && namesScalar f.vd, xr := [f.va.toNat], sw := [f.vd.toNat, f.vd.toNat + 1] }
      | _ => { b with mbz := b.mbz && namesScalar f.va, sr := f.prs.toNat :: [f.va.toNat, f.va.toNat + 1], xw := [f.vd.toNat] }
  | .xset f => { vecI with mbz := f.only [.pred, .vd, .vb, .vc, .bs, .cs], legal := f.bs && f.cs, pred := (f.prs.toNat, f.pneg), sr := f.scalars, xw := [f.vd.toNat] }
  | .xmaxe f => { vecI with ownPoison := true, mbz := vOpt f 0x04 false, valid := f.ty == 8 && isMxTy f.mod,
                            pred := (f.prs.toNat, f.pneg), sr := [f.prs.toNat], vr := regSpan f.va.toNat (packCount f.mod), xw := [f.vd.toNat] }
  | .vld f => gMem f (f.mod.toNat % 8 ≤ 6) [] (regSpan f.vd.toNat (widthRegs f.mod))
  | .vst f => { gMem f (f.mod.toNat % 8 ∈ [0, 2, 4, 5, 6]) (regSpan f.vd.toNat (widthRegs f.mod)) [] with store := true }
  | .vlds f => sMem f (f.mod.toNat % 8 ≤ 6) [] (regSpan f.vd.toNat (widthRegs f.mod))
  | .vsts f => { sMem f (f.mod.toNat % 8 ∈ [0, 2, 4, 5, 6]) (regSpan f.vd.toNat (widthRegs f.mod)) [] with store := true }
  | .sld f => cMem f (f.mod.toNat % 8 ≤ 5) [] (regSpan f.vd.toNat (widthRegs f.mod))
  | .sst f => { cMem f (f.mod.toNat % 8 ∈ [0, 2, 4, 5]) (regSpan f.vd.toNat (widthRegs f.mod)) [] with store := true }
  | .vldx f => let i := gMem f true [] [f.vd.toNat]; { i with mbz := f.mod == 0, ownPoison := true, xw := [f.vd.toNat] }
  | .vstx f => let i := gMem f true [f.vd.toNat] []; { i with store := true, mbz := f.mod == 0, ownPoison := true, xr := [f.vd.toNat] }
  | .vatom f => gMem f (f.mod.toNat ≤ 13) (regSpan f.vd.toNat (atomReads f.mod)) (regSpan f.vd.toNat (atomWrites f.mod))
  | .vfatom f => gMem f (f.mod.toNat ≤ 4) [f.vd.toNat] [f.vd.toNat]
  | .vatoms f => sMem f (f.mod.toNat ≤ 14) (regSpan f.vd.toNat (atomReads f.mod)) (regSpan f.vd.toNat (atomWrites f.mod))
  | .satom f => cMem f (f.mod.toNat ≤ 13) (regSpan f.vd.toNat (atomReads f.mod)) (regSpan f.vd.toNat (atomWrites f.mod))
  | .vred f => let i := gMem f (f.mod.toNat ∈ [0, 1, 2, 3, 4, 5, 6, 7, 10, 13, 14, 15]) (regSpan f.vd.toNat (atomReads f.mod)) []
               { i with legal := f.ord % 2 == 0 && f.ord < 3 }
  | .ldrsv f => gMem f (f.mod.toNat % 8 ∈ [4, 5]) [] (regSpan f.vd.toNat (widthRegs f.mod))
  | .stcnd f => gMem f (f.mod.toNat % 8 ∈ [4, 5]) (regSpan f.vd.toNat (widthRegs f.mod)) [f.vd.toNat + widthRegs f.mod]
  | .fence f => { memI with mbz := f.only [.mod, .vd, .sco] && f.mod.toNat < 4, valid := f.mod != 0 && scoOk f.sco }
  | .pref f => let i := gMem f (f.mod.toNat ≤ 1 && f.sco.toNat ∈ [0, 1, 3]) [] []; { i with mbz := f.vd == 0 }
  | .lpin f => { memI with mbz := f.only false true true false false, sr := [f.sa.toNat, f.sa.toNat + 1], sw := [f.sd.toNat] }
  | .lunpin f => { memI with mbz := f.only false false true false false, sr := [f.sa.toNat, f.sa.toNat + 1] }
  | .drain f => { memI with mbz := f.only [.mod, .vd] && f.mod.toNat < 4 }
  | .presq f => { memI with ownPoison := true, mbz := f.only [.mod, .pred, .vd, .va, .sb, .off] && namesScalar f.vd && f.mod.toNat < 4, valid := f.mod.toNat ≤ 2,
                            pred := (f.prs.toNat, f.pneg), sr := f.prs.toNat :: f.addrT, vr := [f.va.toNat], sw := [f.vd.toNat] }
  | .stash f => { memI with ownPoison := true, mbz := f.mod == 0 && f.only true true true true 0, sr := [f.sr.toNat, f.sr.toNat + 1, f.sx.toNat],
                            vr := regSpan f.vc.toNat 4 }
  | .spjoin f => { memI with mbz := f.only false true true false false, sr := [f.sa.toNat], sw := [f.sd.toNat] }
  | .spleave => memI
  | .tshape f => { mtxV f [.mod] with mbz := f.only [.mod, .vd, .vb, .bs] && f.mod.toNat < 2 && namesTile f.vd,
                                      sr := if f.mod == 0 then [f.vb.toNat] else [], sw := if f.mod == 0 then [] else [f.vb.toNat] }
  | .tscl f => let i := mtxV f [.va, .vc]; { i with mbz := i.mbz && namesTile f.vd, xr := regSpan f.va.toNat (f.vc.toNat + 1) }
  | .tzero f => { mtxI with mbz := f.only false false true false false false && f.mod == 0 && f.spr == false, valid := f.sub == 0 }
  | .tlds f => mtxM f true (namesTile f.vd)
  | .tsts f => mtxM f true (namesTile f.vd)
  | .tmov f => let i := mtxV f [.mod, .va, .vc]
               { i with ownPoison := true, mbz := i.mbz && f.mod.toNat < 2 && namesTile f.va,
                        vr := if f.mod == 0 then regSpan f.vd.toNat (f.vc.toNat + 1) else [],
                        vw := if f.mod == 0 then [] else regSpan f.vd.toNat (f.vc.toNat + 1) }
  | .mma f => mtxP f false false false 3 5
  | .mmas f => mtxP f false true true 3 5
  | .mmad f => let i := mtxP f true true false 7 5; { i with legal := f.cd != f.ce }
  | .mmaf f => mtxP f false false false 3 2
  | .mmai f => mtxP f false false false 3 2
  | .czero f => { mtxI with mbz := f.only true true false false false false && f.mod.toNat < 2 && f.spr == false, valid := f.sub == 0,
                            cr := f.cd.toNat :: (if f.mod == 1 then [f.ce.toNat] else []) }
  | .clds f => { mtxM f false (namesAcc f.vd) with cr := [f.vd.toNat] }
  | .csts f => { mtxM f false (namesAcc f.vd) with cr := [f.vd.toNat] }
  | .crq f => let i := mtxV f ([.mod, .va, .ty] ++ (if f.mod.getLsbD 0 then [.vc] else []))
              let n := f.vc.toNat + 1
              { i with mbz := i.mbz && f.mod.toNat < 8 && namesAcc f.va && (f.mod.getLsbD 0 || namesTile f.vd), valid := isMxTy f.ty,
                       cr := [f.va.toNat],
                       vw := if f.mod.getLsbD 0 then regSpan f.vd.toNat n else [],
                       xw := if f.mod.getLsbD 0 then regSpan f.vd.toNat n else [] }
  | .ctov f => let i := mtxV f [.va, .vc]
               { i with mbz := i.mbz && namesAcc f.va, cr := [f.va.toNat], vw := regSpan f.vd.toNat (4 * (f.vc.toNat + 1)) }
  | .vtoc f => let i := mtxV f [.va, .vc]
               { i with ownPoison := true, mbz := i.mbz && namesAcc f.vd, cr := [f.vd.toNat], vr := regSpan f.va.toNat (4 * (f.vc.toNat + 1)) }
  | .cscale f => let i := mtxV f [.rm]; { i with mbz := i.mbz && namesAcc f.vd, cr := [f.vd.toNat] }
  | .tcopy f => { engI with ownPoison := true, mbz := f.mod == 0 && f.only true true true true 0, sr := [f.sr.toNat, f.sr.toNat + 1, f.sx.toNat], vr := regSpan f.vc.toNat 4 }
  | .tcopys f => { engI with ownPoison := true, mbz := f.mod == 0 && f.only true true true true 0, sr := [f.sr.toNat, f.sr.toNat + 1, f.sx.toNat], vr := regSpan f.vc.toNat 4 }
  | .tcqry f => { engI with mbz := f.mod == 0 && f.only true false true false 0, sw := [f.sr.toNat, f.sr.toNat + 1] }
  | .tokclr f => { engI with mbz := f.mod == 0 && f.only false false true false 0 }
  | .rpush f => { engI with matrix := true, mbz := f.mod.toNat < 2 && f.only false false (f.mod == 1) true 7, sr := [f.sx.toNat] }
  | .rpop f => { engI with matrix := true, mbz := f.mod.toNat < 2 && f.only true false false false 7, sw := [f.sr.toNat] }
  | .rwait f => { engI with matrix := true, pos := .last, mbz := f.mod.toNat < 2 && f.only false false false true 7, sr := [f.sx.toNat] }
  | .rrel f => { engI with matrix := true, mbz := f.mod == 0 && f.only false false false true 7, sr := [f.sx.toNat] }
  | .gcopy f => { engI with ownPoison := true, mbz := f.only true true true (f.mod.getLsbD 3) 0,
                            sr := [f.sr.toNat, f.sr.toNat + 1] ++ (if f.mod.getLsbD 3 then [f.sx.toNat, f.sx.toNat + 1] else []),
                            vr := regSpan f.vc.toNat 3 }
  | .gflush f => { engI with mbz := f.mod == 0 && f.only false false true true 0, sr := [f.sx.toNat] }
  | .gsig f => { engI with mbz := f.mod == 0 && f.only true false true true 255, sr := [f.sr.toNat, f.sr.toNat + 1, f.sx.toNat] }
  | .gbar f => { engI with pos := .last, mbz := f.mod == 0 && f.only false false false true 15, sr := [f.sx.toNat] }
  | .gslot f => { engI with mbz := f.mod == 0 && f.only true false false true 0, sr := [f.sx.toNat], sw := [f.sr.toNat, f.sr.toNat + 1] }
  | .nrmadd f => { engI with mbz := f.mod == 0 && f.only true false false true 0, sr := [f.sr.toNat, f.sx.toNat] }
  | .nrmrd f => { engI with pos := .last, mbz := f.mod == 0 && f.only true false false false 0, sw := [f.sr.toNat] }
  | .mirror f => { engI with pos := .last, mbz := f.mod == 0 && f.only false false false false 255 }
  | .srd f => { sysI with mbz := f.only true true false true && f.mod.toNat < 2, priv := sysRegReadPriv f.sysreg, sysOk := sysRegOk f.sysreg, sw := [f.sd.toNat] }
  | .swr f => swrI f .swr
  | .tret f => { sysI with pos := .last, mbz := f.only true false false false, valid := f.mod.toNat ≤ 2 }
  | .ctxsv f => { sysI with mbz := f.only false false true false, priv := true, sr := [f.sa.toNat, f.sa.toNat + 1] }
  | .ctxld f => { sysI with mbz := f.only false false true false, priv := true, sr := [f.sa.toNat, f.sa.toNat + 1] }
  | .errclr => { sysI with priv := true }
  | .tlbinv f => { sysI with mbz := f.only true false true false && f.mod.toNat < 4 && (f.mod != 2 || f.sa == 0), priv := true,
                             valid := f.mod.toNat ≤ 2,
                             sr := (if f.mod == 0 then [f.sa.toNat, f.sa.toNat + 1] else if f.mod == 1 then [f.sa.toNat] else []), sn := [f.sa.toNat, f.sa.toNat + 1] }
  | .cinv f => { sysI with mbz := f.only true false true false, priv := true, valid := f.mod.toNat < 12 && f.mod.toNat % 4 != 0,
                           sr := [f.sa.toNat, f.sa.toNat + 1] }
  | .icinv => sysI
  | .heatrd f => { sysI with mbz := f.only false true true false, sr := regSpan f.sa.toNat 4, sw := [f.sd.toNat] }
  | .dbgrd f => { sysI with mbz := f.only false true true false, priv := true, sr := [f.sa.toNat], sw := [f.sd.toNat] }
  | .dbgwr f => { sysI with mbz := f.only false true true false, priv := true, sr := [f.sa.toNat, f.sd.toNat] }
  | .qpost f => { sysI with mbz := f.only false true true false, sr := [f.sa.toNat, f.sa.toNat + 1], sw := [f.sd.toNat] }
  | .heatctlWrite f => swrI f .heatctl
  | .barstWrite f => swrI f .barst
  | .ringstWrite f => swrI f .ringst
  | .pcbrkWrite f => swrI f .pcbrk
  | .sampctlWrite f => swrI f .sampctl
  | .normboxWrite f => swrI f .normbox
  | _ => stepI

end Sys2Proof
end

