-- ==== Sys2Proof/WellFormed.lean ====
section
/-! DEFINITION. Well-formed instructions: an instruction word that no check of the encoding refuses (09_encoding.md R101, checks 3, 8 for SYSREG, 9 and the encoding's part of 11). -/

namespace Sys2Proof

/-- The instruction stands for a word whose must-be-zero fields are zero: what the decoder accepts (R90, R101 checks 2 and 3). -/
def Instr.isEncodable (i : Instr) : Bool := i.info.isWord && i.info.mbz

/-- No reserved value, no reserved SYSREG and no illegal use that the word itself shows (R101 checks 3, 8, 9 and 11). -/
def Instr.wellFormed (i : Instr) : Bool := i.isEncodable && i.info.sysOk && i.info.valid && i.info.legal

end Sys2Proof
end

