-- ==== Sys2Proof/Decode.lean ====
section
/-! DEFINITION. The decoder and the encoder of the 64-bit instruction word (09_encoding.md R90 to R100), and of the clause header (R83, R84). Both are written from the format tables of R91 and the opcode map of R99. -/

namespace Sys2Proof

/-- Why a word is no instruction: checks 2 and 3 of R101, by name. -/
inductive DecodeError where
  /-- The opcode byte has no entry in the opcode map (R99). -/
  | reservedOpcode
  /-- A must-be-zero field is non-zero (R90). -/
  | mustBeZero
deriving DecidableEq, Repr

/-- The field of `len` bits whose lowest bit is bit `pos`. -/
def fld (w pos len : Nat) : BitVec len := BitVec.ofNat len (w / 2 ^ pos)
/-- Bit `pos`. -/
def bitAt (w pos : Nat) : Bool := w / 2 ^ pos % 2 == 1

/-- F-V (R91). -/
def FV.ofWord (w : Nat) : FV :=
  { mod := fld w 52 4, prs := fld w 45 7, pneg := bitAt w 44, vd := fld w 36 8, va := fld w 28 8, vb := fld w 20 8,
    vc := fld w 12 8, ty := fld w 8 4, rm := fld w 6 2, sat := bitAt w 5, bs := bitAt w 4, cs := bitAt w 3 }
/-- F-V (R91). -/
def FV.toWord (f : FV) (opc : Nat) : Nat :=
  opc * 2 ^ 56 + f.mod.toNat * 2 ^ 52 + f.prs.toNat * 2 ^ 45 + f.pneg.toNat * 2 ^ 44 + f.vd.toNat * 2 ^ 36 +
  f.va.toNat * 2 ^ 28 + f.vb.toNat * 2 ^ 20 + f.vc.toNat * 2 ^ 12 + f.ty.toNat * 2 ^ 8 + f.rm.toNat * 2 ^ 6 +
  f.sat.toNat * 2 ^ 5 + f.bs.toNat * 2 ^ 4 + f.cs.toNat * 2 ^ 3
/-- F-VI (R91). -/
def FVI.ofWord (w : Nat) : FVI :=
  { mod := fld w 52 4, prs := fld w 45 7, pneg := bitAt w 44, vd := fld w 36 8, va := fld w 28 8, ty := fld w 24 4, imm := fld w 0 24 }
/-- F-VI (R91). -/
def FVI.toWord (f : FVI) (opc : Nat) : Nat :=
  opc * 2 ^ 56 + f.mod.toNat * 2 ^ 52 + f.prs.toNat * 2 ^ 45 + f.pneg.toNat * 2 ^ 44 + f.vd.toNat * 2 ^ 36 +
  f.va.toNat * 2 ^ 28 + f.ty.toNat * 2 ^ 24 + f.imm.toNat
/-- F-S (R91). -/
def FS.ofWord (w : Nat) : FS :=
  { mod := fld w 52 4, sd := fld w 45 7, sa := fld w 38 7, sb := fld w 31 7, sc := fld w 24 7, ty := fld w 20 4 }
/-- F-S (R91). -/
def FS.toWord (f : FS) (opc : Nat) : Nat :=
  opc * 2 ^ 56 + f.mod.toNat * 2 ^ 52 + f.sd.toNat * 2 ^ 45 + f.sa.toNat * 2 ^ 38 + f.sb.toNat * 2 ^ 31 +
  f.sc.toNat * 2 ^ 24 + f.ty.toNat * 2 ^ 20
/-- F-SI (R91). -/
def FSI.ofWord (w : Nat) : FSI := { mod := fld w 52 4, sd := fld w 45 7, sa := fld w 38 7, imm := fld w 0 32 }
/-- F-SI (R91). -/
def FSI.toWord (f : FSI) (opc : Nat) : Nat :=
  opc * 2 ^ 56 + f.mod.toNat * 2 ^ 52 + f.sd.toNat * 2 ^ 45 + f.sa.toNat * 2 ^ 38 + f.imm.toNat
/-- F-B (R91). -/
def FB.ofWord (w : Nat) : FB := { mod := fld w 52 4, prs := fld w 45 7, pneg := bitAt w 44, tgt := fld w 20 24, rcv := fld w 0 20 }
/-- F-B (R91). -/
def FB.toWord (f : FB) (opc : Nat) : Nat :=
  opc * 2 ^ 56 + f.mod.toNat * 2 ^ 52 + f.prs.toNat * 2 ^ 45 + f.pneg.toNat * 2 ^ 44 + f.tgt.toNat * 2 ^ 20 + f.rcv.toNat
/-- F-M (R91). -/
def FM.ofWord (w : Nat) : FM :=
  { mod := fld w 52 4, prs := fld w 45 7, pneg := bitAt w 44, vd := fld w 36 8, va := fld w 28 8, sb := fld w 21 7,
    off := fld w 6 15, col := fld w 3 3, sco := fld w 0 3 }
/-- F-M (R91). -/
def FM.toWord (f : FM) (opc : Nat) : Nat :=
  opc * 2 ^ 56 + f.mod.toNat * 2 ^ 52 + f.prs.toNat * 2 ^ 45 + f.pneg.toNat * 2 ^ 44 + f.vd.toNat * 2 ^ 36 +
  f.va.toNat * 2 ^ 28 + f.sb.toNat * 2 ^ 21 + f.off.toNat * 2 ^ 6 + f.col.toNat * 2 ^ 3 + f.sco.toNat
/-- F-X (R91). -/
def FX.ofWord (w : Nat) : FX :=
  { mod := fld w 52 4, cd := fld w 49 3, ce := fld w 46 3, ta := fld w 42 4, tb := fld w 38 4, tg := fld w 34 4,
    fa := fld w 31 3, fb := fld w 28 3, sub := fld w 25 3, spr := bitAt w 24 }
/-- F-X (R91). -/
def FX.toWord (f : FX) (opc : Nat) : Nat :=
  opc * 2 ^ 56 + f.mod.toNat * 2 ^ 52 + f.cd.toNat * 2 ^ 49 + f.ce.toNat * 2 ^ 46 + f.ta.toNat * 2 ^ 42 +
  f.tb.toNat * 2 ^ 38 + f.tg.toNat * 2 ^ 34 + f.fa.toNat * 2 ^ 31 + f.fb.toNat * 2 ^ 28 + f.sub.toNat * 2 ^ 25 + f.spr.toNat * 2 ^ 24
/-- F-E (R91). -/
def FE.ofWord (w : Nat) : FE :=
  { mod := fld w 52 4, sr := fld w 45 7, vc := fld w 37 8, tok := fld w 34 3, sx := fld w 27 7, rid := fld w 19 8 }
/-- F-E (R91). -/
def FE.toWord (f : FE) (opc : Nat) : Nat :=
  opc * 2 ^ 56 + f.mod.toNat * 2 ^ 52 + f.sr.toNat * 2 ^ 45 + f.vc.toNat * 2 ^ 37 + f.tok.toNat * 2 ^ 34 +
  f.sx.toNat * 2 ^ 27 + f.rid.toNat * 2 ^ 19
/-- F-W (R91). -/
def FW.ofWord (w : Nat) : FW :=
  { wld := fld w 50 6, wst := fld w 44 6, wcp := fld w 40 4, wtl := fld w 36 4, tokw := fld w 28 8 }
/-- F-W (R91). -/
def FW.toWord (f : FW) (opc : Nat) : Nat :=
  opc * 2 ^ 56 + f.wld.toNat * 2 ^ 50 + f.wst.toNat * 2 ^ 44 + f.wcp.toNat * 2 ^ 40 + f.wtl.toNat * 2 ^ 36 + f.tokw.toNat * 2 ^ 28
/-- F-Y (R91). -/
def FY.ofWord (w : Nat) : FY := { mod := fld w 52 4, sd := fld w 45 7, sa := fld w 38 7, sysreg := fld w 26 12 }
/-- F-Y (R91). -/
def FY.toWord (f : FY) (opc : Nat) : Nat :=
  opc * 2 ^ 56 + f.mod.toNat * 2 ^ 52 + f.sd.toNat * 2 ^ 45 + f.sa.toNat * 2 ^ 38 + f.sysreg.toNat * 2 ^ 26

/-- SWR, in the row of the opcode table that its SYSREG selects. -/
def swrOfWord (w : Nat) : Instr :=
  let f := FY.ofWord w
  match swrRowOf f.sysreg with
  | .swr => .swr f
  | .heatctl => .heatctlWrite f
  | .barst => .barstWrite f
  | .ringst => .ringstWrite f
  | .pcbrk => .pcbrkWrite f
  | .sampctl => .sampctlWrite f
  | .normbox => .normboxWrite f

/-- Opcodes 0x00 to 0x0F (R99, R100): the instruction whose format the opcode and, for a dual opcode, MOD[3] fix (R92). -/
def opRow0 (lo w : Nat) : Option Instr :=
  match lo with
  | 1 => some .nop
  | 2 => some (.smov (FS.ofWord w))
  | 3 => some (.smovi (FSI.ofWord w))
  | 4 => some (if bitAt w 55 then .saddImm (FSI.ofWord w) else .sadd (FS.ofWord w))
  | 5 => some (if bitAt w 55 then .ssubImm (FSI.ofWord w) else .ssub (FS.ofWord w))
  | 6 => some (if bitAt w 55 then .smulImm (FSI.ofWord w) else .smul (FS.ofWord w))
  | 7 => some (.smulhi (FS.ofWord w))
  | 8 => some (if bitAt w 55 then .sandImm (FSI.ofWord w) else .sand (FS.ofWord w))
  | 9 => some (if bitAt w 55 then .sorImm (FSI.ofWord w) else .sor (FS.ofWord w))
  | 10 => some (if bitAt w 55 then .sxorImm (FSI.ofWord w) else .sxor (FS.ofWord w))
  | 11 => some (if bitAt w 55 then .sshlImm (FSI.ofWord w) else .sshl (FS.ofWord w))
  | 12 => some (if bitAt w 55 then .sshrImm (FSI.ofWord w) else .sshr (FS.ofWord w))
  | 13 => some (if bitAt w 55 then .ssarImm (FSI.ofWord w) else .ssar (FS.ofWord w))
  | 14 => some (if bitAt w 55 then .sminImm (FSI.ofWord w) else .smin (FS.ofWord w))
  | 15 => some (if bitAt w 55 then .smaxImm (FSI.ofWord w) else .smax (FS.ofWord w))
  | _ => none

/-- Opcodes 0x10 to 0x1F (R99, R100): the instruction whose format the opcode and, for a dual opcode, MOD[3] fix (R92). -/
def opRow1 (lo w : Nat) : Option Instr :=
  match lo with
  | 0 => some (if bitAt w 55 then .scmpImm (FSI.ofWord w) else .scmp (FS.ofWord w))
  | 1 => some (.ssel (FS.ofWord w))
  | 2 => some (.spopc (FS.ofWord w))
  | 3 => some (.sclz (FS.ofWord w))
  | 4 => some (.sbfx (FS.ofWord w))
  | 5 => some (.sget (FSI.ofWord w))
  | 6 => some (.bra (FB.ofWord w))
  | 7 => some (.brd (FB.ofWord w))
  | 8 => some (.bri (FS.ofWord w))
  | 9 => some (.call (FB.ofWord w))
  | 10 => some .ret
  | 11 => some .join
  | 12 => some .widen
  | 13 => some .narrow
  | 14 => some (.wait (FW.ofWord w))
  | 15 => some .yield
  | _ => none

/-- Opcodes 0x20 to 0x2F (R99, R100): the instruction whose format the opcode and, for a dual opcode, MOD[3] fix (R92). -/
def opRow2 (lo w : Nat) : Option Instr :=
  match lo with
  | 0 => some (.bar (FS.ofWord w))
  | 1 => some (.barrive (FS.ofWord w))
  | 2 => some (.exit (FB.ofWord w))
  | 3 => some (.regroup (FV.ofWord w))
  | 4 => some (.trap (FSI.ofWord w))
  | _ => none

/-- Opcodes 0x30 to 0x3F (R99, R100): the instruction whose format the opcode and, for a dual opcode, MOD[3] fix (R92). -/
def opRow3 (lo w : Nat) : Option Instr :=
  match lo with
  | 0 => some (if bitAt w 55 then .vaddImm (FVI.ofWord w) else .vadd (FV.ofWord w))
  | 1 => some (if bitAt w 55 then .vsubImm (FVI.ofWord w) else .vsub (FV.ofWord w))
  | 2 => some (if bitAt w 55 then .vmulImm (FVI.ofWord w) else .vmul (FV.ofWord w))
  | 3 => some (.vmad (FV.ofWord w))
  | 4 => some (if bitAt w 55 then .vminImm (FVI.ofWord w) else .vmin (FV.ofWord w))
  | 5 => some (if bitAt w 55 then .vmaxImm (FVI.ofWord w) else .vmax (FV.ofWord w))
  | 6 => some (.vabs (FV.ofWord w))
  | 7 => some (if bitAt w 55 then .vandImm (FVI.ofWord w) else .vand (FV.ofWord w))
  | 8 => some (if bitAt w 55 then .vorImm (FVI.ofWord w) else .vor (FV.ofWord w))
  | 9 => some (if bitAt w 55 then .vxorImm (FVI.ofWord w) else .vxor (FV.ofWord w))
  | 10 => some (.vnot (FV.ofWord w))
  | 11 => some (.vbfn3 (FV.ofWord w))
  | 12 => some (if bitAt w 55 then .vshlImm (FVI.ofWord w) else .vshl (FV.ofWord w))
  | 13 => some (if bitAt w 55 then .vshrImm (FVI.ofWord w) else .vshr (FV.ofWord w))
  | 14 => some (if bitAt w 55 then .vsarImm (FVI.ofWord w) else .vsar (FV.ofWord w))
  | 15 => some (.vbfx (FV.ofWord w))
  | _ => none

/-- Opcodes 0x40 to 0x4F (R99, R100): the instruction whose format the opcode and, for a dual opcode, MOD[3] fix (R92). -/
def opRow4 (lo w : Nat) : Option Instr :=
  match lo with
  | 0 => some (.vbfi (FV.ofWord w))
  | 1 => some (.vpopc (FV.ofWord w))
  | 2 => some (.vclz (FV.ofWord w))
  | 3 => some (if bitAt w 55 then .vfaddImm (FVI.ofWord w) else .vfadd (FV.ofWord w))
  | 4 => some (if bitAt w 55 then .vfsubImm (FVI.ofWord w) else .vfsub (FV.ofWord w))
  | 5 => some (if bitAt w 55 then .vfmulImm (FVI.ofWord w) else .vfmul (FV.ofWord w))
  | 6 => some (.vfma (FV.ofWord w))
  | 7 => some (if bitAt w 55 then .vfminImm (FVI.ofWord w) else .vfmin (FV.ofWord w))
  | 8 => some (if bitAt w 55 then .vfmaxImm (FVI.ofWord w) else .vfmax (FV.ofWord w))
  | 9 => some (.vfrnd (FV.ofWord w))
  | 10 => some (.vfrcp (FV.ofWord w))
  | 11 => some (.vfrsq (FV.ofWord w))
  | 12 => some (.vfsqrt (FV.ofWord w))
  | 13 => some (.vfexp2 (FV.ofWord w))
  | 14 => some (.vflog2 (FV.ofWord w))
  | 15 => some (.vftrig (FV.ofWord w))
  | _ => none

/-- Opcodes 0x50 to 0x5F (R99, R100): the instruction whose format the opcode and, for a dual opcode, MOD[3] fix (R92). -/
def opRow5 (lo w : Nat) : Option Instr :=
  match lo with
  | 0 => some (.vftanh (FV.ofWord w))
  | 1 => some (if bitAt w 55 then .vcmpImm (FVI.ofWord w) else .vcmp (FV.ofWord w))
  | 2 => some (if bitAt w 55 then .vfcmpImm (FVI.ofWord w) else .vfcmp (FV.ofWord w))
  | 3 => some (.vsel (FV.ofWord w))
  | 4 => some (.vcvt (FV.ofWord w))
  | 5 => some (.vpack (FV.ofWord w))
  | 6 => some (.vunpack (FV.ofWord w))
  | 7 => some (.vrq (FV.ofWord w))
  | 8 => some (.vmov (FV.ofWord w))
  | 9 => some (.vmovi (FVI.ofWord w))
  | 10 => some (.vbcast (FV.ofWord w))
  | 11 => some (.vlane (FV.ofWord w))
  | 12 => some (.vshfl (FV.ofWord w))
  | 13 => some (.vvote (FV.ofWord w))
  | 14 => some (.vmatch (FV.ofWord w))
  | 15 => some (.vscan (FV.ofWord w))
  | _ => none

/-- Opcodes 0x60 to 0x6F (R99, R100): the instruction whose format the opcode and, for a dual opcode, MOD[3] fix (R92). -/
def opRow6 (lo w : Nat) : Option Instr :=
  match lo with
  | 0 => some (.vreduce (FV.ofWord w))
  | 1 => some (.vrand (FV.ofWord w))
  | 2 => some (.xmov (FV.ofWord w))
  | 3 => some (.xset (FV.ofWord w))
  | 4 => some (.xmaxe (FV.ofWord w))
  | _ => none

/-- Opcodes 0x80 to 0x8F (R99, R100): the instruction whose format the opcode and, for a dual opcode, MOD[3] fix (R92). -/
def opRow8 (lo w : Nat) : Option Instr :=
  match lo with
  | 0 => some (.vld (FM.ofWord w))
  | 1 => some (.vst (FM.ofWord w))
  | 2 => some (.vlds (FM.ofWord w))
  | 3 => some (.vsts (FM.ofWord w))
  | 4 => some (.sld (FM.ofWord w))
  | 5 => some (.sst (FM.ofWord w))
  | 6 => some (.vldx (FM.ofWord w))
  | 7 => some (.vstx (FM.ofWord w))
  | 8 => some (.vatom (FM.ofWord w))
  | 9 => some (.vfatom (FM.ofWord w))
  | 10 => some (.vatoms (FM.ofWord w))
  | 11 => some (.satom (FM.ofWord w))
  | 12 => some (.vred (FM.ofWord w))
  | 13 => some (.ldrsv (FM.ofWord w))
  | 14 => some (.stcnd (FM.ofWord w))
  | 15 => some (.fence (FM.ofWord w))
  | _ => none

/-- Opcodes 0x90 to 0x9F (R99, R100): the instruction whose format the opcode and, for a dual opcode, MOD[3] fix (R92). -/
def opRow9 (lo w : Nat) : Option Instr :=
  match lo with
  | 0 => some (.pref (FM.ofWord w))
  | 1 => some (.lpin (FS.ofWord w))
  | 2 => some (.lunpin (FS.ofWord w))
  | 3 => some (.drain (FM.ofWord w))
  | 4 => some (.presq (FM.ofWord w))
  | 5 => some (.stash (FE.ofWord w))
  | 6 => some (.spjoin (FS.ofWord w))
  | 7 => some .spleave
  | _ => none

/-- Opcodes 0xA0 to 0xAF (R99, R100): the instruction whose format the opcode and, for a dual opcode, MOD[3] fix (R92). -/
def opRow10 (lo w : Nat) : Option Instr :=
  match lo with
  | 0 => some (.tshape (FV.ofWord w))
  | 1 => some (.tscl (FV.ofWord w))
  | 2 => some (.tzero (FX.ofWord w))
  | 3 => some (.tlds (FM.ofWord w))
  | 4 => some (.tsts (FM.ofWord w))
  | 5 => some (.tmov (FV.ofWord w))
  | 6 => some (.mma (FX.ofWord w))
  | 7 => some (.mmas (FX.ofWord w))
  | 8 => some (.mmad (FX.ofWord w))
  | 9 => some (.mmaf (FX.ofWord w))
  | 10 => some (.mmai (FX.ofWord w))
  | 11 => some (.czero (FX.ofWord w))
  | 12 => some (.clds (FM.ofWord w))
  | 13 => some (.csts (FM.ofWord w))
  | 14 => some (.crq (FV.ofWord w))
  | 15 => some (.ctov (FV.ofWord w))
  | _ => none

/-- Opcodes 0xB0 to 0xBF (R99, R100): the instruction whose format the opcode and, for a dual opcode, MOD[3] fix (R92). -/
def opRow11 (lo w : Nat) : Option Instr :=
  match lo with
  | 0 => some (.vtoc (FV.ofWord w))
  | 1 => some (.cscale (FV.ofWord w))
  | _ => none

/-- Opcodes 0xC0 to 0xCF (R99, R100): the instruction whose format the opcode and, for a dual opcode, MOD[3] fix (R92). -/
def opRow12 (lo w : Nat) : Option Instr :=
  match lo with
  | 0 => some (.tcopy (FE.ofWord w))
  | 1 => some (.tcopys (FE.ofWord w))
  | 2 => some (.tcqry (FE.ofWord w))
  | 3 => some (.tokclr (FE.ofWord w))
  | 4 => some (.rpush (FE.ofWord w))
  | 5 => some (.rpop (FE.ofWord w))
  | 6 => some (.rwait (FE.ofWord w))
  | 7 => some (.rrel (FE.ofWord w))
  | 8 => some (.gcopy (FE.ofWord w))
  | 9 => some (.gflush (FE.ofWord w))
  | 10 => some (.gsig (FE.ofWord w))
  | 11 => some (.gbar (FE.ofWord w))
  | 12 => some (.gslot (FE.ofWord w))
  | 13 => some (.nrmadd (FE.ofWord w))
  | 14 => some (.nrmrd (FE.ofWord w))
  | 15 => some (.mirror (FE.ofWord w))
  | _ => none

/-- Opcodes 0xE0 to 0xEF (R99, R100): the instruction whose format the opcode and, for a dual opcode, MOD[3] fix (R92). -/
def opRow14 (lo w : Nat) : Option Instr :=
  match lo with
  | 0 => some (.srd (FY.ofWord w))
  | 1 => some (swrOfWord w)
  | 2 => some (.tret (FY.ofWord w))
  | 3 => some (.ctxsv (FY.ofWord w))
  | 4 => some (.ctxld (FY.ofWord w))
  | 5 => some .errclr
  | 6 => some (.tlbinv (FY.ofWord w))
  | 7 => some (.cinv (FY.ofWord w))
  | 8 => some .icinv
  | 9 => some (.heatrd (FY.ofWord w))
  | 10 => some (.dbgrd (FY.ofWord w))
  | 11 => some (.dbgwr (FY.ofWord w))
  | 12 => some (.qpost (FY.ofWord w))
  | _ => none

/-- The opcode map (R99): the instruction that the opcode byte and the fields of its format give. -/
def instrOfWord (w : Nat) : Option Instr :=
  let opc := w / 2 ^ 56 % 256
  match opc / 16 with
  | 0 => opRow0 (opc % 16) w
  | 1 => opRow1 (opc % 16) w
  | 2 => opRow2 (opc % 16) w
  | 3 => opRow3 (opc % 16) w
  | 4 => opRow4 (opc % 16) w
  | 5 => opRow5 (opc % 16) w
  | 6 => opRow6 (opc % 16) w
  | 8 => opRow8 (opc % 16) w
  | 9 => opRow9 (opc % 16) w
  | 10 => opRow10 (opc % 16) w
  | 11 => opRow11 (opc % 16) w
  | 12 => opRow12 (opc % 16) w
  | 14 => opRow14 (opc % 16) w
  | _ => none

/-- The word of an instruction, by the opcode map and the format tables (R91, R99). A step that is no instruction word has the reserved word 0. -/
def encodeNat : Instr → Nat
  | .nop => 0x01 * 2 ^ 56
  | .smov f => f.toWord 0x02
  | .smovi f => f.toWord 0x03
  | .sadd f => f.toWord 0x04
  | .saddImm f => f.toWord 0x04
  | .ssub f => f.toWord 0x05
  | .ssubImm f => f.toWord 0x05
  | .smul f => f.toWord 0x06
  | .smulImm f => f.toWord 0x06
  | .smulhi f => f.toWord 0x07
  | .sand f => f.toWord 0x08
  | .sandImm f => f.toWord 0x08
  | .sor f => f.toWord 0x09
  | .sorImm f => f.toWord 0x09
  | .sxor f => f.toWord 0x0A
  | .sxorImm f => f.toWord 0x0A
  | .sshl f => f.toWord 0x0B
  | .sshlImm f => f.toWord 0x0B
  | .sshr f => f.toWord 0x0C
  | .sshrImm f => f.toWord 0x0C
  | .ssar f => f.toWord 0x0D
  | .ssarImm f => f.toWord 0x0D
  | .smin f => f.toWord 0x0E
  | .sminImm f => f.toWord 0x0E
  | .smax f => f.toWord 0x0F
  | .smaxImm f => f.toWord 0x0F
  | .scmp f => f.toWord 0x10
  | .scmpImm f => f.toWord 0x10
  | .ssel f => f.toWord 0x11
  | .spopc f => f.toWord 0x12
  | .sclz f => f.toWord 0x13
  | .sbfx f => f.toWord 0x14
  | .sget f => f.toWord 0x15
  | .bra f => f.toWord 0x16
  | .brd f => f.toWord 0x17
  | .bri f => f.toWord 0x18
  | .call f => f.toWord 0x19
  | .ret => 0x1A * 2 ^ 56
  | .join => 0x1B * 2 ^ 56
  | .widen => 0x1C * 2 ^ 56
  | .narrow => 0x1D * 2 ^ 56
  | .wait f => f.toWord 0x1E
  | .yield => 0x1F * 2 ^ 56
  | .bar f => f.toWord 0x20
  | .barrive f => f.toWord 0x21
  | .exit f => f.toWord 0x22
  | .regroup f => f.toWord 0x23
  | .trap f => f.toWord 0x24
  | .vadd f => f.toWord 0x30
  | .vaddImm f => f.toWord 0x30
  | .vsub f => f.toWord 0x31
  | .vsubImm f => f.toWord 0x31
  | .vmul f => f.toWord 0x32
  | .vmulImm f => f.toWord 0x32
  | .vmad f => f.toWord 0x33
  | .vmin f => f.toWord 0x34
  | .vminImm f => f.toWord 0x34
  | .vmax f => f.toWord 0x35
  | .vmaxImm f => f.toWord 0x35
  | .vabs f => f.toWord 0x36
  | .vand f => f.toWord 0x37
  | .vandImm f => f.toWord 0x37
  | .vor f => f.toWord 0x38
  | .vorImm f => f.toWord 0x38
  | .vxor f => f.toWord 0x39
  | .vxorImm f => f.toWord 0x39
  | .vnot f => f.toWord 0x3A
  | .vbfn3 f => f.toWord 0x3B
  | .vshl f => f.toWord 0x3C
  | .vshlImm f => f.toWord 0x3C
  | .vshr f => f.toWord 0x3D
  | .vshrImm f => f.toWord 0x3D
  | .vsar f => f.toWord 0x3E
  | .vsarImm f => f.toWord 0x3E
  | .vbfx f => f.toWord 0x3F
  | .vbfi f => f.toWord 0x40
  | .vpopc f => f.toWord 0x41
  | .vclz f => f.toWord 0x42
  | .vfadd f => f.toWord 0x43
  | .vfaddImm f => f.toWord 0x43
  | .vfsub f => f.toWord 0x44
  | .vfsubImm f => f.toWord 0x44
  | .vfmul f => f.toWord 0x45
  | .vfmulImm f => f.toWord 0x45
  | .vfma f => f.toWord 0x46
  | .vfmin f => f.toWord 0x47
  | .vfminImm f => f.toWord 0x47
  | .vfmax f => f.toWord 0x48
  | .vfmaxImm f => f.toWord 0x48
  | .vfrnd f => f.toWord 0x49
  | .vfrcp f => f.toWord 0x4A
  | .vfrsq f => f.toWord 0x4B
  | .vfsqrt f => f.toWord 0x4C
  | .vfexp2 f => f.toWord 0x4D
  | .vflog2 f => f.toWord 0x4E
  | .vftrig f => f.toWord 0x4F
  | .vftanh f => f.toWord 0x50
  | .vcmp f => f.toWord 0x51
  | .vcmpImm f => f.toWord 0x51
  | .vfcmp f => f.toWord 0x52
  | .vfcmpImm f => f.toWord 0x52
  | .vsel f => f.toWord 0x53
  | .vcvt f => f.toWord 0x54
  | .vpack f => f.toWord 0x55
  | .vunpack f => f.toWord 0x56
  | .vrq f => f.toWord 0x57
  | .vmov f => f.toWord 0x58
  | .vmovi f => f.toWord 0x59
  | .vbcast f => f.toWord 0x5A
  | .vlane f => f.toWord 0x5B
  | .vshfl f => f.toWord 0x5C
  | .vvote f => f.toWord 0x5D
  | .vmatch f => f.toWord 0x5E
  | .vscan f => f.toWord 0x5F
  | .vreduce f => f.toWord 0x60
  | .vrand f => f.toWord 0x61
  | .xmov f => f.toWord 0x62
  | .xset f => f.toWord 0x63
  | .xmaxe f => f.toWord 0x64
  | .vld f => f.toWord 0x80
  | .vst f => f.toWord 0x81
  | .vlds f => f.toWord 0x82
  | .vsts f => f.toWord 0x83
  | .sld f => f.toWord 0x84
  | .sst f => f.toWord 0x85
  | .vldx f => f.toWord 0x86
  | .vstx f => f.toWord 0x87
  | .vatom f => f.toWord 0x88
  | .vfatom f => f.toWord 0x89
  | .vatoms f => f.toWord 0x8A
  | .satom f => f.toWord 0x8B
  | .vred f => f.toWord 0x8C
  | .ldrsv f => f.toWord 0x8D
  | .stcnd f => f.toWord 0x8E
  | .fence f => f.toWord 0x8F
  | .pref f => f.toWord 0x90
  | .lpin f => f.toWord 0x91
  | .lunpin f => f.toWord 0x92
  | .drain f => f.toWord 0x93
  | .presq f => f.toWord 0x94
  | .stash f => f.toWord 0x95
  | .spjoin f => f.toWord 0x96
  | .spleave => 0x97 * 2 ^ 56
  | .tshape f => f.toWord 0xA0
  | .tscl f => f.toWord 0xA1
  | .tzero f => f.toWord 0xA2
  | .tlds f => f.toWord 0xA3
  | .tsts f => f.toWord 0xA4
  | .tmov f => f.toWord 0xA5
  | .mma f => f.toWord 0xA6
  | .mmas f => f.toWord 0xA7
  | .mmad f => f.toWord 0xA8
  | .mmaf f => f.toWord 0xA9
  | .mmai f => f.toWord 0xAA
  | .czero f => f.toWord 0xAB
  | .clds f => f.toWord 0xAC
  | .csts f => f.toWord 0xAD
  | .crq f => f.toWord 0xAE
  | .ctov f => f.toWord 0xAF
  | .vtoc f => f.toWord 0xB0
  | .cscale f => f.toWord 0xB1
  | .tcopy f => f.toWord 0xC0
  | .tcopys f => f.toWord 0xC1
  | .tcqry f => f.toWord 0xC2
  | .tokclr f => f.toWord 0xC3
  | .rpush f => f.toWord 0xC4
  | .rpop f => f.toWord 0xC5
  | .rwait f => f.toWord 0xC6
  | .rrel f => f.toWord 0xC7
  | .gcopy f => f.toWord 0xC8
  | .gflush f => f.toWord 0xC9
  | .gsig f => f.toWord 0xCA
  | .gbar f => f.toWord 0xCB
  | .gslot f => f.toWord 0xCC
  | .nrmadd f => f.toWord 0xCD
  | .nrmrd f => f.toWord 0xCE
  | .mirror f => f.toWord 0xCF
  | .srd f => f.toWord 0xE0
  | .swr f => f.toWord 0xE1
  | .tret f => f.toWord 0xE2
  | .ctxsv f => f.toWord 0xE3
  | .ctxld f => f.toWord 0xE4
  | .errclr => 0xE5 * 2 ^ 56
  | .tlbinv f => f.toWord 0xE6
  | .cinv f => f.toWord 0xE7
  | .icinv => 0xE8 * 2 ^ 56
  | .heatrd f => f.toWord 0xE9
  | .dbgrd f => f.toWord 0xEA
  | .dbgwr f => f.toWord 0xEB
  | .qpost f => f.toWord 0xEC
  | .heatctlWrite f => f.toWord 0xE1
  | .barstWrite f => f.toWord 0xE1
  | .ringstWrite f => f.toWord 0xE1
  | .pcbrkWrite f => f.toWord 0xE1
  | .sampctlWrite f => f.toWord 0xE1
  | .normboxWrite f => f.toWord 0xE1
  | _ => 0

/-- The 64-bit word of an instruction (R91). -/
def encode (i : Instr) : W64 := BitVec.ofNat 64 (encodeNat i)

/-- The decoder: checks 2 and 3 of R101. A word of an assigned opcode whose zero bits between the fields are not zero differs from the word its fields give back. -/
def decodeWord (w : W64) : Except DecodeError Instr :=
  match instrOfWord w.toNat with
  | none => .error .reservedOpcode
  | some i => if i.info.mbz && encodeNat i == w.toNat then .ok i else .error .mustBeZero

/-- Words are stored with bits [7:0] at the lowest address (R1). -/
def decodeBytes : List Byte → Except DecodeError Instr
  | [b0, b1, b2, b3, b4, b5, b6, b7] => decodeWord (b7 ++ b6 ++ b5 ++ b4 ++ b3 ++ b2 ++ b1 ++ b0)
  | _ => .error .reservedOpcode

/-- The eight bytes of a word in memory order (R1). -/
def wordBytes (w : W64) : List Byte := (List.range 8).map fun k => w.extractLsb' (8 * k) 8

/-- What the decoder reads from an instruction whose bits are `w`: one word of 64 bits, laid out in memory order. -/
def decodeTableWord (_nbits w : Nat) : Option Instr :=
  match decodeBytes (wordBytes (BitVec.ofNat 64 w)) with
  | .ok i => some i
  | .error _ => none

/-- A clause header (R83). -/
structure Header where
  cnt  : BitVec 4
  cls  : Class
  wait : FW
  yld  : Bool
deriving DecidableEq, Repr

/-- CLS 0 to 4 (R83). -/
def classOf : Nat → Option Class
  | 0 => some .vec
  | 1 => some .mem
  | 2 => some .mtx
  | 3 => some .eng
  | 4 => some .sys
  | _ => none
/-- The code of a class (R83). -/
def classCode : Class → Nat
  | .vec => 0
  | .mem => 1
  | .mtx => 2
  | .eng => 3
  | .sys => 4

/-- The clause header, or nothing where R84 calls it a bad header. -/
def decodeHeader (w : W64) : Option Header :=
  let n := w.toNat
  if n / 2 ^ 60 = 12 ∧ n % 2 ^ 24 = 0 then
    (classOf (n / 2 ^ 53 % 8)).map fun c =>
      { cnt := fld n 56 4, cls := c,
        wait := { wld := fld n 47 6, wst := fld n 41 6, wcp := fld n 37 4, wtl := fld n 33 4, tokw := fld n 25 8 },
        yld := bitAt n 24 }
  else none

/-- The word of a clause header (R83). -/
def encodeHeader (h : Header) : W64 :=
  BitVec.ofNat 64 (12 * 2 ^ 60 + h.cnt.toNat * 2 ^ 56 + classCode h.cls * 2 ^ 53 + h.wait.wld.toNat * 2 ^ 47 +
    h.wait.wst.toNat * 2 ^ 41 + h.wait.wcp.toNat * 2 ^ 37 + h.wait.wtl.toNat * 2 ^ 33 + h.wait.tokw.toNat * 2 ^ 25 + h.yld.toNat * 2 ^ 24)

end Sys2Proof
end

