-- ==== Sys2Proof/Machine/Tables.lean ====
section
/-! DEFINITION. Tables kept as sorted lists of (key, value) pairs, lists of numbers kept sorted, and bit fields of long registers: the plain data that the state is made of. -/

namespace Sys2Proof

/-- A finite table: keys strictly rising where only `tset` and `tdel` build it. -/
abbrev Tbl (α : Type) := List (Nat × α)

/-- The value at a key, if listed. -/
def tget {α : Type} : Tbl α → Nat → Option α
  | [], _ => none
  | (k, v) :: t, j => if k = j then some v else tget t j

/-- The value at a key, with the value of an unlisted key. -/
def tgetD {α : Type} (t : Tbl α) (j : Nat) (d : α) : α := (tget t j).getD d

/-- Sets the value at a key, keeping the keys sorted. -/
def tset {α : Type} : Tbl α → Nat → α → Tbl α
  | [], j, x => [(j, x)]
  | (k, v) :: t, j, x => if j < k then (j, x) :: (k, v) :: t else if j = k then (j, x) :: t else (k, v) :: tset t j x

/-- Removes a key. -/
def tdel {α : Type} (t : Tbl α) (j : Nat) : Tbl α := t.filter fun p => p.1 != j

/-- Applies a function to the value at a listed key. -/
def tmod {α : Type} (t : Tbl α) (j : Nat) (f : α → α) : Tbl α :=
  match tget t j with
  | some v => tset t j (f v)
  | none => t

/-- The keys. -/
def tkeys {α : Type} (t : Tbl α) : List Nat := t.map (·.1)

/-- The first entry that satisfies a test. -/
def tfind {α : Type} (t : Tbl α) (p : Nat → α → Bool) : Option (Nat × α) := t.find? fun e => p e.1 e.2

/-- Keys strictly rising. -/
def Tbl.sorted {α : Type} : Tbl α → Bool
  | [] => true
  | [_] => true
  | (a, _) :: (b, y) :: t => a < b && Tbl.sorted ((b, y) :: t)

/-- Inserts a number in a sorted list, once. -/
def ninsert : List Nat → Nat → List Nat
  | [], j => [j]
  | k :: t, j => if j < k then j :: k :: t else if j = k then k :: t else k :: ninsert t j

/-- The `len` bits from bit `pos` on. -/
def getBits {n : Nat} (x : BitVec n) (pos len : Nat) : BitVec len := x.extractLsb' pos len

/-- Replaces the bits of `v` from bit `pos` on. -/
def putBits {n len : Nat} (x : BitVec n) (pos : Nat) (v : BitVec len) : BitVec n :=
  (x &&& ~~~((BitVec.allOnes len).setWidth n <<< pos)) ||| (v.setWidth n <<< pos)

/-- Lane `l` of a vector register (R52). -/
def lane (v : VReg) (l : Nat) : W32 := getBits v (32 * l) 32
/-- Writes lane `l` of a vector register (R52). -/
def setLane (v : VReg) (l : Nat) (x : W32) : VReg := putBits v (32 * l) x
/-- Lane `l` is in the set. -/
def inSet (m : Lanes) (l : Nat) : Bool := m.getLsbD l
/-- The lanes of a set, ascending. -/
def lanesOf (m : Lanes) : List Nat := (List.range 32).filter (inSet m)
/-- The set of the listed lanes. -/
def laneSet (ls : List Nat) : Lanes := ls.foldl (fun m l => m ||| (1#32 <<< l)) 0
/-- Writes `f l` to each lane of `m`; every other lane keeps its value (R133). -/
def mapLanes (m : Lanes) (f : Nat → W32) (v : VReg) : VReg := (lanesOf m).foldl (fun r l => setLane r l (f l)) v
/-- Byte `j` of a scale register. -/
def xbyte (x : W64) (j : Nat) : Byte := getBits x (8 * j) 8
/-- Number of one bits. -/
def popc {n : Nat} (x : BitVec n) : Nat := ((List.range n).filter fun i => x.getLsbD i).length

/-- Little-endian bytes of a number (R1). -/
def bytesOf (n x : Nat) : List Byte := (List.range n).map fun k => BitVec.ofNat 8 (x / 256 ^ k)
/-- The number of little-endian bytes (R1). -/
def ofBytes : List Byte → Nat
  | [] => 0
  | b :: t => b.toNat + 256 * ofBytes t

/-- Replaces the entry at an index of a list. -/
def lset {α : Type} : List α → Nat → α → List α
  | [], _, _ => []
  | _ :: t, 0, x => x :: t
  | a :: t, n + 1, x => a :: lset t n x

end Sys2Proof
end

