-- ==== Sys2Proof/Machine/State.lean ====
section
/-! DEFINITION. The state of a KZ-7410 as plain data: groups, teams, cores, contexts, tasks, memories, homes, engines, Gallery, host interface and platform, and the state right after reset. -/

namespace Sys2Proof.Machine

/-- A byte-addressed memory: addresses strictly rising, no entry equal to what an unlisted address reads as. -/
abbrev Memory := List Host.Cell

/-- The roles of a group (03_execution.md R18). -/
inductive Role where
  | vector | feed | matrix
deriving DecidableEq, Repr

/-- The modes of a group (27_traps.md R279). -/
inductive Mode where
  | user | userHandler | sysHandler
deriving DecidableEq, Repr

/-- What became of a group: `idle` is a slot that no launch has filled. -/
inductive GStatus where
  | idle | live | retired | killed
deriving DecidableEq, Repr

/-- An entry of the divergence stack (03 R29, 11 R118). -/
structure StackEntry where
  pc   : W64 := 0
  mask : Lanes := 0xFFFFFFFF
  rcv  : W64 := 1
deriving DecidableEq, Repr

/-- A token and its completion record (05 R53, 19 R217). `last` is the most recent operation that named it. -/
structure Token where
  sig    : Bool := false
  count  : BitVec 4 := 0
  held   : BitVec 3 := 0
  status : BitVec 3 := 1
  oob    : W32 := 0
  last   : Nat := 0
deriving DecidableEq, Repr

/-- A tile: shape word, 8 KiB of elements with the rows at pitch RB, and the scale column, entry (e, k) in bits [8(8e + k) + 7 : 8(8e + k)] (23 R242, R243). -/
structure Tile where
  shape : W32 := 0
  elems : BitVec 65536 := 0
  scol  : BitVec 8192 := 0
deriving DecidableEq, Repr

/-- The clause under way (09 R82, R83). `idx` is the word that issues next; `begun` says that the header's waits have been evaluated. -/
structure Clause where
  hdr   : Header
  words : List W64
  idx   : Nat
deriving DecidableEq, Repr

/-- The waits of a header or a WAIT, at their no-wait values (09 R83). -/
def noWait : FW := { wld := 63, wst := 63, wcp := 15, wtl := 15, tokw := 0 }

/-- What a group waits for, beyond its clause's waits (27 R292; 03 R26, R27; 33 R334). -/
inductive GWait where
  | none
  | bar (n until_ : Nat)
  | barCarry (n until_ : Nat)
  | rwait (ring stage : Nat) (full phase : Bool)
  | gbar (n tag : Nat)
  | nrmrd (seq : Option Nat) (dest : Nat)
  | mirror (mask upto : Nat) (pc : VA) (idx words : Nat)
  | absent (lines : List (Nat × Nat))
  | fault
  | fetchFault (rec : Option Nat) (header : VA)
  | spillFault (rec : Option Nat)
  | opFault (rec : Nat)
  | regroup
  | product
  | record (kind : Nat) (f : FE)
  | parked
  | tretResume (skip : Bool)
deriving DecidableEq, Repr

/-- A copy-counter entry: an engine operation of this group that has not left the counter (05 R53, 09 R86). -/
structure CopyRef where
  op   : Nat
  done : Bool := false
deriving DecidableEq, Repr

/-- A pending ring operation (21 R230): the operations it waits for are the memory operations, tile moves and engine operations listed. -/
structure RingOp where
  rel    : Bool
  ring   : Nat
  stage  : Nat
  phase  : Bool
  tok    : Option Nat := none
  waits  : List Nat := []
deriving DecidableEq, Repr

/-- A trap frame (27 R282). `depth` is the stack depth at entry, `endsClause` tells `.skip` that the trapping word ends its clause (R283); `wait` is what a pre-empted group was waiting for (R288), `cause0` and `targ0` the trap before this one (R285), `block` the hidden group block as at entry to the system handler (R287); `tokens`, `copies`, `ringOps` and `norm` what the block has no room for: which operations they name, and the last collective (R289, R290; assumption log 21). -/
structure Frame where
  pc        : VA := 0
  inside    : Bool := false
  idx       : Nat := 0
  endsClause : Bool := false
  hdrWords  : Nat := 0
  widen     : Option Lanes := none
  pathCount : Nat := 0
  waits     : FW := noWait
  gctl      : BitVec 2 := 0
  seed      : Option W32 := none
  depth     : Nat := 1
  mode      : Mode := .user
  cause     : Nat := 0
  resume    : Bool := false
  wait      : GWait := .none
  cause0    : Nat := 0
  targ0     : W32 := 0
  block     : BitVec 32768 := 0
  tokens    : Tbl Token := []
  copies    : List CopyRef := []
  ringOps   : List RingOp := []
  norm      : Option Nat := none
deriving DecidableEq, Repr

/-- The kinds of access an outstanding memory operation makes (17 R186 to R192, R195). -/
inductive AccKind where
  | load | store | loadX | storeX
  | atomic (fl ret : Bool) (op : Nat)
  | ldrsv | stcnd | lpin | lunpin
  | spjoin (status : W32)
  | presq (mask : W32)
deriving DecidableEq, Repr

/-- One lane's access of an outstanding operation: the captured operands, the values read with their poison, the registers already written, the fault record that it waits for, and, for a remote access, the tag of the request sent and what the target answered (09 R87, R88; 17 R202; 29 R308). -/
structure LaneAcc where
  lane      : Nat
  addr      : Nat
  data      : List W32 := []
  val       : List W32 := []
  pois      : List Bool := []
  performed : Bool := false
  delivered : List Nat := []
  fault     : Option Nat := none
  failed    : Bool := false
  tag       : Option Nat := none
  refused   : Bool := false
  absentThere : Bool := false
  since     : Option Nat := none
deriving DecidableEq, Repr

/-- The counters of R53. -/
inductive Ctr where
  | load | store
deriving DecidableEq, Repr

/-- An outstanding memory operation (09 R86 to R88, 17 R202). -/
structure PendOp where
  id     : Nat
  ctr    : Ctr
  kind   : AccKind
  bytes  : Nat := 4
  signed : Bool := false
  scalar : Bool := false
  spad   : Bool := false
  /-- First destination register, how many, and where STCND's status goes. -/
  dest   : Nat := 0
  nregs  : Nat := 1
  scope  : Nat := 0
  colour : Nat := 0
  acq    : Bool := false
  rel    : Bool := false
  pc     : VA := 0
  mode   : Mode := .user
  mask   : Lanes := 0
  lanes  : List LaneAcc := []
  done   : Bool := false
deriving DecidableEq, Repr

/-- The tile and accumulator moves (23 R246 to R249). -/
inductive MoveKind where
  | tlds | tsts | clds | csts | tmovIn | tmovOut
deriving DecidableEq, Repr

/-- An outstanding tile-counter move: its operands captured at issue, the scratchpad location of each unit it moves, and the units that have landed. Loads write their destination when they complete, and a unit of it may hold the loaded value before (09 R88, 23 R248). -/
structure TileMove where
  id    : Nat
  kind  : MoveKind
  dest  : Nat
  shape : W32 := 0
  row0  : Nat := 0
  rows  : Nat := 0
  cols  : Nat := 0
  locs  : List (Nat × Nat) := []
  elems : BitVec 65536 := 0
  scol  : BitVec 8192 := 0
  acc   : BitVec 524288 := 0
  regs  : List (VReg × W64) := []
  landed : List Nat := []
  bad   : Bool := false
  done  : Bool := false
deriving DecidableEq, Repr

/-- A trap that a fault found after issue has armed (17 R202, 19 R219). -/
structure Armed where
  cause : Nat
  pc    : VA
  targ  : W32
deriving DecidableEq, Repr

/-- A matrix product under way: its word and its next chunk (23 R255). -/
structure Product where
  instr  : Instr
  next   : Nat
  chunks : Nat
deriving DecidableEq, Repr

/-- A group (03 R16, 05 R48 to R59, 27 R279 to R292). `issued` says that the group has issued in the current cycle (33 R332); `fetchSince`, `fetchVa` and `fetchKind` say since when, at which address and as which agent and kind of access (25 R269: 16 · agent + kind) it waits; `fetchMig` that the page there was in MIGRATING at every try since then (25 R271). -/
structure Group where
  status : GStatus := .idle
  team   : Nat := 0
  gid    : Nat := 0
  role   : Role := .vector
  nv     : Nat := 0
  nx     : Nat := 0
  ns     : Nat := 16
  na     : Nat := 0
  v      : Tbl VReg := []
  vp     : Tbl Lanes := []
  x      : Tbl W64 := []
  xp     : Tbl Byte := []
  s      : Tbl W32 := []
  sp     : BitVec 128 := 0
  bankU  : Tbl W32 := []
  bankS  : Tbl W32 := []
  bankP  : BitVec 16 := 0
  tiles  : Tbl Tile := []
  tp     : BitVec 16 := 0
  accs   : Tbl (BitVec 524288) := []
  cp     : BitVec 8 := 0
  pc     : VA := 0
  resume : Option Nat := none
  clause : Option Clause := none
  waits  : FW := noWait
  stack  : List StackEntry := [{}]
  exited : Lanes := 0
  tids   : VReg := 0
  widen  : Option Lanes := none
  tokens : Tbl Token := []
  pend   : List PendOp := []
  moves  : List TileMove := []
  copies : List CopyRef := []
  xstat  : BitVec 3 := 0
  gctl   : BitVec 2 := 0
  gctlNext : BitVec 2 := 0
  mprog  : W64 := 0
  pathq  : W32 := 4096
  pathCount : Nat := 0
  engseq : W64 := 0
  calls  : W32 := 0
  key    : W32 := 0xFFFFFFFF
  mode   : Mode := .user
  targ   : W32 := 0
  cause  : Nat := 0
  frameU : Option Frame := none
  frameS : Option Frame := none
  bpSkip : Bool := false
  saved  : Bool := false
  staged : Option (BitVec 32768) := none
  wait   : GWait := .none
  armed  : List Armed := []
  seed   : Option W32 := none
  ringOps : List RingOp := []
  resv   : Tbl Nat := []
  norm   : Option Nat := none
  product : Option Product := none
  active : Bool := true
  age    : Nat := 0
  streak : Nat := 0
  yielded : Bool := false
  readySince : Option Nat := none
  mayIssue : Nat := 0
  fetchSince : Option Nat := none
  fetchVa : Nat := 0
  fetchKind : Nat := 0
  fetchMig : Bool := false
  issued : Bool := false
deriving DecidableEq, Repr

/-- A team barrier (03 R37, 05 R60): expected count, completed phases, and the gids that arrived, carry an arrival, or are gone. -/
structure Barrier where
  e       : Nat := 0
  phases  : Nat := 0
  arr     : List Nat := []
  carried : List Nat := []
  gone    : List Nat := []
deriving DecidableEq, Repr

/-- A stage ring (21 R227) with its hidden release counts. `flipAt` is the cycle in which a phase bit last flipped, and `fph0`, `eph0` the phase bits before that cycle (21 R231); `popAt` holds, for the consumer and the producer side, the cycle of the latest RPOP and its gid (21 R229). -/
structure Ring where
  fph  : BitVec 16 := 0
  eph  : BitVec 16 := 0
  clap : Bool := false
  cstg : BitVec 4 := 0
  plap : Bool := false
  pstg : BitVec 4 := 0
  en   : Bool := false
  reln : BitVec 4 := 0
  nst  : BitVec 4 := 0
  rels : Tbl Nat := []
  flipAt : Option Nat := none
  fph0 : BitVec 16 := 0
  eph0 : BitVec 16 := 0
  popAt : Tbl (Nat × Nat) := []
deriving DecidableEq, Repr

/-- Where a team stands with respect to pre-emption (27 R289, R290). -/
inductive SaveState where
  | running | preempting | saving | saved | resuming
deriving DecidableEq, Repr

/-- A team (03 R16, R17). `barDone` holds the cycle in which a phase of a barrier last completed at an arrival or, with `true`, at a write of E (05 R60). `stopped` holds the gids that reached their pre-emption point; `kept` and its like are what the team area and the blocks of a saved team stand for (27 R289, R290; assumption log 21). -/
structure Team where
  ctx     : Nat := 0
  task    : Nat := 0
  core    : Nat := 0
  linear  : Nat := 0
  x       : Nat := 0
  y       : Nat := 0
  z       : Nat := 0
  nvec    : Nat := 0
  nfeed   : Nat := 0
  nmtx    : Nat := 0
  spare   : Nat := 0
  live    : Bool := false
  groups  : Tbl Nat := []
  bars    : Tbl Barrier := []
  barDone : Tbl (Nat × Bool) := []
  rings   : Tbl Ring := []
  spad    : Memory := []
  absent  : List Nat := []
  spadPoison : List Nat := []
  share   : Option (Nat × Nat) := none
  regroup : Option (VA × Instr) := none
  arrived : List Nat := []
  save    : SaveState := .running
  placed  : Nat := 0
  stopped : List Nat := []
  again   : Bool := false
  kept    : Tbl Group := []
  keptAbsent : List Nat := []
  keptPoison : List Nat := []
  keptBars : Tbl Barrier := []
  keptRings : Tbl Ring := []
deriving DecidableEq, Repr

/-- The attributes a cached line carries (25 R264). -/
structure Attrs where
  w : Bool := true
  x : Bool := true
  c : Bool := false
  m : Bool := false
  tier : Bool := false
deriving DecidableEq, Repr

/-- An L1 line (15 R158). `byCtxs` lists the contexts whose stores its dirty bytes hold (21 R239). -/
structure L1Line where
  data   : Line := 0
  dirty  : LineMask := 0
  byCtxs : List Nat := []
  cols   : Byte := 0
  attrs  : Attrs := {}
  poison : Bool := false
deriving DecidableEq, Repr

/-- An LLC line (15 R157, R160). `stuck` marks a line of a FULL page that its home holds (25 R277). -/
structure LlcLine where
  data   : Line := 0
  dirty  : Bool := false
  attrs  : Attrs := {}
  poison : Bool := false
  stuck  : Bool := false
deriving DecidableEq, Repr

/-- The directory states of a line (15 R160). -/
inductive DirState where
  | uncached
  | shared (dies : BitVec 4)
  | owned (die : Nat)
deriving DecidableEq, Repr

/-- An entry of a line's release record: the core, the releasing context, the colour mask and the core's release sequence number (15 R165). -/
structure RelEntry where
  core : Nat
  ctx  : Nat
  cols : Byte
  seq  : Nat
deriving DecidableEq, Repr

/-- What the home's directory keeps of a line (15 R160, R165). -/
structure DirLine where
  st  : DirState := .uncached
  rel : List RelEntry := []
deriving DecidableEq, Repr

/-- A remote write-combining entry (15 R173), with the groups, PCs, lanes and operations whose stores it holds, to trap them where the target refuses it (29 R308) and to tell which of them an engine operation follows (R172); `again` says that an entry sent, and so freed, has come back and is to be sent once more (29 R308, R309); `red` is the operation with its operands, and the byte of the line, where it holds a VRED (17 R183), and `recs` the fault records that it waits for (29 R308). -/
structure WcbEntry where
  id     : Nat
  peer   : Nat
  line   : Nat
  mask   : LineMask
  data   : Line
  colour : Nat
  ctx    : Nat
  task   : Nat
  limit  : Nat
  born   : Nat
  sent   : Bool := false
  again  : Bool := false
  writers : List (Nat × VA × Nat × Nat) := []
  red    : Option (Nat × Nat × List W32) := none
  recs   : List Nat := []
deriving DecidableEq, Repr

/-- A core (01 R10, 05 R50). `relSeq` numbers its lazy releases and `relDone` says, for each context and colour at key 8 · context + colour, up to which of them its dirty lines have been written back (15 R165); `loops` holds the clauses of each scheduler's loop buffer, latest first (27 R294); `running` names, for each scheduler, the group whose clause it issues (03 R26); `sampLost` counts dropped sample records that its buffer's header does not count yet (33 R333); `held` is the issuer to which an engine slot is granted, `heldFor` the task for whose team pre-emption empties the core (03 R21). -/
structure Core where
  poolw  : W32 := 0
  l1     : Tbl L1Line := []
  icache : Tbl Line := []
  wcb    : List WcbEntry := []
  relSeq : Nat := 0
  relDone : Tbl Nat := []
  loops  : Tbl (List (Nat × List W64)) := []
  arrayQ : List Nat := []
  running : Tbl Nat := []
  brk    : Tbl W64 := []
  brkOld : Tbl ((W64 × Option Nat) × Nat) := []
  brkOwner : Tbl Nat := []
  samp   : W64 := 0
  sampOwner : Nat := 0
  sampRot : Tbl Nat := []
  sampAt : Tbl Nat := []
  sampLost : Nat := 0
  slotQ  : List (Nat × Nat) := []
  held   : Option Nat := none
  heldFor : Option Nat := none
deriving DecidableEq, Repr

/-- The directions of an engine operation (19 R203, 21 R232 to R234). -/
inductive EngKind where
  | load | store | stash | gcopy | gflush | gsig
deriving DecidableEq, Repr

/-- The status of an engine operation (19 R217). -/
inductive EngStatus where
  | running | parked (rec : Option Nat) | cancelled
deriving DecidableEq, Repr

/-- An engine operation in its slot (19 R203, R205, R216 to R219; 21 R222, R232 to R234). `groups` are the groups into whose token it completes (21 R226); `waits` the earlier operations of its fork and the requests that it awaits; `next` the next element in canonical order, or the next unit; `landing` the last position that writes each scratchpad line still to land; `scales` the scale bytes of one scratchpad word that wait for the rest of it (R218); `moved` the bits of the elements that it has moved (31 R326); `slot` says that it holds one of the core's slots, for which an operation restored from a save may have to wait (27 R290). -/
structure EngOp where
  id     : Nat
  kind   : EngKind
  core   : Nat
  team   : Nat
  group  : Nat
  groups : List Nat
  ctx    : Nat
  token  : Nat
  pc     : VA
  engseq : W64
  trapNan : Bool := false
  record : BitVec 512 := 0
  coords : List Int := []
  sp     : Nat := 0
  src    : Nat := 0
  dst    : Nat := 0
  len    : Nat := 0
  flag   : Option Nat := none
  inc    : W32 := 0
  cols   : Byte := 0
  colour : Nat := 0
  peer   : Nat := 0
  waits  : List Nat := []
  next   : Nat := 0
  phase  : Nat := 0
  got    : Option (Line × Bool) := none
  absentThere : Bool := false
  oob    : Nat := 0
  flags  : BitVec 3 := 0
  status : EngStatus := .running
  trap   : Option (Nat × W32) := none
  since  : Option Nat := none
  landing : Tbl Nat := []
  scales : List (Nat × Byte × Bool) := []
  moved  : Nat := 0
  slot   : Bool := true
deriving DecidableEq, Repr

/-- A norm collective of a device (21 R237): the contributions of each core, in any order. -/
structure Norm where
  seq    : Nat
  want   : Nat
  count  : Nat := 0
  parts  : Tbl (List W32) := []
  closed : Bool := false
  total  : W32 := 0
  sent   : Bool := false
deriving DecidableEq, Repr

/-- A domain barrier of a context at this device (21 R236, 29 R311): completed phases, and the phase counted at its home with the device and tag of each arrival. -/
structure GBar where
  phases : Nat := 0
  want   : Nat := 0
  count  : Nat := 0
  arrivals : List (Nat × Nat) := []
deriving DecidableEq, Repr

/-- A record of the fault log (25 R269), with the context that logs it. -/
structure FaultRec where
  va    : W64
  pc    : W64
  eseq  : W32
  team  : W32
  gid   : BitVec 5
  cause : Byte
  kind  : Byte
  core  : Byte
  agent : Nat
  owner : Nat
deriving DecidableEq, Repr

/-- The budgets of a context (31 R326): period in microseconds and HBM, copy, Gallery, CXL budgets in units of 4 KiB. -/
structure Budget where
  period : Nat := 16
  hbm    : Nat := 0xFFFFFFFF
  copy   : Nat := 0xFFFFFFFF
  gal    : Nat := 0xFFFFFFFF
  cxl    : Nat := 0xFFFFFFFF
deriving DecidableEq, Repr

/-- A context (31 R325, 05 R55, 29 R307). `mirrors` holds the tag, the colours and the writing context of each mirrored write that the buddy has not acknowledged, and `mirrorFail` says that one of this context to another's global page was refused (29 R313); `joinAt` holds, by key, the cycle of the latest SPJOIN and the place of its group in the order of R198; `normAt` is the cycle of the latest deposit in NORMBOX (23 R259); `errFirst` is the cycle, core, team and gid of the event that ERRSTAT names, `errAt` the cycle of the latest event (05 R58). -/
structure Ctx where
  asid    : Nat := 0
  root    : Nat := 0
  logBase : Nat := 0
  logM    : Nat := 6
  saveb   : Nat := 0
  savesz  : Nat := 0
  quota   : Nat := 0
  userEntry : Nat := 0
  sysEntry : Nat := 0
  resumeEntry : Nat := 0
  errstat : W64 := 0
  errpc   : W64 := 0
  errFirst : Option (Nat × Nat × Nat × Nat) := none
  errAt   : Option Nat := none
  rngseed : W32 := 0
  rngPrev : W32 := 0
  rngAt   : Nat := 0
  normbox : W64 := 0
  normAt  : Option Nat := none
  normclip : W32 := 0x7F800000
  wcbage  : Nat := 4000
  heatctl : BitVec 10 := 0x386
  heatN   : Tbl Nat := []
  djob    : W32 := 0
  expb    : Nat := 0
  expsz   : Nat := 0
  gwait   : Nat := 1
  gbhome  : Nat := 0
  nrmdev  : Nat := 1
  buddy   : Nat := 0xFFFF
  broken  : Bool := false
  mirrors : List (Nat × Byte × Nat) := []
  mirrorFail : Bool := false
  prod    : Nat := 0
  queue   : List FaultRec := []
  heldRec : List FaultRec := []
  lost    : Nat := 0
  open_   : List (Nat × Nat) := []
  released : List (Nat × Bool) := []
  budget  : Budget := {}
  budgetNext : Option Budget := none
  useHbm  : Nat := 0
  copyBits : Nat := 0
  useGal  : Nat := 0
  useCxl  : Nat := 0
  ovfHbm  : Nat := 0
  ovfCxl  : Nat := 0
  pins    : List Nat := []
  shares  : Tbl (Tbl Nat) := []
  joinAt  : Tbl (Nat × Nat) := []
  norms   : List Norm := []
  normSeq : Nat := 0
  normDone : Tbl W32 := []
  gbars   : Tbl GBar := []
  gbarDone : List Nat := []
  heatAt  : Nat := 0
  periodAt : Nat := 0
deriving DecidableEq, Repr

/-- An armed task (31 R319 to R321). -/
structure Task where
  ctx     : Nat := 0
  tcb     : Nat := 0
  lrec    : BitVec 512 := 0
  launchId : W32 := 0
  gate    : Bool := false
  gateAt  : Nat := 0
  placed  : Nat := 0
  checked : Bool := false
  refused : Bool := false
  done    : Bool := false
  saved   : List Nat := []
deriving DecidableEq, Repr

/-- An entry of a home translation slice: the region of at most 2 MiB that it covers, and the page whose translation it holds (25 R264). -/
structure TlbEntry where
  slice : Nat
  asid  : Nat
  base  : Nat
  size  : Nat
  page  : Nat
  psize : Nat
  pa    : Nat
  pte   : W64
deriving DecidableEq, Repr

/-- A mapped page in the reverse map (25 R262, R276). -/
structure RevEntry where
  asid  : Nat
  va    : Nat
  size  : Nat
  pte   : W64
  ctx   : Nat
  full  : Bool := false
deriving DecidableEq, Repr

/-- A heat entry (25 R273). -/
structure Heat where
  ctx    : Nat
  region : Nat
  count  : Nat
deriving DecidableEq, Repr

/-- A Gallery session of an ordered pair (29 R305, R306). -/
structure Session where
  peer     : Nat
  out      : Bool
  number   : Nat
  key      : BitVec 256
  salt     : W32
  counter  : Nat := 0
  accepted : List Nat := []
  discards : Tbl Nat := []
deriving DecidableEq, Repr

/-- A frame that its source or landing device holds until it is acknowledged: the steps of its first and latest transmission, the hop peer, how often it was discarded, and whether its source is to place it again because the device that it landed on is lost (29 R302, R304, R306, R316). -/
structure HeldFrame where
  frame  : GalFrame
  first  : Nat
  sent   : Nat
  via    : Nat
  ctx    : Nat
  tries  : Nat := 0
  hopAck : Bool := false
  landed : Bool := false
  again  : Bool := false
deriving DecidableEq, Repr

/-- A packet not yet sent, with the context that originated it and the step in which it was last placed (29 R299, R314). -/
structure OutPkt where
  pkt : Packet
  ctx : Nat
  w   : Nat
  placed : Option Nat := none
deriving DecidableEq, Repr

/-- A remote translation in the cache of a die (29 R309): `bad` is 1 where the target refused the request and 2 where it reported the page not present. -/
structure RemoteXlat where
  die  : Nat
  dev  : Nat
  djob : W32
  unit : Nat
  server : Nat
  w    : Bool
  bad  : Nat := 0
deriving DecidableEq, Repr

/-- Devices that requested the translation of an exported 64 KiB unit (29 R310). -/
structure Tracker where
  ctx  : Nat
  unit : Nat
  devs : List Nat
  all  : Bool := false
  pendingAcks : List Nat := []
deriving DecidableEq, Repr

/-- The Gallery side of the device (29_gallery.md): `timeNs` is the reference in nanoseconds at cycle `markAt`, and `slow` says that the core clock runs at 0.7 GHz; `out` holds packets not yet sent, `held` frames not yet acknowledged, `serve` packets passed to the memory system, `reqs` requests not yet answered, `from_` is the first step in which a device that was not aligned transmits again (29 R298), `light` the frames sent in the current step by port and `used` the time in nanoseconds at which each port is free of them, `ackOut` the end-to-end acknowledgements returned in it, and `unacked` frames some of whose packets wait in `reorder`; `seqIn` holds the next number of each session, source and class. -/
structure Gallery where
  devices : Nat := 1
  me      : Nat := 0
  stepNs  : Nat := 2048
  epoch   : Nat := 0
  sn      : Nat := 0
  timeNs  : Nat := 0
  markAt  : Nat := 0
  slow    : Bool := false
  aligned : Bool := true
  from_   : Nat := 0
  missed  : Nat := 0
  caltab  : Tbl (BitVec 16) := []
  lost    : List Nat := []
  out     : List OutPkt := []
  held    : List HeldFrame := []
  credit  : Tbl Nat := []
  owed    : Tbl Nat := []
  hopAcks : Tbl (List FrameId) := []
  seqOut  : Tbl Nat := []
  seqIn   : Tbl Nat := []
  reorder : List Packet := []
  sessions : List Session := []
  xlats   : List RemoteXlat := []
  trackers : List Tracker := []
  waiting : List Packet := []
  serve   : List Packet := []
  reqs    : List Packet := []
  used    : Tbl Nat := []
  light   : List (Nat × GalFrame) := []
  ackOut  : List FrameId := []
  unacked : List (FrameId × List (Nat × Nat)) := []
  unverified : List Nat := []
  gbhome  : Tbl GBar := []
  normHome : Tbl (Tbl W32) := []
  normTot : Tbl W32 := []
deriving DecidableEq, Repr

/-- The command ring (31 R323, R324). `entry` is the entry that is executing while BUSY is 1. -/
structure CmdRing where
  base    : W64 := 0
  en      : Bool := false
  k       : Nat := 4
  wp      : W32 := 0
  rp      : W32 := 0
  overrun : Bool := false
  busy    : Bool := false
  entry   : Nat := 0
deriving DecidableEq, Repr

/-- An attestation report: the host nonce, MR0 to MR7, the device serial, the Gallery session public key, and the signature over them (33 R338). -/
structure Report where
  nonce  : BitVec 384
  mrs    : List (BitVec 384)
  serial : List Byte
  key    : List Byte
  sig    : BitVec 768
deriving DecidableEq, Repr

/-- The management plane (01 R13, 33 R336 to R340): `step` is the bring-up step that the module has reached, `gates` says that all launch gates are held, `pstate` is the power state that Leryn selected (0, 2 or 3) and `p1` lists the dies in P1. `ranges` lists the CXL ranges that the host gave at bring-up (31 R317), `hostOwn` the lines of HBM that the host holds, `hostData` is what its last access read, and `vectors` the interrupts raised (31 R318, R323); `eph` numbers the free value of which the ephemeral session key of this bring-up was made (33 R339). -/
structure Platform where
  power   : Bool := true
  step    : Nat := 1
  gates   : Bool := true
  pstate  : Nat := 0
  p1      : List Nat := []
  mr      : Tbl (BitVec 384) := []
  soft    : Tbl Nat := []
  report  : Option Report := none
  eph     : Option Nat := none
  ranges  : List CxlRange := []
  hostOwn : List Nat := []
  hostData : List Byte := []
  vectors : List Nat := []
deriving DecidableEq, Repr

/-- Which agent moves next, and what arrives from outside: the order that the spec leaves open, as plain data. `event` takes a step that is no instruction word for agent `who`; `issue` lets a scheduler of a core issue; `tick` lets cycles pass. -/
inductive Turn where
  | event (who : Nat) (i : Instr)
  | issue (core sched : Nat)
  | tick (cycles : Nat)
deriving DecidableEq, Repr

/-- Why the machine stops. -/
inductive Fault where
  /-- Raised by a host access to a physical address that lies neither in HBM nor in the sideband window (25 R263, 31 R343): the spec gives such an address no memory. Safe: the model stops where nothing is said to happen. -/
  | unbackedAddress
deriving DecidableEq, Repr

/-- Why a step has no meaning. -/
inductive Refusal where
  /-- Raised by an arm of `exec` that has no meaning yet. Safe: nothing is claimed of the instruction. -/
  | notModelled (mnemonic : String)
deriving DecidableEq, Repr

/-- The machine. `noise` holds, for each boundary, what link errors will do to the next lines that cross it (01 R15); boundaries 0 to 3 lie between dies d and d + 1, and 4 to 7 are the host ports. -/
structure State where
  groups   : Tbl Group
  teams    : Tbl Team
  cores    : Tbl Core
  ctxs     : Tbl Ctx
  tasks    : Tbl Task
  ops      : Tbl EngOp
  hbm      : Memory
  cxl      : Memory
  host     : Memory
  memPoison : List Nat
  noise    : Tbl (List Line)
  comp     : Tbl Line
  llc      : Tbl LlcLine
  dir      : Tbl DirLine
  tlb      : List TlbEntry
  rev      : List RevEntry
  heat     : Tbl Heat
  gal      : Gallery
  ring     : CmdRing
  plat     : Platform
  cycle    : Nat
  who      : Nat
  agenda   : List Turn
  free     : Nat
  nextId   : Nat
  kernelRings : List (Nat × Nat × Nat × W64)
deriving DecidableEq, Repr

/-- The machine right after reset: 48 V has just been accepted (33 R336), no context exists, the gates are held, nothing is cached and nothing is written. The values that the spec does not state are those of the assumption log. -/
def State.reset : State :=
  { groups := [], teams := [], cores := [], ctxs := [], tasks := [], ops := [],
    hbm := [], cxl := [], host := [], memPoison := [], noise := [], comp := [], llc := [], dir := [],
    tlb := [], rev := [], heat := [], gal := {}, ring := {}, plat := {}, cycle := 0,
    who := 0, agenda := [], free := 0, nextId := 1, kernelRings := [] }

end Sys2Proof.Machine
end

