-- ==== Sys2Proof/Machine/Ops.lean ====
section
/-! DEFINITION. The named operations over groups, registers and control: register reads and writes, the active mask, team barriers, the end of a group, taking a trap and returning from one, and the issue of an instruction word with the checks of R101. -/

namespace Sys2Proof.Machine

/-- Trap causes (27 R281). -/
def causeIllegal : Nat := 0x01
def causePrivilege : Nat := 0x02
def causeMisalign : Nat := 0x03
def causeProtection : Nat := 0x04
def causeScaleNan : Nat := 0x05
def causePoison : Nat := 0x06
def causeShareRevoked : Nat := 0x07
def causeBreakpoint : Nat := 0x08
def causeSoftware : Nat := 0x09
def causePreempt : Nat := 0x0A
def causeRemoteError : Nat := 0x0B

/-! ### Records of the state -/

def State.group (s : State) (u : Nat) : Group := tgetD s.groups u {}
def State.setGroup (s : State) (u : Nat) (g : Group) : State := { s with groups := tset s.groups u g }
def State.team (s : State) (t : Nat) : Team := tgetD s.teams t {}
def State.setTeam (s : State) (t : Nat) (x : Team) : State := { s with teams := tset s.teams t x }
def State.core (s : State) (k : Nat) : Core := tgetD s.cores k {}
def State.setCore (s : State) (k : Nat) (x : Core) : State := { s with cores := tset s.cores k x }
def State.ctx (s : State) (c : Nat) : Ctx := tgetD s.ctxs c {}
def State.setCtx (s : State) (c : Nat) (x : Ctx) : State := { s with ctxs := tset s.ctxs c x }
def State.task (s : State) (t : Nat) : Task := tgetD s.tasks t {}
def State.setTask (s : State) (t : Nat) (x : Task) : State := { s with tasks := tset s.tasks t x }
def State.op (s : State) (o : Nat) : Option EngOp := tget s.ops o
def State.setOp (s : State) (o : EngOp) : State := { s with ops := tset s.ops o.id o }

/-- The group whose step is taken. -/
def State.cur (s : State) : Group := s.group s.who
def State.setCur (s : State) (g : Group) : State := s.setGroup s.who g
/-- The team, context and core of a group. -/
def State.teamOf (s : State) (g : Group) : Team := s.team g.team
def State.ctxOf (s : State) (g : Group) : Ctx := s.ctx (s.teamOf g).ctx
def State.coreOf (s : State) (g : Group) : Nat := (s.teamOf g).core
/-- A fresh name for an operation, a team or a group. -/
def State.fresh (s : State) : Nat × State := (s.nextId, { s with nextId := s.nextId + 1 })

/-! ### Registers -/

/-- In a handler mode the names s120 to s127 select the bank of that mode (27 R280). -/
def Group.inBank (g : Group) (n : Nat) : Bool := g.mode != .user && 120 ≤ n && n < 128

/-- Reads a scalar register: s0 reads all ones, s120 to s127 the bank in a handler mode (05 R48, 27 R280). -/
def Group.rs (g : Group) (n : Nat) : W32 :=
  if n = 0 then 0xFFFFFFFF
  else if g.inBank n then (if g.mode == .userHandler then tgetD g.bankU (n - 120) 0 else tgetD g.bankS (n - 120) 0)
  else tgetD g.s n 0

/-- Writes a scalar register and clears its poison; a write to s0 is discarded (05 R48, R49). -/
def Group.ws (g : Group) (n : Nat) (x : W32) : Group :=
  if n = 0 then g
  else if g.inBank n then
    let k := n - 120
    if g.mode == .userHandler then { g with bankU := tset g.bankU k x, bankP := g.bankP &&& ~~~(1#16 <<< k) }
    else { g with bankS := tset g.bankS k x, bankP := g.bankP &&& ~~~(1#16 <<< (k + 8)) }
  else { g with s := tset g.s n x, sp := g.sp &&& ~~~(1#128 <<< n) }

/-- The poison bit of a scalar register (05 R49). -/
def Group.sPoison (g : Group) (n : Nat) : Bool :=
  if n = 0 then false
  else if g.inBank n then g.bankP.getLsbD (n - 120 + (if g.mode == .userHandler then 0 else 8))
  else g.sp.getLsbD n

/-- Sets the poison bit of a scalar register (05 R49). -/
def Group.poisonS (g : Group) (n : Nat) : Group :=
  if n = 0 then g
  else if g.inBank n then { g with bankP := g.bankP ||| (1#16 <<< (n - 120 + (if g.mode == .userHandler then 0 else 8))) }
  else { g with sp := g.sp ||| (1#128 <<< n) }

/-- The 64-bit value of the pair n, n + 1 (21 R223). -/
def Group.rpair (g : Group) (n : Nat) : W64 := g.rs (n + 1) ++ g.rs n
/-- Writes a pair, low word first (21 R223). -/
def Group.wpair (g : Group) (n : Nat) (x : W64) : Group := (g.ws n (x.setWidth 32)).ws (n + 1) (x.extractLsb' 32 32)

/-- A vector register. -/
def Group.rv (g : Group) (n : Nat) : VReg := tgetD g.v n 0
/-- Poison bits of a vector register, one a lane (05 R49). -/
def Group.rvp (g : Group) (n : Nat) : Lanes := tgetD g.vp n 0
/-- Writes `x l` to each lane `l` of `m` of a vector register, clearing its poison (05 R49, 13 R133). -/
def Group.wv (g : Group) (n : Nat) (m : Lanes) (x : Nat → W32) : Group :=
  { g with v := tset g.v n (mapLanes m x (g.rv n)), vp := tset g.vp n (g.rvp n &&& ~~~m) }
/-- Lane `l` of vector register `n`. -/
def Group.rl (g : Group) (n l : Nat) : W32 := lane (g.rv n) l
/-- Writes one lane with its poison bit (09 R88). -/
def Group.wl (g : Group) (n l : Nat) (x : W32) (p : Bool) : Group :=
  { g with v := tset g.v n (setLane (g.rv n) l x),
           vp := tset g.vp n (if p then g.rvp n ||| (1#32 <<< l) else g.rvp n &&& ~~~(1#32 <<< l)) }

/-- A scale register; 0x7F in every byte where nothing is written (03 R24). -/
def Group.rx (g : Group) (n : Nat) : W64 := tgetD g.x n 0x7F7F7F7F7F7F7F7F
/-- Poison bits of a scale register, one a byte (05 R49). -/
def Group.rxp (g : Group) (n : Nat) : Byte := tgetD g.xp n 0
/-- Writes byte `j` of a scale register with its poison bit (05 R49, 09 R88). -/
def Group.wxb (g : Group) (n j : Nat) (x : Byte) (p : Bool) : Group :=
  { g with x := tset g.x n (putBits (g.rx n) (8 * j) x),
           xp := tset g.xp n (if p then g.rxp n ||| (1#8 <<< j) else g.rxp n &&& ~~~(1#8 <<< j)) }
/-- Writes a whole scale register and clears its poison (05 R49). -/
def Group.wx (g : Group) (n : Nat) (x : W64) : Group := { g with x := tset g.x n x, xp := tset g.xp n 0 }

def Group.tile (g : Group) (n : Nat) : Tile := tgetD g.tiles n {}
def Group.acc (g : Group) (n : Nat) : BitVec 524288 := tgetD g.accs n 0
def Group.tok (g : Group) (n : Nat) : Token := tgetD g.tokens n {}
def Group.setTok (g : Group) (n : Nat) (t : Token) : Group := { g with tokens := tset g.tokens n t }
/-- Ors sticky scale flags into XSTAT: bit 0 NANS, 1 RANGE, 2 SAT (05 R56). -/
def Group.flag (g : Group) (f : BitVec 3) : Group := { g with xstat := g.xstat ||| f }

/-! ### The active mask -/

/-- The top entry of the divergence stack. -/
def Group.top (g : Group) : StackEntry := g.stack.headD {}

/-- The current mask: every non-exited lane inside a WIDEN bracket, and in a handler at the depth of its entry; else the top entry's mask (03 R35, 11 R123, 27 R282). -/
def Group.mask (g : Group) : Lanes :=
  let atEntry := match g.mode with
    | .user => false
    | .userHandler => (g.frameU.map (·.depth)) == some g.stack.length
    | .sysHandler => (g.frameS.map (·.depth)) == some g.stack.length
  if g.widen.isSome || atEntry then ~~~g.exited else g.top.mask &&& ~~~g.exited

/-- A group's mask is full when every non-exited lane is active (03 R36). -/
def Group.full (g : Group) : Bool := g.mask == ~~~g.exited

/-- A predicate as a lane set: the scalar register, inverted by PNEG (00 R5). -/
def Group.pred (g : Group) (p : Nat × Bool) : Lanes := if p.2 then ~~~(g.rs p.1) else g.rs p.1

/-- ACTIVE (00 R5). -/
def Group.active' (g : Group) (p : Nat × Bool) : Lanes := g.mask &&& g.pred p

/-- The lowest lane of a set; 0 where it is empty. -/
def lowest (m : Lanes) : Nat := (lanesOf m).headD 0

/-! ### Counters (05 R53) -/

def Group.loads (g : Group) : Nat := (g.pend.filter fun p => p.ctr == .load).length
def Group.stores (g : Group) : Nat := (g.pend.filter fun p => p.ctr == .store).length

/-- Removes what has completed from the front of each counter: operations retire from a counter in issue order (09 R86). -/
def retireOps (l : List PendOp) : List PendOp :=
  let go (c : Ctr) (l : List PendOp) : List PendOp :=
    let first := (l.filter fun p => p.ctr == c && !p.done).head?.map (·.id)
    match first with
    | none => l.filter fun p => p.ctr != c
    | some i => l.filter fun p => p.ctr != c || i ≤ p.id
  go .store (go .load l)

/-- The same for the tile counter. -/
def retireMoves : List TileMove → List TileMove
  | [] => []
  | m :: t => if m.done then retireMoves t else m :: t

/-- The same for the copy counter. -/
def retireCopies : List CopyRef → List CopyRef
  | [] => []
  | m :: t => if m.done then retireCopies t else m :: t

def Group.retire (g : Group) : Group :=
  { g with pend := retireOps g.pend, moves := retireMoves g.moves, copies := retireCopies g.copies }

/-- The copy counter as a wait sees it: in system-handler mode an operation parked on a fault or at pre-emption counts as complete (27 R289). -/
def State.copiesFor (s : State) (g : Group) : Nat :=
  if g.mode == .sysHandler then
    (g.copies.filter fun c => match s.op c.op with | some o => o.status == .running | none => !c.done).length
  else g.copies.length

/-- A token as a wait sees it (05 R53, 27 R289). -/
def State.tokenFor (s : State) (g : Group) (u t : Nat) : Bool :=
  (g.tok t).sig ||
  (g.mode == .sysHandler && (g.tok t).count != 0 &&
    (s.ops.all fun p => !p.2.groups.contains u || p.2.token != t || p.2.status != .running))

/-- Two waits imposed together: the smaller limits and all the tokens (09 R85). -/
def combine (a b : FW) : FW :=
  { wld := if a.wld ≤ b.wld then a.wld else b.wld, wst := if a.wst ≤ b.wst then a.wst else b.wst,
    wcp := if a.wcp ≤ b.wcp then a.wcp else b.wcp, wtl := if a.wtl ≤ b.wtl then a.wtl else b.wtl, tokw := a.tokw ||| b.tokw }

/-- The waits are satisfied: each counter at or below its limit, each named token signalled (09 R83, R85). -/
def State.waitsMet (s : State) (u : Nat) (w : FW) : Bool :=
  let g := s.group u
  (w.wld == 63 || g.loads ≤ w.wld.toNat) && (w.wst == 63 || g.stores ≤ w.wst.toNat) &&
  (w.wcp == 15 || s.copiesFor g ≤ w.wcp.toNat) && (w.wtl == 15 || g.moves.length ≤ w.wtl.toNat) &&
  ((List.range 8).all fun t => !w.tokw.getLsbD t || s.tokenFor g u t)

/-! ### Team barriers (03 R37, R38, R43; 05 R60) -/

def Team.bar (t : Team) (n : Nat) : Barrier :=
  tgetD t.bars n { e := t.nvec + t.nfeed + t.nmtx }

/-- One evaluation of a phase: it completes when arrivals and gone groups reach E; carried arrivals are counted in the next phase and evaluated at once (03 R37). -/
def Barrier.eval (b : Barrier) : Barrier :=
  let once (b : Barrier) : Barrier :=
    if b.e ≤ b.arr.length + b.gone.length then
      { b with phases := b.phases + 1, arr := b.carried, carried := [] }
    else b
  let b1 := once b
  if b1.phases != b.phases && b.carried != [] then once b1 else b1

/-- Group `gid` has retired or been killed: it is gone, its arrival and its carried arrival no longer count (03 R37, R38). -/
def Barrier.goes (b : Barrier) (gid : Nat) : Barrier :=
  { b with gone := ninsert b.gone gid, arr := b.arr.filter (· != gid), carried := b.carried.filter (· != gid) }

/-- A group leaves every barrier of its team as gone, and each phase is evaluated (03 R38). -/
def Team.barsGo (t : Team) (gid : Nat) : Team :=
  { t with bars := (List.range 16).foldl (fun bs n => tset bs n ((tgetD bs n { e := t.nvec + t.nfeed + t.nmtx : Barrier }).goes gid).eval) t.bars }

/-! ### The error record (05 R58) -/

/-- Records an illegal or fatal event of a context: the first fills ERRSTAT and ERRPC, later ones only count. -/
def Ctx.recordErr (c : Ctx) (team gid cause pc : Nat) : Ctx :=
  if c.errstat.getLsbD 63 then
    let n := (getBits c.errstat 16 16).toNat
    { c with errstat := putBits c.errstat 16 (BitVec.ofNat 16 (if n = 0xFFFF then 0xFFFF else n + 1)) }
  else
    { c with errstat := BitVec.ofNat 64 (2 ^ 63 + team % 2 ^ 31 * 2 ^ 32 + 2 ^ 16 + gid % 32 * 2 ^ 8 + cause % 256),
             errpc := BitVec.ofNat 64 (pc % 2 ^ 57) }

/-- Records an event of a group in a cycle: of several events in one cycle the one that counts as first is from the lowest core, then the lowest team, then the lowest gid; all are counted (05 R58). -/
def Ctx.recordAt (c : Ctx) (cycle core team gid cause pc : Nat) : Ctx :=
  let c1 : Ctx := { c.recordErr team gid cause pc with errAt := some cycle }
  if !c.errstat.getLsbD 63 then { c1 with errFirst := some (cycle, core, team, gid) }
  else
    match c.errFirst with
    | some (n, k, t, g) =>
      if n == cycle && (core < k || (core == k && (team < t || (team == t && gid < g)))) then
        { c1 with errFirst := some (cycle, core, team, gid), errpc := BitVec.ofNat 64 (pc % 2 ^ 57),
                  errstat := putBits (putBits (putBits c1.errstat 32 (BitVec.ofNat 31 team)) 8 (BitVec.ofNat 5 gid)) 0 (BitVec.ofNat 8 cause) }
      else c1
    | none => c1

/-- Notes the cycle in which a phase of barrier `n` completes, and whether a write of E completed it (05 R60). -/
def Team.barNoted (t : Team) (n : Nat) (b : Barrier) (cycle : Nat) (write : Bool) : Tbl (Nat × Bool) :=
  if (t.bar n).phases != b.phases then tset t.barDone n (cycle, write) else t.barDone

/-! ### The end of a group -/

/-- What a kill discards: outstanding loads, TLDS, CLDS and TMOV; stores, atomics, TSTS and CSTS are still performed (09 R102). -/
def keepAfterKill (p : PendOp) : Bool :=
  match p.kind with
  | .store | .storeX | .atomic _ _ _ | .stcnd | .lunpin => true
  | _ => false

/-- Arms a post-issue trap with the mask of its violating lanes: what is found of one instruction, lane by lane, is one trap (17 R202; assumption log 26). -/
def Group.arm (g : Group) (cause : Nat) (pc : VA) (m : W32) : Group :=
  let same := fun (a : Armed) => a.cause == cause && a.pc == pc && m != 0 && a.targ != 0 && a.targ &&& m == 0
  if g.armed.any same then { g with armed := g.armed.map fun a => if same a then { a with targ := a.targ ||| m } else a }
  else { g with armed := g.armed ++ [⟨cause, pc, m⟩] }

/-- The group leaves the barriers of its team, and the room it frees in the active set is open (03 R25, R38, R45). -/
def State.groupGone (s : State) (u : Nat) : State :=
  let g := s.group u
  s.setTeam g.team ((s.team g.team).barsGo g.gid)

/-- Kills a group: nothing of it issues again, its reservations are cleared, it counts as arrived everywhere, and the event is recorded (09 R102, 05 R58). -/
def State.kill (s : State) (u cause : Nat) (pc : VA) : State :=
  let g := s.group u
  let t := s.team g.team
  let s1 := s.setGroup u { g with
    status := .killed, clause := none, resv := [], wait := .none, armed := [], product := none, widen := none,
    pend := g.pend.filter keepAfterKill,
    moves := g.moves.filter fun m => m.kind == .tsts || m.kind == .csts }
  let s2 := s1.setCtx t.ctx ((s1.ctx t.ctx).recordAt s.cycle t.core t.linear g.gid cause pc.toNat)
  s2.groupGone u

/-! ### The hidden group block (27 R285, R291, R292) -/

/-- The status code of an operation in flight; one that is cancelled has its status from then on (19 R217, 21 R225). -/
def EngOp.code (o : EngOp) : BitVec 3 :=
  match o.status with
  | .running => 0
  | .parked _ => 2
  | .cancelled => if o.trap.isSome then 4 else 3

/-- The completion record of a token: the operation's that named it last (19 R217, 21 R225). -/
def State.record (s : State) (g : Group) (t : Nat) : BitVec 3 × W32 :=
  let k := g.tok t
  match s.op k.last with
  | some o => (o.code, BitVec.ofNat 32 (min o.oob 0xFFFFFFFF))
  | none => (k.status, k.oob)

/-- The code of a mode in GSTAT (27 R285). -/
def Mode.code : Mode → Nat
  | .user => 0
  | .userHandler => 1
  | .sysHandler => 2

/-- GSTAT (27 R285). -/
def gstatWord (targ : W32) (cause : Nat) (mode : Mode) (utrap wid : Bool) (depth : Nat) : W64 :=
  BitVec.ofNat 64 (targ.toNat * 2 ^ 32 + cause % 256 * 2 ^ 24 + mode.code * 2 ^ 14 + utrap.toNat * 2 ^ 13 + wid.toNat * 2 ^ 12 + min depth 32)

/-- GSTAT as the group reads it. -/
def Group.gstat (g : Group) (c : Ctx) : W64 := gstatWord g.targ g.cause g.mode (c.userEntry != 0) g.widen.isSome g.stack.length

/-- A user trap frame in its 32 bytes of the block, whose layout is the device's own (27 R292; assumption log 20). -/
def packFrame (f : Frame) : Nat :=
  f.pc.toNat + f.inside.toNat * 2 ^ 57 + f.idx % 16 * 2 ^ 58 + f.endsClause.toNat * 2 ^ 62 + f.widen.isSome.toNat * 2 ^ 63 +
  (f.widen.getD 0).toNat * 2 ^ 64 + f.pathCount % 2 ^ 32 * 2 ^ 96 + f.depth % 2 ^ 16 * 2 ^ 128 + f.waits.toWord 0 / 2 ^ 28 * 2 ^ 144 +
  f.hdrWords % 32 * 2 ^ 172 + f.gctl.toNat * 2 ^ 177 + f.seed.isSome.toNat * 2 ^ 179 + (f.seed.getD 0).toNat * 2 ^ 180 + f.cause % 256 * 2 ^ 212

/-- A field of a number. -/
def natField (x lo len : Nat) : Nat := x / 2 ^ lo % 2 ^ len

def unpackFrame (x : Nat) : Frame :=
  { pc := BitVec.ofNat 57 (natField x 0 57), inside := natField x 57 1 == 1, idx := natField x 58 4, endsClause := natField x 62 1 == 1,
    widen := if natField x 63 1 = 1 then some (BitVec.ofNat 32 (natField x 64 32)) else none, pathCount := natField x 96 32,
    depth := natField x 128 16, waits := FW.ofWord (natField x 144 28 * 2 ^ 28), hdrWords := natField x 172 5,
    gctl := BitVec.ofNat 2 (natField x 177 2), seed := if natField x 179 1 = 1 then some (BitVec.ofNat 32 (natField x 180 32)) else none,
    mode := .user, cause := natField x 212 8 }

/-- The pending wait of a group at offset 0x0F0 (27 R292): its kind, the number or mask, the ticket of an RWAIT, else the number of the collective that is read or that the last NRMADD joined, and whether an NRMADD has been issued since the last NRMRD. -/
def waitNat (w : GWait) (norm : Option Nat) : Nat :=
  let last := norm.getD 0 % 2 ^ 32 * 2 ^ 16
  norm.isSome.toNat * 2 ^ 64 +
  (match w with
   | .bar n _ => 1 + n % 256 * 2 ^ 8 + last
   | .barCarry n _ => 1 + n % 256 * 2 ^ 8 + last
   | .rwait r stage full phase => 2 + r % 256 * 2 ^ 8 + (stage % 16 + phase.toNat * 16 + full.toNat * 2 ^ 31) * 2 ^ 16
   | .gbar n _ => 3 + n % 256 * 2 ^ 8 + last
   | .nrmrd j d => 4 + d % 256 * 2 ^ 8 + j.getD 0 % 2 ^ 32 * 2 ^ 16
   | .mirror m _ _ _ _ => 5 + m % 256 * 2 ^ 8 + last
   | _ => last)

/-- A pending ring operation at offsets 0x070 to 0x08F (27 R292). -/
def ringOpNat (o : RingOp) : Nat :=
  o.ring % 8 + (o.stage % 16 + o.phase.toNat * 16) * 2 ^ 3 + o.rel.toNat * 2 ^ 8 + o.tok.isSome.toNat * 2 ^ 9 + o.tok.getD 0 % 8 * 2 ^ 10 + 2 ^ 15

/-- The set of numbers below `n` that satisfy a test. -/
def bitsWhere (n : Nat) (p : Nat → Bool) : Nat := ((List.range n).filter p).foldl (fun a k => a + 2 ^ k) 0

/-- The frame that the block describes: the system frame, or for a group outside the system handler its state now. -/
def Group.frameNow (g : Group) : Frame :=
  match g.mode, g.frameS with
  | .sysHandler, some f => f
  | _, _ =>
    let c : Nat × Nat := match g.clause with | some c => (c.idx, c.words.length) | none => (0, 0)
    { pc := g.pc, inside := g.clause.isSome || g.resume.isSome, idx := if g.clause.isSome then c.1 else g.resume.getD 0,
      hdrWords := c.2, widen := g.widen, pathCount := g.pathCount, waits := if g.clause.isSome then noWait else g.waits,
      depth := g.stack.length, mode := g.mode, cause0 := g.cause, targ0 := g.targ, wait := g.wait }

/-- The fields of the block: offset, bytes, value; all but its CRC (27 R292). -/
def State.blockFields (s : State) (g : Group) (f : Frame) : List (Nat × Nat × Nat) :=
  let t := s.teamOf g
  let c := s.ctxOf g
  let stack := (g.stack.reverse).take 32
  let bars := fun (p : Barrier → Bool) => bitsWhere 16 fun n => match tget t.bars n with | some b => p b | none => false
  [(0x004, 4, 1 + g.gid % 32 * 2 ^ 8), (0x008, 8, f.pc.toNat + f.inside.toNat * 2 ^ 57 + f.idx % 16 * 2 ^ 58), (0x010, 8, f.waits.toWord 0),
   (0x018, 8, (gstatWord f.targ0 f.cause0 f.mode (c.userEntry != 0) f.widen.isSome f.depth).toNat),
   (0x020, 8, g.xstat.toNat), (0x028, 8, g.gctlNext.toNat), (0x030, 8, g.mprog.toNat),
   (0x038, 8, g.pathq.toNat + f.pathCount % 2 ^ 32 * 2 ^ 32), (0x040, 8, g.engseq.toNat), (0x048, 4, g.calls.toNat), (0x04C, 4, g.key.toNat),
   (0x050, 4, g.loads % 64 + g.stores % 64 * 2 ^ 8 + g.copies.length % 16 * 2 ^ 16 + g.moves.length % 16 * 2 ^ 24),
   (0x054, 4, ((List.range 8).map fun k => (g.tok k).count.toNat * 16 ^ k).foldl (· + ·) 0), (0x058, 1, bitsWhere 8 fun k => (g.tok k).sig),
   (0x05A, 2, bars fun b => b.arr.contains g.gid), (0x05C, 2, match f.wait with | .gbar n _ => 2 ^ (n % 16) | _ => 0), (0x05E, 2, bars fun b => b.carried.contains g.gid),
   (0x060, 8, f.widen.isSome.toNat * 2 ^ 32 + (f.widen.getD 0).toNat), (0x068, 8, min g.stack.length 32 + (g.stack.length - 32) % 2 ^ 16 * 2 ^ 16),
   (0x090, 32, if f.mode == .userHandler then (match g.frameU with | some u => packFrame u | none => 0) else 0), (0x0F0, 16, waitNat f.wait g.norm),
   (0xA00, 16, g.sp.toNat), (0xA10, 2, g.tp.toNat), (0xA12, 1, g.cp.toNat)] ++
  ((g.ringOps.take 4).zipIdx.map fun o => (0x070 + 8 * o.2, 8, ringOpNat o.1)) ++
  ((List.range 8).map fun k => (0x0B0 + 4 * k, 4, (tgetD g.s (120 + k) 0).toNat)) ++
  ((List.range 8).map fun k => (0x0D0 + 4 * k, 4, (tgetD g.bankU k 0).toNat)) ++
  (stack.zipIdx.map fun e => (0x100 + 32 * e.2, 32, e.1.pc.toNat + e.1.rcv.toNat * 2 ^ 64 + e.1.mask.toNat * 2 ^ 128)) ++
  (g.vp.map fun p => (0x500 + 4 * p.1, 4, p.2.toNat)) ++ (g.xp.map fun p => (0x900 + p.1, 1, p.2.toNat)) ++
  ((List.range 8).map fun k => let r := s.record g k; (0xA40 + 8 * k, 8, r.2.toNat + r.1.toNat * 2 ^ 32)) ++
  (g.tiles.map fun p => (0xAC0 + 4 * p.1, 4, p.2.shape.toNat))

/-- A block from its fields. -/
def hiddenOf (l : List (Nat × Nat × Nat)) : BitVec 32768 := BitVec.ofNat 32768 (l.foldl (fun a x => a + x.2.2 % 256 ^ x.2.1 * 256 ^ x.1) 0)

/-! ### Taking a trap and returning from it (27 R280 to R285) -/

/-- Where the handler resumes: a word inside the clause at header `pc`, or a boundary. -/
structure ResumeAt where
  pc     : VA
  inside : Bool
  idx    : Nat
  words  : Nat
deriving DecidableEq, Repr

/-- The user handler takes user-level causes in user mode where one is installed; the system handler takes BREAKPOINT and PREEMPT in user and user-handler mode; anything else kills (27 R281, R284). -/
def handlerFor (g : Group) (c : Ctx) (cause : Nat) : Option Mode :=
  if cause = causeIllegal ∨ cause = causePrivilege then none
  else match g.mode with
    | .sysHandler => none
    | .userHandler => if cause = causeBreakpoint ∨ cause = causePreempt then some .sysHandler else none
    | .user => if cause = causeBreakpoint ∨ cause = causePreempt then some .sysHandler
               else if c.userEntry = 0 then none else some .userHandler

/-- The save base of a group: SAVEB + (33 t + g) × SAVESZ (27 R291). -/
def saveBase (c : Ctx) (team gid : Nat) : Nat := c.saveb + (33 * team + gid) * (c.savesz * 4096)

/-- The bank at handler entry (27 R280): offending PC, TARG, cause, and the save base for the system handler. -/
def entryBank (pc : VA) (targ : W32) (cause base : Nat) : Tbl W32 :=
  [(0, pc.setWidth 32), (1, (pc.setWidth 64).extractLsb' 32 32), (2, targ), (3, BitVec.ofNat 32 cause),
   (4, BitVec.ofNat 32 base), (5, BitVec.ofNat 32 (base / 2 ^ 32)), (6, 0), (7, 0)]

/-- Takes a trap for a group: the frame saves the resume point, the WIDEN state, the path count and, at a boundary, the combined waits; the bank and GSTAT name the trap; the group goes on at the handler's entry under every non-exited lane (27 R280, R282, R285). Without a handler the group is killed with the cause (R281). -/
def State.trap (s : State) (u cause : Nat) (targ : W32) (pc : VA) (r : ResumeAt) : State :=
  let g := s.group u
  let t := s.team g.team
  let c := s.ctx t.ctx
  match handlerFor g c cause with
  | none => s.kill u cause pc
  | some m =>
    let f : Frame := { pc := r.pc, inside := r.inside, idx := r.idx, hdrWords := r.words,
                       endsClause := decide (r.words ≤ r.idx + 1), widen := g.widen, pathCount := g.pathCount,
                       waits := if r.inside then noWait else g.waits, gctl := g.gctl, seed := if r.inside then g.seed else none, depth := g.stack.length,
                       mode := g.mode, cause := cause, wait := if cause = causePreempt then g.wait else .none,
                       cause0 := g.cause, targ0 := g.targ }
    let g1 := { g with mode := m, widen := none, clause := none, resume := none, bpSkip := false,
                       waits := if r.inside then g.waits else noWait,
                       gctl := g.gctlNext, targ := targ, cause := cause, wait := .none, product := none }
    let g2 := match m with
      | .userHandler => { g1 with frameU := some f, bankU := entryBank pc targ cause 0, bankP := g1.bankP &&& 0xFF00,
                                  pc := BitVec.ofNat 57 c.userEntry }
      | _ => { g1 with frameS := some { f with block := hiddenOf (s.blockFields { g with frameS := none } f), tokens := g.tokens, copies := g.copies, ringOps := g.ringOps, norm := g.norm }, bankS := entryBank pc targ cause (saveBase c t.linear g.gid),
                       bankP := g1.bankP &&& 0x00FF, saved := false, staged := none, pc := BitVec.ofNat 57 c.sysEntry }
    s.setGroup u g2

/-- The frame of the mode that a group runs in (27 R282). -/
def Group.frame (g : Group) : Option Frame :=
  match g.mode with
  | .user => none
  | .userHandler => g.frameU
  | .sysHandler => g.frameS

/-- Returns from a handler: mode, mask, WIDEN state, path count and, at a boundary, the combined waits come from the frame; `.skip` goes on after the trapping word, which for a TRAP is where it resumes anyway (11 R131, 27 R283). -/
def Group.returnFrom (g : Group) (f : Frame) (skip : Bool) : Group :=
  let next : VA := f.pc + BitVec.ofNat 57 (8 * (f.hdrWords + 1))
  let here : VA × Option Nat :=
    if !f.inside then (f.pc, none)
    else if !skip || f.cause == causeSoftware then (f.pc, some f.idx)
    else if f.endsClause then (next, none)
    else (f.pc, some (f.idx + 1))
  let g1 := { g with mode := f.mode, widen := f.widen, pathCount := f.pathCount, clause := none,
                     pc := here.1, resume := here.2, waits := if f.inside then g.waits else f.waits,
                     gctl := if f.inside then f.gctl else g.gctlNext, seed := if f.inside then f.seed else none,
                     bpSkip := f.cause == causeBreakpoint, wait := f.wait }
  match g.mode with
  | .userHandler => { g1 with frameU := none }
  | _ => { g1 with frameS := none, saved := false, staged := none }

/-! ### The issue of an instruction word (09 R89, R90, R101) -/

/-- What an instruction does once it has passed the checks. -/
inductive Eff where
  /-- Its effect is taken and the clause goes on. -/
  | done (s : State)
  /-- Its effect is taken and the group goes on at the clause header `pc`. -/
  | goto (s : State) (pc : VA)
  /-- It does not issue now: the group tries again. -/
  | stall (s : State)
  /-- It traps before it changes any state. -/
  | trap (cause : Nat) (targ : W32)
  /-- It traps before it changes any state of its group; the fault log has the record of the violation (25 R267). -/
  | fail (s : State) (cause : Nat) (targ : W32)
  /-- It traps after its effect, and resumes after itself (11 R131). -/
  | soft (s : State) (cause : Nat) (targ : W32)
  /-- It is an illegal use or otherwise kills its group. -/
  | kill (cause : Nat)
  /-- Its effect is taken, and the group has left its clause with it. -/
  | leave (s : State)

/-- The address of the word that issues next. -/
def wordPc (g : Group) (c : Clause) : VA := g.pc + BitVec.ofNat 57 (8 * (c.idx + 1))
/-- The header of the next clause in sequence (09 R82). -/
def nextHeader (g : Group) (c : Clause) : VA := g.pc + BitVec.ofNat 57 (8 * (c.words.length + 1))

/-- The role may issue the instruction (03 R18). -/
def roleOk (i : Info) (r : Role) : Bool :=
  match r with
  | .vector => i.vector
  | .feed => i.feed
  | .matrix => i.matrix

/-- Every register named lies within the group's allocation; in a handler mode s120 to s127 always do (27 R280); only MATRIX groups have tiles and accumulators (05 R48). -/
def regsOk (i : Info) (g : Group) : Bool :=
  (!i.mtxFam || g.role == .matrix) &&
  ((i.sr ++ i.sd ++ i.sw ++ i.sn).all fun n => n < g.ns || g.inBank n) && ((i.vr ++ i.vd ++ i.vw).all (· < g.nv)) &&
  ((i.xr ++ i.xw).all (· < g.nx)) && (i.cr.all (· < g.na))

/-- Checks 3 to 11 of R101, the part that no instruction's own description adds: the cause of the first that fails. -/
def checkWord (i : Info) (g : Group) (c : Clause) : Option Nat :=
  if !(i.isWord && i.mbz) then some causeIllegal
  else if !(i.cls == none || i.cls == some c.hdr.cls) then some causeIllegal
  else if (i.pos == .last && c.idx + 1 != c.words.length) || (i.pos == .first && c.idx != 0) then some causeIllegal
  else if g.mode != .sysHandler && !roleOk i g.role then some causeIllegal
  else if i.priv && g.mode != .sysHandler then some causePrivilege
  else if !(regsOk i g && i.sysOk) then some causeIllegal
  else if !i.valid then some causeIllegal
  else if i.mtxFam && !g.full && g.widen.isNone then some causeIllegal
  else if !i.legal then some causeIllegal
  else none

/-- Some unit that the instruction reads is poisoned (05 R49, 13 R136); with an empty ACTIVE nothing is read (03 R34, 13 R133). -/
def readsPoison (i : Info) (g : Group) : Bool :=
  let act := g.active' i.pred
  let data := !(i.store && g.mode == .sysHandler)
  (act != 0 &&
    (g.sPoison i.pred.1 || (i.sr.any g.sPoison) || (data && i.sd.any g.sPoison) ||
     (!i.ownPoison && ((i.vr.any fun n => g.rvp n &&& act != 0) || (data && i.vd.any fun n => g.rvp n &&& act != 0) ||
       (data && i.xr.any fun n => g.rxp n != 0)))))

/-- Ends the clause: a write of GCTL takes effect for the next clause (05 R57); YLD or YIELD ends the run of clauses that the scheduler lets one group issue (03 R26, 11 R125). -/
def Group.endClause (g : Group) (c : Clause) (pc : VA) : Group :=
  { g with pc := pc, clause := none, resume := none, gctl := g.gctlNext, bpSkip := false, fetchSince := none,
           streak := if c.hdr.yld || g.yielded then 0 else g.streak + 1, yielded := false }

/-- The word has issued: the clause goes on at the next word, or ends after its last (09 R82, R89). -/
def advance (s : State) (u : Nat) (c : Clause) : State :=
  let g := s.group u
  if g.status != .live then s
  else if c.idx + 1 < c.words.length then
    s.setGroup u { g with clause := some { c with idx := c.idx + 1 }, bpSkip := false, fetchSince := none }
  else s.setGroup u (g.endClause c (nextHeader g c))

/-- Whether a group parked at an instruction may issue it again (17 R197, R202; 25 R270). -/
inductive Park where
  | free | blocked | failed
deriving DecidableEq, Repr

/-- What became of a fault record: `some false` released with RETRY, `some true` with FAIL (25 R270). -/
def State.recordReleased (s : State) (g : Group) (rec : Nat) : Option Bool :=
  ((s.ctxOf g).released.find? fun p => p.1 == rec).map (·.2)

/-- Some lane of the group's outstanding accesses waits for the replay of a fault (17 R202). -/
def Group.faultParked (g : Group) : Bool := g.pend.any fun p => p.lanes.any fun a => a.fault.isSome

/-- A lane of an outstanding access names the Gallery remote window (17 R183). -/
def LaneAcc.remote (a : LaneAcc) (p : PendOp) : Bool := !p.spad && a.addr / 2 ^ 56 % 2 == 1

/-- An acquire of device scope or wider, share scope included, holds the group's later instructions until it has completed (15 R166). -/
def Group.acqHeld (g : Group) : Bool :=
  g.pend.any fun p => p.acq && !p.done && !p.spad && (2 ≤ p.scope || p.lanes.any fun a => a.remote p)

/-- The park of a group at the instruction under way. -/
def State.parkOf (s : State) (g : Group) : Park :=
  match g.wait with
  | .fault => if g.faultParked then .blocked else .free
  | .spillFault (some r) => match s.recordReleased g r with | none => .blocked | some false => .free | some true => .failed
  | .opFault r => match s.recordReleased g r with | none => .blocked | some false => .free | some true => .failed
  | .barCarry n u => if u ≤ ((s.teamOf g).bar n).phases then .free else .blocked
  | .product => .blocked
  | .record _ _ => .blocked
  | .parked => .blocked
  | .tretResume _ => .blocked
  | .regroup => .blocked
  | _ => .free

/-- The group whose word is issued, once the word is counted on the current path and the park at it is over (03 R33; 33 R332). -/
def Group.issuing (g : Group) : Group := { g with pathCount := g.pathCount + 1, wait := .none, issued := true }

/-- Issues one instruction word for the group `s.who` (09 R101): the checks in order, then `illegal`, then the poison of what it reads and `poison`, then its effect. A machine in which no group has a clause under way issues nothing, and a group parked at the word issues it when its park ends; where the host failed the access, the word is not performed and the group traps: at once, or, for an access of user code found wanting after issue, at its next clause (17 R202, 25 R270). The group counts the instructions it issues on the current path (03 R33). -/
def issue (i : Info) (illegal : State → Group → Bool) (poison : State → Group → Bool) (eff : State → Group → Eff) (s : State) :
    Host.Outcome State Fault Refusal :=
  let g := s.cur
  match g.status, g.clause with
  | .live, some c =>
   if g.acqHeld then .next s else
   match s.parkOf g with
   | .blocked => .next s
   | .failed =>
     match g.wait with
     | .opFault _ =>
       if i.priv then .next (s.trap s.who causeProtection 0 (wordPc g c) ⟨g.pc, true, c.idx, c.words.length⟩)
       else .next (advance (s.setCur { g with wait := .none, pathCount := g.pathCount + 1, armed := g.armed ++ [⟨causeProtection, wordPc g c, 0⟩] }) s.who c)
     | _ => .next (s.trap s.who causeProtection 0 (wordPc g c) ⟨g.pc, true, c.idx, c.words.length⟩)
   | .free =>
    match checkWord i g c with
    | some cause => .next (s.kill s.who cause (wordPc g c))
    | none =>
      if illegal s g then .next (s.kill s.who causeIllegal (wordPc g c))
      else if readsPoison i g || poison s g then
        .next (s.trap s.who causePoison 0 (wordPc g c) ⟨g.pc, true, c.idx, c.words.length⟩)
      else
        let s1 := s.setCur g.issuing
        match eff s1 s1.cur with
        | .done s2 => .next (advance s2 s.who c)
        | .goto s2 pc =>
          .next (let g2 := s2.group s.who
                 if g2.status == .live then s2.setGroup s.who (g2.endClause c pc) else s2)
        | .stall s2 => .next (s2.setGroup s.who { s2.group s.who with pathCount := g.pathCount, issued := g.issued || (s2.group s.who).product.isSome })
        | .trap cause targ => .next (s.trap s.who cause targ (wordPc g c) ⟨g.pc, true, c.idx, c.words.length⟩)
        | .fail s2 cause targ => .next ((s2.setCur g).trap s.who cause targ (wordPc g c) ⟨g.pc, true, c.idx, c.words.length⟩)
        | .soft s2 cause targ =>
          .next (s2.trap s.who cause targ (wordPc g c)
            (if c.idx + 1 < c.words.length then ⟨g.pc, true, c.idx + 1, c.words.length⟩ else ⟨nextHeader g c, false, 0, c.words.length⟩))
        | .kill cause => .next (s.kill s.who cause (wordPc g c))
        | .leave s2 => .next s2
  | _, _ => .next s

/-- No illegal use or poison of an instruction's own. -/
def never (_ : State) (_ : Group) : Bool := false

/-- An effect that happens once for the group, and only when ACTIVE is non-empty (03 R34, 13 R133). -/
def whenActive (i : Info) (f : State → Group → Eff) (s : State) (g : Group) : Eff :=
  if g.active' i.pred = 0 then .done s else f s g

/-- An effect on the issuing group's own registers alone. -/
def onGroup (f : Group → Group) (s : State) (g : Group) : Eff := .done (s.setCur (f g))

end Sys2Proof.Machine
end

