-- ==== Sys2Proof/Machine/Digest.lean ====
section
/-! DEFINITION. The cryptographic functions that the manual names: SHA-384, HMAC and HKDF with it, and the curve P-384 with ECDH and ECDSA (33_debug_platform.md R336, R338, R339). -/

namespace Sys2Proof.Machine

/-! ### SHA-384 -/

/-- The round constants: the first 64 bits of the fractional parts of the cube roots of the first 80 primes. -/
def shaK : List W64 :=
  [0x428A2F98D728AE22, 0x7137449123EF65CD, 0xB5C0FBCFEC4D3B2F, 0xE9B5DBA58189DBBC,
   0x3956C25BF348B538, 0x59F111F1B605D019, 0x923F82A4AF194F9B, 0xAB1C5ED5DA6D8118,
   0xD807AA98A3030242, 0x12835B0145706FBE, 0x243185BE4EE4B28C, 0x550C7DC3D5FFB4E2,
   0x72BE5D74F27B896F, 0x80DEB1FE3B1696B1, 0x9BDC06A725C71235, 0xC19BF174CF692694] ++
  [0xE49B69C19EF14AD2, 0xEFBE4786384F25E3, 0x0FC19DC68B8CD5B5, 0x240CA1CC77AC9C65,
   0x2DE92C6F592B0275, 0x4A7484AA6EA6E483, 0x5CB0A9DCBD41FBD4, 0x76F988DA831153B5,
   0x983E5152EE66DFAB, 0xA831C66D2DB43210, 0xB00327C898FB213F, 0xBF597FC7BEEF0EE4,
   0xC6E00BF33DA88FC2, 0xD5A79147930AA725, 0x06CA6351E003826F, 0x142929670A0E6E70] ++
  [0x27B70A8546D22FFC, 0x2E1B21385C26C926, 0x4D2C6DFC5AC42AED, 0x53380D139D95B3DF,
   0x650A73548BAF63DE, 0x766A0ABB3C77B2A8, 0x81C2C92E47EDAEE6, 0x92722C851482353B,
   0xA2BFE8A14CF10364, 0xA81A664BBC423001, 0xC24B8B70D0F89791, 0xC76C51A30654BE30,
   0xD192E819D6EF5218, 0xD69906245565A910, 0xF40E35855771202A, 0x106AA07032BBD1B8] ++
  [0x19A4C116B8D2D0C8, 0x1E376C085141AB53, 0x2748774CDF8EEB99, 0x34B0BCB5E19B48A8,
   0x391C0CB3C5C95A63, 0x4ED8AA4AE3418ACB, 0x5B9CCA4F7763E373, 0x682E6FF3D6B2B8A3,
   0x748F82EE5DEFB2FC, 0x78A5636F43172F60, 0x84C87814A1F0AB72, 0x8CC702081A6439EC,
   0x90BEFFFA23631E28, 0xA4506CEBDE82BDE9, 0xBEF9A3F7B2C67915, 0xC67178F2E372532B] ++
  [0xCA273ECEEA26619C, 0xD186B8C721C0C207, 0xEADA7DD6CDE0EB1E, 0xF57D4F7FEE6ED178,
   0x06F067AA72176FBA, 0x0A637DC5A2C898A6, 0x113F9804BEF90DAE, 0x1B710B35131C471B,
   0x28DB77F523047D84, 0x32CAAB7B40C72493, 0x3C9EBE0A15C9BEBC, 0x431D67C49C100D4C,
   0x4CC5D4BECB3E42B6, 0x597F299CFC657E2A, 0x5FCB6FAB3AD6FAEC, 0x6C44198C4A475817]

/-- The initial hash value of SHA-384: of the square roots of the ninth to the sixteenth prime. -/
def shaInit : List W64 :=
  [0xCBBB9D5DC1059ED8, 0x629A292A367CD507, 0x9159015A3070DD17, 0x152FECD8F70E5939,
   0x67332667FFC00B31, 0x8EB44A8768581511, 0xDB0C2E0D64F98FA7, 0x47B5481DBEFA4FA4]

def rotr (x : W64) (n : Nat) : W64 := x.rotateRight n

/-- The message schedule: the block's 16 words and the `n` that follow from them, latest first. -/
def shaWords (block : List W64) : Nat → List W64
  | 0 => block.reverse
  | n + 1 =>
    let w := shaWords block n
    let at_ (k : Nat) : W64 := (w[k]?).getD 0
    let s0 := rotr (at_ 14) 1 ^^^ rotr (at_ 14) 8 ^^^ (at_ 14 >>> 7)
    let s1 := rotr (at_ 1) 19 ^^^ rotr (at_ 1) 61 ^^^ (at_ 1 >>> 6)
    (s1 + at_ 6 + s0 + at_ 15) :: w

/-- One round on the eight working variables, with the sum of its constant and its word. -/
def shaRound (h : List W64) (kw : W64) : List W64 :=
  match h with
  | [a, b, c, d, e, f, g, i] =>
    let t1 := i + (rotr e 14 ^^^ rotr e 18 ^^^ rotr e 41) + ((e &&& f) ^^^ (~~~e &&& g)) + kw
    let t2 := (rotr a 28 ^^^ rotr a 34 ^^^ rotr a 39) + ((a &&& b) ^^^ (a &&& c) ^^^ (b &&& c))
    [t1 + t2, a, b, c, d + t1, e, f, g]
  | l => l

/-- One block. -/
def shaBlock (h block : List W64) : List W64 :=
  List.zipWith (· + ·) h ((List.zipWith (· + ·) shaK (shaWords block 64).reverse).foldl shaRound h)

/-- A number of bytes, most significant first. -/
def bigNat (l : List Byte) : Nat := l.foldl (fun n b => n * 256 + b.toNat) 0
/-- The `n` bytes of a number, most significant first. -/
def bigBytes (n x : Nat) : List Byte := (bytesOf n x).reverse

/-- The padded message: a one bit, zeros, and the length in 128 bits. -/
def shaPad (m : List Byte) : List Byte :=
  m ++ [0x80] ++ List.replicate ((239 - m.length % 128) % 128) 0 ++ bigBytes 16 (8 * m.length)

/-- SHA-384 of a list of bytes. -/
def sha384 (m : List Byte) : BitVec 384 :=
  let p := shaPad m
  let h := (List.range (p.length / 128)).foldl (fun h i => shaBlock h ((List.range 16).map fun j => BitVec.ofNat 64 (bigNat ((p.drop (128 * i + 8 * j)).take 8)))) shaInit
  BitVec.ofNat 384 ((h.take 6).foldl (fun n w => n * 2 ^ 64 + w.toNat) 0)

/-- The bytes of a digest, most significant first. -/
def digestBytes (x : BitVec 384) : List Byte := bigBytes 48 x.toNat

/-! ### HMAC and HKDF -/

/-- HMAC with SHA-384, of a key of at most 128 bytes. -/
def hmac384 (key m : List Byte) : BitVec 384 :=
  let k := key ++ List.replicate (128 - key.length) 0
  sha384 (k.map (· ^^^ 0x5C) ++ digestBytes (sha384 (k.map (· ^^^ 0x36) ++ m)))

/-- The first 48 bytes that HKDF with SHA-384 and no salt gives for a secret and an info. -/
def hkdf384 (secret info : List Byte) : List Byte :=
  let prk := hmac384 (List.replicate 48 0) secret
  digestBytes (hmac384 (digestBytes prk) (info ++ [1]))

/-! ### P-384 -/

/-- The prime of the curve y^2 = x^3 - 3x + b, and the order of its base point. -/
def curveP : Nat := 2 ^ 384 - 2 ^ 128 - 2 ^ 96 + 2 ^ 32 - 1
def curveB : Nat := 0xB3312FA7E23EE7E4988E056BE3F82D19181D9C6EFE8141120314088F5013875AC656398D8A2ED19D2A85C8EDD3EC2AEF
def curveN : Nat := 0xFFFFFFFFFFFFFFFFFFFFFFFFFFFFFFFFFFFFFFFFFFFFFFFFC7634D81F4372DDF581A0DB248B0A77AECEC196ACCC52973
/-- A point: its coordinates, or none at infinity. -/
abbrev Point := Option (Nat × Nat)
def curveG : Point := some (0xAA87CA22BE8B05378EB1C71EF320AD746E1D3B628BA79B9859F741E082542A385502F25DBF55296C3A545E3872760AB7, 0x3617DE4A96262C6F5D9E98BF9292DC29F8F41DBD289A147CE9DA3113B5F0B8C00A60B1CE1D7E819D7A431D7C90EA0E5F)

/-- `x` to the power of the low `n` bits of `e`, modulo `m`. -/
def powMod (m x e : Nat) : Nat → Nat
  | 0 => 1
  | n + 1 => let r := powMod m x (e / 2) n; if e % 2 = 1 then r * r % m * x % m else r * r % m
/-- The inverse modulo a prime below 2^384. -/
def invMod (m x : Nat) : Nat := powMod m (x % m) (m - 2) 384
/-- A difference modulo `m`. -/
def subMod (m a b : Nat) : Nat := (a % m + (m - b % m)) % m

/-- The sum of two points. -/
def pointAdd : Point → Point → Point
  | none, q => q
  | p, none => p
  | some (x1, y1), some (x2, y2) =>
    if x1 = x2 && (y1 + y2) % curveP = 0 then none
    else
      let l := if x1 = x2 then subMod curveP (3 * x1 * x1) 3 * invMod curveP (2 * y1) % curveP else subMod curveP y2 y1 * invMod curveP (subMod curveP x2 x1) % curveP
      let x := subMod curveP (l * l) (x1 + x2)
      some (x, subMod curveP (l * subMod curveP x1 x) y1)

/-- `k` times a point, over the low `n` bits of `k`. -/
def pointMul (p : Point) (k : Nat) : Nat → Point
  | 0 => none
  | n + 1 => let r := pointMul p (k / 2) n; let d := pointAdd r r; if k % 2 = 1 then pointAdd d p else d

/-- The bytes of a public key: its coordinates, most significant byte first (assumption log 5). -/
def keyBytes (p : Point) : List Byte := let q := p.getD (0, 0); bigBytes 48 q.1 ++ bigBytes 48 q.2
/-- The point of a public key of 96 bytes. -/
def keyPoint (l : List Byte) : Point := some (bigNat (l.take 48), bigNat ((l.drop 48).take 48))

/-- A private key from a free value: 1 to the order less one. -/
def privateKey (n : Nat) : Nat := Config.freeNat n % (curveN - 1) + 1
/-- The public key of a private key. -/
def publicKey (d : Nat) : Point := pointMul curveG d 384
/-- The ECDH shared secret: the x coordinate. -/
def ecdh (d : Nat) (q : Point) : List Byte := bigBytes 48 ((pointMul q d 384).getD (0, 0)).1
/-- The ECDSA signature of a digest under a private key, with the nonce `k`: r and s (33 R338). -/
def ecdsa (d k : Nat) (z : BitVec 384) : BitVec 768 :=
  let r := ((pointMul curveG k 384).getD (0, 0)).1 % curveN
  BitVec.ofNat 768 (r * 2 ^ 384 + invMod curveN k * ((z.toNat + r * d) % curveN) % curveN)

end Sys2Proof.Machine
end

