-- ==== Sys2Proof/Machine/Phys.lean ====
section
/-! DEFINITION. Physical memory with sidebands, line checks, addresses with the homes and device indices that they select, and page tables (01_organisation.md R6 to R15; 15_memory_model.md R159; 25_translation.md R261 to R266; 31 R343). -/

namespace Sys2Proof.Machine

/-! ### Physical memory -/

/-- What a byte of memory that nothing has written reads as: zero, and 0x7F for a sideband byte (31 R343; assumption log 1). `side` is where the sideband bytes begin. -/
def unwritten (side a : Nat) : Byte := if a < side then 0 else 0x7F

/-- Reads one byte of a memory. -/
def mread (side : Nat) : Memory → Nat → Byte
  | [], a => unwritten side a
  | (k, b) :: t, a => if k = a then b else mread side t a

/-- Writes one byte and keeps the canonical form: a byte equal to what an unlisted address reads as is not listed. -/
def mwrite (side : Nat) : Memory → Nat → Byte → Memory
  | [], a, b => if b = unwritten side a then [] else [(a, b)]
  | (k, c) :: t, a, b =>
    if a < k then (if b = unwritten side a then (k, c) :: t else (a, b) :: (k, c) :: t)
    else if a = k then (if b = unwritten side a then t else (a, b) :: t)
    else (k, c) :: mwrite side t a b

/-- The canonical form: addresses strictly rising, and no entry equal to what an unlisted address reads as. -/
def memWf (side : Nat) : Memory → Bool
  | [] => true
  | [(a, b)] => b != unwritten side a
  | (a, b) :: (k, c) :: t => b != unwritten side a && a < k && memWf side ((k, c) :: t)

/-- `n` bytes from address `a` on, as a little-endian number (00 R1). -/
def mreadN (side : Nat) (m : Memory) (a n : Nat) : Nat := ofBytes ((List.range n).map fun k => mread side m (a + k))
/-- Writes the little-endian bytes of a list from address `a` on. -/
def mwriteL (side : Nat) : Memory → Nat → List Byte → Memory
  | m, _, [] => m
  | m, a, b :: t => mwriteL side (mwrite side m a b) (a + 1) t

/-- Where the sideband bytes of HBM begin: 1 TiB (31 R343). -/
def hbmSide : Nat := 2 ^ 40
/-- Where the shadow sidebands of the CXL tier are kept (25 R266). -/
def cxlSide : Nat := 2 ^ 42
/-- Host memory and scratchpads have no sideband. -/
def noSide : Nat := 2 ^ 64

/-- Byte `j` of a line. -/
def lineByte (l : Line) (j : Nat) : Byte := getBits l (8 * j) 8
/-- A line from its 136 bytes. -/
def lineOf (f : Nat → Byte) : Line := BitVec.ofNat 1088 (ofBytes ((List.range 136).map f))
/-- The bytes of a mask taken from `new`, the others from `old` (15 R158). -/
def mergeLine (m : LineMask) (new old : Line) : Line := lineOf fun j => if m.getLsbD j then lineByte new j else lineByte old j
/-- The mask of `n` bytes from byte `j` on. -/
def byteMask (j n : Nat) : LineMask := BitVec.ofNat 136 ((2 ^ n - 1) * 2 ^ j)
/-- All 136 bytes. -/
def fullMask : LineMask := BitVec.allOnes 136
/-- `n` bytes of a line from byte `j` on, as a number. -/
def lineNat (l : Line) (j n : Nat) : Nat := l.toNat / 2 ^ (8 * j) % 2 ^ (8 * n)
/-- A line with the `n` bytes from byte `j` on replaced. -/
def lineSet (l : Line) (j n x : Nat) : Line := mergeLine (byteMask j n) (BitVec.ofNat 1088 (x * 2 ^ (8 * j))) l

/-- The physical address of byte `j` of the line at `pa`: data, then sideband (31 R343, 25 R266). -/
def physByte (side pa j : Nat) : Nat := if j < 128 then pa / 128 * 128 + j else side + 8 * (pa / 128) + (j - 128)

/-- A line as memory holds it. -/
def physRead (side : Nat) (m : Memory) (pa : Nat) : Line := lineOf fun j => mread side m (physByte side pa j)
/-- Writes the masked bytes of a line. -/
def physWrite (side : Nat) (m : Memory) (pa : Nat) (mask : LineMask) (l : Line) : Memory :=
  (List.range 136).foldl (fun m j => if mask.getLsbD j then mwrite side m (physByte side pa j) (lineByte l j) else m) m

/-! ### Line checks (01 R14) -/

/-- CRC-32C (01 R14): one byte. -/
def crcByte (c : W32) (b : Byte) : W32 :=
  (List.range 8).foldl (fun c _ => if c.getLsbD 0 then (c >>> 1) ^^^ 0x82F63B78 else c >>> 1) (c ^^^ b.setWidth 32)
/-- CRC-32C of a list of bytes (01 R14). -/
def crc32c (l : List Byte) : W32 := ~~~(l.foldl crcByte 0xFFFFFFFF)
/-- The 32-bit check that a line carries, over its 128 data bytes followed by its 8 sideband bytes: the device never holds a line without a valid one, so the check of a held line is this function of it (01 R14, R15; assumption log 15). -/
def lineCheck (l : Line) : W32 := crc32c ((List.range 136).map (lineByte l))

/-! ### Addresses, homes and device indices (01 R8, R9; 15 R159; 25 R261) -/

/-- The home die of a VA (15 R159). -/
def homeDie (va : Nat) : Nat := (va / 2 ^ 21 % 4) ^^^ (va / 2 ^ 23 % 4)
/-- The device slice of the home translation (25 R264). -/
def xlateSlice (va : Nat) : Nat :=
  8 * homeDie va + ((va / 2 ^ 24 % 8) ^^^ (va / 2 ^ 27 % 8) ^^^ (va / 2 ^ 30 % 8))
/-- The home slice of a VA within its home die (15 R159). -/
def homeSlice (va : Nat) : Nat := ((va / 2 ^ 7 % 16) ^^^ (va / 2 ^ 11 % 16)) ^^^ ((va / 2 ^ 15 % 16) ^^^ (va / 2 ^ 19 % 16))
/-- The die of a core (01 R9). -/
def dieOf (core : Nat) : Nat := core / 64
/-- The die of an LLC slice (01 R9). -/
def sliceDie (slice : Nat) : Nat := slice / 16
/-- The die of an HBM4E stack (01 R9). -/
def stackDie (stack : Nat) : Nat := stack / 4
/-- The die of a home translation slice (01 R9). -/
def xlateDie (slice : Nat) : Nat := slice / 8
/-- The die of a host port (01 R9). -/
def hostPortDie (port : Nat) : Nat := port
/-- The die of a Gallery port (01 R9). -/
def galleryDie (port : Nat) : Nat := port / 32
/-- The die whose HBM holds a physical address: the hash of R159 (25 R263). -/
def physDie (pa : Nat) : Nat := homeDie pa
/-- The boundaries that traffic from die `a` to die `b` crosses, each with the die behind it; boundary `d` lies between dies d and d + 1, and the opposite die is reached through die (a + 1) mod 4 (01 R8). -/
def dieRoute (a b : Nat) : List (Nat × Nat) :=
  if b = a then []
  else if b = (a + 1) % 4 then [(a, b)]
  else if b = (a + 3) % 4 then [(b, b)]
  else [(a, (a + 1) % 4), ((a + 1) % 4, b)]
/-- The boundary that a host port is (01 R15). -/
def portBoundary (port : Nat) : Nat := 4 + port
/-- The ASID that tags an access: 0 in the global window, else the context's (15 R161, 25 R261). -/
def tagAsid (asid va : Nat) : Nat := if va / 2 ^ 55 % 4 = 1 then 0 else asid
/-- A VA in the Gallery remote window (25 R261). -/
def isRemote (va : Nat) : Bool := va / 2 ^ 56 % 2 == 1
/-- Bits [63:57] are zero (25 R261). -/
def isCanonical (a : Nat) : Bool := a < 2 ^ 57

/-- The key of a line in L1 and in the directory: tag and line number. -/
def lineKey (asid va : Nat) : Nat := asid * 2 ^ 50 + va / 128
/-- The VA of a line key's line. -/
def keyVa (k : Nat) : Nat := k % 2 ^ 50 * 128
/-- The ASID of a line key. -/
def keyAsid (k : Nat) : Nat := k / 2 ^ 50
/-- The LLC slice of a die that holds a line, as a device index (01 R9, 15 R159; assumption log 37). -/
def llcSlice (die key : Nat) : Nat := 16 * die + homeSlice (keyVa key)
/-- The key of a line in its LLC slice of a die. -/
def llcKey (die key : Nat) : Nat := llcSlice die key * 2 ^ 66 + key

/-- Why an access is not performed: a replayable fault (25 R267), a protection violation, a wait (migration, throttle, FULL write-back), a refusal by a peer, or, for a fetch, a poisoned line (01 R15). -/
inductive MemErr where
  | fault (cause : Nat)
  | violation
  | wait
  | remote
  | poison
deriving DecidableEq, Repr

/-- The answer of a memory operation. -/
abbrev MemR (α : Type) := Except MemErr (State × α)

/-- Fault-log causes (25 R267). -/
def faultNotPresent : Nat := 1
def faultMigrating : Nat := 2
def faultCompFull : Nat := 3
def faultRemote : Nat := 4

/-- Who asks: core, context, tag and address. -/
structure Req where
  core : Nat
  ctx  : Nat
  asid : Nat
  va   : Nat
deriving DecidableEq, Repr

def Req.key (r : Req) : Nat := lineKey r.asid r.va
def Req.die (r : Req) : Nat := dieOf r.core

/-- The context that holds an ASID. -/
def State.ctxOfAsid (s : State) (asid : Nat) : Option (Nat × Ctx) := tfind s.ctxs fun _ c => c.asid == asid

/-! ### Page tables (25 R262, R263) -/

def pteV (p : W64) : Bool := p.getLsbD 0
def pteW (p : W64) : Bool := p.getLsbD 1
def pteX (p : W64) : Bool := p.getLsbD 2
def pteG (p : W64) : Bool := p.getLsbD 3
def pteC (p : W64) : Bool := p.getLsbD 4
def pteM (p : W64) : Bool := p.getLsbD 5
def pteTier (p : W64) : Bool := p.getLsbD 6
def pteMig (p : W64) : Bool := p.getLsbD 7
def pteLeaf (p : W64) : Bool := p.getLsbD 8
def pteCb (p : W64) : Nat := (getBits p 9 2).toNat
def pteAddr (p : W64) : Nat := (getBits p 12 36).toNat * 4096
def pteOvf (p : W64) : Nat := (getBits p 52 12).toNat

/-- The attributes a cached line carries from its translation (25 R264). -/
def pteAttrs (p : W64) : Attrs := { w := pteW p, x := pteX p, c := pteC p, m := pteM p, tier := pteTier p }

/-- The index of a level's entry (25 R262). -/
def levelIndex (level va : Nat) : Nat :=
  match level with
  | 3 => va / 2 ^ 39 % 2 ^ 16
  | 2 => va / 2 ^ 30 % 512
  | 1 => va / 2 ^ 21 % 512
  | _ => va / 2 ^ 16 % 32
/-- The page size of a leaf at a level (25 R262). -/
def levelSize (level : Nat) : Nat :=
  match level with
  | 2 => 2 ^ 30
  | 1 => 2 ^ 21
  | _ => 2 ^ 16

/-- The root of the table that translates a tag: the global table for ASID 0 (25 R261). -/
def State.rootOf (s : State) (asid : Nat) : Nat :=
  if asid = 0 then Config.globalRoot else match s.ctxOfAsid asid with | some (_, c) => c.root | none => 0

/-- The entry that the table named by `up` holds for a level; none where `up` is not valid or is a leaf (25 R262, R264). -/
def State.walkStep (s : State) (va level : Nat) (up : Option (Nat × W64)) : Option (Nat × W64) :=
  match up with
  | some (_, p) =>
    if pteV p && !pteLeaf p then
      let a := pteAddr p + 8 * levelIndex level va
      some (a, BitVec.ofNat 64 (mreadN hbmSide s.hbm a 8))
    else none
  | none => none

/-- The entry reached after `n` steps down from the root, at level 3 - n: its physical address and its content (25 R262). -/
def State.walkDown (s : State) (asid va : Nat) : Nat → Option (Nat × W64)
  | 0 => let a := s.rootOf asid + 8 * levelIndex 3 va; some (a, BitVec.ofNat 64 (mreadN hbmSide s.hbm a 8))
  | n + 1 => s.walkStep va (2 - n) (s.walkDown asid va n)

/-- The entry at a level (25 R262). -/
def State.walkTo (s : State) (asid va level : Nat) : Option (Nat × W64) := s.walkDown asid va (3 - level)

/-- The leaf that maps a VA: its level, address and entry. A walk that meets V = 0 finds none (25 R264). -/
def State.leafOf (s : State) (asid va : Nat) : Option (Nat × Nat × W64) :=
  [2, 1, 0].findSome? fun level =>
    match s.walkTo asid va level with
    | some (a, p) => if pteV p && pteLeaf p then some (level, a, p) else none
    | none => none

/-- A translation: page base, size, physical base, entry. -/
structure Xlat where
  base : Nat
  size : Nat
  pa   : Nat
  pte  : W64
deriving DecidableEq, Repr

/-- The page of a VA, with MIG as it stands. -/
def State.pageOf (s : State) (asid va : Nat) : Option Xlat :=
  (s.leafOf asid va).map fun (level, _, p) =>
    { base := va / levelSize level * levelSize level, size := levelSize level, pa := pteAddr p, pte := p }

/-! ### The CXL tier (25 R266; 31 R317) -/

/-- Bytes of frames that a range of the tier holds, its shadow of 4 KiB per 64 KiB frame apart (25 R266). -/
def rangeFrames (r : CxlRange) : Nat := r.size / 0x11000 * 0x10000

/-- The size of the CXL tier (25 R263, R266). -/
def State.tierSize (s : State) : Nat := (s.plat.ranges.map rangeFrames).foldl (· + ·) 0

/-- The host address of a CXL physical address where its range is host memory, and none in pool memory (31 R317; assumption log 45). -/
def hostAddr : List CxlRange → Nat → Option Nat
  | [], _ => none
  | r :: t, pa => if pa < rangeFrames r then r.host.map (· + pa) else hostAddr t (pa - rangeFrames r)

/-- A line of the tier: the data bytes of a host-memory range lie in host memory, its sidebands in the shadow (25 R266, 31 R317). -/
def State.cxlRead (s : State) (pa : Nat) : Line :=
  match hostAddr s.plat.ranges pa with
  | none => physRead cxlSide s.cxl pa
  | some a => lineOf fun j => if j < 128 then mread noSide s.host (a / 128 * 128 + j) else mread cxlSide s.cxl (physByte cxlSide pa j)

/-- Writes a whole line of the tier with its sideband (25 R266). -/
def State.cxlWrite (s : State) (pa : Nat) (l : Line) : State :=
  match hostAddr s.plat.ranges pa with
  | none => { s with cxl := physWrite cxlSide s.cxl pa fullMask l }
  | some a => { s with host := mwriteL noSide s.host (a / 128 * 128) ((List.range 128).map (lineByte l)),
                       cxl := physWrite cxlSide s.cxl pa (fullMask <<< 128) l }

end Sys2Proof.Machine
end

