-- ==== Sys2Proof/Machine/Faults.lean ====
section
/-! DEFINITION. The fault log of a context: writing a record, the queue, the records held by their agents, and the release of a record (25_translation.md R267 to R270); deferred errors (R278). -/

namespace Sys2Proof.Machine

/-- Raises an MSI-X vector (31 R317). -/
def State.raiseVector (s : State) (v : Nat) : State := { s with plat := { s.plat with vectors := s.plat.vectors ++ [v] } }

/-- The bytes of a fault record with sequence number `p` in a log of 2^m records (25 R269). -/
def faultBytes (r : FaultRec) (p m : Nat) : List Byte :=
  bytesOf 8 r.va.toNat ++ bytesOf 8 r.pc.toNat ++ bytesOf 4 p ++ bytesOf 4 r.eseq.toNat ++
  bytesOf 4 ((p / 2 ^ m % 2) * 2 ^ 31 + r.team.toNat % 2 ^ 31) ++ [r.gid.setWidth 8, r.cause, r.kind, r.core]

/-- The record has room in the log: PROD - CONS is below 2^m (25 R268). -/
def State.logRoom (s : State) (c : Ctx) : Bool :=
  (c.prod + 2 ^ 32 - mreadN noSide s.host (c.logBase + 4) 4) % 2 ^ 32 < 2 ^ c.logM

/-- The header's PROD, HELD and LOST as the device writes them; CONS is the host's (25 R268). -/
def State.writeHeader (s : State) (ctx : Nat) : State :=
  let c := s.ctx ctx
  let h1 := mwriteL noSide s.host c.logBase (bytesOf 4 c.prod)
  { s with host := mwriteL noSide h1 (c.logBase + 8) (bytesOf 4 (c.queue.length + c.heldRec.length) ++ bytesOf 4 c.lost) }

/-- Writes one record to the log and advances PROD (25 R268); a record of a replayable cause and of an agent that parks stays open until it is released. -/
def State.writeRecord (s : State) (ctx : Nat) (r : FaultRec) : State :=
  let c := s.ctx ctx
  let at_ := c.logBase + 64 + 32 * (c.prod % 2 ^ c.logM)
  let s1 := { s with host := mwriteL noSide s.host at_ (faultBytes r c.prod c.logM) }
  ((s1.setCtx ctx { c with prod := (c.prod + 1) % 2 ^ 32,
                           open_ := if r.agent = 5 ∨ 0x40 ≤ r.cause.toNat then c.open_ else c.open_ ++ [(c.prod, r.owner)] }).writeHeader ctx).raiseVector 1

/-- A new record: into the log while it has room, else into the queue of 64, else held by its agent; a deferred record that finds the queue full is dropped and counted (25 R268). A violation's record is held like a replayable one (assumption log 40). -/
def State.logRecord (s : State) (ctx : Nat) (r : FaultRec) : State :=
  let c := s.ctx ctx
  if c.queue = [] ∧ s.logRoom c then s.writeRecord ctx r
  else if c.queue.length < 64 then (s.setCtx ctx { c with queue := c.queue ++ [r] }).writeHeader ctx
  else if r.agent = 5 ∧ r.cause = 0x80 then (s.setCtx ctx { c with lost := min (c.lost + 1) 0xFFFFFFFF }).writeHeader ctx
  else (s.setCtx ctx { c with heldRec := c.heldRec ++ [r] }).writeHeader ctx

/-- Records a fault of a group's agent; the answer names the record (25 R267, R269). -/
def State.groupFault (s : State) (u agent cause kind : Nat) (va : Nat) (pc : VA) (eseq : W32) : Nat × State :=
  let (n, s1) := s.fresh
  let g := s1.group u
  let t := s1.team g.team
  (n, s1.logRecord t.ctx
    { va := BitVec.ofNat 64 va, pc := pc.setWidth 64, eseq := eseq, team := BitVec.ofNat 32 t.linear, gid := BitVec.ofNat 5 g.gid,
      cause := BitVec.ofNat 8 cause, kind := BitVec.ofNat 8 (agent * 16 + kind), core := BitVec.ofNat 8 t.core, agent := agent, owner := n })

/-- A record of the memory side, with its kind of access: it only informs (25 R267, R269, R277, R278). Its TEAM and GID are 0, and its CORE the requesting core or 64 times the die (assumption log 40). -/
def State.memoryFault (s : State) (ctx cause kind va core : Nat) : State :=
  s.logRecord ctx
    { va := BitVec.ofNat 64 va, pc := 0, eseq := 0, team := 0, gid := 0, cause := BitVec.ofNat 8 cause,
      kind := BitVec.ofNat 8 (5 * 16 + kind), core := BitVec.ofNat 8 core, agent := 5, owner := 0 }

/-- A deferred error is charged to the context of the line's tag; a global line to the context that mapped it (25 R278). -/
def State.deferred (s : State) (kind asid va core : Nat) : State :=
  let ctx : Option Nat :=
    if asid = 0 then (s.rev.find? fun e => e.asid == 0 && e.va ≤ va && va < e.va + e.size).map (·.ctx)
    else (s.ctxOfAsid asid).map (·.1)
  match ctx with
  | some c => if (tget s.ctxs c).isSome then s.memoryFault c 0x80 kind (va / 128 * 128) core else s
  | none => s

/-- Counts a soft error of a die, saturating (33 R340). -/
def State.softError (s : State) (die : Nat) : State :=
  { s with plat := { s.plat with soft := tset s.plat.soft die (min (tgetD s.plat.soft die 0 + 1) (2 ^ 32 - 1)) } }

end Sys2Proof.Machine
end

