-- ==== Sys2Proof/Machine/Mem.lean ====
section
/-! DEFINITION. The memory hierarchy: lines that cross boundaries, home translation with heat samples, the LLC slices of each die with the directory and its release records, L1, and the accesses of each scope (01 R8, R14, R15; 15_memory_model.md; 25_translation.md). -/

namespace Sys2Proof.Machine

/-! ### Boundaries (01 R8, R14, R15) -/

/-- A line passes one boundary into die `die`: its check for the next segment is that of what arrives; where that is not the check it was sent with, the line is delivered poisoned and the event is a soft error (01 R14, R15; 33 R340). -/
def State.crossOne (s : State) (b die : Nat) (l : Line) (p : Bool) : State × Line × Bool :=
  match tgetD s.noise b [] with
  | [] => (s, l, p)
  | f :: t =>
    let s1 := { s with noise := if t = [] then tdel s.noise b else tset s.noise b t }
    if lineCheck (l ^^^ f) = lineCheck l then (s1, l ^^^ f, p) else (s1.softError die, l ^^^ f, true)

/-- A line passes the boundaries of a route, one after another. -/
def State.crossAll (s : State) (l : Line) (p : Bool) : List (Nat × Nat) → State × Line × Bool
  | [] => (s, l, p)
  | (b, die) :: t => let r := s.crossOne b die l p; r.1.crossAll r.2.1 r.2.2 t

/-- A line travels from one die to another on their fixed route (01 R8). -/
def State.cross (s : State) (a b : Nat) (l : Line) (p : Bool) : State × Line × Bool := s.crossAll l p (dieRoute a b)

/-- A dirty line travels to its home: one that fails its check on the way is charged to the context of its tag, with a deferred record (01 R15; 25 R278). -/
def State.crossDirty (s : State) (a b asid va : Nat) (l : Line) (p : Bool) : State × Line × Bool :=
  let r := s.cross a b l p
  if r.2.2 && !p then (r.1.deferred 1 asid va (64 * a), r.2) else r

/-! ### Heat (25 R272, R273) -/

/-- How many decays of a context fall in the cycles after `c.heatAt` up to the current one (25 R273). -/
def decaysDue (c : Ctx) (cycle : Nat) : Nat :=
  let d := 2 ^ max 16 (getBits c.heatctl 4 5).toNat
  cycle / d - c.heatAt / d

/-- The decays that have fallen due, of every context: counts are halved once for each, and a count that reaches 0 empties its entry. A decay of the current cycle comes before a sample of it (25 R273). -/
def State.decayed (s : State) : State :=
  { s with heat := s.heat.filterMap fun p => let n := p.2.count / 2 ^ decaysDue (s.ctx p.2.ctx) s.cycle; if n = 0 then none else some (p.1, { p.2 with count := n }),
           ctxs := s.ctxs.map fun p => (p.1, { p.2 with heatAt := s.cycle }) }

/-- The heat entry of a slice that a sample of a region uses: its own, the lowest empty one, or the one with the lowest count, ties going to the lowest index (25 R273). -/
def heatSlot (heat : Tbl Heat) (ctx slice region : Nat) : Nat × Nat :=
  let mine := heat.filter fun p => p.1 / 16384 == slice
  match mine.find? fun p => p.2.ctx == ctx && p.2.region == region with
  | some (e, h) => (e, min (h.count + 1) 0xFFFF)
  | none =>
    match (if mine.length < 16384 then (List.range (mine.length + 1)).find? fun i => (tget mine (slice * 16384 + i)).isNone else none) with
    | some i => (slice * 16384 + i, 1)
    | none => ((mine.foldl (fun (a : Option (Nat × Nat)) p =>
        match a with | none => some (p.1, p.2.count) | some (i, m) => if p.2.count < m then some (p.1, p.2.count) else some (i, m)) none).elim 0 (·.1), 1)

/-- Counts one translation of a context in a slice and samples its region's heat (25 R272, R273). -/
def State.sampleHeat (s : State) (ctx slice va : Nat) : State :=
  let c := s.ctx ctx
  let n := tgetD c.heatN slice 0
  let s1 := s.setCtx ctx { c with heatN := tset c.heatN slice (n + 1) }
  if c.heatctl.getLsbD 9 && n % 2 ^ (getBits c.heatctl 0 4).toNat = 0 then
    let s2 := s1.decayed
    let e := heatSlot s2.heat ctx slice (va / 2 ^ 21)
    { s2 with heat := tset s2.heat e.1 { ctx := ctx, region := va / 2 ^ 21, count := e.2 } }
  else s1

/-! ### Translation at the home (25 R264, R271) -/

/-- A context as it stands in cycle `cycle`: where a period has begun since `c.periodAt`, its usage counts are 0 and the budgets of its last BUDGET hold (31 R326). -/
def Ctx.inPeriod (c : Ctx) (cycle : Nat) : Ctx :=
  let n := 1400 * max c.budget.period 1
  if cycle / n = c.periodAt / n then c
  else { c with useHbm := 0, copyBits := 0, useGal := 0, useCxl := 0, budget := c.budgetNext.getD c.budget, budgetNext := none, periodAt := cycle }

/-- A usage count has reached its budget, and what would add to it waits for the next period (31 R326). -/
def overBudget (use budget : Nat) : Bool := budget != 0xFFFFFFFF && budget * 4096 ≤ use

/-- A slice keeps a translation, in the place of a free one of its 65,536 entries where it is full (25 R264; assumption log 37). -/
def State.keepXlat (s : State) (e : TlbEntry) : State :=
  if s.tlb.length < 65536 || (s.tlb.filter (·.slice == e.slice)).length < 65536 then { s with tlb := e :: s.tlb }
  else
    let mine := s.tlb.filter (·.slice == e.slice)
    { s with tlb := e :: s.tlb.filter (some · != mine[Config.freeNat s.free % 65536]?), free := s.free + 1 }

/-- Translates at the home: the slice's entry, or a walk whose result the slice keeps; the heat is sampled, and a page in MIGRATING waits (25 R264, R271, R272). -/
def State.translate (s : State) (r : Req) : MemR Xlat :=
  let sl := xlateSlice r.va
  match s.tlb.find? fun e => e.slice == sl && e.asid == r.asid && e.base ≤ r.va && r.va < e.base + e.size with
  | some e => .ok (s.sampleHeat r.ctx sl r.va, { base := e.page, size := e.psize, pa := e.pa, pte := e.pte })
  | none =>
    match s.pageOf r.asid r.va with
    | none => .error (.fault faultNotPresent)
    | some x =>
      if pteMig x.pte then .error .wait
      else
        let sz := min x.size (2 ^ 21)
        .ok ((s.sampleHeat r.ctx sl r.va).keepXlat
          { slice := sl, asid := r.asid, base := r.va / sz * sz, size := sz, page := x.base, psize := x.size, pa := x.pa, pte := x.pte }, x)

/-- The physical address of a VA's line under a translation. -/
def Xlat.linePa (x : Xlat) (va : Nat) : Nat := (x.pa + (va - x.base)) / 128 * 128

/-! ### Compressed pages (25 R275 to R277) -/

/-- The stored bytes of a compressed line, by the first class that fits (25 R275). -/
def lineClassBytes (l : Line) : Nat :=
  let words := (List.range 32).map fun i => lineNat l (4 * i) 4
  let sides := (List.range 8).map fun i => lineByte l (128 + i)
  let w0 := words.headD 0
  let eqSides := sides.all (· == sides.headD 0)
  if words.all (· == 0) && eqSides then 0
  else if words.all (· == w0) && eqSides then 16
  else if words.all (fun w => w / 65536 == w0 / 65536) then 80
  else 144

/-- A compressed line that nothing has written: zero data, every sideband byte 0x7F (25 R275). -/
def compZero : Line := lineOf fun j => if j < 128 then 0 else 0x7F

/-- The key of line `i` of the compressed page whose frame is at `pa`. -/
def compKey (tier : Bool) (pa i : Nat) : Nat := ((if tier then 2 ^ 48 else 0) + pa) * 512 + i
/-- The poison mark of line `i` of a compressed page. -/
def compMark (tier : Bool) (pa i : Nat) : Nat := 2 ^ 60 + compKey tier pa i

/-- The footprint of a compressed page, and whether it fits its budget and overflow slot (25 R275). -/
def State.footprint (s : State) (p : W64) : Nat :=
  ((List.range 512).map fun i => lineClassBytes (tgetD s.comp (compKey (pteTier p) (pteAddr p) i) compZero)).foldl (· + ·) 0
def compFits (p : W64) (bytes : Nat) : Bool := bytes ≤ 16384 * (pteCb p + 1) + (if pteOvf p = 0 then 0 else 16384)

/-- A line as memory holds it under a translation, with its poison (25 R266, R275). -/
def State.memLine (s : State) (x : Xlat) (va : Nat) : Line × Bool :=
  let pa := x.linePa va
  if pteC x.pte then
    (tgetD s.comp (compKey (pteTier x.pte) x.pa ((va - x.base) / 128)) compZero, s.memPoison.contains (compMark (pteTier x.pte) x.pa ((va - x.base) / 128)))
  else if pteTier x.pte then (s.cxlRead pa, s.memPoison.contains (2 ^ 50 + pa))
  else (physRead hbmSide s.hbm pa, s.memPoison.contains pa)

/-- Sets or clears a poison mark. -/
def markPoison (l : List Nat) (a : Nat) (p : Bool) : List Nat := if p then ninsert l a else l.filter (· != a)

/-- Writes a whole line to memory under a translation; nothing where a compressed page would no longer fit (25 R277). -/
def State.setMemLine (s : State) (x : Xlat) (va : Nat) (l : Line) (poison : Bool) : Option State :=
  let pa := x.linePa va
  if pteC x.pte then
    let s1 := { s with comp := tset s.comp (compKey (pteTier x.pte) x.pa ((va - x.base) / 128)) l,
                       memPoison := markPoison s.memPoison (compMark (pteTier x.pte) x.pa ((va - x.base) / 128)) poison }
    if compFits x.pte (s1.footprint x.pte) then some s1 else none
  else if pteTier x.pte then
    some { (s.cxlWrite pa l) with memPoison := markPoison s.memPoison (2 ^ 50 + pa) poison }
  else some { s with hbm := physWrite hbmSide s.hbm pa fullMask l, memPoison := markPoison s.memPoison pa poison }

/-- The boundaries between a home and the memory behind a translation: the die ring to the frame's die, or the home die's own host port (01 R8, R15; 25 R263; 31 R317). -/
def memRoute (x : Xlat) (va home : Nat) (out : Bool) : List (Nat × Nat) :=
  if pteTier x.pte then [(portBoundary home, home)]
  else if out then dieRoute home (physDie (x.linePa va)) else dieRoute (physDie (x.linePa va)) home

/-- Charges bytes of a context's lines (31 R326). -/
def State.charge (s : State) (ctx : Nat) (tier : Bool) (n : Nat) : State :=
  let c := (s.ctx ctx).inPeriod s.cycle
  s.setCtx ctx (if tier then { c with useCxl := c.useCxl + n } else { c with useHbm := c.useHbm + n })

/-! ### The home and its directory (15 R160, R165) -/

def State.llcAt (s : State) (die key : Nat) : Option LlcLine := tget s.llc (llcKey die key)
def State.setLlc (s : State) (die key : Nat) (l : LlcLine) : State := { s with llc := tset s.llc (llcKey die key) l }
def State.dropLlc (s : State) (die key : Nat) : State := { s with llc := tdel s.llc (llcKey die key) }
def State.dirAt (s : State) (key : Nat) : DirLine := tgetD s.dir key {}
def State.setDir (s : State) (key : Nat) (d : DirLine) : State :=
  { s with dir := if d == {} then tdel s.dir key else tset s.dir key d }

/-- The set of its slice that a line falls into: a slice of 20 MiB has 8,192 sets of 20 lines of 128 bytes (01 R6, 15 R178). -/
def llcSet (key : Nat) : Nat := Config.llcSet key % 8192

/-- Two lines fall into one set of one home slice (15 R159, R178). -/
def sameSet (k j : Nat) : Bool :=
  homeDie (keyVa k) == homeDie (keyVa j) && homeSlice (keyVa k) == homeSlice (keyVa j) && llcSet k == llcSet j

/-- The 20 ways of a line's set in the LLC slice of a die are all taken (15 R178). -/
def State.llcFull (s : State) (die key : Nat) : Bool :=
  20 ≤ s.llc.length && 20 ≤ (s.llc.filter fun p => p.1 / 2 ^ 66 == llcSlice die key && llcSet (p.1 % 2 ^ 66) == llcSet key).length

/-- The LLC slice of a die has a way for a line: it holds it, or its set is not full (15 R178; assumption log 37). -/
def State.llcRoom (s : State) (die key : Nat) : Bool := (s.llcAt die key).isSome || !s.llcFull die key

/-- The page of a line is FULL (25 R277). -/
def State.pageFull (s : State) (asid va : Nat) : Bool :=
  s.rev.any fun e => e.asid == asid && e.va ≤ va && va < e.va + e.size && e.full

/-- Clears every reservation on a line (15 R179). -/
def State.clearResv (s : State) (key : Nat) : State :=
  { s with groups := s.groups.map fun p =>
      if p.2.resv.any (·.2 == key) then (p.1, { p.2 with resv := p.2.resv.filter (·.2 != key) }) else p }

/-- The home LLC holds the line: on a miss the home translates and reads memory, waiting where its set has no way, or, unless it is for a write-back, where the context's budget is used up (15 R160, R178; 25 R264, R271; 31 R326). -/
def State.homeFillFor (s : State) (back : Bool) (r : Req) : MemR LlcLine :=
  let h := homeDie r.va
  match s.llcAt h r.key with
  | some l => .ok (s, l)
  | none =>
    match s.translate r with
    | .error e => .error e
    | .ok (s1, x) =>
      let c := (s1.ctx r.ctx).inPeriod s.cycle
      if !back && (if pteTier x.pte then overBudget c.useCxl c.budget.cxl else overBudget c.useHbm c.budget.hbm) then .error .wait
      else if !s1.llcRoom h r.key then .error .wait
      else
        let m := s1.memLine x (r.va / 128 * 128)
        let (s2, data, p) := s1.crossAll m.1 m.2 (memRoute x r.va h false)
        let l : LlcLine := { data := data, poison := p, attrs := pteAttrs x.pte }
        .ok ((s2.charge r.ctx (pteTier x.pte) Config.lineBytes).setLlc h r.key l, l)

/-- The home LLC holds the line for a request that is no write-back. -/
def State.homeFill (s : State) (r : Req) : MemR LlcLine := s.homeFillFor false r

/-- An error of a write that reaches its page's home: while the page is FULL, what would wait parks with COMP_FULL, a write-back apart (25 R277). -/
def State.parkFull (s : State) (r : Req) (back : Bool) : MemErr → MemErr
  | .wait => if !back && s.pageFull r.asid r.va then .fault faultCompFull else .wait
  | e => e

/-- The owner die's bytes return to the home, and the owner keeps no copy; into a FULL page they wait (15 R160; 25 R277). -/
def State.recall (s : State) (key : Nat) : MemR Unit :=
  match (s.dirAt key).st with
  | .owned d =>
    let h := homeDie (keyVa key)
    let gone (s : State) : State := (s.dropLlc d key).setDir key { s.dirAt key with st := .uncached }
    match s.llcAt d key with
    | some o =>
      if !o.dirty then .ok (gone s, ())
      else if s.pageFull (keyAsid key) (keyVa key) || !s.llcRoom h key then .error .wait
      else
        let (s1, data, p) := s.crossDirty d h (keyAsid key) (keyVa key) o.data o.poison
        .ok (gone (s1.setLlc h key { (s1.llcAt h key).getD {} with data := data, dirty := true, poison := p, attrs := o.attrs }), ())
    | none => .ok (gone s, ())
  | _ => .ok (s, ())

/-- Another die that owns the line gives it back before die `die` reads or writes it (15 R160). -/
def State.recallFor (s : State) (key die : Nat) : MemR Unit :=
  match (s.dirAt key).st with
  | .owned d => if d = die then .ok (s, ()) else s.recall key
  | _ => .ok (s, ())

/-- Every sharer die but `die` drops its copy (15 R160, R165). -/
def State.dropSharers (s : State) (key die : Nat) : State :=
  match (s.dirAt key).st with
  | .shared m =>
    ((List.range 4).foldl (fun s d => if m.getLsbD d && d != homeDie (keyVa key) && d != die then s.dropLlc d key else s) s).setDir key
      { s.dirAt key with st := .uncached }
  | _ => s

/-- The packets numbered in the sequence of their destination and colour (29 R301); mirrored writes keep an order of their own (R313; assumption log 17). -/
def seqClass (p : Packet) : Option Nat :=
  match p.kind with
  | .write _ | .read _ | .atomic _ _ _ _ _ | .signal _ _ => some p.colour
  | .mirror _ => some 8
  | _ => none

/-- The path wait W of a packet: GWAIT of its context, 0 for responses and acknowledgements (29 R299). -/
def packetW (c : Ctx) (p : Packet) : Nat :=
  match p.kind with
  | .write _ | .read _ | .atomic _ _ _ _ _ | .signal _ _ | .mirror _ | .xlat _ | .inval _ | .gbarArrive _ _ | .gbarDone _ _ | .normTotal _ _ | .normReturn _ _ | .xlatReply _ _ _ => c.gwait
  | .readReply | .atomicReply _ _ | .performed | .moved | .refused | .notPresent | .invalAck _ => 0

/-- A request that a target may refuse: an access, a translation request, a mirrored write (29 R308, R309, R313). -/
def isRequest (p : Packet) : Bool := match p.kind with | .write _ | .read _ | .atomic _ _ _ _ _ | .signal _ _ | .mirror _ | .xlat _ => true | _ => false

/-- The number of no context. -/
def noCtx : Nat := 0x10000

/-- Hands a packet of a context to the port group, which remembers a request or an invalidation until it is answered, numbered where R301 says so; a packet to the device itself goes straight to its memory system (17 R183). -/
def State.sendPkt (s : State) (ctx : Nat) (p : Packet) : State :=
  let gal := s.gal
  let numbered : Packet × Gallery :=
    match seqClass p with
    | some q => let n := tgetD gal.seqOut (p.dst * 16 + q) 0; ({ p with seq := some n }, { gal with seqOut := tset gal.seqOut (p.dst * 16 + q) (n + 1) })
    | none => (p, gal)
  let asks := isRequest p || (p.kind matches .inval _)
  if p.dst = gal.me then { s with gal := { numbered.2 with serve := numbered.2.serve ++ [numbered.1] } }
  else { s with gal := { numbered.2 with out := numbered.2.out ++ [{ pkt := numbered.1, ctx := ctx, w := packetW (s.ctx ctx) p }],
                                         reqs := if asks then numbered.2.reqs ++ [numbered.1] else numbered.2.reqs } }

/-- The context that mapped a page of the global window (25 R262, R278). -/
def State.globalOwner (s : State) (va : Nat) : Option Nat := (s.rev.find? fun e => e.asid == 0 && e.va ≤ va && va < e.va + e.size).map (·.ctx)

/-- A mirrored write that the buddy cannot perform breaks the mirror of the context whose page it is, and the next MIRROR of another context that wrote it fails too (29 R313; assumption log 42). -/
def State.mirrorBreaks (s : State) (owner : Nat) (writers : List Nat) : State :=
  writers.foldl (fun s w => if w = owner || (tget s.ctxs w).isNone then s else s.setCtx w { s.ctx w with mirrorFail := true })
    (s.setCtx owner { s.ctx owner with broken := true })

/-- A mirrored write of a page with M = 1 goes to the buddy of the line's context, with the bytes and their poison, the VA and the colours, from the die `die` that has written it; every context in `writers`, whose stores it holds, waits for it in its MIRROR. A buddy that is lost, or has no session because its report failed, cannot perform it (21 R239; 29 R313; 33 R339). -/
def State.mirrorOut (s : State) (die ctx : Nat) (writers : List Nat) (key : Nat) (mask : LineMask) (data : Line) (cols : Byte) (poison : Bool) (attrs : Attrs) : State :=
  if !attrs.m then s else
  let owner := if keyAsid key = 0 then (s.globalOwner (keyVa key)).getD noCtx else ctx
  match tget s.ctxs owner with
  | none => s
  | some c =>
    if c.djob != 0 && c.buddy != 0xFFFF then
      if s.gal.lost.contains c.buddy || s.gal.unverified.contains c.buddy then s.mirrorBreaks owner writers else
      let (tag, s1) := s.fresh
      let p : Packet := { src := s.gal.me, dst := c.buddy, djob := c.djob, tag := tag, cols := cols, kind := .mirror (keyVa key), line := data, mask := mask, poison := poison, die := die }
      (s1.setCtx owner { c with mirrors := c.mirrors ++ writers.map fun w => (tag, cols, w) }).sendPkt owner p
    else s

/-- The host holds the line, and must answer a back-invalidation snoop before the device takes ownership of it (31 R318). -/
def State.hostHolds (s : State) (r : Req) : Bool :=
  s.plat.hostOwn != [] && (match s.pageOf r.asid r.va with | some x => !pteTier x.pte && !pteC x.pte && s.plat.hostOwn.contains (x.linePa r.va / 128) | none => false)

/-- The predecessor count of a TCB's line (31 R319). -/
def tcbPred (l : Line) : Nat := lineNat l 0x40 4

/-- The line of a task's TCB. -/
def State.tcbKey (s : State) (t : Task) : Nat := lineKey (tagAsid (s.ctx t.ctx).asid t.tcb) t.tcb

/-- A write that changes the PRED of an armed TCB from non-zero to 0 opens its gate, once, and the device sets STATE to 1 (31 R320). -/
def State.openGate (s : State) (key : Nat) (old new : Line) : State × Line :=
  match tfind s.tasks fun _ t => !t.gate && !t.done && !t.refused && s.tcbKey t == key with
  | some (k, t) =>
    if tcbPred old != 0 && tcbPred new == 0 then ({ s with nextId := s.nextId + 1 }.setTask k { t with gate := true, gateAt := s.nextId }, lineSet new 0x44 1 1) else (s, new)
  | none => (s, new)

/-- Merges the masked bytes into the line that the LLC of a die holds: one step of the line's coherence order, which clears the reservations, opens a gate and is mirrored. A write that replaces a whole line from clean data clears its poison (15 R168, R179; 17 R202; 29 R313; 31 R320). -/
def State.mergeAt (s : State) (die : Nat) (r : Req) (l : LlcLine) (mask : LineMask) (data : Line) (cols : Byte) (poison : Bool) (writers : List Nat) : State :=
  let (s1, new) := (s.clearResv r.key).openGate r.key l.data (mergeLine mask data l.data)
  (s1.setLlc die r.key { l with data := new, dirty := true, poison := poison || (l.poison && mask != fullMask) }).mirrorOut die r.ctx writers r.key mask data cols poison l.attrs

/-- The copy of a line that a die other than the home owns. -/
def State.ownedAt (s : State) (r : Req) : Option LlcLine :=
  if r.die != homeDie r.va && (s.dirAt r.key).st == .owned r.die then s.llcAt r.die r.key else none

/-- Writes the masked bytes into the LLC of the requester's die: into a line that the die owns; at the home itself; or after obtaining ownership from the home, which drops the other dies' copies. A line whose release record has entries is written at its home, so that no copy of a released value leaves it (15 R160, R162, R165; assumption log 39). `back` says that the write is a write-back, which waits where a store would fault, and never for a budget (25 R277, 31 R326); `writers` lists the contexts whose stores the bytes are. -/
def State.llcWrite (s : State) (r : Req) (mask : LineMask) (data : Line) (cols : Byte) (back poison : Bool) (writers : List Nat) : MemR Unit :=
  match s.ownedAt r with
  | some l => if l.attrs.w then .ok (s.mergeAt r.die r l mask data cols poison writers, ()) else .error .violation
  | none =>
    let h := homeDie r.va
    match s.recallFor r.key r.die with
    | .error e => .error (s.parkFull r back e)
    | .ok (s0, _) =>
      match s0.homeFillFor back r with
      | .error e => .error (s.parkFull r back e)
      | .ok (s1, hl) =>
        if !hl.attrs.w then .error .violation
        else if s1.hostHolds r then .error .wait
        else if s1.pageFull r.asid r.va then (if back then .error .wait else .error (.fault faultCompFull))
        else if r.die = h then .ok ((s1.dropSharers r.key h).mergeAt h r hl mask data cols poison writers, ())
        else if (s1.dirAt r.key).rel != [] then
          let (s2, sent, p) := (s1.dropSharers r.key h).crossDirty r.die h r.asid r.va data poison
          .ok (s2.mergeAt h r hl mask sent cols p writers, ())
        else if !s1.llcRoom r.die r.key then .error .wait
        else
          let (s2, got, p) := match s1.llcAt r.die r.key with | some l => (s1, l.data, l.poison) | none => s1.cross h r.die hl.data hl.poison
          .ok (((s2.dropSharers r.key r.die).mergeAt r.die r { hl with data := got, poison := p } mask data cols poison writers).setDir r.key
            { s2.dirAt r.key with st := .owned r.die }, ())

/-! ### L1, write-backs, pulls (15 R158, R162, R164 to R166, R341) -/

/-- L1 holds 2,048 lines: 256 KiB (01 R6, R10). -/
def l1Lines : Nat := 2048

def State.l1At (s : State) (core key : Nat) : Option L1Line := tget (s.core core).l1 key
def State.setL1 (s : State) (core key : Nat) (l : L1Line) : State := s.setCore core { s.core core with l1 := tset (s.core core).l1 key l }
def State.dropL1 (s : State) (core key : Nat) : State :=
  if (s.l1At core key).isSome then s.setCore core { s.core core with l1 := tdel (s.core core).l1 key } else s

/-- The context charged for a line, by its tag (25 R278, 31 R326). -/
def State.ctxOfKey (s : State) (dflt key : Nat) : Nat :=
  if keyAsid key = 0 then dflt else match s.ctxOfAsid (keyAsid key) with | some (c, _) => c | none => dflt

/-- A write-back from L1: only the dirty bytes, then the dirty mask is cleared and the colour mask kept (15 R158). -/
def State.writeBack (s : State) (core ctx key : Nat) : MemR Unit :=
  match s.l1At core key with
  | none => .ok (s, ())
  | some l =>
    if l.dirty = 0 then .ok (s, ())
    else
      match s.llcWrite ⟨core, s.ctxOfKey ctx key, keyAsid key, keyVa key⟩ l.dirty l.data l.cols true l.poison l.byCtxs with
      | .error e => .error e
      | .ok (s1, _) => .ok (s1.setL1 core key { l with dirty := 0, byCtxs := [] }, ())

/-- The lines of a core that an action of context tag `asid` over colours `cols` covers (15 R341). -/
def State.l1Covered (s : State) (core asid : Nat) (cols : Byte) : List Nat :=
  ((s.core core).l1.filter fun p => (keyAsid p.1 == asid || keyAsid p.1 == 0) && p.2.cols &&& cols != 0).map (·.1)

/-- Write-backs of a list of lines, one after another; a wait or a fault of one stops the action. -/
def State.writeBacks (s : State) (core ctx : Nat) : List Nat → MemR Unit
  | [] => .ok (s, ())
  | k :: t => match s.writeBack core ctx k with
    | .error e => .error e
    | .ok (s1, _) => s1.writeBacks core ctx t

/-- A completed write-back of a context's colours: every release that the core has made so far needs no other for them (15 R165). -/
def State.noteFlush (s : State) (core ctx : Nat) (cols : Byte) : State :=
  let k := s.core core
  if k.relSeq = 0 then s
  else s.setCore core { k with relDone := (List.range 8).foldl (fun t c => if cols.getLsbD c then tset t (8 * ctx + c) k.relSeq else t) k.relDone }

/-- A core writes back its dirty lines of a context whose colour mask meets `cols` (15 R164, R341). -/
def State.flushL1 (s : State) (core ctx asid : Nat) (cols : Byte) : MemR Unit :=
  match s.writeBacks core ctx (s.l1Covered core asid cols) with
  | .error e => .error e
  | .ok (s1, _) => .ok (s1.noteFlush core ctx cols, ())

/-- The core writes back, then invalidates, every line whose colour mask meets `cols` (15 R166). -/
def State.acquireL1 (s : State) (core ctx asid : Nat) (cols : Byte) : MemR Unit :=
  match s.flushL1 core ctx asid cols with
  | .error e => .error e
  | .ok (s1, _) => .ok ((s1.l1Covered core asid cols).foldl (fun s k => s.dropL1 core k) s1, ())

/-- The core's sequence number shows that the write-back which an entry asks for already happened (15 R165). -/
def Core.pulled (k : Core) (e : RelEntry) : Bool := (List.range 8).all fun c => !e.cols.getLsbD c || e.seq < tgetD k.relDone (8 * e.ctx + c) 0

/-- A pull: the recorded core writes back, for the context recorded in the entry, unless it already has (15 R165, R341). -/
def State.pullEntry (s : State) (e : RelEntry) : MemR Unit :=
  if (s.core e.core).pulled e then .ok (s, ()) else s.flushL1 e.core e.ctx (s.ctx e.ctx).asid e.cols

/-- Retires an entry of a line's release record (15 R165). -/
def State.retire (s : State) (key : Nat) (e : RelEntry) : State :=
  let d := s.dirAt key
  s.setDir key { d with rel := d.rel.filter (· != e) }

/-- The home pulls the recorded cores of a line other than `core`, and retires their entries (15 R165). -/
def State.pullOthers (s : State) (core key : Nat) : List RelEntry → MemR Unit
  | [] => .ok (s, ())
  | e :: t =>
    if e.core = core then s.pullOthers core key t
    else
      match s.pullEntry e with
      | .error er => .error er
      | .ok (s1, _) => (s1.retire key e).pullOthers core key t

def State.pulls (s : State) (core key : Nat) : MemR Unit := s.pullOthers core key (s.dirAt key).rel

/-- Reads a line at the LLC of a core's die: a copy there serves it; otherwise the home does, after pulling the recorded cores. The die keeps the line, except while the record holds an entry of the reading core: no copy of a released value leaves the home and the releasing core before the pull (15 R160, R162, R165, R166). -/
def State.llcRead (s : State) (r : Req) : MemR LlcLine :=
  let h := homeDie r.va
  match (if r.die = h then none else s.llcAt r.die r.key) with
  | some l => .ok (s, l)
  | none =>
    match s.pulls r.core r.key with
    | .error e => .error e
    | .ok (s1, _) =>
      match s1.recallFor r.key r.die with
      | .error e => .error e
      | .ok (s2, _) =>
        match s2.homeFill r with
        | .error e => .error e
        | .ok (s3, l) =>
          if r.die = h then .ok (s3, l)
          else
            let d := s3.dirAt r.key
            if d.rel = [] && !s3.llcRoom r.die r.key then .error .wait
            else
              let (s4, data, p) := s3.cross h r.die l.data l.poison
              let got : LlcLine := { l with data := data, poison := p, dirty := false, stuck := false }
              if d.rel != [] then .ok (s4, got)
              else
                let m : BitVec 4 := match d.st with | .shared m => m | _ => 0
                .ok ((s4.setLlc r.die r.key got).setDir r.key { d with st := .shared (m ||| (1#4 <<< r.die)) }, got)

/-- A copy in L1 that no access of a colour has filled, read or written may be older than what a synchronisation of that colour has made visible: before such an access it is written back and leaves L1 (15 R158, R168; assumption log 39). -/
def State.l1Colour (s : State) (r : Req) (colour : Nat) : MemR Unit :=
  match s.l1At r.core r.key with
  | none => .ok (s, ())
  | some l =>
    if l.cols.getLsbD colour then .ok (s, ())
    else
      match s.writeBack r.core r.ctx r.key with
      | .error e => .error e
      | .ok (s1, _) => .ok (s1.dropL1 r.core r.key, ())

/-- Fills the L1 of a core, the line's colour mask then showing the colour; a full L1 waits until a line has left it (15 R158, R162, R168; assumption log 37). -/
def State.l1Fill (s : State) (r : Req) (colour : Nat) : MemR L1Line :=
  match s.l1Colour r colour with
  | .error e => .error e
  | .ok (s0, _) =>
    match s0.l1At r.core r.key with
    | some l => .ok (s0, l)
    | none =>
      if l1Lines ≤ (s0.core r.core).l1.length then .error .wait
      else
        match s0.llcRead r with
        | .error e => .error e
        | .ok (s1, l) =>
          let l1 : L1Line := { data := l.data, cols := 1#8 <<< colour, attrs := l.attrs, poison := l.poison }
          .ok (s1.setL1 r.core r.key l1, l1)

/-- The copy of a line that the core's L1 still holds takes the value that a device-scope access has seen, so that no later access of the core goes back behind it; its dirty bytes stay (15 R162, R168; assumption log 39). -/
def State.renewL1 (s : State) (core key : Nat) (l : LlcLine) : State :=
  match s.l1At core key with
  | none => s
  | some k => s.setL1 core key { k with data := mergeLine k.dirty k.data l.data, poison := l.poison, attrs := l.attrs }

/-- A load of a line at a scope: through L1 at group and team scope; at share scope and wider from the die's LLC, after the core's own dirty bytes of it (15 R162, R168). -/
def State.loadLine (s : State) (r : Req) (scope colour : Nat) : MemR (Line × Bool) :=
  if scope ≤ 1 then
    match s.l1Fill r colour with
    | .error e => .error e
    | .ok (s1, l) => .ok (s1, (l.data, l.poison))
  else
    match s.writeBack r.core r.ctx r.key with
    | .error e => .error e
    | .ok (s1, _) =>
      match s1.llcRead r with
      | .error e => .error e
      | .ok (s2, l) => .ok (s2.renewL1 r.core r.key l, (l.data, l.poison))

/-- A store of masked bytes at a scope: into L1 at group and team scope; at share scope and wider through L1 to the LLC, updating an L1 copy without marking it dirty: bytes that the copy held dirty are written with it and are older no more (15 R162, R168). It needs W (25 R264). Poisoned data poisons the line (19 R219). -/
def State.putLine (s : State) (r : Req) (scope colour : Nat) (mask : LineMask) (data : Line) (poison : Bool) : MemR Unit :=
  if scope ≤ 1 then
    match s.l1Fill r colour with
    | .error e => .error e
    | .ok (s1, l) =>
      if !l.attrs.w then .error .violation
      else
        .ok ((s1.setL1 r.core r.key { l with data := mergeLine mask data l.data, dirty := l.dirty ||| mask, byCtxs := ninsert l.byCtxs r.ctx,
                                              poison := poison || (l.poison && mask != fullMask) }).clearResv r.key, ())
  else
    match s.l1Colour r colour with
    | .error e => .error (s.parkFull r false e)
    | .ok (s9, _) =>
      match s9.pulls r.core r.key with
      | .error e => .error (s.parkFull r false e)
      | .ok (s0, _) =>
        match s0.llcWrite r mask data (1#8 <<< colour) false poison [r.ctx] with
        | .error e => .error e
        | .ok (s1, _) =>
          match s1.l1At r.core r.key with
          | none => .ok (s1, ())
          | some l => .ok (s1.setL1 r.core r.key { l with data := mergeLine mask data l.data, dirty := l.dirty &&& ~~~mask,
                                                          poison := poison || (l.poison && mask != fullMask) }, ())

/-- A store of clean data. -/
def State.storeLine (s : State) (r : Req) (scope colour : Nat) (mask : LineMask) (data : Line) : MemR Unit :=
  s.putLine r scope colour mask data false

/-- What an access that its line's attributes refuse leaves: the line was filled and its translation counted before the check (25 R264, R272). -/
def State.seen (s : State) (r : Req) : State :=
  if 2 ^ 56 ≤ r.va then s else match s.llcRead r with | .ok (s1, _) => s1 | .error _ => s

/-- The line at its home for one indivisible step there: the core's own dirty bytes are written back and its copy dropped, recorded cores are pulled, every other copy is gone; unless the step is the host's own, it waits while the host holds the line (15 R171; 31 R318). -/
def State.homeLineFor (s : State) (host : Bool) (r : Req) : MemR LlcLine :=
  match s.writeBack r.core r.ctx r.key with
  | .error e => .error e
  | .ok (s1, _) =>
    match (s1.dropL1 r.core r.key).pulls r.core r.key with
    | .error e => .error e
    | .ok (s2, _) =>
      if !host && s2.hostHolds r then .error .wait
      else
        match s2.recall r.key with
        | .error e => .error e
        | .ok (s3, _) => s3.homeFill r

/-- The line at its home for one step there that is not the host's. -/
def State.homeLine (s : State) (r : Req) : MemR LlcLine := s.homeLineFor false r

/-- The line at its home for a step there that writes it: where it cannot be had while its page is FULL, the write parks (25 R277). -/
def State.homeLineW (s : State) (r : Req) : MemR LlcLine :=
  match s.homeLine r with
  | .error e => .error (s.parkFull r false e)
  | .ok x => .ok x

/-- Writes bytes of a line, from clean or poisoned data, at its home as one step in coherence order (15 R171); copies elsewhere are dropped. -/
def State.homeMerge (s : State) (r : Req) (l : LlcLine) (mask : LineMask) (data : Line) (cols : Byte) (poison : Bool) : State :=
  (s.dropSharers r.key (homeDie r.va)).mergeAt (homeDie r.va) r l mask data cols poison [r.ctx]

/-- Writes bytes of a line at its home in one colour. -/
def State.homeWrite (s : State) (r : Req) (l : LlcLine) (mask : LineMask) (data : Line) (colour : Nat) (poison : Bool) : State :=
  s.homeMerge r l mask data (1#8 <<< colour) poison

/-- Records a lazy release at the line's home: a fifth entry first pulls the oldest (15 R164, R165). -/
def State.recordRelease (s : State) (r : Req) (cols : Byte) : MemR Unit :=
  let k := s.core r.core
  let e : RelEntry := { core := r.core, ctx := r.ctx, cols := cols, seq := k.relSeq }
  let s0 := s.setCore r.core { k with relSeq := k.relSeq + 1 }
  let add (s : State) : State := let d := s.dirAt r.key; s.setDir r.key { d with rel := d.rel ++ [e] }
  match (s0.dirAt r.key).rel with
  | o :: _ :: _ :: _ :: _ =>
    match s0.pullEntry o with
    | .error er => .error er
    | .ok (s1, _) => .ok (add (s1.retire r.key o), ())
  | _ => .ok (add s0, ())

/-- The dirty line of a home goes to memory, over the boundaries between them, and the home keeps it as `keep` says; where its compressed page would not fit, it stays and the page becomes FULL, which the answer says (01 R15; 25 R271, R277, R278). -/
def State.lineOut (s : State) (r : Req) (l : LlcLine) (x : Xlat) (keep : State → State) : State × Bool :=
  let h := homeDie r.va
  let (s1, data, p) := s.crossAll l.data l.poison (memRoute x r.va h true)
  let s2 := if p && !l.poison then s1.deferred 1 r.asid r.va (64 * h) else s1
  match s2.setMemLine x (r.va / 128 * 128) data p with
  | some s3 => (keep (s3.charge r.ctx (pteTier x.pte) Config.lineBytes), true)
  | none =>
    ({ (s.setLlc h r.key { l with stuck := true }) with
       rev := s.rev.map fun e => if e.asid == r.asid && e.va ≤ r.va && r.va < e.va + e.size then { e with full := true } else e }, false)

/-- Evicts a line from its home LLC: recorded cores are pulled first, dirty bytes go to memory, reservations are cleared; no line of a page in MIGRATING leaves, and a line whose compressed page would not fit stays and the page becomes FULL (15 R165, R178, R179; 25 R271, R277). -/
def State.evict (s : State) (r : Req) : MemR Bool :=
  let h := homeDie r.va
  match s.pullOthers 0x10000 r.key (s.dirAt r.key).rel with
  | .error e => .error e
  | .ok (s1, _) =>
    match s1.recall r.key with
    | .error e => .error e
    | .ok (s2, _) =>
      let gone (s : State) : State := ((s.dropSharers r.key h).dropLlc h r.key).clearResv r.key
      match s2.llcAt h r.key, s2.pageOf r.asid r.va with
      | none, _ => .ok (s2, true)
      | some l, none => if l.dirty then .error (.fault faultNotPresent) else .ok (gone s2, true)
      | some l, some x =>
        if pteMig x.pte then .error .wait
        else if !l.dirty then .ok (gone s2, true)
        else .ok (s2.lineOut r l x gone)

/-- Obtains ownership of a line for a core's die: the home recalls or drops every other die's copy; a line whose release record has entries stays at its home (15 R160, R165). -/
def State.ownLine (s : State) (r : Req) : MemR LlcLine :=
  match s.llcRead r with
  | .error e => .error e
  | .ok (s1, l) =>
    match s1.recallFor r.key r.die with
    | .error e => .error e
    | .ok (s2, _) =>
      if s2.hostHolds r then .error .wait
      else
        let s3 := s2.dropSharers r.key r.die
        if r.die = homeDie r.va || (s3.llcAt r.die r.key).isNone then .ok (s3, l) else .ok (s3.setDir r.key { s3.dirAt r.key with st := .owned r.die }, l)

/-- Reads up to 16 bytes of one line at a scope (15 R169). -/
def State.loadAt (s : State) (r : Req) (scope colour n : Nat) : MemR (Nat × Bool) :=
  match s.loadLine r scope colour with
  | .error e => .error e
  | .ok (s1, (l, p)) => .ok (s1, (lineNat l (r.va % 128) n, p))

/-- Writes up to 16 bytes of one line at a scope (15 R169). -/
def State.storeAt (s : State) (r : Req) (scope colour n x : Nat) : MemR Unit :=
  s.storeLine r scope colour (byteMask (r.va % 128) n) (BitVec.ofNat 1088 (x % 2 ^ (8 * n) * 2 ^ (8 * (r.va % 128))))

/-- The request of a group for an address. -/
def State.reqOf (s : State) (g : Group) (va : Nat) : Req :=
  let t := s.teamOf g
  { core := t.core, ctx := t.ctx, asid := tagAsid (s.ctx t.ctx).asid va, va := va }

/-- The page of a VA of this device is migrating (25 R271). -/
def State.migrating (s : State) (asid va : Nat) : Bool :=
  !isRemote va && (match s.pageOf asid va with | some x => pteMig x.pte | none => false)

/-- Since when an access waits in its slice for a migrating page: each try that finds the page in no move ends the count (25 R271). -/
def State.sinceMig (s : State) (asid va : Nat) (since : Option Nat) : Option Nat :=
  if s.migrating asid va then some (since.getD s.cycle) else none

/-- A group that waits at an address for what it fetches, reads or writes itself (25 R269, R271). -/
def State.waitsAt (s : State) (g : Group) (va kind : Nat) : Group :=
  let m := s.migrating (s.reqOf g va).asid va
  { g with fetchSince := some (if m && g.fetchMig && g.fetchVa == va then g.fetchSince.getD s.cycle else s.cycle), fetchMig := m, fetchVa := va, fetchKind := kind }

end Sys2Proof.Machine
end

