-- ==== Sys2Proof/Machine/Operands.lean ====
section
/-! DEFINITION. The operand forms: immediates, vector operands, global and scratchpad addresses, branch targets (09_encoding.md R93, R95; 13 R132, R134, R135; 17 R182, R184). -/

namespace Sys2Proof.Machine

/-- The FP32 value of a floating IMM24: its bits [31:8] (09 R93). -/
def imm24Fp (x : BitVec 24) : W32 := (x.setWidth 32) <<< 8
/-- An integer or untyped IMM24, sign-extended (09 R93, 13 R135). -/
def imm24Int (x : BitVec 24) : W32 := x.signExtend 32

/-- Element width in bits of a TY code (09 R94, 05 R52). -/
def tyBits (t : BitVec 4) : Nat :=
  match t.toNat with
  | 0 => 8
  | 1 => 16
  | 2 => 32
  | 3 => 64
  | 4 => 8
  | 5 => 16
  | 6 => 32
  | 7 => 64
  | 8 => 32
  | 9 => 16
  | 10 => 16
  | 15 => 4
  | _ => 8
/-- The i types are signed (09 R94). -/
def tySigned (t : BitVec 4) : Bool := t.toNat < 4

/-- Element `q` of width `w` in a lane (13 R134). -/
def elem (x : W32) (w q : Nat) : Nat := x.toNat / 2 ^ (w * q) % 2 ^ w
/-- The signed or unsigned value of a w-bit pattern. -/
def elemInt (signed : Bool) (w n : Nat) : Int := if signed && 2 ^ (w - 1) ≤ n then (n : Int) - 2 ^ w else n
/-- The low `w` bits of an integer. -/
def wrapBits (w : Nat) (x : Int) : Nat := (x % 2 ^ w).toNat
/-- A lane built from its elements, element 0 lowest (00 R1). -/
def packElems (w : Nat) (f : Nat → Nat) : W32 :=
  BitVec.ofNat 32 ((List.range (32 / w)).foldl (fun a q => a + f q % 2 ^ w * 2 ^ (w * q)) 0)

/-- The B operand of F-V in lane `l`: a vector register or, with BS, a scalar register (13 R132). -/
def opB (f : FV) (g : Group) (l : Nat) : W32 := if f.bs then g.rs f.vb.toNat else g.rl f.vb.toNat l
/-- The C operand of F-V in lane `l` (13 R132). -/
def opC (f : FV) (g : Group) (l : Nat) : W32 := if f.cs then g.rs f.vc.toNat else g.rl f.vc.toNat l

/-- The branch target: the clause's header plus 8 × EXTS(TGT, 24), modulo 2^57 (09 R95, 11 R114). -/
def branchTarget (pc : VA) (tgt : BitVec 24) : VA := pc + ((tgt.signExtend 57) <<< 3)
/-- The reconvergence address (09 R95). -/
def rcvTarget (pc : VA) (rcv : BitVec 20) : VA := pc + ((rcv.signExtend 57) <<< 3)

/-- The offset of F-M as `n` bits sign-extended to 64 (17 R182). -/
def offsetOf (f : FM) (n : Nat) : W64 := ((f.off.setWidth n).signExtend 64)

/-- The global address of lane `l` (17 R182). -/
def gaddr (f : FM) (n : Nat) (g : Group) (l : Nat) : W64 :=
  (if f.sb = 0 then g.rl (f.va.toNat + 1) l ++ g.rl f.va.toNat l
   else (g.rpair f.sb.toNat) + (g.rl f.va.toNat l).signExtend 64) + offsetOf f n

/-- The address of SLD, SST and SATOM (17 R182). -/
def saddr (f : FM) (n : Nat) (g : Group) : W64 :=
  (if f.sb = 0 then 0 else g.rpair f.sb.toNat) + offsetOf f n

/-- The scratchpad address of lane `l` (17 R184). -/
def taddr (f : FM) (g : Group) (l : Nat) : W32 :=
  (if f.sb = 0 then 0 else g.rs f.sb.toNat) + g.rl f.va.toNat l + (f.off.signExtend 32)

/-- The scratchpad base address of the tile moves, with no per-lane term (23 R246). -/
def tbase (f : FM) (g : Group) : W32 := (if f.sb = 0 then 0 else g.rs f.sb.toNat) + f.off.signExtend 32

/-- A number as the register words of an access, lowest first; narrow loads are extended (17 R185). -/
def regWords (bytes : Nat) (signed : Bool) (x : Nat) : List W32 :=
  if bytes < 4 then [BitVec.ofInt 32 (elemInt signed (8 * bytes) x)]
  else (List.range (bytes / 4)).map fun k => BitVec.ofNat 32 (x / 2 ^ (32 * k))

/-- Register words as a number. -/
def wordsNat (l : List W32) : Nat := l.foldr (fun w a => w.toNat + 2 ^ 32 * a) 0

end Sys2Proof.Machine
end

