-- ==== Sys2Proof/Machine/Flags.lean ====
section
/-! DEFINITION. Conditions and the sticky scale flags: the compare conditions of SCMP, VCMP and VFCMP, the XSTAT bits and the W1C rule (11_isa_control.md R112; 13 R143; 05 R56). -/

namespace Sys2Proof.Machine

/-- XSTAT bits (05 R56). -/
def flagNans : BitVec 3 := 1
def flagRange : BitVec 3 := 2
def flagSat : BitVec 3 := 4

/-- Writing 1 clears a sticky flag (00 R4, 05 R56). -/
def w1c (old : BitVec 3) (wr : BitVec 3) : BitVec 3 := old &&& ~~~wr

/-- The condition of SCMP in MOD[2:0] (11 R112). -/
def scmpHolds (m : Nat) (a b : W32) : Bool :=
  match m % 8 with
  | 0 => a == b
  | 1 => a != b
  | 2 => a.toInt < b.toInt
  | 3 => b.toInt ≤ a.toInt
  | 4 => a.toNat < b.toNat
  | 5 => b.toNat ≤ a.toNat
  | 6 => b.toInt < a.toInt
  | _ => b.toNat < a.toNat

/-- The condition of VCMP over exact integers (13 R143). -/
def vcmpHolds (m : Nat) (a b : Int) : Bool :=
  match m % 8 with
  | 0 => a == b
  | 1 => a != b
  | 2 => a < b
  | 3 => b ≤ a
  | 4 => a ≤ b
  | _ => b < a

end Sys2Proof.Machine
end

