-- ==== Sys2Proof/Machine/Scalar.lean ====
section
/-! DEFINITION. The scalar data operations, SGET and NOP (11_isa_control.md R110 to R113). -/

namespace Sys2Proof.Machine

/-- All ones when a condition holds, else zero (11 R111). -/
def boolMask (b : Bool) : W32 := if b then 0xFFFFFFFF else 0

/-- SSHL: zero when the distance reaches the width (11 R111). -/
def shl32 (a b : W32) : W32 := if b.toNat < 32 then a <<< b.toNat else 0
/-- SSHR (11 R111). -/
def shr32 (a b : W32) : W32 := if b.toNat < 32 then a >>> b.toNat else 0
/-- SSAR: copies of the sign when the distance reaches the width (11 R111). -/
def sar32 (a b : W32) : W32 := a.sshiftRight (if b.toNat < 32 then b.toNat else 31)
/-- SMIN and SMAX, signed unless `u` (11 R111). -/
def min32 (u : Bool) (a b : W32) : W32 := if (if u then a.toNat ≤ b.toNat else a.toInt ≤ b.toInt) then a else b
def max32 (u : Bool) (a b : W32) : W32 := if (if u then a.toNat ≤ b.toNat else a.toInt ≤ b.toInt) then b else a
/-- The high half of the exact product (11 R111). -/
def mulhi32 (u : Bool) (a b : W32) : W32 :=
  BitVec.ofInt 32 (if u then ((a.toNat * b.toNat / 2 ^ 32 : Nat) : Int) else a.toInt * b.toInt / 2 ^ 32)
/-- Leading zero bits, 32 for zero (11 R111). -/
def clz32 (a : W32) : Nat := ((List.range 32).find? fun i => a.getLsbD (31 - i)).getD 32
/-- SBFX and VBFX: the field at position b of width c, sign-extended when `sx` (11 R111). -/
def bfx32 (sx : Bool) (a b c : W32) : W32 :=
  if c.toNat = 0 ∨ 32 ≤ b.toNat then 0
  else
    let w := min c.toNat (32 - b.toNat)
    let f := a.toNat / 2 ^ b.toNat % 2 ^ w
    BitVec.ofInt 32 (elemInt sx w f)

/-- A scalar operation executes once, when ACTIVE is non-empty, and writes its destination (03 R34, 11 R111). -/
def scalarOp (i : Info) (sd : BitVec 7) (r : Group → W32) (s : State) : Host.Outcome State Fault Refusal :=
  issue i never never (whenActive i (onGroup fun g => g.ws sd.toNat (r g))) s

/-- A dual scalar opcode, register form. -/
def scalarBin (i : Info) (f : FS) (op : W32 → W32 → W32) (s : State) : Host.Outcome State Fault Refusal :=
  scalarOp i f.sd (fun g => op (g.rs f.sa.toNat) (g.rs f.sb.toNat)) s
/-- A dual scalar opcode, immediate form. -/
def scalarBinI (i : Info) (f : FSI) (op : W32 → W32 → W32) (s : State) : Host.Outcome State Fault Refusal :=
  scalarOp i f.sd (fun g => op (g.rs f.sa.toNat) f.imm) s

/-- NOP: occupies an issue cycle (11 R113). -/
def execNop (s : State) : Host.Outcome State Fault Refusal :=
  issue (Instr.info .nop) never never (fun s _ => .done s) s
/-- SMOV (11 R111). -/
def execSmov (f : FS) (s : State) : Host.Outcome State Fault Refusal :=
  scalarOp (Instr.info (.smov f)) f.sd (fun g => g.rs f.sa.toNat) s
/-- SMOVI (11 R111). -/
def execSmovi (f : FSI) (s : State) : Host.Outcome State Fault Refusal :=
  scalarOp (Instr.info (.smovi f)) f.sd (fun _ => f.imm) s
/-- SADD (11 R111). -/
def execSadd (f : FS) (s : State) : Host.Outcome State Fault Refusal := scalarBin (Instr.info (.sadd f)) f (· + ·) s
def execSaddImm (f : FSI) (s : State) : Host.Outcome State Fault Refusal := scalarBinI (Instr.info (.saddImm f)) f (· + ·) s
/-- SSUB (11 R111). -/
def execSsub (f : FS) (s : State) : Host.Outcome State Fault Refusal := scalarBin (Instr.info (.ssub f)) f (· - ·) s
def execSsubImm (f : FSI) (s : State) : Host.Outcome State Fault Refusal := scalarBinI (Instr.info (.ssubImm f)) f (· - ·) s
/-- SMUL (11 R111). -/
def execSmul (f : FS) (s : State) : Host.Outcome State Fault Refusal := scalarBin (Instr.info (.smul f)) f (· * ·) s
def execSmulImm (f : FSI) (s : State) : Host.Outcome State Fault Refusal := scalarBinI (Instr.info (.smulImm f)) f (· * ·) s
/-- SMULHI: signed unless MOD[0] (11 R111). -/
def execSmulhi (f : FS) (s : State) : Host.Outcome State Fault Refusal := scalarBin (Instr.info (.smulhi f)) f (mulhi32 (f.mod.getLsbD 0)) s
/-- SAND, SOR, SXOR (11 R111). -/
def execSand (f : FS) (s : State) : Host.Outcome State Fault Refusal := scalarBin (Instr.info (.sand f)) f (· &&& ·) s
def execSandImm (f : FSI) (s : State) : Host.Outcome State Fault Refusal := scalarBinI (Instr.info (.sandImm f)) f (· &&& ·) s
def execSor (f : FS) (s : State) : Host.Outcome State Fault Refusal := scalarBin (Instr.info (.sor f)) f (· ||| ·) s
def execSorImm (f : FSI) (s : State) : Host.Outcome State Fault Refusal := scalarBinI (Instr.info (.sorImm f)) f (· ||| ·) s
def execSxor (f : FS) (s : State) : Host.Outcome State Fault Refusal := scalarBin (Instr.info (.sxor f)) f (· ^^^ ·) s
def execSxorImm (f : FSI) (s : State) : Host.Outcome State Fault Refusal := scalarBinI (Instr.info (.sxorImm f)) f (· ^^^ ·) s
/-- SSHL, SSHR, SSAR (11 R111). -/
def execSshl (f : FS) (s : State) : Host.Outcome State Fault Refusal := scalarBin (Instr.info (.sshl f)) f shl32 s
def execSshlImm (f : FSI) (s : State) : Host.Outcome State Fault Refusal := scalarBinI (Instr.info (.sshlImm f)) f shl32 s
def execSshr (f : FS) (s : State) : Host.Outcome State Fault Refusal := scalarBin (Instr.info (.sshr f)) f shr32 s
def execSshrImm (f : FSI) (s : State) : Host.Outcome State Fault Refusal := scalarBinI (Instr.info (.sshrImm f)) f shr32 s
def execSsar (f : FS) (s : State) : Host.Outcome State Fault Refusal := scalarBin (Instr.info (.ssar f)) f sar32 s
def execSsarImm (f : FSI) (s : State) : Host.Outcome State Fault Refusal := scalarBinI (Instr.info (.ssarImm f)) f sar32 s
/-- SMIN, SMAX: signed unless MOD[0] (11 R111). -/
def execSmin (f : FS) (s : State) : Host.Outcome State Fault Refusal := scalarBin (Instr.info (.smin f)) f (min32 (f.mod.getLsbD 0)) s
def execSminImm (f : FSI) (s : State) : Host.Outcome State Fault Refusal := scalarBinI (Instr.info (.sminImm f)) f (min32 (f.mod.getLsbD 0)) s
def execSmax (f : FS) (s : State) : Host.Outcome State Fault Refusal := scalarBin (Instr.info (.smax f)) f (max32 (f.mod.getLsbD 0)) s
def execSmaxImm (f : FSI) (s : State) : Host.Outcome State Fault Refusal := scalarBinI (Instr.info (.smaxImm f)) f (max32 (f.mod.getLsbD 0)) s
/-- SCMP (11 R112). -/
def execScmp (f : FS) (s : State) : Host.Outcome State Fault Refusal :=
  scalarBin (Instr.info (.scmp f)) f (fun a b => boolMask (scmpHolds f.mod.toNat a b)) s
def execScmpImm (f : FSI) (s : State) : Host.Outcome State Fault Refusal :=
  scalarBinI (Instr.info (.scmpImm f)) f (fun a b => boolMask (scmpHolds f.mod.toNat a b)) s
/-- SSEL: bit by bit (11 R111). -/
def execSsel (f : FS) (s : State) : Host.Outcome State Fault Refusal :=
  scalarOp (Instr.info (.ssel f)) f.sd
    (fun g => (g.rs f.sa.toNat &&& g.rs f.sc.toNat) ||| (g.rs f.sb.toNat &&& ~~~(g.rs f.sc.toNat))) s
/-- SPOPC (11 R111). -/
def execSpopc (f : FS) (s : State) : Host.Outcome State Fault Refusal :=
  scalarOp (Instr.info (.spopc f)) f.sd (fun g => BitVec.ofNat 32 (popc (g.rs f.sa.toNat))) s
/-- SCLZ (11 R111). -/
def execSclz (f : FS) (s : State) : Host.Outcome State Fault Refusal :=
  scalarOp (Instr.info (.sclz f)) f.sd (fun g => BitVec.ofNat 32 (clz32 (g.rs f.sa.toNat))) s
/-- SBFX (11 R111). -/
def execSbfx (f : FS) (s : State) : Host.Outcome State Fault Refusal :=
  scalarOp (Instr.info (.sbfx f)) f.sd
    (fun g => bfx32 (f.mod.getLsbD 0) (g.rs f.sa.toNat) (g.rs f.sb.toNat) (g.rs f.sc.toNat)) s

/-- The codes of SGET role (05 R54). -/
def roleCode : Role → W32
  | .vector => 0
  | .feed => 1
  | .matrix => 2

/-- The launch record of a group's task. -/
def State.lrecOf (s : State) (g : Group) : BitVec 512 := (s.task (s.teamOf g).task).lrec

/-- The value of an SGET selector (05 R54). -/
def sgetValue (s : State) (g : Group) (sel : Nat) : W32 :=
  let t := s.teamOf g
  match sel with
  | 0 => BitVec.ofNat 32 (lowest g.mask)
  | 1 => lane g.tids (lowest g.mask)
  | 2 => BitVec.ofNat 32 g.gid
  | 3 => BitVec.ofNat 32 t.linear
  | 4 =>
    let l := s.lrecOf g
    let n := (getBits l 0xA0 32).toNat * (getBits l 0xC0 32).toNat * (getBits l 0xE0 32).toNat
    BitVec.ofNat 32 (if n = 2 ^ 31 then n - 1 else n)
  | 5 => BitVec.ofNat 32 t.x
  | 6 => BitVec.ofNat 32 t.y
  | 7 => BitVec.ofNat 32 t.z
  | 8 => roleCode g.role
  | 9 => BitVec.ofNat 32 (t.groups.filter fun p => (s.group p.2).status == .live).length
  | 10 => g.key
  | 11 => g.engseq.setWidth 32
  | _ => BitVec.ofNat 32 s.cycle

/-- SGET: a read-only value of the group (05 R54, 11 R113). -/
def execSget (f : FSI) (s : State) : Host.Outcome State Fault Refusal :=
  let i := Instr.info (.sget f)
  issue i never never (whenActive i fun s g => .done (s.setCur (g.ws f.sd.toNat (sgetValue s g f.imm.toNat)))) s

end Sys2Proof.Machine
end

