-- ==== Sys2Proof/Machine/Control.lean ====
section
/-! DEFINITION. Branches, the divergence stack with its spill area, brackets, WAIT and YIELD, team barriers, EXIT, the arrival at REGROUP and TRAP (03_execution.md R29 to R42; 11_isa_control.md R114 to R131). -/

namespace Sys2Proof.Machine

/-! ### The divergence stack and its spill area (03 R32) -/

/-- SPILLN of a launch record (03 R19). -/
def lrecSpillN (l : BitVec 512) : Nat := (getBits l 352 16).toNat
/-- SPILLB of a launch record (03 R19). -/
def lrecSpillB (l : BitVec 512) : Nat := (getBits l 384 64).toNat
/-- Slots of a team: V + F + M + P (03 R17). -/
def Team.slots (t : Team) : Nat := t.nvec + t.nfeed + t.nmtx + t.spare

/-- The address of the spill entry that holds stack entry `idx`, counted from the bottom; entries 0 to 31 are on chip (03 R32). -/
def State.spillAddr (s : State) (g : Group) (idx : Nat) : Nat :=
  let t := s.teamOf g
  let l := s.lrecOf g
  lrecSpillB l + (t.linear * t.slots + g.gid) * lrecSpillN l * 32 + (idx - 32) * 32

/-- A stack entry as 32 bytes: PC, RCV, mask, zero (03 R32). -/
def entryNat (e : StackEntry) : Nat := e.pc.toNat + e.rcv.toNat * 2 ^ 64 + e.mask.toNat * 2 ^ 128

/-- Writes a stack entry to the spill area where it lies beyond the 32 on chip, in two aligned 16-byte pieces (03 R32, 15 R169). -/
def State.spillWrite (s : State) (g : Group) (idx : Nat) (e : StackEntry) : MemR Unit :=
  if idx < 32 then .ok (s, ())
  else
    let a := s.spillAddr g idx
    match s.storeAt (s.reqOf g a) 0 0 16 (entryNat e) with
    | .error er => .error er
    | .ok (s1, _) => s1.storeAt (s1.reqOf g (a + 16)) 0 0 16 (entryNat e / 2 ^ 128)

/-- An access to the spill area that stopped: why, whether it is a write, and its address (25 R269). -/
structure SpillErr where
  err   : MemErr
  write : Bool
  va    : Nat

/-- What an access to the spill area gives. -/
abbrev SpillR (α : Type) := Except SpillErr (State × α)

/-- Writes the listed entries (index, entry). -/
def State.spillWrites (s : State) (g : Group) : List (Nat × StackEntry) → SpillR Unit
  | [] => .ok (s, ())
  | (i, e) :: t => match s.spillWrite g i e with
    | .error er => .error ⟨er, true, s.spillAddr g i⟩
    | .ok (s1, _) => s1.spillWrites g t

/-- Reads spill entry `idx` back, its mask as memory holds it; a poisoned line stops it (01 R15, 03 R32). -/
def State.spillRead (s : State) (g : Group) (idx : Nat) : SpillR StackEntry :=
  let a := s.spillAddr g idx
  match s.loadAt (s.reqOf g a) 0 0 16 with
  | .error er => .error ⟨er, false, a⟩
  | .ok (s1, (lo, p)) =>
    match s1.loadAt (s1.reqOf g (a + 16)) 0 0 16 with
    | .error er => .error ⟨er, false, a + 16⟩
    | .ok (s2, (hi, _)) =>
      if p then .error ⟨.poison, false, a⟩
      else .ok (s2, { pc := BitVec.ofNat 64 lo, rcv := BitVec.ofNat 64 (lo / 2 ^ 64), mask := BitVec.ofNat 32 hi })

/-- The stack, top first, once its top is on chip: a spilled top is read back with its mask ANDed with the non-exited lanes, and popped at once where that leaves it empty (03 R32). -/
def State.settle (s : State) (g : Group) : List StackEntry → SpillR (List StackEntry)
  | [] => .ok (s, [])
  | e :: t =>
    if t.length < 32 then .ok (s, e :: t)
    else
      match s.spillRead g t.length with
      | .error er => .error er
      | .ok (s1, r) =>
        let m := r.mask &&& ~~~g.exited
        if m = 0 then s1.settle g t else .ok (s1, { r with mask := m } :: t)

/-- The lanes `out i` leave entry `i`, counted from the bottom, of the listed entries, bottom first; entries other than the base that become empty are popped, and spilled entries above a popped one move down with it: one that comes to stand on chip is read back with its mask ANDed with the non-exited lanes, another goes to its new place with the mask that memory held (03 R31, R32; assumption log 25). The result is the stack, top first. -/
def State.restack (s : State) (g : Group) (out : Nat → Lanes) : List (Nat × StackEntry) → List StackEntry → SpillR (List StackEntry)
  | [], acc => .ok (s, acc)
  | (i, e) :: t, acc =>
    if i < 32 then
      let m := e.mask &&& ~~~out i
      if m = 0 && i != 0 then s.restack g out t acc else s.restack g out t ({ e with mask := m } :: acc)
    else if acc.length = i && out i = 0 then s.restack g out t (e :: acc)
    else
      match s.spillRead g i with
      | .error er => .error er
      | .ok (s1, r) =>
        let m := r.mask &&& ~~~out i &&& (if acc.length < 32 then ~~~g.exited else ~~~(0 : Lanes))
        if m = 0 then s1.restack g out t acc
        else
          match s1.spillWrites g [(acc.length, { r with mask := m })] with
          | .error er => .error er
          | .ok (s2, _) => s2.restack g out t ({ r with mask := m } :: acc)

/-- The entries of a stack with their numbers, bottom first. -/
def numbered (stack : List StackEntry) : List (Nat × StackEntry) := stack.reverse.zipIdx.map fun p => (p.2, p.1)

/-- What a fault, a violation or a wait in the spill area does to the BRD, JOIN, EXIT, CALL or RET that met it: a replayable fault parks the group there, a violation is recorded and traps; none of the instruction's effect is taken (03 R32, 25 R267, R270). -/
def spillStop (s : State) (pc : VA) (e : SpillErr) : Eff :=
  let kind := if e.write then 1 else 0
  match e.err with
  | .fault cause =>
    let (n, s1) := s.groupFault s.who 2 cause kind e.va pc 0
    .stall (s1.setCur { s1.cur with wait := .spillFault (some n) })
  | .violation => .fail ((s.seen (s.reqOf s.cur e.va)).groupFault s.who 2 0x40 kind e.va pc 0).2 causeProtection 0
  | .wait => .stall (s.setCur (s.waitsAt s.cur e.va (32 + kind)))
  | .poison => .trap causePoison 0
  | .remote => .trap causeRemoteError 0

/-- Puts a stack in place of the group's, and its modified entries beyond the 32 on chip into the spill area; a push beyond 32 + SPILLN entries kills (03 R32). The path count restarts at each push and pop (03 R33). -/
def pushStack (s : State) (g : Group) (stack : List StackEntry) (changed : List (Nat × StackEntry)) (pc target : VA) : Eff :=
  if stack.length > 32 + lrecSpillN (s.lrecOf g) then .kill causeIllegal
  else
    match s.spillWrites g changed with
    | .error e => spillStop s pc e
    | .ok (s1, _) => .goto (s1.setCur { s1.cur with stack := stack, pathCount := 0 }) target

/-- Continues at the new top entry's PC under its mask once entries have been popped (03 R30): `s` is the state before the instruction, `s1` the one in which its stack is settled, `f` what else it does to its group. -/
def popStack (s s1 : State) (g : Group) (f : Group → Group) (stack : List StackEntry) (pc : VA) : Eff :=
  match s1.settle g stack with
  | .error e => spillStop s pc e
  | .ok (s2, st) => .goto (s2.setCur { f s2.cur with stack := st, pathCount := 0 }) ((st.headD {}).pc.setWidth 57)

/-- The PC of the word under way. -/
def Group.herePc (g : Group) : VA := match g.clause with | some c => wordPc g c | none => g.pc
/-- The header of the next clause in sequence. -/
def Group.nextPc (g : Group) : VA := match g.clause with | some c => nextHeader g c | none => g.pc

/-- An open WIDEN bracket makes the instruction an illegal use (03 R35). -/
def inBracket (_ : State) (g : Group) : Bool := g.widen.isSome

/-! ### Branches -/

/-- BRA: the whole path moves where some lane's condition holds (11 R115). -/
def execBra (f : FB) (s : State) : Host.Outcome State Fault Refusal :=
  issue (Instr.info (.bra f)) never never
    (fun s g => .goto s (if g.mask &&& g.pred (f.prs.toNat, f.pneg) != 0 then branchTarget g.pc f.tgt else g.nextPc)) s

/-- BRD: splits the path; the fall-through runs first (03 R29, 11 R116). -/
def execBrd (f : FB) (s : State) : Host.Outcome State Fault Refusal :=
  issue (Instr.info (.brd f)) inBracket never
    (fun s g =>
      let l := g.mask
      let t := l &&& g.pred (f.prs.toNat, f.pneg)
      let n := l &&& ~~~t
      let tgt := branchTarget g.pc f.tgt
      let rcv := (rcvTarget g.pc f.rcv).setWidth 64
      if t = 0 then .goto s g.nextPc
      else if n = 0 then .goto s tgt
      else
        let top := { g.top with pc := rcv }
        let below := g.stack.drop 1
        let d := below.length
        let e1 : StackEntry := { pc := tgt.setWidth 64, mask := t, rcv := rcv }
        let e2 : StackEntry := { pc := g.nextPc.setWidth 64, mask := n, rcv := rcv }
        pushStack s g (e2 :: e1 :: top :: below) [(d, top), (d + 1, e1), (d + 2, e2)] g.herePc g.nextPc) s

/-- BRI: an indirect transfer (11 R117). Of its two traps PROTECTION comes first (assumption log 50). They carry TARG 0: it acts once for the group, though the list of group-level operations of 27 R281 does not name it (assumption log 50). -/
def execBri (f : FS) (s : State) : Host.Outcome State Fault Refusal :=
  issue (Instr.info (.bri f)) inBracket never
    (fun s g =>
      let hi := g.rs f.sb.toNat
      let a := hi ++ g.rs f.sa.toNat
      if hi.extractLsb' 25 7 != 0 then .trap causeProtection 0
      else if a.extractLsb' 0 3 != 0 then .trap causeMisalign 0
      else .goto s (a.setWidth 57)) s

/-- CALL: pushes a frame entry and transfers the path (11 R119). -/
def execCall (f : FB) (s : State) : Host.Outcome State Fault Refusal :=
  issue (Instr.info (.call f)) inBracket never
    (fun s g =>
      let top := { g.top with pc := g.nextPc.setWidth 64 }
      let below := g.stack.drop 1
      let e : StackEntry := { pc := 0, mask := g.mask, rcv := 3 }
      pushStack s g (e :: top :: below) [(below.length, top), (below.length + 1, e)] g.herePc (branchTarget g.pc f.tgt)) s

/-- The entries of a stack, top first, from the top down to the highest frame entry, and the rest; none where there is no frame entry (11 R120). -/
def splitFrame : List StackEntry → Option (List StackEntry × List StackEntry)
  | [] => none
  | e :: t => if e.rcv = 3 then some ([e], t) else (splitFrame t).map fun p => (e :: p.1, p.2)

/-- RET: the path's lanes leave every entry down to the frame, and entries left empty are popped (11 R120). -/
def execRet (s : State) : Host.Outcome State Fault Refusal :=
  issue (Instr.info .ret) inBracket never
    (fun s g =>
      match splitFrame g.stack with
      | none => .kill causeIllegal
      | some (_, rest) =>
        match s.restack g (fun i => if rest.length ≤ i then g.mask else 0) ((numbered g.stack).drop rest.length) rest with
        | .error e => spillStop s g.herePc e
        | .ok (s1, stack) => popStack s s1 g id stack g.herePc) s

/-- JOIN: pops the top entry whose reconvergence address is this clause's header; the rest of the clause is not executed by that path (03 R30, 11 R121). -/
def execJoin (s : State) : Host.Outcome State Fault Refusal :=
  issue (Instr.info .join) inBracket never
    (fun s g =>
      if g.top.rcv = g.pc.setWidth 64 ∧ g.stack.length > 1 then popStack s s g id (g.stack.drop 1) g.herePc
      else .done s) s

/-! ### Brackets, waits and yielding -/

/-- WIDEN: opens a bracket over every non-exited lane (03 R35, 11 R123). -/
def execWiden (s : State) : Host.Outcome State Fault Refusal :=
  issue (Instr.info .widen) inBracket never (onGroup fun g => { g with widen := some g.mask }) s

/-- NARROW: restores the saved mask and closes the bracket (03 R35, 11 R123). -/
def execNarrow (s : State) : Host.Outcome State Fault Refusal :=
  issue (Instr.info .narrow) (fun _ g => g.widen.isNone) never (onGroup fun g => { g with widen := none }) s

/-- WAIT: its waits are added to those of the clause that follows, whatever ACTIVE holds (09 R85, 11 R124). -/
def execWait (f : FW) (s : State) : Host.Outcome State Fault Refusal :=
  issue (Instr.info (.wait f)) never never (onGroup fun g => { g with waits := combine g.waits f }) s

/-- YIELD: ends its clause as if YLD were 1 and makes the group the youngest of its active set (11 R125). -/
def execYield (s : State) : Host.Outcome State Fault Refusal :=
  issue (Instr.info .yield) never never
    (fun s g => let (n, s1) := s.fresh; .done (s1.setCur { g with yielded := true, age := n })) s

/-! ### Team barriers -/

/-- A store, atomic or VRED. -/
def AccKind.writes : AccKind → Bool
  | .store | .storeX | .atomic _ _ _ | .stcnd => true
  | _ => false

/-- The group has an earlier access that is not performed: an arrival waits for every store, atomic and VRED and for TSTS and CSTS, and for its loads too, so that every access before it happens-before those that follow the release (11 R127, 23 R248; assumption log 36). A remote store is performed at team scope once it is in the write-combining buffer (15 R173). -/
def Group.unperformed (g : Group) : Bool :=
  (g.pend.any fun p => p.lanes.any fun a => !a.performed && !a.failed) ||
  g.moves.any fun m => !m.done && m.locs != []

/-- One arrival at a barrier: counted in the current phase, or carried; none where the group already carries one (03 R37). The number is that of the phase whose completion releases the group. -/
def Barrier.arrive (b : Barrier) (gid : Nat) : Option (Barrier × Nat) :=
  if b.arr.contains gid then
    if b.carried.contains gid then none
    else some ({ b with carried := ninsert b.carried gid }.eval, b.phases + 2)
  else some ({ b with arr := ninsert b.arr gid }.eval, b.phases + 1)

/-- BAR: arrives as a release at team scope and waits for the phase to complete (11 R126, R127). While an earlier access is unperformed the word is held, so no later word of the group issues before its arrival is counted (assumption log 36). Arrivals of a cycle are counted before a write of E in it is evaluated, so none follows that write in its cycle (05 R60). -/
def execBar (f : FS) (s : State) : Host.Outcome State Fault Refusal :=
  let i := Instr.info (.bar f)
  let n := f.mod.toNat
  issue i never never (whenActive i fun s g =>
    if g.unperformed then .stall (if g.faultParked then s.setCur { g with wait := .fault } else s)
    else
      let t := s.teamOf g
      if tget t.barDone n == some (s.cycle, true) then .stall s
      else match (t.bar n).arrive g.gid with
      | some (b, u) => .done ((s.setTeam g.team { t with bars := tset t.bars n b, barDone := t.barNoted n b s.cycle false }).setCur { g with wait := .bar n u })
      | none => .done (s.setCur { g with wait := .barCarry n ((t.bar n).phases + 1) })) s

/-- BARRIVE: arrives and continues (11 R126, R127), held at its word while an earlier access is unperformed (assumption log 36); where the group already carries an arrival it first waits for the phase to complete, a long-latency wait in its clause, and then arrives again (03 R27, R37). -/
def execBarrive (f : FS) (s : State) : Host.Outcome State Fault Refusal :=
  let i := Instr.info (.barrive f)
  let n := f.mod.toNat
  issue i never never (whenActive i fun s g =>
    if g.unperformed then .stall (if g.faultParked then s.setCur { g with wait := .fault } else s)
    else
      let t := s.teamOf g
      if tget t.barDone n == some (s.cycle, true) then .stall s
      else match (t.bar n).arrive g.gid with
      | some (b, _) => .done (s.setTeam g.team { t with bars := tset t.bars n b, barDone := t.barNoted n b s.cycle false })
      | none => .stall (s.setCur { g with wait := .barCarry n ((t.bar n).phases + 1) })) s

/-! ### Leaving, regrouping, trapping -/

/-- EXIT: the lanes whose condition holds leave every entry on chip; the path goes on, or the next one runs, or the group has no lane left and will retire (03 R31, R32; 11 R128). Where the spill area stops it, none of this has happened. -/
def execExit (f : FB) (s : State) : Host.Outcome State Fault Refusal :=
  issue (Instr.info (.exit f)) inBracket never
    (fun s g =>
      let l := g.mask
      let x := l &&& g.pred (f.prs.toNat, f.pneg)
      if x == 0 then .done s
      else
        let g1 := { g with exited := g.exited ||| x }
        let leave := fun (h : Group) => { h with exited := h.exited ||| x, resv := h.resv.filter fun p => !inSet x p.1 }
        let out := fun i => if i < 32 then x else 0
        if g1.exited == 0xFFFFFFFF then .goto (s.setCur { leave g with stack := [{ (g.stack.getLast?).getD {} with mask := 0 }] }) g.pc
        else if l &&& ~~~x != 0 then
          match s.restack g1 out (numbered g.stack) [] with
          | .error e => spillStop s g.herePc e
          | .ok (s1, stack) => .done (s1.setCur { leave s1.cur with stack := stack })
        else
          match s.restack g1 out (numbered (g.stack.drop 1)) [] with
          | .error e => spillStop s g.herePc e
          | .ok (s1, stack) => popStack s s1 g1 leave stack g.herePc) s

/-- REGROUP, up to the arrival: the participant waits at the word until the exchange (03 R39, R42; 11 R129, R130). -/
def execRegroup (f : FV) (s : State) : Host.Outcome State Fault Refusal :=
  issue (Instr.info (.regroup f))
    (fun _ g => g.nv ≤ f.va.toNat || g.nv ≤ f.vc.toNat || g.widen.isSome || g.stack.length != 1)
    (fun _ g => g.rvp f.va.toNat &&& ~~~g.exited != 0)
    (fun s g =>
      let t := s.teamOf g
      if (t.regroup.map (·.1)).getD g.herePc != g.herePc then .kill causeIllegal
      else .stall ((s.setTeam g.team { t with regroup := some (g.herePc, .regroup f), arrived := ninsert t.arrived g.gid }).setCur
        { g with wait := .regroup })) s

/-- TRAP: raises SOFTWARE after itself (11 R131). -/
def execTrap (f : FSI) (s : State) : Host.Outcome State Fault Refusal :=
  let i := Instr.info (.trap f)
  issue i never never (whenActive i fun s _ => .soft s causeSoftware f.imm) s

end Sys2Proof.Machine
end

