-- ==== Sys2Proof/Machine/Sched.lean ====
section
/-! DEFINITION. The schedulers: fetch, the begin of a clause with its waits, breakpoints and trace records, the active and pending sets, swaps, and the switch of divergent paths (03_execution.md R25 to R28, R33; 09 R82 to R86; 11 R122, R124; 33 R329 to R333). -/

namespace Sys2Proof.Machine

/-! ### Comparators and records of a core (33 R329 to R333) -/

/-- PCBRKn and its owner as an instruction that issues now is compared with them: a write applies from the cycle after it (33 R329, R330). -/
def State.brkNow (s : State) (core n : Nat) : W64 × Option Nat :=
  let k := s.core core
  let now := (tgetD k.brk n 0, tget k.brkOwner n)
  match tget k.brkOld n with
  | some (old, at_) => if at_ = s.cycle then old else now
  | none => now

/-- The comparators that hit on the word of group `u` that issues next, ascending (33 R330). -/
def State.hits (s : State) (u : Nat) : List Nat :=
  let g := s.group u
  match g.clause with
  | none => []
  | some c =>
    if g.mode == .sysHandler || g.bpSkip then []
    else
      let core := s.coreOf g
      (List.range 8).filter fun n =>
        let (b, owner) := s.brkNow core n
        b.getLsbD 63 && getBits b 0 53 == getBits (wordPc g c) 3 53 && b.getLsbD (59 + g.gid % 4) &&
        (b.getLsbD 58 || (getBits b 53 5).toNat == g.gid) && owner == some (s.teamOf g).ctx

/-- SAMPCTL fields (33 R331). -/
def sampEn (x : W64) : Bool := x.getLsbD 63
def sampInterval (x : W64) : Nat := 2 ^ min 20 (max 6 (getBits x 58 5).toNat)
def sampSize (x : W64) : Nat := (getBits x 54 4).toNat
def sampTrc (x : W64) : Bool := x.getLsbD 45
def sampBuf (x : W64) : Nat := (getBits x 0 45).toNat * 4096

/-- A device-scope store of 8 bytes in colour 0 by a core for its sampling owner; none where it would fault (33 R333). -/
def State.sampStore (s : State) (core va x : Nat) : Option State :=
  let owner := (s.core core).sampOwner
  if isRemote va then none
  else
    match s.storeAt ⟨core, owner, tagAsid (s.ctx owner).asid va, va⟩ 3 0 8 x with
    | .ok (s1, _) => some (s1.charge owner false 8)
    | .error _ => none

/-- The sampling owner has used up its HBM budget, so that a record would wait (31 R326; 33 R333). -/
def State.sampWaits (s : State) (core : Nat) : Bool :=
  let c := (s.ctx (s.core core).sampOwner).inPeriod s.cycle
  overBudget c.useHbm c.budget.hbm

/-- The 8 bytes at an address as the sampling owner reads them at device scope. -/
def State.sampLoad (s : State) (core va : Nat) : Option (State × Nat) :=
  let owner := (s.core core).sampOwner
  match s.loadAt ⟨core, owner, tagAsid (s.ctx owner).asid va, va⟩ 3 0 8 with
  | .ok (s1, (x, _)) => some (s1, x)
  | .error _ => none

/-- Does something for a context without regard to its budget, to which it is still charged (31 R326; 33 R333). -/
def State.unbudgeted (s : State) (ctx : Nat) (f : State → State) : State :=
  let c := (s.ctx ctx).inPeriod s.cycle
  let s1 := f (s.setCtx ctx { c with budget := { period := c.budget.period } })
  s1.setCtx ctx { s1.ctx ctx with budget := c.budget }

/-- Counts the dropped records of a core in its buffer's header; while the header cannot be written, the core keeps the count (33 R333). -/
def State.countDrops (s : State) (core : Nat) : State :=
  let d := (s.core core).sampLost
  let a := sampBuf (s.core core).samp + 8
  if d = 0 then s
  else s.unbudgeted (s.core core).sampOwner fun s =>
    match s.sampLoad core a with
    | none => s
    | some (s1, n) =>
      match s1.sampStore core a ((n + d) % 2 ^ 64) with
      | none => s
      | some s2 => s2.setCore core { s2.core core with sampLost := 0 }

/-- Writes a sample or trace record of two 64-bit words into the buffer, and counts it; one that would fault or wait is dropped and counted, whatever the budget (33 R333). -/
def State.writeSample (s : State) (core lo hi : Nat) : State :=
  let x := (s.core core).samp
  let buf := sampBuf x
  let drop (s : State) : State := (s.setCore core { s.core core with sampLost := (s.core core).sampLost + 1 }).countDrops core
  match (if s.sampWaits core then none else s.sampLoad core buf) with
  | none => drop s
  | some (s1, n) =>
    let a := buf + 16 + 16 * (n % (2 ^ (sampSize x + 8) - 1))
    match s1.sampStore core a lo with
    | none => drop s
    | some s2 =>
      match s2.sampStore core (a + 8) hi with
      | none => drop s
      | some s3 => (s3.sampStore core buf ((n + 1) % 2 ^ 64)).getD s3

/-- The words of a record (33 R333). -/
def recordLo (cmp sch iss stall pcw : Nat) : Nat := cmp * 2 ^ 61 + sch * 2 ^ 59 + iss * 2 ^ 58 + stall * 2 ^ 53 + pcw % 2 ^ 53
def recordHi (time core tr gid eseq : Nat) : Nat := time % 2 ^ 16 * 2 ^ 48 + core * 2 ^ 40 + tr * 2 ^ 39 + gid * 2 ^ 32 + eseq % 2 ^ 32

/-- The trace record of a hit: ISS 1, STALL 0 (33 R333). -/
def State.traceRecord (s : State) (u cmp : Nat) : State :=
  let g := s.group u
  let core := s.coreOf g
  let pc := match g.clause with | some c => wordPc g c | none => g.pc
  s.writeSample core (recordLo cmp (g.gid % 4) 1 0 (pc.toNat / 8)) (recordHi s.cycle core 1 g.gid g.engseq.toNat)

/-! ### Fetch (09 R82; 11 R122; 25 R264, R267) -/

/-- The instruction cache of a core keeps a line, in the place of a free one of its 1,024 lines where it is full (01 R6, R10; assumption log 37). -/
def State.keepCode (s : State) (core key : Nat) (l : Line) : State :=
  let k := s.core core
  if k.icache.length < 1024 then s.setCore core { k with icache := tset k.icache key l }
  else
    let s1 := s.setCore core { k with icache := tset (match k.icache[Config.freeNat s.free % 1024]? with | some p => tdel k.icache p.1 | none => k.icache) key l }
    { s1 with free := s.free + 1 }

/-- A fetched line, from the instruction cache of the core or through its die's LLC; a fetch needs X, and traps on a poisoned line as every consumer does (01 R15, 25 R278). -/
def State.fetchLine (s : State) (r : Req) : MemR Line :=
  match tget (s.core r.core).icache r.key with
  | some l => .ok (s, l)
  | none =>
    match s.llcRead r with
    | .error e => .error e
    | .ok (s1, l) =>
      if !l.attrs.x then .error .violation
      else if l.poison then .error .poison
      else .ok (s1.keepCode r.core r.key l.data, l.data)

/-- The word at a PC; code is never fetched from a peer (11 R122). -/
def State.fetchWord (s : State) (g : Group) (pc : VA) : MemR W64 :=
  if isRemote pc.toNat then .error .violation else
  match s.fetchLine (s.reqOf g pc.toNat) with
  | .error e => .error e
  | .ok (s1, l) => .ok (s1, BitVec.ofNat 64 (lineNat l (pc.toNat % 128) 8))

/-- `n` consecutive words from a PC on; an error names the address that met it. -/
def State.fetchWords (s : State) (g : Group) (pc : VA) : Nat → Except (MemErr × Nat) (State × List W64)
  | 0 => .ok (s, [])
  | n + 1 =>
    match s.fetchWord g pc with
    | .error e => .error (e, pc.toNat)
    | .ok (s1, w) =>
      match s1.fetchWords g (pc + 8) n with
      | .error e => .error e
      | .ok (s2, ws) => .ok (s2, w :: ws)

/-- What a fetch at a header gives. -/
inductive Fetched where
  | stop (e : MemErr) (va : Nat)
  | remote
  | bad
  | clause (s : State) (h : Header) (ws : List W64)

/-- What names a clause in a loop buffer: the tag and the address of its header. -/
def loopKey (r : Req) : Nat := r.asid * 2 ^ 57 + r.va
/-- A scheduler's loop buffer keeps the 16 clauses that it fetched last (01 R6, R10; assumption log 37). -/
def Core.keepLoop (k : Core) (sched key : Nat) (ws : List W64) : Core := { k with loops := tset k.loops sched (((key, ws) :: tgetD k.loops sched []).take 16) }

/-- Fetches the clause at the group's PC: no fetch is made in the remote window, a clause that the scheduler's loop buffer holds is taken from there, and a bad header stops it (09 R84, 11 R122, 27 R294). -/
def State.fetchClause (s : State) (g : Group) : Fetched :=
  if isRemote g.pc.toNat then .remote
  else
    let r := s.reqOf g g.pc.toNat
    match (tgetD (s.core r.core).loops (g.gid % 4) []).find? (·.1 == loopKey r) with
    | some (_, h :: ws) => match decodeHeader h with | some hd => .clause s hd ws | none => .bad
    | _ =>
      match s.fetchWord g g.pc with
      | .error e => .stop e g.pc.toNat
      | .ok (s1, h) =>
        match decodeHeader h with
        | none => .bad
        | some hd =>
          match s1.fetchWords g (g.pc + 8) (hd.cnt.toNat + 1) with
          | .error (e, va) => .stop e va
          | .ok (s2, ws) => .clause (s2.setCore r.core ((s2.core r.core).keepLoop (g.gid % 4) (loopKey r) (h :: ws))) hd ws

/-! ### Readiness (03 R26; 09 R85) -/

/-- The full and empty phase bits of a ring as an RWAIT sees them: a flip of a cycle is seen from the next one on (21 R231). -/
def Ring.seen (r : Ring) (cycle : Nat) : BitVec 16 × BitVec 16 := if r.flipAt == some cycle then (r.fph0, r.eph0) else (r.fph, r.eph)

/-- The phase bit that an RWAIT waits for has the expected value (21 R231). -/
def Team.ringMet (t : Team) (cycle ring stage : Nat) (full phase : Bool) : Bool :=
  let r := (tgetD t.rings ring {}).seen cycle
  (if full then r.1 else r.2).getLsbD stage == phase

/-- Mirrored writes of a context, or made by it to a global page that another mapped, of colours `cols`, produced before `upto`, that the buddy has not acknowledged (21 R239, 29 R313). -/
def State.mirrorsOpen (s : State) (ctx : Nat) (cols : Byte) (upto : Nat) : Bool :=
  s.ctxs.any fun p => p.2.mirrors.any fun m => (p.1 == ctx || m.2.2 == ctx) && m.1 < upto && m.2.1 &&& cols != 0
/-- A MIRROR of the context ends with REMOTE_ERROR: its mirror is broken, or a mirrored write of its own to another's global page was refused (29 R313; assumption log 42). -/
def Ctx.mirrorBad (c : Ctx) : Bool := c.broken || c.mirrorFail

/-- What a group waits for beyond its clause's waits is satisfied. -/
def State.gateOpen (s : State) (g : Group) : Bool :=
  let t := s.teamOf g
  match g.wait with
  | .none => true
  | .bar n u => u ≤ (t.bar n).phases
  | .barCarry n u => u ≤ (t.bar n).phases
  | .gbar _ tag => (s.ctxOf g).gbarDone.contains tag
  | .nrmrd (some j) _ => (tget (s.ctxOf g).normDone j).isSome
  | .mirror m upto _ _ _ => (s.ctxOf g).mirrorBad || !s.mirrorsOpen t.ctx (BitVec.ofNat 8 m) upto
  | .fetchFault (some r) _ => (s.recordReleased g r).isSome
  | _ => false

/-- A trap, or a kill, that the group meets at the boundary where it stands before any clause begins: a trap found after issue, the REMOTE_ERROR of a MIRROR, or what the fetch of the next header meets (11 R122; 17 R202; 21 R239; 27 R284). -/
def State.trapDue (s : State) (u : Nat) : Bool :=
  let g := s.group u
  g.clause.isNone && s.gateOpen g && !g.faultParked && !g.acqHeld &&
  ((g.armed != [] && g.resume.isNone) || ((g.wait matches .mirror _ _ _ _ _) && (s.ctxOf g).mirrorBad) ||
   ((g.wait matches .none | .bar _ _ | .fetchFault _ _) &&
    ((match g.wait with | .fetchFault (some r) _ => s.recordReleased g r == some true | _ => false) ||
     (match s.fetchClause g with | .remote => true | .bad => true | .stop .violation _ => true | .stop .poison _ => true | _ => false))))

/-- The group stands at a clause that its team lets begin: pre-emption holds a group at its next boundary, unless it is in the system handler, a trap is due first, or it goes on inside a clause, where it is at no boundary (27 R283, R284, R288). -/
def State.atBoundary (s : State) (u : Nat) : Bool :=
  let g := s.group u
  let t := s.teamOf g
  g.status == .live && g.clause.isNone && g.exited != 0xFFFFFFFF && t.live && !t.stopped.contains g.gid &&
  (t.save == .running || g.mode == .sysHandler || (t.save == .preempting && (g.resume.isSome || s.trapDue u)))

/-- The waits that the next clause begins under: its header's with those of a WAIT (09 R85). -/
def Group.allWaits (g : Group) (h : Header) : FW := combine g.waits h.wait

/-- A path switch is due: outside a bracket and a handler, the path has issued PATHQ instructions and the entry directly below the top has the same reconvergence address, which is no marker (03 R33, 11 R118). -/
def Group.switchDue (g : Group) : Bool :=
  g.resume.isNone && g.widen.isNone && g.mode == .user && g.pathq.toNat ≤ g.pathCount &&
  (match g.stack with
   | top :: below :: _ => top.rcv == below.rcv && top.rcv != 1 && top.rcv != 3
   | _ => false)

/-- The state after a path switch that is due; none where an entry beyond the 32 on chip cannot be read or written now, and the running path goes on (03 R32, R33; assumption log 25). -/
def State.switched (s : State) (u : Nat) : Option State :=
  let g := s.group u
  match g.switchDue, g.stack with
  | true, top :: below :: rest =>
    match s.settle g (below :: rest) with
    | .error _ => none
    | .ok (s1, st) =>
      if st.length == rest.length + 1 then
        let b := st.headD {}
        let t := { top with pc := g.pc.setWidth 64 }
        let d := rest.length
        match s1.spillWrites g [(d, t), (d + 1, b)] with
        | .error _ => none
        | .ok (s2, _) =>
          let g2 := s2.group u
          some (s2.setGroup u { g2 with stack := b :: t :: rest, pathCount := 0, pc := b.pc.setWidth 57, wait := .none,
                                        resv := g2.resv.filter fun p => !inSet t.mask p.1 })
      else none
  | _, _ => none

/-- A group with a clause under way that may issue its next word: it is not parked there, and its team has not stopped it (03 R26); the read of a layout record stalls the scheduler (19 R205). A group whose product runs is not ready (23 R255), and other groups issue meanwhile, as beside a parked one (assumption log 50). -/
def State.underWay (s : State) (u : Nat) : Bool :=
  let g := s.group u
  g.status == .live && g.clause.isSome && !(s.teamOf g).stopped.contains g.gid &&
  ((g.wait matches .record _ _) || (s.parkOf g != .blocked && (g.wait matches .none | .spillFault _ | .opFault _ | .fault | .barCarry _ _)))

/-- A path switch is to be made before the next clause: the group waits for nothing but that clause (03 R33). -/
def State.switchNow (s : State) (u : Nat) : Bool :=
  let g := s.group u
  (g.wait matches .none | .bar _ _) && s.gateOpen g && (s.switched u).isSome

/-- The group is ready: its next clause's waits are satisfied and it is not parked (03 R26); so is a group whose park inside a clause has ended. A trap that is due, and a fetch that faults, are met by the begin of the clause. -/
def State.ready (s : State) (u : Nat) : Bool :=
  let g := s.group u
  s.underWay u ||
  (s.atBoundary u && s.gateOpen g && !g.faultParked && !g.acqHeld && !s.switchNow u && (g.wait matches .none | .bar _ _ | .barCarry _ _ | .gbar _ _ | .nrmrd _ _ | .mirror _ _ _ _ _ | .fetchFault _ _) &&
  ((g.wait matches .barCarry _ _) || (g.armed != [] && g.resume.isNone) ||
    (match s.fetchClause g with
     | .stop .wait _ => false
     | .clause s1 h _ => g.resume.isSome || s1.waitsMet u (g.allWaits h)
     | _ => true)))

/-- The wait of a group at a boundary is a long-latency wait (03 R27). -/
def State.longWait (s : State) (u : Nat) : Bool :=
  let g := s.group u
  g.faultParked ||
  (match g.wait with
   | .none =>
     g.clause.isNone && g.resume.isNone && g.armed == [] &&
     (match s.fetchClause g with
      | .clause s1 h _ =>
        let w := g.allWaits h
        !(w.wld == 63 || g.loads ≤ w.wld.toNat) || !(w.wcp == 15 || s1.copiesFor g ≤ w.wcp.toNat) ||
        !((List.range 8).all fun t => !w.tokw.getLsbD t || s1.tokenFor g u t)
      | _ => false)
   | .bar _ _ | .barCarry _ _ => !s.gateOpen g
   | .rwait _ _ _ _ | .absent _ => true
   | .fault | .spillFault _ | .opFault _ => s.parkOf g == .blocked
   | .fetchFault _ _ => !s.gateOpen g
   | _ => false)

/-! ### The active and pending sets of a scheduler (03 R25 to R28) -/

/-- The group holds its slot: a killed one until its last operations have drained (03 R45, 09 R102). -/
def Group.holdsSlot (g : Group) : Bool := g.status == .live || (g.status == .killed && (g.pend != [] || g.moves != []))

/-- The resident groups of scheduler `k` of a core: those that have not given up their slot. -/
def State.residents (s : State) (core k : Nat) : List Nat :=
  (s.groups.filter fun p => p.2.gid % 4 == k && p.2.holdsSlot && (s.team p.2.team).live && (s.team p.2.team).core == core).map (·.1)

/-- The spare slots of resident teams on scheduler `k`, which count as resident (03 R25). -/
def State.spares (s : State) (core k : Nat) : Nat :=
  ((s.teams.filter fun p => p.2.live && p.2.core == core).map fun p =>
    ((List.range p.2.slots).filter fun gid => gid % 4 == k && (tget p.2.groups gid).isNone).length).foldl (· + ·) 0

/-- The member of a list that comes first by a measure, ties to the first listed. -/
def firstBy (m : Nat → Nat) : List Nat → Option Nat
  | [] => none
  | a :: t => match firstBy m t with
    | some b => if m b < m a then some b else some a
    | none => some a

def State.actives (s : State) (core k : Nat) : List Nat := (s.residents core k).filter fun u => (s.group u).active && (s.group u).status == .live
def State.pendings (s : State) (core k : Nat) : List Nat := (s.residents core k).filter fun u => !(s.group u).active && (s.group u).status == .live

/-- The oldest ready pending group (03 R26). -/
def State.oldestPending (s : State) (core k : Nat) : Option Nat :=
  firstBy (fun u => (s.group u).age) ((s.pendings core k).filter s.ready)

/-- The active set has room for one more (03 R25). -/
def State.hasRoom (s : State) (core k : Nat) : Bool := (s.actives core k).length < 8

/-- A pending group enters the active set as its youngest, and may issue two cycles later (03 R25, R27). -/
def State.enterActive (s : State) (u : Nat) : State :=
  let (n, s1) := s.fresh
  s1.setGroup u { s1.group u with active := true, age := n, mayIssue := s.cycle + 2, readySince := none, streak := 0 }

/-- An active group leaves for the pending set (03 R27). -/
def State.leaveActive (s : State) (u : Nat) : State :=
  let (n, s1) := s.fresh
  s1.setGroup u { s1.group u with active := false, age := n, readySince := none, streak := 0 }

/-- The group leaves the active set now: it is in a long-latency wait, at a boundary or inside its clause, and a pending group is ready; a path switch that is due comes first (03 R27, R33). A group that found no ready pending group when it met its wait is swapped as soon as there is one while it still waits (assumption log 50). -/
def State.swapsOut (s : State) (u : Nat) : Bool :=
  let g := s.group u
  g.status == .live && g.active && s.longWait u && !(s.atBoundary u && s.switchNow u) && (s.oldestPending (s.coreOf g) (g.gid % 4)).isSome

/-- The swap of a waiting active group with the oldest ready pending one, where there is one (03 R27). -/
def State.swapOut (s : State) (u : Nat) : State :=
  let g := s.group u
  if g.active then
    match s.oldestPending (s.coreOf g) (g.gid % 4) with
    | some p => (s.leaveActive u).enterActive p
    | none => s
  else s

/-- The group that scheduler `k` of a core lets move now (03 R26): the one whose begun clause it issues, unless that has parked; else the one that issued the last clause while it is ready, its YLD was 0, and it has not issued 64 clauses in a row beside another ready one; else the oldest ready one, be it at a boundary or parked no longer inside its clause. -/
def State.chosen (s : State) (core k : Nat) : Option Nat :=
  let a := (s.actives core k).filter fun u => (s.group u).mayIssue ≤ s.cycle
  match a.find? fun u => tget (s.core core).running k == some u && s.underWay u with
  | some u => some u
  | none =>
    let r := a.filter s.ready
    let age := fun u => (s.group u).age
    match r.find? fun u => (s.group u).streak != 0 with
    | some u => if (s.group u).streak < 64 then some u else
        match firstBy age (r.filter (· != u)) with | some v => some v | none => some u
    | none => firstBy age r

/-- PENDING_ENTER for group `s.who`: a pending group that has become ready enters the room of the active set (03 R25). -/
def execPendingEnter (s : State) : Host.Outcome State Fault Refusal :=
  let g := s.cur
  let core := s.coreOf g
  let k := g.gid % 4
  if (s.pendings core k).contains s.who && s.hasRoom core k && s.oldestPending core k == some s.who then .next (s.enterActive s.who)
  else .next s

/-- The active group that a forced swap displaces: the oldest that is not ready, or the youngest where all are (03 R28). -/
def State.victim (s : State) (core k : Nat) : Option Nat :=
  let a := s.actives core k
  let age := fun u => (s.group u).age
  match firstBy age (a.filter fun u => !s.ready u) with
  | some v => some v
  | none => firstBy (fun u => s.nextId - age u) a

/-- The pending group `u` has been ready for 1,024 consecutive cycles, and the victim stands at a clause boundary (03 R28). -/
def State.swapDue (s : State) (core k u : Nat) : Option Nat :=
  match (s.group u).readySince, s.victim core k with
  | some c, some v =>
    if (s.pendings core k).contains u && s.ready u && c + 1024 ≤ s.cycle && (s.group v).clause.isNone then some v else none
  | _, _ => none

/-- The active group of a scheduler that a forced swap displaces now (03 R28). -/
def State.displaced (s : State) (core k : Nat) : Option Nat := (s.pendings core k).findSome? fun q => s.swapDue core k q

/-- FORCED_SWAP for group `s.who`: a pending group ready for 1,024 consecutive cycles takes the place of the victim at that group's clause boundary (03 R28). -/
def execForcedSwap (s : State) : Host.Outcome State Fault Refusal :=
  let g := s.cur
  match s.swapDue (s.coreOf g) (g.gid % 4) s.who with
  | some v => .next ((s.leaveActive v).enterActive s.who)
  | none => .next s

/-- PATH_SWITCH for group `s.who`: at a clause boundary, once the path has issued PATHQ instructions, the running path and the one directly below it with the same reconvergence address exchange places (03 R33, 11 R118). -/
def execPathSwitch (s : State) : Host.Outcome State Fault Refusal :=
  if s.atBoundary s.who && s.switchNow s.who then .next ((s.switched s.who).getD s) else .next s

/-! ### The begin of a clause (09 R85; 17 R202; 19 R217, R219; 27 R282) -/

/-- The seed that instructions of a clause beginning now use: a write of RNGSEED applies to clauses that begin in a later cycle (07 R81). -/
def State.seedNow (s : State) (c : Ctx) : W32 := if c.rngAt = s.cycle then c.rngPrev else c.rngseed

/-- The group observes tokens: the XSTAT flags held with each are ORed in (05 R56, 19 R217). -/
def Group.observe (g : Group) (tok : Byte) : Group :=
  (List.range 8).foldl (fun g t =>
    if tok.getLsbD t then { g with xstat := g.xstat ||| (g.tok t).held, tokens := tset g.tokens t { g.tok t with held := 0 } } else g) g

/-- The other groups of the scheduler are no longer the last to have issued (03 R26). -/
def State.clearStreaks (s : State) (u : Nat) : State :=
  let g := s.group u
  (s.residents (s.coreOf g) (g.gid % 4)).foldl (fun s v => if v = u then s else s.setGroup v { s.group v with streak := 0 }) s

/-- The scheduler issues the clause of group `u` (03 R26). -/
def State.runs (s : State) (u : Nat) : State :=
  let g := s.group u
  let k := s.coreOf g
  let c := s.core k
  if tget c.running (g.gid % 4) == some u then s
  else (s.setCore k { c with running := tset c.running (g.gid % 4) u }).clearStreaks u

/-- The clause under way from word `idx` on; a clause resumed inside keeps the seed it began with (07 R81). Whether another active group was ready beside a run of 64 clauses is judged as each clause begins (03 R26; assumption log 50). -/
def State.enterClause (s : State) (u : Nat) (h : Header) (ws : List W64) (idx : Nat) : State :=
  let g := s.group u
  let other := ((s.actives (s.coreOf g) (g.gid % 4)).filter fun v => v != u && s.ready v) != []
  let g1 : Group := { g with clause := some { hdr := h, words := ws, idx := idx }, resume := none, wait := .none, readySince := none, fetchSince := none,
                             streak := if other then g.streak else 0,
                             seed := if g.resume.isNone then some (s.seedNow (s.ctxOf g)) else g.seed.or (some (s.seedNow (s.ctxOf g))) }
  ((s.setGroup u g1).clearStreaks u).runs u

/-- A released waiter of a domain barrier takes the steps of an acquire of all colours on L1 before its next clause (15 R166, 21 R236). -/
def State.passGbar (s : State) (u tag : Nat) : State :=
  let g := s.group u
  let t := s.teamOf g
  match s.acquireL1 t.core t.ctx (s.ctx t.ctx).asid 0xFF with
  | .error _ => s
  | .ok (s1, _) =>
    let c := s1.ctx t.ctx
    (s1.setGroup u { s1.group u with wait := .none }).setCtx t.ctx { c with gbarDone := c.gbarDone.filter (· != tag) }

/-- CLAUSE_BEGIN for group `s.who`. A wait for a domain barrier, a collective or a mirror ends first (21 R236, R238, R239); a mirror's REMOTE_ERROR carries TARG 0 (assumption log 50). A post-issue trap that is due comes first (17 R202, 19 R219); then the fetch with its faults (11 R122, 25 R267); then the bad header (09 R84); then the waits, after which named tokens are observed and the clause is under way (09 R85). A group whose wait is long, at the boundary or inside its clause, swaps with a ready pending group (03 R27); the victim of a forced swap that is due begins no clause (03 R28). A clause resumed inside is fetched again, and its words are those that the fetch gives (27 R294; assumption log 50). -/
def execClauseBegin (s : State) : Host.Outcome State Fault Refusal :=
  let g := s.cur
  let u := s.who
  let at_ : ResumeAt := ⟨g.pc, false, 0, 0⟩
  if s.swapsOut u then .next (s.swapOut u)
  else if g.clause.isSome || !s.atBoundary u || s.switchNow u || !s.gateOpen g || g.faultParked || g.acqHeld then .next s
  else
    match g.wait, g.armed, g.resume with
    | .gbar _ tag, _, _ => .next (s.passGbar u tag)
    | .nrmrd (some j) d, _, _ => .next (s.setCur { (g.ws d (tgetD (s.ctxOf g).normDone j 0)) with wait := .none })
    | .mirror _ _ pc idx words, _, _ =>
      let s1 := s.setCur { g with wait := .none }
      .next (if (s.ctxOf g).mirrorBad then
          (s1.setCtx (s.teamOf g).ctx { s.ctxOf g with mirrorFail := false }).trap u causeRemoteError 0 (pc + BitVec.ofNat 57 (8 * (idx + 1))) ⟨pc, true, idx, words⟩
        else s1)
    | .barCarry n _, _, _ =>
      let t := s.teamOf g
      match (t.bar n).arrive g.gid with
      | some (b, v) => .next ((s.setTeam g.team { t with bars := tset t.bars n b, barDone := t.barNoted n b s.cycle false }).setCur { g with wait := .bar n v })
      | none => .next s
    | _, a :: rest, none => .next ((s.setCur { g with armed := rest }).trap u a.cause a.targ a.pc at_)
    | _, _, _ =>
      if (match g.wait with | .fetchFault (some r) _ => s.recordReleased g r == some true | _ => false) then
        .next (s.trap u causeProtection 0 g.pc at_)
      else
        match s.fetchClause g with
        | .remote => .next (s.trap u causeProtection 0 g.pc at_)
        | .bad => .next (s.kill u causeIllegal g.pc)
        | .stop (.fault cause) va =>
          let (n, s1) := s.groupFault u 1 cause 3 va g.pc 0
          .next (s1.setGroup u { s1.group u with wait := .fetchFault (some n) g.pc })
        | .stop .violation va =>
          let (_, s1) := (s.seen (s.reqOf g va)).groupFault u 1 0x40 3 va g.pc 0
          .next (s1.trap u causeProtection 0 g.pc at_)
        | .stop .poison _ => .next (s.trap u causePoison 0 g.pc at_)
        | .stop _ va => .next (s.setCur (s.waitsAt g va 19))
        | .clause s1 h ws =>
          if s.chosen (s.coreOf g) (g.gid % 4) != some u || s.displaced (s.coreOf g) (g.gid % 4) == some u then .next s
          else
            match g.resume with
            | some k => .next (s1.enterClause u h ws k)
            | none =>
              let w := g.allWaits h
              if s1.waitsMet u w then
                let s2 := s1.setGroup u (((s1.group u).observe w.tokw))
                let s3 := s2.setGroup u { s2.group u with waits := noWait }
                .next (s3.enterClause u h ws 0)
              else .next s

end Sys2Proof.Machine
end

