-- ==== Sys2Proof/Machine/Float.lean ====
section
/-! DEFINITION. Number formats and rounding: decoding and encoding of the floating formats, the conversion CVT, IEEE operations, requantise, the random words, and the transcendental functions rounded once (07_arithmetic.md R61 to R81; 13 R140, R141). -/

namespace Sys2Proof.Machine

/-! ### Formats (07 R61) -/

/-- A floating format: exponent and mantissa widths, bias, and which encodings of the top exponent are special. `ieee` formats keep it for infinity and NaN; e4m3 keeps one NaN; the others keep none. -/
structure Fmt where
  eb   : Nat
  mb   : Nat
  bias : Nat
  ieee : Bool
  one  : Bool
deriving DecidableEq, Repr

/-- The format of a TY code (07 R61). -/
def fmtOf (ty : BitVec 4) : Fmt :=
  match ty.toNat with
  | 8 => ⟨8, 23, 127, true, false⟩
  | 9 => ⟨5, 10, 15, true, false⟩
  | 10 => ⟨8, 7, 127, true, false⟩
  | 11 => ⟨5, 2, 15, true, false⟩
  | 12 => ⟨4, 3, 7, false, true⟩
  | 13 => ⟨3, 2, 3, false, false⟩
  | 14 => ⟨2, 3, 1, false, false⟩
  | _ => ⟨2, 1, 1, false, false⟩

def fmtF32 : Fmt := fmtOf 8
/-- Total bits of a format's encoding. -/
def Fmt.bits (f : Fmt) : Nat := 1 + f.eb + f.mb
/-- The exponent of the last mantissa bit of the subnormals. -/
def Fmt.qmin (f : Fmt) : Int := 1 - (f.bias : Int) - f.mb
/-- f32, f16 and bf16 (07 R68). -/
def Fmt.wide (f : Fmt) : Bool := f.ieee && (f.mb == 23 || f.mb == 10 || f.mb == 7)
/-- The format has a NaN (07 R61). -/
def Fmt.hasNan (f : Fmt) : Bool := f.ieee || f.one
/-- The encoding of the largest finite value, without sign (07 R61). -/
def Fmt.maxEnc (f : Fmt) : Nat :=
  if f.ieee then (2 ^ f.eb - 1) * 2 ^ f.mb - 1 else if f.one then 2 ^ (f.eb + f.mb) - 2 else 2 ^ (f.eb + f.mb) - 1
/-- The canonical NaN (07 R61). -/
def Fmt.nanEnc (f : Fmt) : Nat :=
  if f.ieee then (2 ^ f.eb - 1) * 2 ^ f.mb + 2 ^ (f.mb - 1) else 2 ^ (f.eb + f.mb) - 1
/-- Infinity, without sign. -/
def Fmt.infEnc (f : Fmt) : Nat := (2 ^ f.eb - 1) * 2 ^ f.mb
/-- The sign bit of an encoding. -/
def Fmt.signed (f : Fmt) (neg : Bool) (x : Nat) : Nat := if neg then 2 ^ (f.eb + f.mb) + x else x
/-- The unbiased exponent of the largest finite value (07 R61). -/
def Fmt.emax (f : Fmt) : Int := ((f.maxEnc / 2 ^ f.mb : Nat) : Int) - f.bias

/-- An exact value: NaN, an infinity, or (−1)^neg × m × 2^e; a zero keeps its sign. -/
inductive FNum where
  | nan
  | inf (neg : Bool)
  | fin (neg : Bool) (m : Nat) (e : Int)
deriving DecidableEq, Repr

/-- The value of an encoding (07 R61). -/
def Fmt.decode (f : Fmt) (x : Nat) : FNum :=
  let neg := x / 2 ^ (f.eb + f.mb) % 2 == 1
  let e := x / 2 ^ f.mb % 2 ^ f.eb
  let m := x % 2 ^ f.mb
  if f.ieee && e == 2 ^ f.eb - 1 then (if m = 0 then .inf neg else .nan)
  else if f.one && e == 2 ^ f.eb - 1 && m == 2 ^ f.mb - 1 then .nan
  else if e = 0 then .fin neg m f.qmin
  else .fin neg (2 ^ f.mb + m) (f.qmin + (e - 1 : Nat))

/-! ### Rounding (07 R64, R65) -/

/-- Rounding modes. `sr` holds the random word of the value. -/
inductive RMode where
  | rne | rtz | rdn | rup
  | sr (r : Nat)
deriving DecidableEq, Repr

/-- The RM field (07 R64). -/
def rmOf (rm : BitVec 2) : RMode :=
  match rm.toNat with
  | 0 => .rne
  | 1 => .rtz
  | 2 => .rdn
  | _ => .rup

/-- Bits of a number: floor(log2 n) + 1, and 0 for 0. -/
def bitLen (n : Nat) : Nat := if n = 0 then 0 else Nat.log2 n + 1

/-- Whether the magnitude is rounded away from zero: `n` is the truncated magnitude, `r / 2^d` the discarded part, `sticky` says that the value lies strictly above it. -/
def roundsUp (mode : RMode) (neg : Bool) (n r d : Nat) (sticky : Bool) : Bool :=
  let inexact := r != 0 || sticky
  match mode with
  | .rne => 2 ^ d < 2 * r || (2 * r == 2 ^ d && (sticky || n % 2 == 1))
  | .rtz => false
  | .rdn => neg && inexact
  | .rup => !neg && inexact
  | .sr w => inexact && w < r * 2 ^ 32 / 2 ^ d

/-- The value m × 2^e, strictly exceeded by the real one where `sticky`, rounded to a multiple of the format's spacing with the exponent unbounded above: the magnitude n × 2^q (07 R64, R65). -/
def Fmt.round (f : Fmt) (mode : RMode) (neg : Bool) (m : Nat) (e : Int) (sticky : Bool) : Nat × Int :=
  let q := max f.qmin (e + bitLen m - 1 - f.mb)
  if q ≤ e then (m * 2 ^ (e - q).toNat, q)
  else
    let d := (q - e).toNat
    let n := m / 2 ^ d
    (if roundsUp mode neg n (m % 2 ^ d) d sticky then n + 1 else n, q)

/-- n × 2^q as an integer multiple of the smallest spacing, to compare magnitudes. -/
def Fmt.scaled (f : Fmt) (n : Nat) (q : Int) : Nat := n * 2 ^ (q - f.qmin).toNat

/-- The largest finite magnitude, as a multiple of the smallest spacing. -/
def Fmt.maxScaled (f : Fmt) : Nat :=
  let e := f.maxEnc / 2 ^ f.mb
  (2 ^ f.mb + f.maxEnc % 2 ^ f.mb) * 2 ^ (e - 1)

/-- The encoding of a magnitude n × 2^q that the format holds. -/
def Fmt.encode (f : Fmt) (n : Nat) (q : Int) : Nat :=
  let k := f.scaled n q
  if k < 2 ^ f.mb then k
  else
    let b := bitLen k - 1 - f.mb
    (b + 1) * 2 ^ f.mb + (k / 2 ^ b - 2 ^ f.mb)

/-- The IEEE 754 overflow result (07 R68). -/
def Fmt.overflow (f : Fmt) (mode : RMode) (neg : Bool) : Nat :=
  f.signed neg (match mode with
    | .rne => f.infEnc
    | .rtz => f.maxEnc
    | .rdn => if neg then f.infEnc else f.maxEnc
    | .rup => if neg then f.maxEnc else f.infEnc
    | .sr _ => f.infEnc)

/-- Rounds a value to an encoding; the second part says that it saturated (07 R68). -/
def Fmt.finish (f : Fmt) (mode : RMode) (infok : Bool) (neg : Bool) (m : Nat) (e : Int) (sticky : Bool) : Nat × Bool :=
  if m = 0 ∧ !sticky then (f.signed neg 0, false)
  else
    let y := f.round mode neg m e sticky
    if f.maxScaled < f.scaled y.1 y.2 then
      if f.wide || infok then (f.overflow mode neg, false) else (f.signed neg f.maxEnc, true)
    else (f.signed neg (f.encode y.1 y.2), false)

/-- CVT (07 R68): the encoding, and whether XSTAT.SAT is set. `infok` counts only for e5m2. -/
def cvt (x : FNum) (f : Fmt) (mode : RMode) (infok : Bool) : Nat × Bool :=
  let inf := infok && f.ieee
  match x with
  | .nan => (if f.hasNan then f.nanEnc else 0, false)
  | .inf neg => if f.wide || inf then (f.signed neg f.infEnc, false) else (f.signed neg f.maxEnc, true)
  | .fin neg m e => f.finish mode inf neg m e false

/-- A denormal encoding of a wide format as zero with its sign, under FTZ (07 R66). -/
def Fmt.flush (f : Fmt) (ftz : Bool) (x : Nat) : Nat :=
  if ftz && f.wide && x / 2 ^ f.mb % 2 ^ f.eb == 0 then x / 2 ^ (f.eb + f.mb) * 2 ^ (f.eb + f.mb) else x

/-- An operand as a value, denormals flushed under FTZ (07 R66). -/
def Fmt.input (f : Fmt) (ftz : Bool) (x : Nat) : FNum := f.decode (f.flush ftz x)

/-! ### IEEE operations (13 R140) -/

/-- An exact sum of two finite values, as a signed number at a common exponent. -/
def addExact (n1 : Bool) (m1 : Nat) (e1 : Int) (n2 : Bool) (m2 : Nat) (e2 : Int) : Int × Int :=
  let e := min e1 e2
  let a : Int := (m1 * 2 ^ (e1 - e).toNat : Nat)
  let b : Int := (m2 * 2 ^ (e2 - e).toNat : Nat)
  ((if n1 then -a else a) + (if n2 then -b else b), e)

/-- A sum as a value: an exact zero takes the sign IEEE 754 gives it (13 R140). -/
def addNum (mode : RMode) (a b : FNum) : FNum :=
  match a, b with
  | .nan, _ => .nan
  | _, .nan => .nan
  | .inf x, .inf y => if x = y then .inf x else .nan
  | .inf x, _ => .inf x
  | _, .inf y => .inf y
  | .fin n1 m1 e1, .fin n2 m2 e2 =>
    let s := addExact n1 m1 e1 n2 m2 e2
    if s.1 = 0 then .fin (if n1 = n2 then n1 else mode == .rdn) 0 s.2
    else .fin (decide (s.1 < 0)) s.1.natAbs s.2

/-- An exact product as a value. -/
def mulNum (a b : FNum) : FNum :=
  match a, b with
  | .nan, _ => .nan
  | _, .nan => .nan
  | .inf x, .inf y => .inf (x != y)
  | .inf x, .fin y m _ => if m = 0 then .nan else .inf (x != y)
  | .fin x m _, .inf y => if m = 0 then .nan else .inf (x != y)
  | .fin x m1 e1, .fin y m2 e2 => .fin (x != y) (m1 * m2) (e1 + e2)

/-- The negated value. -/
def negNum : FNum → FNum
  | .nan => .nan
  | .inf n => .inf (!n)
  | .fin n m e => .fin (!n) m e

/-- Orders two values that are no NaN, −0 below +0: whether the first is strictly smaller (13 R140). -/
def ltTotal (a b : FNum) : Bool :=
  match a, b with
  | .inf true, .inf true => false
  | .inf true, _ => true
  | _, .inf true => false
  | .inf false, _ => false
  | _, .inf false => true
  | .fin n1 m1 e1, .fin n2 m2 e2 =>
    let d := (addExact n1 m1 e1 (!n2) m2 e2).1
    if d = 0 then m1 == 0 && m2 == 0 && n1 && !n2 else d < 0
  | _, _ => false

/-- Ordered comparison: whether the first is strictly smaller; −0 equals +0 (13 R143). -/
def ltNum (a b : FNum) : Bool :=
  match a, b with
  | .fin n1 m1 e1, .fin n2 m2 e2 => (addExact n1 m1 e1 (!n2) m2 e2).1 < 0
  | .nan, _ => false
  | _, .nan => false
  | _, _ => ltTotal a b

/-- A result in a wide format: rounded once, denormals flushed under FTZ. -/
def Fmt.result (f : Fmt) (ftz : Bool) (mode : RMode) (x : FNum) : Nat := f.flush ftz (cvt x f mode false).1

def Fmt.add (f : Fmt) (ftz : Bool) (mode : RMode) (a b : Nat) : Nat := f.result ftz mode (addNum mode (f.input ftz a) (f.input ftz b))
def Fmt.sub (f : Fmt) (ftz : Bool) (mode : RMode) (a b : Nat) : Nat := f.result ftz mode (addNum mode (f.input ftz a) (negNum (f.input ftz b)))
def Fmt.mul (f : Fmt) (ftz : Bool) (mode : RMode) (a b : Nat) : Nat := f.result ftz mode (mulNum (f.input ftz a) (f.input ftz b))
def Fmt.fma (f : Fmt) (ftz : Bool) (mode : RMode) (a b c : Nat) : Nat :=
  f.result ftz mode (addNum mode (mulNum (f.input ftz a) (f.input ftz b)) (f.input ftz c))

/-- VFMIN and VFMAX: the other operand beside one NaN (13 R140). -/
def Fmt.minmax (f : Fmt) (ftz : Bool) (mx : Bool) (a b : Nat) : Nat :=
  let x := f.input ftz a
  let y := f.input ftz b
  let r := match x, y with
    | .nan, _ => y
    | _, .nan => x
    | _, _ => if ltTotal x y != mx then x else y
  f.result ftz .rne r

/-- A magnitude m × 2^e rounded to an integer by a mode (07 R64). -/
def roundInt (mode : RMode) (neg : Bool) (m : Nat) (e : Int) : Nat :=
  if 0 ≤ e then m * 2 ^ e.toNat
  else
    let d := (-e).toNat
    let n := m / 2 ^ d
    if roundsUp mode neg n (m % 2 ^ d) d false then n + 1 else n

/-- VFRND: to an integral value of the same format (13 R140). -/
def Fmt.rnd (f : Fmt) (ftz : Bool) (mode : RMode) (a : Nat) : Nat :=
  match f.input ftz a with
  | .fin neg m e => f.result ftz mode (if 0 ≤ e then .fin neg m e else .fin neg (roundInt mode neg m e) 0)
  | x => f.result ftz mode x

/-- Conversion to an integer range: rounded, then clamped; NaN gives 0 (07 R69). -/
def toIntClamped (x : FNum) (mode : RMode) (lo hi : Int) : Int :=
  match x with
  | .nan => 0
  | .inf neg => if neg then lo else hi
  | .fin neg m e =>
    let n : Int := roundInt mode neg m e
    max lo (min hi (if neg then -n else n))

/-- An integer as an exact value; zero is +0. -/
def intNum (x : Int) : FNum := .fin (decide (x < 0)) x.natAbs 0

/-- A value times a power of two (07 R72). -/
def scaleNum (x : FNum) (k : Int) : FNum :=
  match x with
  | .fin n m e => .fin n m (e + k)
  | y => y

/-! ### Requantise (07 R78) -/

/-- The greatest magnitude of a list of finite values, as (m, e). -/
def amaxOf (xs : List FNum) : Nat × Int :=
  xs.foldl (fun a x => match x with
    | .fin _ m e => if (addExact false a.1 a.2 true m e).1 < 0 then (m, e) else a
    | _ => a) (0, 0)

/-- amax × 2^−e rounded to `f` by RNE does not exceed the largest finite value. -/
def fitsAt (f : Fmt) (m : Nat) (e k : Int) : Bool :=
  let y := f.round .rne false m (e - k) false
  f.scaled y.1 y.2 ≤ f.maxScaled

/-- The result of REQ: the scale byte, the elements, and the flags SAT and RANGE that it sets. -/
structure ReqR where
  scale : Nat
  elems : List Nat
  sat   : Bool
  range : Bool
deriving DecidableEq, Repr

/-- REQ of 32 values of a block; `mode k` is the rounding of value k (07 R78). Under the ceiling rule the smallest exponent is the floor rule's or one more, since amax × 2^−e lies below twice the power of two of the largest finite value. -/
def requantise (xs : List FNum) (f : Fmt) (mode : Nat → RMode) (ceil : Bool) : ReqR :=
  if xs.any (fun x => match x with | .fin _ _ _ => false | _ => true) then ⟨0xFF, xs.map fun _ => 0, false, false⟩
  else
    let a := amaxOf xs
    if a.1 = 0 then ⟨0x7F, xs.map fun _ => 0, false, false⟩
    else
      let e0 : Int := a.2 + bitLen a.1 - 1 - f.emax
      let e1 : Int := if ceil && !fitsAt f a.1 a.2 e0 then e0 + 1 else e0
      let e : Int := max (-127) (min 127 e1)
      let q := xs.zipIdx.map fun p => cvt (scaleNum p.1 (-e)) f (mode p.2) false
      ⟨(e + 127).toNat, q.map (·.1), q.any (·.2), e != e1⟩

/-! ### Random words (07 R80) -/

/-- The random word of a value. -/
def randWord (seed gtid cnt launch : W32) (p : Nat) : W32 :=
  let h0 : W32 := (seed + gtid * 0x9E3779B9) ^^^ (cnt * 0x27D4EB2F) ^^^ launch
  let h1 := h0 ^^^ (BitVec.ofNat 32 p * 0x165667B1)
  let h2 := (h1 ^^^ (h1 >>> 16)) * 0x85EBCA6B
  let h3 := (h2 ^^^ (h2 >>> 13)) * 0xC2B2AE35
  h3 ^^^ (h3 >>> 16)

/-! ### Transcendental functions (13 R141)

Values are bounded from below and above by integers at the scale 2^workBits. No result but the exact ones named lies on a rounding boundary, and the truncated lower bound with the remark that the value exceeds it then rounds as the value does. -/

/-- Fraction bits of the bounds. -/
def workBits : Nat := 512
/-- One at that scale. -/
def unit : Nat := 2 ^ workBits

/-- Integer square root by bits: the greatest r below 2^k with r² ≤ n. -/
def isqrtBits (n : Nat) : Nat → Nat → Nat
  | 0, r => r
  | k + 1, r => let c := r + 2 ^ k; isqrtBits n k (if c * c ≤ n then c else r)
def isqrt (n : Nat) : Nat := isqrtBits n (bitLen n / 2 + 1) 0
/-- Ceiling of the square root. -/
def isqrtUp (n : Nat) : Nat := let r := isqrt n; if r * r = n then r else r + 1
/-- Ceiling division. -/
def divUp (a b : Nat) : Nat := (a + b - 1) / b

/-- A pair of bounds. -/
abbrev Bounds := Nat × Nat

def Bounds.mul (a b : Bounds) : Bounds := (a.1 * b.1 / unit, divUp (a.2 * b.2) unit)
def Bounds.sqrt (a : Bounds) : Bounds := (isqrt (a.1 * unit), isqrtUp (a.2 * unit))

/-- A magnitude between bounds, both exclusive of a rounding boundary: the lower one with the remark that it is exceeded. -/
def Bounds.num (b : Bounds) : Nat × Int × Bool := (b.1, -(workBits : Int), true)

/-- Bit `i` after the binary point of m × 2^−k. -/
def fracBit (m k i : Nat) : Bool := i ≤ k && (m / 2 ^ (k - i)) % 2 == 1

/-- Product of 2^(2^−i) over the bits of a fraction, from bit `i` on, with the current root. -/
def exp2Frac (m k : Nat) : Nat → Nat → Bounds → Bounds → Bounds
  | 0, _, _, acc => acc
  | n + 1, i, root, acc =>
    let r := Bounds.sqrt root
    exp2Frac m k n (i + 1) r (if fracBit m k i then Bounds.mul acc r else acc)

/-- A result before its rounding: exact, or a truncated magnitude. -/
inductive RealR where
  | num (x : FNum)
  | trunc (neg : Bool) (m : Nat) (e : Int)
deriving DecidableEq, Repr

/-- 2^x for a finite x ≠ 0. Beyond ±1024 the result overflows, or lies below every subnormal. -/
def exp2Fin (neg : Bool) (m : Nat) (e : Int) : RealR :=
  if 1024 ≤ (if 0 ≤ e then m * 2 ^ e.toNat else m / 2 ^ (-e).toNat) then (if neg then .trunc false 1 (-1100) else .num (.fin false 1 1024))
  else
    let k := (-e).toNat
    let int := if 0 ≤ e then m * 2 ^ e.toNat else m / 2 ^ k
    let fr := if 0 ≤ e then 0 else m % 2 ^ k
    if fr = 0 then .num (.fin false 1 (if neg then -(int : Int) else int))
    else
      let fr' := if neg then 2 ^ k - fr else fr
      let int' : Int := if neg then -(int : Int) - 1 else int
      let b := exp2Frac fr' k k 1 (2 * unit, 2 * unit) (unit, unit)
      .trunc false b.1 (int' - workBits)

/-- The first `n` binary digits of log2 of a number between 1 and 2, by squaring. -/
def log2Digits : Nat → Bounds → Nat → Nat
  | 0, _, acc => acc
  | n + 1, y, acc =>
    let s := Bounds.mul y y
    if 2 * unit ≤ s.1 then log2Digits n (s.1 / 2, divUp s.2 2) (2 * acc + 1) else log2Digits n s (2 * acc)

/-- log2 of m × 2^e, m ≠ 0. -/
def log2Fin (m : Nat) (e : Int) : RealR :=
  let b := bitLen m - 1
  let E : Int := e + b
  if m = 2 ^ b then .num (intNum E)
  else
    let y := m * unit / 2 ^ b
    let f := log2Digits 160 (y, y) 0
    if 0 ≤ E then .trunc false (E.toNat * 2 ^ 160 + f) (-160)
    else .trunc true ((-E).toNat * 2 ^ 160 - f - 1) (-160)

/-- cos and sin of the angle π × 0.b2b3… from bit `i` on: `c`, `s` bound those of π/2^(i−1), `C`, `S` those so far. -/
def circle (m k : Nat) : Nat → Nat → Bounds → Bounds → Bounds → Bounds → Bounds × Bounds
  | 0, _, _, _, C, S => (C, S)
  | n + 1, i, c, s, C, S =>
    let c1 := Bounds.sqrt ((unit + c.1) / 2, divUp (unit + c.2) 2)
    let s1 : Bounds := (s.1 * unit / (2 * c1.2), divUp (s.2 * unit) (2 * c1.1))
    if fracBit m k i then
      let cc := Bounds.mul C c1
      let ss := Bounds.mul S s1
      let sc := Bounds.mul S c1
      let cs := Bounds.mul C s1
      circle m k n (i + 1) c1 s1 (cc.1 - ss.2, cc.2 - ss.1) (sc.1 + cs.1, sc.2 + cs.2)
    else circle m k n (i + 1) c1 s1 C S

/-- sin(πx) or cos(πx) of a finite x (13 R141). -/
def trigFin (cosine neg : Bool) (m : Nat) (e : Int) : RealR :=
  let k := (-e).toNat
  let whole := 0 ≤ e
  let r := if whole then 0 else m % 2 ^ (k + 1)
  let odd := if whole then m * 2 ^ e.toNat % 2 else m / 2 ^ k % 2
  let quad := if whole then 2 * odd else 2 * r / 2 ^ k
  let t := if whole then 0 else 2 * r % 2 ^ k
  -- the angle is π (quad + t / 2^k) / 2 with 0 ≤ t / 2^k < 1
  if t = 0 then
    let v : Int := if cosine then (match quad with | 0 => 1 | 2 => -1 | _ => 0) else (match quad with | 1 => 1 | 3 => -1 | _ => 0)
    if v = 0 then .num (.fin (!cosine && neg) 0 0) else .num (.fin (decide (v < 0) != (!cosine && neg)) 1 0)
  else
    let cs := circle t (k + 1) k 2 (0, 0) (unit, unit) (unit, unit) (0, 0)
    let useCos := cosine == (quad % 2 == 0)
    let minus := if cosine then quad == 1 || quad == 2 else (quad == 2 || quad == 3) != neg
    .trunc minus (if useCos then cs.1.1 else cs.2.1) (-(workBits : Int))

/-- Taylor bounds of e^z for 0 ≤ z < 1/4 at the scale: terms up to the `n`th; each truncated term and the tail stay below what the upper bound adds. -/
def expTaylor (z : Nat) : Nat → Nat → Nat → Nat → Nat
  | 0, _, _, acc => acc
  | n + 1, k, term, acc => let t := term * z / unit / k; expTaylor z n (k + 1) t (acc + t)

/-- Squares bounds `n` times. -/
def squareTimes : Nat → Bounds → Bounds
  | 0, b => b
  | n + 1, b => squareTimes n (Bounds.mul b b)

/-- tanh of a finite x ≠ 0: 1 − 2 / (e^2x + 1); next to zero it lies just below x, and from 32 on just below 1. -/
def tanhFin (neg : Bool) (m : Nat) (e : Int) : RealR :=
  if e + bitLen m ≤ -50 then .trunc neg (m * 2 ^ 64 - 1) (e - 64)
  else if 6 ≤ e + bitLen m then .trunc neg (2 ^ 64 - 1) (-64)
  else
    -- z = 2x / 2^8
    let z := m * unit * 2 ^ (e + 200).toNat / 2 ^ 207
    let zu := divUp (m * unit * 2 ^ (e + 200).toNat) (2 ^ 207)
    let lo := expTaylor z 128 1 unit unit
    let hi := expTaylor zu 128 1 unit unit + 1024
    let b := squareTimes 8 (lo, hi)
    let two := 2 * unit * unit
    .trunc neg (unit - divUp two (b.1 + unit)) (-(workBits : Int))

/-- 1/x of a finite x ≠ 0. -/
def rcpFin (neg : Bool) (m : Nat) (e : Int) : RealR :=
  let k := bitLen m + 64
  if 2 ^ k % m = 0 then .num (.fin neg (2 ^ k / m) (-e - k)) else .trunc neg (2 ^ k / m) (-e - k)

/-- √x of a finite x > 0. -/
def sqrtFin (m : Nat) (e : Int) : RealR :=
  let n := (if e % 2 = 0 then m else 2 * m) * 2 ^ 128
  let h : Int := (if e % 2 = 0 then e else e - 1) / 2 - 64
  let r := isqrt n
  if r * r = n then .num (.fin false r h) else .trunc false r h

/-- 1/√x of a finite x > 0. -/
def rsqFin (m : Nat) (e : Int) : RealR :=
  let a := if e % 2 = 0 then m else 2 * m
  let h : Int := (if e % 2 = 0 then e else e - 1) / 2
  let k := bitLen a + 64
  let r := isqrt (2 ^ (2 * k) / a)
  if r * r * a = 2 ^ (2 * k) then .num (.fin false r (-h - k)) else .trunc false r (-h - k)

/-- The transcendental instructions (13 R141). -/
inductive Trans where
  | rcp | rsq | sqrt | exp2 | log2 | sin | cos | tanh
deriving DecidableEq, Repr

/-- The function at a value, with the special results of R141. -/
def Trans.eval (t : Trans) (x : FNum) : RealR :=
  match x with
  | .nan => .num .nan
  | .inf neg =>
    .num (match t with
      | .rcp => .fin neg 0 0
      | .rsq => if neg then .nan else .fin false 0 0
      | .sqrt => if neg then .nan else .inf false
      | .exp2 => if neg then .fin false 0 0 else .inf false
      | .log2 => if neg then .nan else .inf false
      | .sin => .nan
      | .cos => .nan
      | .tanh => .fin neg 1 0)
  | .fin neg m e =>
    if m = 0 then
      .num (match t with
        | .rcp => .inf neg
        | .rsq => .inf neg
        | .sqrt => .fin neg 0 0
        | .exp2 => .fin false 1 0
        | .log2 => .inf true
        | .sin => .fin neg 0 0
        | .cos => .fin false 1 0
        | .tanh => .fin neg 0 0)
    else
      match t with
      | .rcp => rcpFin neg m e
      | .rsq => if neg then .num .nan else rsqFin m e
      | .sqrt => if neg then .num .nan else sqrtFin m e
      | .exp2 => exp2Fin neg m e
      | .log2 => if neg then .num .nan else log2Fin m e
      | .sin => trigFin false neg m e
      | .cos => trigFin true neg m e
      | .tanh => tanhFin neg m e

/-- The function rounded once to the format (13 R141). -/
def Fmt.trans (f : Fmt) (ftz : Bool) (mode : RMode) (t : Trans) (a : Nat) : Nat :=
  match t.eval (f.input ftz a) with
  | .num x => f.result ftz mode x
  | .trunc neg m e => f.flush ftz (f.finish mode false neg m e true).1

end Sys2Proof.Machine
end

