-- ==== Sys2Proof/Machine/Remote.lean ====
section
/-! DEFINITION. Remote accesses through the Gallery as the source and the target of a request see them: the write-combining buffer, remote translations, requests, their service at this device and their answers (15 R173, R174; 17 R183; 29 R308 to R310). -/

namespace Sys2Proof.Machine

/-- The core number of a request that no core of this device makes: it has no L1, and belongs to no die. -/
def noCore : Nat := 0x10000

/-- The peer, the offset in its window and the line of a remote VA (17 R183). -/
def remotePeer (va : Nat) : Nat := va / 2 ^ 44 % 4096
def remoteOffset (va : Nat) : Nat := va % 2 ^ 44

/-! ### The target's side (29 R308 to R310) -/

/-- The context of a domain job on this device. -/
def State.ctxOfJob (s : State) (djob : W32) : Option (Nat × Ctx) := if djob = 0 then none else tfind s.ctxs fun _ c => c.djob == djob

/-- The answer to a request at its target. -/
inductive Served where
  | done (s : State) (reply : PktKind) (line : Line) (poison : Bool)
  | wait

/-- The request that a remote access makes at the home of the local address to which its offset maps (29 R308). -/
def State.serveReq (s : State) (djob : W32) (o : Nat) : Option Req :=
  match s.ctxOfJob djob with
  | none => none
  | some (k, c) => if o < 65536 * c.expsz then some ⟨noCore, k, tagAsid c.asid (c.expb + o), c.expb + o⟩ else none

/-- The answer to a translation request for a 64 KiB unit: refused, not present, or the serving device with W (29 R309). -/
def State.serveXlat (s : State) (djob : W32) (unit : Nat) : PktKind :=
  match s.serveReq djob (unit * 65536) with
  | none => .refused
  | some r =>
    match s.pageOf r.asid r.va with
    | none => .notPresent
    | some x => .xlatReply unit s.gal.me (pteW x.pte)

/-- What a memory error at the target is answered with (29 R308). -/
def servedError : MemErr → PktKind
  | .fault _ => .notPresent
  | _ => .refused

/-! ### Asking for a translation (29 R308, R309) -/

/-- What became of asking for a remote unit. -/
inductive RTry where
  | go (server : Nat)
  | wait
  | refused
  | absent
deriving DecidableEq, Repr

/-- The translation of an access to offset `o` of peer `dev`, asked for where the cache of the die has none (29 R308, R309). -/
def State.remoteTry (s : State) (die ctx dev o : Nat) (write : Bool) : State × RTry :=
  let c := s.ctx ctx
  let unit := o / 65536
  if c.djob = 0 || s.gal.devices ≤ dev || s.gal.lost.contains dev || s.gal.unverified.contains dev then (s, .refused)
  else if dev = s.gal.me then
    (s, match s.serveXlat c.djob unit with
      | .xlatReply _ _ w => if write && !w then .refused else .go dev
      | .notPresent => .absent
      | _ => .refused)
  else
    match s.gal.xlats.find? fun x => x.die == die && x.dev == dev && x.djob == c.djob && x.unit == unit with
    | some x =>
      if x.bad = 0 then (if write && !x.w then (s, .refused) else (s, .go x.server))
      else
        ({ s with gal := { s.gal with xlats := s.gal.xlats.filter (· != x) } }, if x.bad = 2 then .absent else .refused)
    | none =>
      if s.gal.waiting.any fun p => p.die == die && p.dst == dev && p.djob == c.djob && p.kind == .xlat unit then (s, .wait)
      else
        let (n, s1) := s.fresh
        let p : Packet := { src := s.gal.me, dst := dev, djob := c.djob, tag := n, kind := .xlat unit, die := die }
        ({ s1 with gal := { s1.gal with waiting := s1.gal.waiting ++ [p] } }.sendPkt ctx p, .wait)

/-! ### The write-combining buffer (15 R173 to R175) -/

def State.wcbUpdate (s : State) (core : Nat) (f : List WcbEntry → List WcbEntry) : State :=
  let k := s.core core
  s.setCore core { k with wcb := f k.wcb }


/-- The groups whose stores an entry holds, each with the PC of its instruction, once. -/
def WcbEntry.issuers (e : WcbEntry) : List (Nat × VA) :=
  e.writers.foldl (fun (l : List (Nat × VA)) w => if l.contains (w.1, w.2.1) then l else l ++ [(w.1, w.2.1)]) []

/-- Arms a post-issue trap for the groups whose stores an entry held (17 R183, R202): one a group and PC, with the mask of its lanes, which is 0 for a group-level operation (27 R281). -/
def armWriters (s : State) (cause : Nat) (e : WcbEntry) : State :=
  e.issuers.foldl (fun s k =>
    let g := s.group k.1
    if g.status == .live then
      let m := laneSet ((e.writers.filter fun w => w.1 == k.1 && w.2.1 == k.2 && w.2.2.1 < 32).map (·.2.2.1))
      s.setGroup k.1 (g.arm cause k.2 m)
    else s) s

/-- The device does not hold the page of an entry: each instruction whose store it holds has a record written, and the entry waits for their release (25 R267, R270; 29 R308; assumption log 38). -/
def State.wcbPark (s : State) (core : Nat) (e : WcbEntry) : State :=
  e.issuers.foldl (fun s k =>
    let va := 2 ^ 56 + e.peer * 2 ^ 44 + e.line * 128
    let (n, s1) := s.groupFault k.1 0 faultRemote (if e.red.isSome then 2 else 1) va k.2 0
    s1.wcbUpdate core fun l => l.map fun x => if x.id = e.id then { x with again := x.sent, recs := x.recs ++ [n] } else x) s

/-- An entry is free to leave: every record that it waits for has been released. -/
def State.wcbReleased (s : State) (e : WcbEntry) : Bool := e.recs.all fun n => (s.ctx e.ctx).released.any fun p => p.1 == n
/-- The host released a record of the entry with FAIL (25 R270). -/
def State.wcbFailed (s : State) (e : WcbEntry) : Bool := e.recs.any fun n => (s.ctx e.ctx).released.any fun p => p.1 == n && p.2

/-- Sends the masked bytes, or the reduction, of an entry to the device that serves its unit; it is then free, and stays listed until its target acknowledges it (15 R174). It goes behind every older entry of its line, so that stores to one location are performed in program order (15 R176). Where its translation is not known it is asked for first; a refused entry is dropped, and its writers trap; one whose page is not present waits for its replay (29 R308, R309). -/
def State.wcbSend (s : State) (core : Nat) (e : WcbEntry) : State :=
  let drop (s : State) : State := s.wcbUpdate core fun l => l.filter (·.id != e.id)
  if (e.sent && !e.again) || ((s.core core).wcb.takeWhile (·.id != e.id)).any (fun x => x.peer == e.peer && x.line == e.line) || !s.wcbReleased e then s
  else if s.wcbFailed e then armWriters (drop s) causeProtection e
  else
    match s.remoteTry (dieOf core) e.ctx e.peer (e.line * 128) true with
    | (s1, .go server) =>
      let kind : PktKind := match e.red with | some (op, j, ops) => .atomic (e.line * 128 + j) false false op ops | none => .write (e.line * 128)
      (s1.wcbUpdate core fun l => l.map fun x => if x.id = e.id then { x with sent := true, again := false, recs := [] } else x).sendPkt e.ctx
        { src := s.gal.me, dst := server, djob := (s.ctx e.ctx).djob, colour := e.colour, tag := e.id, kind := kind, line := e.data, mask := e.mask,
          die := dieOf core, named := e.peer }
    | (s1, .refused) => armWriters (drop s1) causeRemoteError e
    | (s1, .absent) => (s1.wcbUpdate core fun l => l.map fun x => if x.id = e.id then { x with recs := [] } else x).wcbPark core e
    | (s1, .wait) => s1

/-- Sends every entry of a core that satisfies a test. -/
def State.wcbSendAll (s : State) (core : Nat) (p : WcbEntry → Bool) : State :=
  ((s.core core).wcb.filter p).foldl (fun s e => s.wcbSend core e) s

/-- The entries in use: an entry is freed when it is sent, and takes no place in the buffer when it is sent once more (15 R174; assumption log 38). -/
def Core.wcbUsed (k : Core) : Nat := (k.wcb.filter fun e => !e.sent).length

/-- Allocates an entry: where all 64 are in use the oldest is drained first, and while it cannot be sent the store does not enter (15 R173, R174). -/
def State.wcbAdd (s : State) (core : Nat) (e : WcbEntry) : State × Bool :=
  let s0 := if (s.core core).wcbUsed < 64 then s else match (s.core core).wcb.find? fun e => !e.sent with | some o => s.wcbSend core o | none => s
  if (s0.core core).wcbUsed < 64 then
    let (n, s1) := s0.fresh
    ((s1.wcbUpdate core fun l => l ++ [{ e with id := n, limit := (s.ctx e.ctx).wcbage, born := s.cycle }]).wcbSendAll core fun x => x.id == n && x.mask == fullMask, true)
  else (s0, false)

/-- The entries of a peer and line on a core, oldest first. -/
def Core.wcbOf (k : Core) (peer line : Nat) : List WcbEntry := k.wcb.filter fun e => e.peer == peer && e.line == line

/-- A store, or a VRED, may stand beside an entry of its line: of one colour and context, and neither of them a VRED (15 R173; 17 R183). -/
def WcbEntry.fits (e : WcbEntry) (ctx colour : Nat) (red : Option (Nat × Nat × List W32)) : Bool := e.colour = colour && e.ctx = ctx && e.red.isNone && red.isNone

/-- A remote store of masked bytes, or a VRED: a store merges into the youngest entry of its line where that has its colour and context and is not sent; entries of another colour or context, and those that cannot merge with it because either is a VRED, are drained first and their acknowledgements awaited; a full mask drains at once (15 R173, R174, R176; 17 R183; assumption log 38). The answer says whether it has entered the buffer. -/
def State.wcbStore (s : State) (core ctx task peer line colour : Nat) (mask : LineMask) (data : Line) (red : Option (Nat × Nat × List W32)) (w : Nat × VA × Nat × Nat) : State × Bool :=
  let mine := (s.core core).wcbOf peer line
  if mine.any fun e => !e.fits ctx colour red then (s.wcbSendAll core fun e => e.peer == peer && e.line == line, false)
  else
    match mine.getLast?.filter (!·.sent) with
    | some e =>
      let e1 := { e with mask := e.mask ||| mask, data := mergeLine mask data e.data, writers := e.writers ++ [w] }
      ((s.wcbUpdate core fun l => l.map fun x => if x.id = e.id then e1 else x).wcbSendAll core fun x => x.id == e.id && x.mask == fullMask, true)
    | none =>
      s.wcbAdd core { id := 0, peer := peer, line := line, mask := mask, data := data, colour := colour, ctx := ctx, task := task,
                      limit := 0, born := 0, writers := [w], red := red }

/-- A remote load or atomic to a line that holds an entry drains it and waits for its acknowledgement (15 R173). The answer says that no entry is left. -/
def State.wcbClear (s : State) (core peer line : Nat) : State × Bool :=
  let p := fun (e : WcbEntry) => e.peer == peer && e.line == line
  (s.wcbSendAll core p, !((s.core core).wcb.any p))

/-- WCB_AGE_EXPIRY for core `s.who`: entries that have reached their age in nanoseconds are sent, and so are those whose replay has been released; the core clock runs at 1.4 GHz (15 R174, R175; 25 R270; 29 R297). -/
def execWcbAgeExpiry (s : State) : Host.Outcome State Fault Refusal :=
  .next (s.wcbSendAll s.who fun e => e.recs != [] || e.again || e.limit * 14 ≤ (s.cycle - e.born) * 10)

/-! ### Answers at the source -/

/-- Changes the lane of an outstanding operation of some group that waits for the answer with a tag. -/
def State.answerLane (s : State) (tag : Nat) (f : PendOp → LaneAcc → LaneAcc) : State :=
  { s with groups := s.groups.map fun p =>
      if p.2.pend.any fun o => o.lanes.any fun a => a.tag == some tag then
        (p.1, { p.2 with pend := p.2.pend.map fun o => { o with lanes := o.lanes.map fun a => if a.tag == some tag then f o a else a } })
      else p }

/-- The words of an operation's width at an address of a line, lowest first; eight sideband bytes follow those of a whole line. -/
def lineWords (l : Line) (j bytes : Nat) : List W32 := (List.range ((bytes + 3) / 4)).map fun k => BitVec.ofNat 32 (lineNat l (j + 4 * k) (min 4 bytes))

/-- What a lane does with an answer; access 32 of a line move takes the sideband (17 R187). -/
def LaneAcc.answer (a : LaneAcc) (o : PendOp) (p : Packet) : LaneAcc :=
  match p.kind with
  | .readReply =>
    let ws := if a.lane = 32 then lineWords p.line 128 8 else regWords o.bytes o.signed (lineNat p.line (a.addr % 128) o.bytes)
    { a with tag := none, performed := true, val := ws, pois := ws.map fun _ => p.poison }
  | .atomicReply vals po => { a with tag := none, performed := true, val := vals, pois := vals.map fun _ => po }
  | .performed => { a with tag := none, performed := true }
  | .refused => { a with tag := none, refused := true }
  | .notPresent => { a with tag := none, absentThere := true }
  | _ => { a with tag := none }

/-- An engine operation whose request has been answered no longer waits for it: a read has its line; a refusal cancels it with a trap to follow; an absent page parks it (21 R232; 29 R308). -/
def EngOp.answer (o : EngOp) (p : Packet) : EngOp :=
  let o1 := { o with waits := o.waits.filter (· != p.tag) }
  match p.kind with
  | .readReply => { o1 with got := some (p.line, p.poison) }
  | .refused => { o1 with status := .cancelled, trap := some (causeRemoteError, o.engseq.setWidth 32) }
  | .notPresent => { o1 with absentThere := true }
  | .moved => o1
  | _ => { o1 with phase := o.phase + 1 }

/-- Whether a tag names an outstanding translation request, by its packet. -/
def Gallery.asked (g : Gallery) (tag : Nat) : Option Packet := g.waiting.find? fun p => p.tag == tag

/-- An answer to a translation request is kept as a translation, or as the reason why there is none (29 R309). -/
def Gallery.learn (g : Gallery) (q : Packet) (k : PktKind) : Gallery :=
  let unit := match q.kind with | .xlat u => u | _ => 0
  let rest := g.xlats.filter fun x => !(x.die == q.die && x.dev == q.dst && x.djob == q.djob && x.unit == unit)
  let x : RemoteXlat := match k with
    | .xlatReply _ server w => ⟨q.die, q.dst, q.djob, unit, server, w, 0⟩
    | .notPresent => ⟨q.die, q.dst, q.djob, unit, q.dst, false, 2⟩
    | _ => ⟨q.die, q.dst, q.djob, unit, q.dst, false, 1⟩
  { g with waiting := g.waiting.filter (·.tag != q.tag), xlats := x :: rest }

/-- Sends a request to the serving device; the answer carries the tag. -/
def State.remoteSend (s : State) (die ctx named server colour : Nat) (kind : PktKind) (line : Line) (mask : LineMask) (poison : Bool) : Nat × State :=
  let (n, s1) := s.fresh
  (n, s1.sendPkt ctx { src := s.gal.me, dst := server, djob := (s.ctx ctx).djob, colour := colour, tag := n, kind := kind, line := line, mask := mask,
                       poison := poison, die := die, named := named })

end Sys2Proof.Machine
end

