-- ==== Sys2Proof/Machine/Scratch.lean ====
section
/-! DEFINITION. The scratchpad: its address map with the windows of a sharing group, presence and poison bits, and bytes; and the new values of the atomic operations (17_isa_memory.md R184, R189 to R191, R197, R198, R342). -/

namespace Sys2Proof.Machine

/-- POOLW of a launch record (03 R19). -/
def lrecPoolw (l : BitVec 512) : W32 := getBits l 128 32
/-- SPT of a partition word (05 R50). -/
def poolSpt (p : W32) : Nat := (getBits p 18 6).toNat
/-- Bytes of a team's scratchpad (05 R50). -/
def State.spadSize (s : State) (team : Nat) : Nat := poolSpt (lrecPoolw (s.task (s.team team).task).lrec) * 65536

/-- Where a scratchpad address of a team leads (17 R184). -/
inductive SpadAt where
  | at (team off : Nat)
  | nothing
  | revoked
deriving DecidableEq, Repr

/-- The scratchpad address map (17 R184, R198). -/
def State.spadMap (s : State) (team a : Nat) : SpadAt :=
  if a < s.spadSize team then .at team a
  else if 2 ^ 31 ≤ a ∧ a < 2 ^ 31 + 8 * 2 ^ 21 then
    let slot := (a - 2 ^ 31) / 2 ^ 21
    let o := (a - 2 ^ 31) % 2 ^ 21
    let t := s.team team
    match t.share with
    | none => .revoked
    | some (key, _) =>
      match tget (tgetD (s.ctx t.ctx).shares key []) slot with
      | none => .revoked
      | some m => if o < s.spadSize m then .at m o else .nothing
  else .nothing

/-- A scratchpad location as the address of a captured access. -/
def spadLoc (team off : Nat) : Nat := team * 2 ^ 32 + off
def locTeam (x : Nat) : Nat := x / 2 ^ 32
def locOff (x : Nat) : Nat := x % 2 ^ 32

/-- `n` bytes of a scratchpad. -/
def State.spadRead (s : State) (loc n : Nat) : Nat := mreadN noSide (s.team (locTeam loc)).spad (locOff loc) n

/-- The 4-byte words that an access of `n` bytes touches. -/
def wordsOf (off n : Nat) : List Nat := (List.range ((off % 4 + n + 3) / 4)).map fun k => off / 4 + k

/-- Some word that an access touches is poisoned (17 R342). -/
def State.spadPoisoned (s : State) (loc n : Nat) : Bool :=
  (wordsOf (locOff loc) n).any fun w => (s.team (locTeam loc)).spadPoison.contains w

/-- Writes `n` bytes; a whole word from clean data clears its poison, poisoned data sets it, a part of a word leaves it (17 R342). -/
def State.spadWrite (s : State) (loc n x : Nat) (poison : Bool) : State :=
  let t := s.team (locTeam loc)
  let off := locOff loc
  let pois := (wordsOf off n).foldl (fun l w =>
    if poison then ninsert l w
    else if off ≤ 4 * w && 4 * w + 4 ≤ off + n then l.filter (· != w) else l) t.spadPoison
  s.setTeam (locTeam loc) { t with spad := mwriteL noSide t.spad off (bytesOf n x), spadPoison := pois }

/-- The lines that an access touches, as (team, line) (17 R197). -/
def linesOf (loc n : Nat) : List (Nat × Nat) := [(locTeam loc, locOff loc / 128), (locTeam loc, (locOff loc + n - 1) / 128)]

/-- A line is present (17 R197). -/
def State.present (s : State) (l : Nat × Nat) : Bool := !(s.team l.1).absent.contains l.2

/-! ### Atomic operations (17 R189, R190) -/

/-- Bytes of an atomic operation: `fl` selects the table of VFATOM. -/
def atomBytes (fl : Bool) (op : Nat) : Nat := if !fl && 10 ≤ op && op ≤ 12 then 8 else 4

/-- Each half of a word summed in a 16-bit format. -/
def addHalves (f : Fmt) (old b : Nat) : Nat :=
  f.add false .rne (old % 65536) (b % 65536) + f.add false .rne (old / 65536 % 65536) (b / 65536 % 65536) * 65536

/-- The new value of a location from its old one and the operand words, lowest first (17 R189, R190). -/
def atomNew (fl : Bool) (op old : Nat) (data : List W32) : Nat :=
  let w := fun k => ((data[k]?).getD 0).toNat
  let b := w 0
  let b64 := w 1 * 2 ^ 32 + w 0
  let so := elemInt true 32 old
  let sb := elemInt true 32 b
  if fl then
    match op with
    | 0 => fmtF32.add false .rne old b
    | 1 => fmtF32.minmax false false old b
    | 2 => fmtF32.minmax false true old b
    | 3 => addHalves (fmtOf 10) old b
    | _ => addHalves (fmtOf 9) old b
  else
    match op with
    | 0 => (old + b) % 2 ^ 32
    | 1 => if sb < so then b else old
    | 2 => if so < sb then b else old
    | 3 => min old b
    | 4 => max old b
    | 5 => old &&& b
    | 6 => old ||| b
    | 7 => old ^^^ b
    | 8 => b
    | 9 => if old = b then w 1 else old
    | 10 => (old + b64) % 2 ^ 64
    | 11 => b64
    | 12 => if old = b64 then w 3 * 2 ^ 32 + w 2 else old
    | 13 => if b ≤ old then 0 else old + 1
    | 14 => fmtF32.add false .rne old b
    | _ => addHalves (fmtOf 10) old b

end Sys2Proof.Machine
end

