-- ==== Sys2Proof/Machine/Access.lean ====
section
/-! DEFINITION. Outstanding memory operations: the order in which their lanes may be performed, performing a lane at its scope, at its home, at a scratchpad or through the Gallery, the delivery of loaded values, and the faults and violations found after issue (09_encoding.md R86 to R88; 15 R164 to R174; 17 R186 to R202). -/

namespace Sys2Proof.Machine

/-- A group-level operation: its access is made once for the group (27 R281). -/
def PendOp.groupLevel (p : PendOp) : Bool := p.scalar || p.kind == .loadX || p.kind == .storeX

/-! ### Order among the group's own accesses (15 R167, R168) -/

/-- The operation may write its locations. -/
def PendOp.writes (p : PendOp) : Bool :=
  match p.kind with
  | .store | .storeX | .atomic _ _ _ | .stcnd => true
  | _ => false

/-- A lane that is not finished with memory. -/
def LaneAcc.open (a : LaneAcc) : Bool := !a.performed && !a.failed

/-- The bytes a lane touches: first byte and count, the sideband of a line move and the scratchpads apart from the data of global memory. -/
def LaneAcc.range (a : LaneAcc) (p : PendOp) : Nat × Nat :=
  if a.lane = 32 then (2 ^ 70 + 8 * (a.addr / 128), 8) else (a.addr + (if p.spad then 2 ^ 72 else 0), p.bytes)

/-- Two byte ranges meet. -/
def rangesMeet (a b : Nat × Nat) : Bool := a.1 < b.1 + b.2 && b.1 < a.1 + a.2

/-- Lane `a` of `p` waits for lane `b` of the earlier operation `q`: related by program order and to the same bytes, with a write or a read by the same lane among them; or, whatever their lanes, to the same line of the same peer while `b` has not left the core (15 R167, R168, R173). -/
def heldBy (p : PendOp) (a : LaneAcc) (q : PendOp) (b : LaneAcc) : Bool :=
  b.open &&
  (((p.scalar || q.scalar || p.mask &&& q.mask != 0) && rangesMeet (a.range p) (b.range q) &&
     (p.writes || q.writes || p.scalar || q.scalar || a.lane == b.lane)) ||
   (a.remote p && b.remote q && a.addr / 128 == b.addr / 128 && b.tag.isNone))

/-- The operations issued before `p`. -/
def Group.before (g : Group) (p : PendOp) : List PendOp := g.pend.takeWhile (·.id != p.id)

/-- Bytes that a unit of a tile or accumulator move touches: a 4-byte word, or a scale byte (23 R246, R248). -/
def TileMove.unitBytes (m : TileMove) (k : Nat) : Nat := if (m.kind == .tlds || m.kind == .tsts) && 2048 ≤ k then 1 else 4

/-- The move writes the scratchpad. -/
def TileMove.stores (m : TileMove) : Bool := m.kind == .tsts || m.kind == .csts

/-- Some unit of a move that has not landed touches bytes of a scratchpad range. -/
def TileMove.touches (m : TileMove) (r : Nat × Nat) : Bool :=
  !m.done && m.locs.any fun x => !m.landed.contains x.1 && rangesMeet (x.2 + 2 ^ 72, m.unitBytes x.1) r

/-- Lane `a` of `p` waits for an earlier access of the group, or for an earlier tile move to the same scratchpad bytes. -/
def Group.held (g : Group) (p : PendOp) (a : LaneAcc) : Bool :=
  ((g.before p).any fun q => q.lanes.any (heldBy p a q)) ||
  (p.spad && g.moves.any fun m => m.id < p.id && (m.stores || p.writes) && m.touches (a.range p))

/-- The operation may read its locations. -/
def PendOp.reads (p : PendOp) : Bool :=
  match p.kind with
  | .load | .loadX | .atomic _ _ _ | .ldrsv | .stcnd => true
  | _ => false

/-- The stores, atomics and reductions of colours `cols`, and every scratchpad one, that a release waits for (15 R163, R164). -/
def writesOpen (l : List PendOp) (cols : Byte) : Bool :=
  l.any fun q => q.writes && (q.spad || cols.getLsbD q.colour) && q.lanes.any (·.open)

/-- The loads and atomics that an acquiring fence follows, whatever their colour: each obtains its value before the fence acts (15 R166, R167). -/
def readsOpen (l : List PendOp) : Bool :=
  l.any fun q => q.reads && q.lanes.any (·.open)

/-- The accesses of colours `cols` that a release at group or team scope waits for (15 R164). -/
def accessesOpen (l : List PendOp) (cols : Byte) : Bool :=
  l.any fun q => (q.reads || q.writes) && cols.getLsbD q.colour && q.lanes.any (·.open)

/-- The group's scratchpad accesses, tile moves among them, that are still to be performed. -/
def spadsOpen (l : List PendOp) (m : List TileMove) : Bool :=
  (l.any fun q => q.spad && q.lanes.any (·.open)) || m.any fun m => !m.done && m.locs != []
def Group.spadOpen (g : Group) : Bool := spadsOpen g.pend g.moves

/-- What a release of a scope and colours waits for among the group's earlier accesses: every scratchpad access, the writes of its colours, and at group and team scope every access of them (15 R163, R164). -/
def releaseOpen (l : List PendOp) (m : List TileMove) (scope : Nat) (cols : Byte) : Bool :=
  spadsOpen l m || writesOpen l cols || scope ≤ 1 && accessesOpen l cols

/-! ### Release and acquire (15 R164, R166) -/

/-- What a release of a scope and colours does once the group's earlier accesses are performed: nothing at team scope and narrower; a write-back of the core's lines; from domain scope on also a drain of the context's write-combining entries. The answer says whether it is complete. -/
def State.releaseAt (s : State) (g : Group) (scope : Nat) (cols : Byte) : MemR Bool :=
  let t := s.teamOf g
  if scope ≤ 1 then .ok (s, true)
  else
    match s.flushL1 t.core t.ctx (s.ctx t.ctx).asid cols with
    | .error e => .error e
    | .ok (s1, _) =>
      if scope < 4 then .ok (s1, true)
      else
        let p := fun (e : WcbEntry) => e.ctx == t.ctx && cols.getLsbD e.colour
        .ok (s1.wcbSendAll t.core p, !((s1.core t.core).wcb.any p))

/-- What an acquire of a scope and colours does: from share scope on, the core writes back and invalidates its lines of the colours (15 R166). -/
def State.acquireAt (s : State) (g : Group) (scope : Nat) (cols : Byte) : MemR Unit :=
  let t := s.teamOf g
  if scope ≤ 1 then .ok (s, ()) else s.acquireL1 t.core t.ctx (s.ctx t.ctx).asid cols

/-- The scope at which a lane is performed: a remote one at domain scope at least (17 R183). -/
def LaneAcc.scopeOf (a : LaneAcc) (p : PendOp) : Nat := if a.remote p then max p.scope 4 else p.scope

/-- A lazy release: device scope, by a store or atomic (15 R164). -/
def lazyRelease (p : PendOp) (a : LaneAcc) : Bool := p.rel && a.scopeOf p == 3

/-- A release store or atomic waits for what it releases; a lazy one only for the group's earlier accesses (15 R164). -/
def State.relGate (s : State) (u : Nat) (p : PendOp) (a : LaneAcc) : MemR Bool :=
  let g := s.group u
  let cols := 1#8 <<< p.colour
  if !p.rel then .ok (s, true)
  else if releaseOpen (g.before p) (g.moves.filter (·.id < p.id)) (a.scopeOf p) cols then .ok (s, false)
  else if lazyRelease p a then .ok (s, true)
  else s.releaseAt g (a.scopeOf p) cols

/-! ### Performing one lane -/

/-- The bytes that a lane writes in its line, and their values. -/
def LaneAcc.writeMask (a : LaneAcc) (p : PendOp) : LineMask := if a.lane = 32 then byteMask 128 8 else byteMask (a.addr % 128) p.bytes
def LaneAcc.writeData (a : LaneAcc) (p : PendOp) : Line :=
  if a.lane = 32 then BitVec.ofNat 1088 (wordsNat a.data % 2 ^ 64 * 2 ^ 1024)
  else BitVec.ofNat 1088 (wordsNat a.data % 2 ^ (8 * p.bytes) * 2 ^ (8 * (a.addr % 128)))

/-- The lane has been performed and holds values, all of one poison. -/
def LaneAcc.got (a : LaneAcc) (val : List W32) (poison : Bool) : LaneAcc :=
  { a with performed := true, val := val, pois := val.map fun _ => poison, fault := none, since := none }

/-- The words of an undefined value: what the units of an atomic hold whose location is poisoned (17 R191; assumption log 5). -/
def State.freeWords (s : State) (n : Nat) : List W32 × State :=
  ((List.range n).map fun k => BitVec.ofNat 32 (Config.freeNat (s.free + k)), { s with free := s.free + n })

/-- A store of a lane or a whole line: at its scope, or, as a lazy release, at its home, which records it (15 R162, R164, R165). -/
def State.performStore (s : State) (r : Req) (p : PendOp) (lazy_ : Bool) (mask : LineMask) (data : Line) : MemR Unit :=
  if lazy_ then
    match s.homeLineW r with
    | .error e => .error e
    | .ok (s1, l) =>
      if !l.attrs.w then .error .violation
      else if s1.pageFull r.asid r.va then .error (.fault faultCompFull)
      else (s1.homeWrite r l mask data p.colour false).recordRelease r (1#8 <<< p.colour)
  else s.storeLine r p.scope p.colour mask data

/-- An atomic or reduction at the home, one indivisible step (15 R171; 17 R189 to R191). A poisoned location is left alone: what returns is poisoned, and a reduction is dropped and recorded as a deferred error. -/
def State.performAtomic (s : State) (r : Req) (p : PendOp) (a : LaneAcc) (fl ret : Bool) (op : Nat) : MemR LaneAcc :=
  match s.homeLineW r with
  | .error e => .error e
  | .ok (s1, l) =>
    if !l.attrs.w then .error .violation
    else if s1.pageFull r.asid r.va then .error (.fault faultCompFull)
    else if l.poison then
      if ret then let (ws, s2) := s1.freeWords (p.bytes / 4); .ok (s2, a.got ws true)
      else .ok (s1.deferred 2 r.asid r.va r.core, a.got [] false)
    else
      let j := r.va % 128
      let old := lineNat l.data j p.bytes
      let new := atomNew fl op old a.data
      let s2 := s1.homeWrite r l (byteMask j p.bytes) (lineSet l.data j p.bytes new) p.colour false
      let a1 := a.got (if ret then regWords p.bytes false old else []) false
      if lazyRelease p a then
        match s2.recordRelease r (1#8 <<< p.colour) with
        | .error e => .error e
        | .ok (s3, _) => .ok (s3, a1)
      else .ok (s2, a1)

/-- STCND: the store is performed at the home only where the lane's reservation covers the line; success and failure clear the reservation (15 R179, 17 R192). -/
def State.performStcnd (s : State) (u : Nat) (r : Req) (p : PendOp) (a : LaneAcc) : MemR LaneAcc :=
  let drop (s : State) : State := let g := s.group u; s.setGroup u { g with resv := tdel g.resv a.lane }
  if tget (s.group u).resv a.lane != some r.key then .ok (drop s, a.got [1] false)
  else
    match s.homeLineW r with
    | .error e => .error e
    | .ok (s1, l) =>
      if tget (s1.group u).resv a.lane != some r.key then .ok (drop s1, a.got [1] false)
      else if !l.attrs.w then .error .violation
      else if s1.pageFull r.asid r.va then .error (.fault faultCompFull)
      else
        let s2 := drop (s1.homeWrite r l (a.writeMask p) (a.writeData p) p.colour false)
        if lazyRelease p a then
          match s2.recordRelease r (1#8 <<< p.colour) with
          | .error e => .error e
          | .ok (s3, _) => .ok (s3, a.got [0] false)
        else .ok (s2, a.got [0] false)

/-- The pinned lines of a line's set, each once whatever the number of contexts that pin it (15 R178). -/
def State.pinsInSet (s : State) (key : Nat) : List Nat := ((s.ctxs.flatMap (·.2.pins)).filter (sameSet key)).foldl ninsert []

/-- The line as its home holds it, which another die that owns it gives back first (15 R160, R179). -/
def State.homeCopy (s : State) (r : Req) : MemR LlcLine :=
  match s.recallFor r.key (homeDie r.va) with
  | .error e => .error e
  | .ok (s1, _) => s1.homeFill r

/-- LPIN: already pinned 0, over the quota 2, a set with 18 pins 1, else the line is filled at its home and pinned (15 R178, 17 R195). -/
def State.performLpin (s : State) (r : Req) (a : LaneAcc) : MemR LaneAcc :=
  let c := s.ctx r.ctx
  if c.pins.contains r.key then .ok (s, a.got [0] false)
  else if c.quota ≤ c.pins.length then .ok (s, a.got [2] false)
  else if 18 ≤ (s.pinsInSet r.key).length then .ok (s, a.got [1] false)
  else
    match s.homeCopy r with
    | .error e => .error e
    | .ok (s1, _) => let c1 := s1.ctx r.ctx; .ok (s1.setCtx r.ctx { c1 with pins := ninsert c1.pins r.key }, a.got [0] false)

/-- Performs a lane of a global access in this device's memory. VLDX and VSTX move the bytes of the line unchanged, as the pseudocode of 17 R187 has it, whatever the format of its elements (07 R73; assumption log 50). -/
def State.performLocal (s : State) (u : Nat) (p : PendOp) (a : LaneAcc) : MemR LaneAcc :=
  let r := s.reqOf (s.group u) a.addr
  match p.kind with
  | .load =>
    match s.loadAt r p.scope p.colour p.bytes with
    | .error e => .error e
    | .ok (s1, (x, po)) => .ok (s1, a.got (regWords p.bytes p.signed x) po)
  | .ldrsv =>
    match s.loadAt r p.scope p.colour p.bytes with
    | .error e => .error e
    | .ok (s1, (x, po)) =>
      match s1.homeCopy r with
      | .error e => .error e
      | .ok (s2, _) =>
        let g := s2.group u
        .ok (s2.setGroup u { g with resv := tset g.resv a.lane r.key }, a.got (regWords p.bytes false x) po)
  | .loadX =>
    match s.loadLine r p.scope p.colour with
    | .error e => .error e
    | .ok (s1, (l, po)) =>
      .ok (s1, a.got (if a.lane = 32 then lineWords l 128 8 else lineWords l (a.addr % 128) 4) po)
  | .store | .storeX =>
    match s.performStore r p (lazyRelease p a) (a.writeMask p) (a.writeData p) with
    | .error e => .error e
    | .ok (s1, _) => .ok (s1, a.got [] false)
  | .atomic fl ret op => s.performAtomic r p a fl ret op
  | .stcnd => s.performStcnd u r p a
  | .lpin => s.performLpin r a
  | .lunpin => let c := s.ctx r.ctx; .ok (s.setCtx r.ctx { c with pins := c.pins.filter (· != r.key) }, a.got [] false)
  | .spjoin _ | .presq _ => .ok (s, a)

/-! ### Scratchpad accesses (17 R184, R191, R342) -/

/-- Performs one lane at its scratchpad: loads poison what they read from poisoned words; an atomic on a poisoned word is not performed and returns poison. A store places clean data, that of a system handler too whose source register is poisoned (27 R291; assumption log 50). -/
def State.performSpad (s : State) (p : PendOp) (a : LaneAcc) : State × LaneAcc :=
  match p.kind with
  | .store | .storeX => (s.spadWrite a.addr p.bytes (wordsNat a.data) false, a.got [] false)
  | .atomic fl _ op =>
    if s.spadPoisoned a.addr p.bytes then let (ws, s1) := s.freeWords (p.bytes / 4); (s1, a.got ws true)
    else
      let old := s.spadRead a.addr p.bytes
      (s.spadWrite a.addr p.bytes (atomNew fl op old a.data) false, a.got (regWords p.bytes false old) false)
  | _ =>
    let ws := regWords p.bytes p.signed (s.spadRead a.addr p.bytes)
    (s, { a.got ws false with pois := (List.range ws.length).map fun k => s.spadPoisoned (a.addr + 4 * k) (min 4 p.bytes) })

/-- Performs the lanes of a scratchpad access in ascending order: the highest lane's store wins, atomics chain (17 R186, R191). -/
def State.performSpads (s : State) (p : PendOp) : List LaneAcc → State × List LaneAcc
  | [] => (s, [])
  | a :: t =>
    let (s1, a1) := s.performSpad p a
    let (s2, l) := s1.performSpads p t
    (s2, a1 :: l)

/-! ### Trying lanes -/

/-- What trying a lane comes to. -/
inductive Perf where
  | did (s : State) (a : LaneAcc)
  | kept (s : State) (a : LaneAcc)
  | err (e : MemErr)

def Perf.ofMem : MemR LaneAcc → Perf
  | .ok (s, a) => .did s a
  | .error e => .err e

/-- What a lane that found no translation at its peer becomes (29 R308, R309). -/
def LaneAcc.turned (a : LaneAcc) : RTry → LaneAcc
  | .refused => { a with refused := true }
  | .absent => { a with absentThere := true }
  | _ => a

/-- A remote store or VRED enters the write-combining buffer once its translation is known; it has then left the core (15 R173, 17 R183). -/
def State.remoteStore (s : State) (u : Nat) (p : PendOp) (a : LaneAcc) (mask : LineMask) (data : Line) : Perf :=
  let t := s.teamOf (s.group u)
  let o := remoteOffset a.addr
  let red : Option (Nat × Nat × List W32) := match p.kind with | .atomic _ _ op => some (op, o % 128, a.data) | _ => none
  match s.remoteTry (dieOf t.core) t.ctx (remotePeer a.addr) o true with
  | (s1, .go _) =>
    let (s2, ok) := s1.wcbStore t.core t.ctx t.task (remotePeer a.addr) (o / 128) p.colour (if red.isSome then 0 else mask) (if red.isSome then 0 else data) red
      ⟨u, p.pc, if p.groupLevel then 32 else a.lane, p.id⟩
    if ok then .did s2 (a.got [] false) else .kept s2 a
  | (s1, r) => .kept s1 (a.turned r)

/-- The remote accesses that pass through the write-combining buffer: stores, VSTX and VRED (17 R183). -/
def PendOp.combines (p : PendOp) : Bool := match p.kind with | .store | .storeX | .atomic _ false _ => true | _ => false

/-- A remote load or atomic: it drains its line's write-combining entry and waits for the acknowledgement, and is then sent (15 R173, 17 R183). -/
def State.remoteAsk (s : State) (u : Nat) (p : PendOp) (a : LaneAcc) : Perf :=
  let t := s.teamOf (s.group u)
  let o := remoteOffset a.addr
  let (s0, clear) := s.wcbClear t.core (remotePeer a.addr) (o / 128)
  if !clear then .kept s0 a
  else
    match s0.remoteTry (dieOf t.core) t.ctx (remotePeer a.addr) o p.writes with
    | (s1, .go server) =>
      let kind : PktKind := match p.kind with
        | .atomic fl ret op => .atomic o fl ret op a.data
        | _ => .read o
      let (n, s2) := s1.remoteSend (dieOf t.core) t.ctx (remotePeer a.addr) server p.colour kind 0 0 false
      .kept s2 { a with tag := some n, fault := none }
    | (s1, r) => .kept s1 (a.turned r)

/-- An access of all 32 lanes of a line move: one 136-byte access (15 R169, 17 R187). -/
def PendOp.whole (p : PendOp) : Bool := (p.kind == .loadX || p.kind == .storeX) && p.mask == 0xFFFFFFFF

/-- The mask and data of a whole line move, or of a single lane. -/
def PendOp.maskFor (p : PendOp) (a : LaneAcc) : LineMask := if p.whole then fullMask else a.writeMask p
def PendOp.dataFor (p : PendOp) (a : LaneAcc) : Line :=
  if p.whole then p.lanes.foldl (fun d b => d ||| b.writeData p) 0 else a.writeData p

/-- Tries one lane, its guards aside. -/
def State.tryOne (s : State) (u : Nat) (p : PendOp) (a : LaneAcc) : Perf :=
  if a.remote p then
    (if p.combines then s.remoteStore u p a (p.maskFor a) (p.dataFor a) else s.remoteAsk u p a)
  else if p.whole && p.kind == .storeX then
    Perf.ofMem (match s.performStore (s.reqOf (s.group u) a.addr) p (lazyRelease p a) fullMask (p.dataFor a) with
      | .error e => .error e
      | .ok (s1, _) => .ok (s1, a.got [] false))
  else Perf.ofMem (s.performLocal u p a)

/-- Every record that the operation is parked on has been released (25 R270). -/
def State.allReleased (s : State) (g : Group) (p : PendOp) : Bool :=
  p.lanes.all fun a => match a.fault with | none => true | some r => (s.recordReleased g r).isSome

/-- A lane that may be tried: unfinished, waiting for no answer, and, where it is parked on a fault, released with RETRY together with the whole operation (17 R202, 25 R270). -/
def State.tryable (s : State) (g : Group) (p : PendOp) (a : LaneAcc) : Bool :=
  a.open && a.tag.isNone && !a.refused && !a.absentThere && !g.held p a &&
  (match a.fault with | none => true | some r => s.allReleased g p && s.recordReleased g r == some false)

/-- Replaces a lane of an operation. -/
def State.putLane (s : State) (u id : Nat) (a : LaneAcc) : State :=
  let g := s.group u
  s.setGroup u { g with pend := g.pend.map fun p =>
    if p.id = id then { p with lanes := p.lanes.map fun b => if b.lane = a.lane then a else b } else p }

/-- Replaces every lane of a whole-line move by what the one access found (15 R169). -/
def State.putWhole (s : State) (u id : Nat) (p : PendOp) (a : LaneAcc) (line : Option (Line × Bool)) : State :=
  let g := s.group u
  let lane (b : LaneAcc) : LaneAcc :=
    let b1 := { b with tag := a.tag, refused := a.refused, absentThere := a.absentThere, fault := a.fault, since := a.since, performed := a.performed }
    match line with
    | some (l, po) => b1.got (if b.lane = 32 then lineWords l 128 8 else lineWords l (b.addr % 128) 4) po
    | none => b1
  s.setGroup u { g with pend := g.pend.map fun q => if q.id = id then { q with lanes := p.lanes.map lane } else q }

/-- The operation of a group with a number. -/
def Group.pendOp (g : Group) (id : Nat) : Option PendOp := g.pend.find? (·.id == id)

/-- A lane that waits: since when it waits for a migrating page is kept for R271, and a lane retried after a fault waits afresh. -/
def State.laneWaits (s : State) (g : Group) (a : LaneAcc) : LaneAcc :=
  { a with since := s.sinceMig (s.reqOf g a.addr).asid a.addr (if a.fault.isSome then none else a.since), fault := none }

/-- Tries a lane of an outstanding operation and keeps what it comes to. -/
def State.tryLane (s : State) (u id l : Nat) : State :=
  let g := s.group u
  match g.pendOp id with
  | none => s
  | some p =>
    match p.lanes.find? (·.lane == l) with
    | none => s
    | some a =>
      if !s.tryable g p a then s
      else
        match s.relGate u p a with
        | .error _ => s
        | .ok (s0, false) => s0
        | .ok (s0, true) =>
          if p.spad then
            if p.lanes.any fun b => b.open && !s.tryable g p b then s
            else
              let (s1, ls) := s0.performSpads p p.lanes
              let g1 := s1.group u
              s1.setGroup u { g1 with pend := g1.pend.map fun q => if q.id = id then { q with lanes := ls } else q }
          else if p.whole then
            if p.lanes.any fun b => b.open && !s.tryable g p b then s else
            match p.kind == .loadX && !a.remote p, s0.loadLine (s0.reqOf g a.addr) p.scope p.colour, s0.tryOne u p a with
            | true, .ok (s1, x), _ => s1.putWhole u id p { a with performed := true, fault := none, since := none } (some x)
            | true, .error .wait, _ => s0.putWhole u id p (s.laneWaits g a) none
            | true, .error _, _ => s0
            | false, _, .did s1 a1 => s1.putWhole u id p a1 none
            | false, _, .kept s1 a1 => s1.putWhole u id p a1 none
            | false, _, .err .wait => s0.putWhole u id p (s.laneWaits g a) none
            | false, _, .err _ => s0
          else
            match s0.tryOne u p a with
            | .did s1 a1 => s1.putLane u id a1
            | .kept s1 a1 => s1.putLane u id a1
            | .err .wait => s0.putLane u id (s.laneWaits g a)
            | .err _ => s0

/-- Tries the lanes of an operation that satisfy a test, in ascending order. -/
def State.tryLanes (s : State) (u id : Nat) (pick : Nat → Bool) : State :=
  match (s.group u).pendOp id with
  | none => s
  | some p => ((p.lanes.map (·.lane)).filter pick).foldl (fun s l => s.tryLane u id l) s

/-! ### Delivery and completion (09 R86, R88) -/

/-- The units that a lane delivers: its registers, or the eight bytes of a scale register. -/
def PendOp.units (p : PendOp) (a : LaneAcc) : List Nat :=
  if p.ctr == .store then [] else if a.lane = 32 then [1, 2, 3, 4, 5, 6, 7, 8] else List.range p.nregs

/-- Writes one unit of a lane: a lane of a vector register, a byte of a scale register, or a scalar register of the bank that the instruction named at issue (09 R88, 27 R280). -/
def Group.deliverUnit (g : Group) (p : PendOp) (a : LaneAcc) (k : Nat) : Group :=
  if a.lane = 32 then
    g.wxb p.dest (k - 1) (xbyte (BitVec.ofNat 64 (wordsNat a.val)) (k - 1)) ((a.pois[(k - 1) / 4]?).getD false)
  else
    let x := (a.val[k]?).getD 0
    let po := (a.pois[k]?).getD false
    if p.scalar then
      let g1 := ({ g with mode := p.mode }).ws (p.dest + k) x
      { (if po then g1.poisonS (p.dest + k) else g1) with mode := g.mode }
    else g.wl (p.dest + k) a.lane x po

/-- A lane that has a unit to deliver. -/
def PendOp.canDeliver (p : PendOp) (a : LaneAcc) (k : Nat) : Bool :=
  a.performed && !a.failed && (p.units a).contains k && !a.delivered.contains k

/-- Delivers unit `k` of the lanes that satisfy a test. -/
def Group.deliver (g : Group) (id k : Nat) (pick : Nat → Bool) : Group :=
  match g.pendOp id with
  | none => g
  | some p =>
    let ls := p.lanes.filter fun a => pick a.lane && p.canDeliver a k
    let g1 := ls.foldl (fun g a => g.deliverUnit p a k) g
    let mark (a : LaneAcc) : LaneAcc := if pick a.lane && p.canDeliver a k then { a with delivered := a.delivered ++ [k] } else a
    { g1 with pend := g1.pend.map fun (q : PendOp) => if q.id = id then { q with lanes := q.lanes.map mark } else q }

/-- The operation has nothing left to do. -/
def PendOp.finished (p : PendOp) : Bool :=
  p.lanes.all fun a => a.failed || (a.performed && (p.units a).all a.delivered.contains)

/-- Completes an operation that has nothing left to do: an acquire takes its steps on L1 first; then it leaves its counter in issue order (09 R86, 15 R166). -/
def State.finishOp (s : State) (u id : Nat) : State :=
  let g := s.group u
  match g.pendOp id with
  | none => s
  | some p =>
    if p.done || !p.finished then s
    else
      let close (s : State) : State :=
        let g := s.group u
        let shut (q : PendOp) : PendOp := if q.id = id then { q with done := true } else q
      s.setGroup u (Group.retire { g with pend := g.pend.map shut })
      if p.acq && !p.spad && p.lanes.any (·.performed) then
        match s.acquireAt g (if p.lanes.any (·.remote p) then max p.scope 4 else p.scope) (1#8 <<< p.colour) with
        | .error _ => s
        | .ok (s1, _) => close s1
      else close s

/-- LOAD_DATA_RETURN for group `s.who`: loads and the other operations that only read are performed for the lanes; unit `reg` of those lanes that have been performed is written; the operation leaves the load counter when every unit has been (05 R53, 09 R86 to R88). For the sideband of a line move, `reg` is 1 plus the byte. -/
def execLoadDataReturn (op reg : Nat) (lanes : Lanes) (s : State) : Host.Outcome State Fault Refusal :=
  let u := s.who
  match s.cur.pendOp op with
  | none => .next s
  | some p =>
    let pick (l : Nat) : Bool := if p.kind == .loadX && reg != 0 then l == 32 else l < 32 && inSet lanes l
    let s1 := if p.ctr == .load && (p.spad || !p.writes) then s.tryLanes u op pick else s
    .next ((s1.setGroup u ((s1.group u).deliver op reg pick)).finishOp u op)

/-- STORE_PERFORMED for group `s.who`: lanes of a store, or the release of a pin, are performed; the operation leaves the store counter with its last lane (05 R53, 15 R162, R170). Lane 0 stands for the sideband of a line move as well. -/
def execStorePerformed (op : Nat) (lanes : Lanes) (s : State) : Host.Outcome State Fault Refusal :=
  match s.cur.pendOp op with
  | none => .next s
  | some p =>
    if p.kind == .store || p.kind == .storeX || p.kind == .lunpin then
      .next ((s.tryLanes s.who op fun l => if l = 32 then lanes != 0 else inSet lanes l).finishOp s.who op)
    else .next s

/-- HOME_ATOMIC for group `s.who`: lanes of an atomic, reduction or conditional store are performed at the home, one after another (15 R171, 17 R191). -/
def execHomeAtomic (op : Nat) (lanes : Lanes) (s : State) : Host.Outcome State Fault Refusal :=
  match s.cur.pendOp op with
  | none => .next s
  | some p =>
    if p.writes && !p.spad && p.kind != .store && p.kind != .storeX then .next ((s.tryLanes s.who op (inSet lanes)).finishOp s.who op)
    else .next s

/-! ### Faults and violations found after issue (17 R202, 25 R264, R267) -/

/-- The kind of access in a fault record (25 R269). -/
def PendOp.recordKind (p : PendOp) : Nat :=
  match p.kind with
  | .store | .storeX => 1
  | .atomic _ _ _ | .stcnd => 2
  | _ => 0

/-- The error that trying a lane meets now. -/
def State.laneErr (s : State) (u : Nat) (p : PendOp) (a : LaneAcc) : Option MemErr :=
  let g := s.group u
  if a.absentThere then some (.fault faultRemote)
  else if a.refused then some .remote
  else if p.spad || !s.tryable g p a then none
  else
    match s.relGate u p a with
    | .error e => some e
    | .ok (_, false) => none
    | .ok (s0, true) =>
      if p.whole && p.kind == .loadX && !a.remote p then
        match s0.loadLine (s0.reqOf g a.addr) p.scope p.colour with
        | .error e => some e
        | .ok _ => none
      else
        match s0.tryOne u p a with
        | .err e => some e
        | _ => none

/-- Marks lanes as parked on a record. -/
def State.markFault (s : State) (u id rec : Nat) (ls : List Nat) : State :=
  let g := s.group u
  let park (b : LaneAcc) : LaneAcc := if ls.contains b.lane then { b with fault := some rec, absentThere := false, since := none } else b
  s.setGroup u { g with pend := g.pend.map fun q => if q.id = id then { q with lanes := q.lanes.map park } else q }

/-- The page of an address as a fault sees it: the page mapped there, or the 64 KiB unit where none is, and in the remote window (25 R267; assumption log 40). -/
def State.faultPage (s : State) (u va : Nat) : Nat :=
  if isRemote va then va / 65536 * 65536 else match s.pageOf (s.reqOf (s.group u) va).asid va with | some x => x.base | none => va / 65536 * 65536

/-- Writes one record for each page and cause among the lanes (lane, address, cause), in lane order, and parks them (25 R267). -/
def State.recordPages (s : State) (u : Nat) (p : PendOp) (ls : List (Nat × Nat × Nat)) : State :=
  let key (x : Nat × Nat × Nat) : Nat × Nat := (s.faultPage u x.2.1, x.2.2)
  let keys := ls.foldl (fun (l : List (Nat × Nat)) x => if l.contains (key x) then l else l ++ [key x]) []
  keys.foldl (fun s k =>
    let here := ls.filter fun x => key x == k
    let (n, s1) := s.groupFault u 0 k.2 p.recordKind ((here.map (·.2.1)).headD 0) p.pc 0
    s1.markFault u p.id n (here.map (·.1))) s

/-- A group whose acquire has met a fault parks inside its clause (17 R202). -/
def State.parkNow (s : State) (u : Nat) : State :=
  let g := s.group u
  if g.clause.isSome && g.acqHeld && g.faultParked then (s.setGroup u { g with wait := .fault }).swapOut u else s

/-- LANE_FAULT for group `s.who`: the lanes of an access that meet a replayable fault stay outstanding with their operands, one record a page, and the group parks (17 R202, 25 R267). -/
def execLaneFault (op : Nat) (s : State) : Host.Outcome State Fault Refusal :=
  let u := s.who
  match s.cur.pendOp op with
  | none => .next s
  | some p =>
    let bad := p.lanes.filterMap fun a => match (if a.open then s.laneErr u p a else none) with
      | some (.fault c) => some (a.lane, a.addr, c)
      | _ => none
    .next ((s.recordPages u p bad).parkNow u)

/-- The lanes fail: they are not performed, and the group traps when it would next begin a clause, with their mask, or 0 for a group-level operation (17 R202, 27 R281). -/
def State.failLanes (s : State) (u : Nat) (p : PendOp) (cause : Nat) (ls : List Nat) : State :=
  if ls = [] then s
  else
    let g := s.group u
    let g1 := { g with
      pend := g.pend.map fun q => if q.id = p.id then { q with lanes := q.lanes.map fun b => if ls.contains b.lane then { b with failed := true, fault := none } else b } else q }
    let s1 := s.setGroup u (if g.status == .live then g1.arm cause p.pc (if p.groupLevel then 0 else laneSet (ls.filter (· < 32))) else g1)
    s1.finishOp u p.id

/-- Writes one record of a violation for each page among the addresses that an instruction's refused accesses name, in order (25 R267). -/
def State.violated (s : State) (u kind : Nat) (pc : VA) (vas : List Nat) : State :=
  (vas.foldl (fun (a : State × List Nat) va =>
    if a.2.contains (s.faultPage u va) then a else ((a.1.groupFault u 0 0x40 kind va pc 0).2, a.2 ++ [s.faultPage u va])) (s, [])).1

/-- ACCESS_VIOLATION for group `s.who`: lanes that met a protection violation, a refusal by the target, or a fault that the host released with FAIL are not performed (17 R202, 25 R264, R270). The trap waits until no lane awaits a target's answer, so that its mask names them all (assumption log 26). -/
def execAccessViolation (op : Nat) (s : State) : Host.Outcome State Fault Refusal :=
  let u := s.who
  let g := s.cur
  match g.pendOp op with
  | none => .next s
  | some p =>
    let open_ := p.lanes.filter (·.open)
    let failed := open_.filter fun a => match a.fault with | some r => s.allReleased g p && s.recordReleased g r == some true | none => false
    let viol := open_.filter fun a => a.fault.isNone && s.laneErr u p a == some .violation
    let remote := open_.filter (·.refused)
    if open_.any fun a => a.remote p && !a.refused && a.fault.isNone then .next s else
    let s0 := viol.foldl (fun s a => s.seen (s.reqOf g a.addr)) s
    let s1 := s0.violated u p.recordKind p.pc (viol.map (·.addr))
    .next ((s1.failLanes u p causeProtection ((failed ++ viol).map (·.lane))).failLanes u p causeRemoteError (remote.map (·.lane)))

/-- ABSENT_LINE_REISSUE for group `s.who`: every scratchpad line that its instruction touches is present, and the group issues it again (17 R197). -/
def execAbsentLineReissue (s : State) : Host.Outcome State Fault Refusal :=
  let g := s.cur
  match g.wait with
  | .absent ls => if ls.all s.present then .next (s.setCur { g with wait := .none }) else .next s
  | _ => .next s

/-- FAULT_RECORD_ENQUEUE for context `s.who`: the oldest queued record is written once the log has room, and the oldest held record takes the place that frees (25 R268). -/
def execFaultRecordEnqueue (s : State) : Host.Outcome State Fault Refusal :=
  let c := s.ctx s.who
  match c.queue with
  | r :: t =>
    if s.logRoom c then
      let (more, rest) := match c.heldRec with | h :: hs => ([h], hs) | [] => ([], [])
      .next ((s.setCtx s.who { c with queue := t ++ more, heldRec := rest }).writeRecord s.who r)
    else .next s
  | [] => .next s

end Sys2Proof.Machine
end

