-- ==== Sys2Proof/Machine/MemOps.lean ====
section
/-! DEFINITION. The memory instructions: loads, stores, line moves, atomics, reservations, fences, drains, prefetch, pins, scratchpad presence and sharing groups (17_isa_memory.md R181 to R199; 15_memory_model.md R162 to R179). -/

namespace Sys2Proof.Machine

/-! ### Issue of an outstanding operation (09 R87; 17 R201) -/

/-- The counter of R53 is full: the issue stalls. -/
def Group.ctrFull (g : Group) (c : Ctr) : Bool := 63 ≤ (match c with | .load => g.loads | .store => g.stores)

/-- The operation joins its counter with the operands captured at issue (05 R53, 09 R87). -/
def pushOp (s : State) (g : Group) (p : PendOp) (mask : Lanes) (lanes : List LaneAcc) : Eff :=
  if g.ctrFull p.ctr then .stall s
  else
    let (n, s1) := s.fresh
    .done (s1.setCur { g with pend := g.pend ++ [{ p with id := n, pc := g.herePc, mode := g.mode, mask := mask, lanes := lanes }] })

/-- A global address that R201 stops with PROTECTION: not canonical, a device index out of range, or remote where the form refuses it (17 R182, R183). -/
def State.badGlobal (s : State) (remoteOk : Bool) (a : Nat) : Bool :=
  !isCanonical a || (isRemote a && (!remoteOk || s.gal.devices ≤ remotePeer a))

/-- Checks 2 and 4 of R201 on global addresses, each with its lane: the cause and the mask of the lanes that fail first. A group-level operation names no lane (27 R281). -/
def State.globalCheck (s : State) (remoteOk scalar : Bool) (align : Nat) (as : List (Nat × Nat)) : Option (Nat × W32) :=
  let set (l : List (Nat × Nat)) : W32 := if scalar then 0 else laneSet (l.map (·.1))
  match as.filter fun x => s.badGlobal remoteOk x.2, as.filter fun x => x.2 % align != 0 with
  | [], [] => none
  | [], l => some (causeMisalign, set l)
  | l, _ => some (causeProtection, set l)

/-- A global operation: does nothing where ACTIVE is empty, makes the checks of R201, and is counted. -/
def issueGlobal (i : Info) (p : PendOp) (remoteOk : Bool) (align : Nat) (heads : Group → Lanes → List (Nat × Nat))
    (lanes : Group → Lanes → List LaneAcc) (s : State) (g : Group) : Eff :=
  let act := g.active' i.pred
  if act == 0 then .done s
  else
    match s.globalCheck remoteOk p.groupLevel align (heads g act) with
    | some (cause, targ) => .trap cause targ
    | none => pushOp s g p act (lanes g act)

/-- The heads of a per-lane access: every active lane's address. -/
def laneHeads (addr : Group → Nat → W64) (g : Group) (act : Lanes) : List (Nat × Nat) := (lanesOf act).map fun l => (l, (addr g l).toNat)
/-- The captured accesses of the active lanes. -/
def laneAccs (addr : Group → Nat → W64) (data : Group → Nat → List W32) (g : Group) (act : Lanes) : List LaneAcc :=
  (lanesOf act).map fun l => { lane := l, addr := (addr g l).toNat, data := data g l }
/-- The one address and access of a group-level operation. -/
def oneHead (addr : Group → W64) (g : Group) (_ : Lanes) : List (Nat × Nat) := [(0, (addr g).toNat)]
def oneAcc (addr : Group → W64) (data : Group → List W32) (g : Group) (_ : Lanes) : List LaneAcc := [{ lane := 0, addr := (addr g).toNat, data := data g }]

/-- The data words of `n` registers from `d` on. -/
def vecData (d n : Nat) (g : Group) (l : Nat) : List W32 := (List.range n).map fun k => g.rl (d + k) l
def sclData (d n : Nat) (g : Group) : List W32 := (List.range n).map fun k => g.rs (d + k)
def noData (_ : Group) (_ : Nat) : List W32 := []

/-- Bytes of an access width, and whether a load of it is sign-extended (17 R185). -/
def widthBytes (m : BitVec 4) : Nat := match m.toNat % 8 with | 0 => 1 | 1 => 1 | 2 => 2 | 3 => 2 | 4 => 4 | 5 => 8 | _ => 16
def widthSigned (m : BitVec 4) : Bool := m.toNat % 8 == 1 || m.toNat % 8 == 3

/-- The common part of a load or store of a width: MOD[3] marks acquire or release (17 R185). -/
def widthOp (f : FM) (c : Ctr) (k : AccKind) : PendOp :=
  { id := 0, ctr := c, kind := k, bytes := widthBytes f.mod, signed := widthSigned f.mod, dest := f.vd.toNat, nregs := widthRegs f.mod,
    scope := f.sco.toNat, colour := f.col.toNat, acq := c == .load && f.mod.getLsbD 3, rel := c == .store && f.mod.getLsbD 3 }

/-- The common part of an atomic: ORD marks acquire in bit 0 and release in bit 1 (17 R188). -/
def atomOp (f : FM) (c : Ctr) (fl ret : Bool) : PendOp :=
  { id := 0, ctr := c, kind := .atomic fl ret f.mod.toNat, bytes := atomBytes fl f.mod.toNat, dest := f.vd.toNat,
    nregs := if fl then 1 else atomWrites f.mod, scope := f.sco.toNat, colour := f.col.toNat, acq := f.ord % 2 == 1, rel := f.ord / 2 == 1 }

/-! ### Loads and stores (17 R186) -/

/-- VLD (17 R186). -/
def execVld (f : FM) (s : State) : Host.Outcome State Fault Refusal :=
  let i := Instr.info (.vld f)
  issue i never never (issueGlobal i (widthOp f .load .load) true (widthBytes f.mod) (laneHeads (gaddr f 15)) (laneAccs (gaddr f 15) noData)) s

/-- VST (17 R186). -/
def execVst (f : FM) (s : State) : Host.Outcome State Fault Refusal :=
  let i := Instr.info (.vst f)
  issue i never never (issueGlobal i (widthOp f .store .store) true (widthBytes f.mod) (laneHeads (gaddr f 15))
    (laneAccs (gaddr f 15) (vecData f.vd.toNat (widthRegs f.mod)))) s

/-- SLD (17 R186). -/
def execSld (f : FM) (s : State) : Host.Outcome State Fault Refusal :=
  let i := Instr.info (.sld f)
  issue i never never (issueGlobal i { widthOp f .load .load with scalar := true } true (widthBytes f.mod) (oneHead (saddr f 15))
    (oneAcc (saddr f 15) fun _ => [])) s

/-- SST (17 R186). -/
def execSst (f : FM) (s : State) : Host.Outcome State Fault Refusal :=
  let i := Instr.info (.sst f)
  issue i never never (issueGlobal i { widthOp f .store .store with scalar := true } true (widthBytes f.mod) (oneHead (saddr f 15))
    (oneAcc (saddr f 15) (sclData f.vd.toNat (widthRegs f.mod)))) s

/-! ### Line moves (17 R187) -/

/-- The lane of a line move is that of the lowest active lane: its address registers alone are read. -/
def lowestPoison (i : Info) (g : Group) : Bool :=
  let act := g.active' i.pred
  act != 0 && i.vr.any fun n => inSet (g.rvp n) (lowest act)

/-- A line move: 4 bytes for each active lane, and the sideband as access 32. -/
def lineAccs (f : FM) (data : Group → Nat → List W32) (side : Group → List W32) (g : Group) (act : Lanes) : List LaneAcc :=
  let a := (gaddr f 15 g (lowest act)).toNat
  (lanesOf act).map (fun l => ({ lane := l, addr := a + 4 * l, data := data g l } : LaneAcc)) ++ [{ lane := 32, addr := a, data := side g }]

/-- The one address of a line move, at its lowest active lane. -/
def lineHead (f : FM) (g : Group) (act : Lanes) : List (Nat × Nat) := [(lowest act, (gaddr f 15 g (lowest act)).toNat)]

/-- VLDX (17 R187). -/
def execVldx (f : FM) (s : State) : Host.Outcome State Fault Refusal :=
  let i := Instr.info (.vldx f)
  issue i never (fun _ g => lowestPoison i g)
    (issueGlobal i { widthOp f .load .loadX with bytes := 4, signed := false, nregs := 1, acq := false } true 128 (lineHead f)
      (lineAccs f noData fun _ => [])) s

/-- VSTX reads its data lanes, and its scale register whole; the system handler may store poisoned data (05 R49, 17 R187). -/
def vstxPoison (f : FM) (i : Info) (g : Group) : Bool :=
  let act := g.active' i.pred
  lowestPoison i g || (act != 0 && g.mode != .sysHandler && (g.rvp f.vd.toNat &&& act != 0 || g.rxp f.vd.toNat != 0))

/-- VSTX (17 R187). -/
def execVstx (f : FM) (s : State) : Host.Outcome State Fault Refusal :=
  let i := Instr.info (.vstx f)
  issue i never (fun _ g => vstxPoison f i g)
    (issueGlobal i { widthOp f .store .storeX with bytes := 4, rel := false } true 128 (lineHead f)
      (lineAccs f (vecData f.vd.toNat 1) fun g => [(g.rx f.vd.toNat).setWidth 32, (g.rx f.vd.toNat).extractLsb' 32 32])) s

/-! ### Atomics, reductions and reservations (17 R188 to R192) -/

/-- VATOM (17 R191). -/
def execVatom (f : FM) (s : State) : Host.Outcome State Fault Refusal :=
  let i := Instr.info (.vatom f)
  issue i never never (issueGlobal i (atomOp f .load false true) true (atomBytes false f.mod.toNat) (laneHeads (gaddr f 13))
    (laneAccs (gaddr f 13) (vecData f.vd.toNat (atomReads f.mod)))) s

/-- VFATOM (17 R190, R191). -/
def execVfatom (f : FM) (s : State) : Host.Outcome State Fault Refusal :=
  let i := Instr.info (.vfatom f)
  issue i never never (issueGlobal i (atomOp f .load true true) true 4 (laneHeads (gaddr f 13)) (laneAccs (gaddr f 13) (vecData f.vd.toNat 1))) s

/-- SATOM (17 R191). -/
def execSatom (f : FM) (s : State) : Host.Outcome State Fault Refusal :=
  let i := Instr.info (.satom f)
  issue i never never (issueGlobal i { atomOp f .load false true with scalar := true } true (atomBytes false f.mod.toNat) (oneHead (saddr f 13))
    (oneAcc (saddr f 13) (sclData f.vd.toNat (atomReads f.mod)))) s

/-- VRED (17 R191). -/
def execVred (f : FM) (s : State) : Host.Outcome State Fault Refusal :=
  let i := Instr.info (.vred f)
  issue i never never (issueGlobal i (atomOp f .store false false) true (atomBytes false f.mod.toNat) (laneHeads (gaddr f 13))
    (laneAccs (gaddr f 13) (vecData f.vd.toNat (atomReads f.mod)))) s

/-- LDRSV (17 R192). -/
def execLdrsv (f : FM) (s : State) : Host.Outcome State Fault Refusal :=
  let i := Instr.info (.ldrsv f)
  issue i never never (issueGlobal i (widthOp f .load .ldrsv) false (widthBytes f.mod) (laneHeads (gaddr f 15)) (laneAccs (gaddr f 15) noData)) s

/-- STCND: its status goes to the register after its data (17 R192). -/
def execStcnd (f : FM) (s : State) : Host.Outcome State Fault Refusal :=
  let i := Instr.info (.stcnd f)
  issue i never never
    (issueGlobal i { widthOp f .load .stcnd with acq := false, rel := f.mod.getLsbD 3, dest := f.vd.toNat + widthRegs f.mod, nregs := 1 } false
      (widthBytes f.mod) (laneHeads (gaddr f 15)) (laneAccs (gaddr f 15) (vecData f.vd.toNat (widthRegs f.mod)))) s

/-! ### Scratchpad accesses (17 R184, R186, R191, R197) -/

/-- Checks 2 to 4 of R201 on the scratchpad addresses of lanes. -/
def State.spadCheck (s : State) (team align : Nat) (as : List (Nat × Nat)) : Option (Nat × W32) :=
  let at_ (x : Nat × Nat) : SpadAt := s.spadMap team x.2
  match as.filter (fun x => at_ x == .nothing), as.filter (fun x => at_ x == .revoked), as.filter fun x => x.2 % align != 0 with
  | [], [], [] => none
  | [], [], l => some (causeMisalign, laneSet (l.map (·.1)))
  | [], l, _ => some (causeShareRevoked, laneSet (l.map (·.1)))
  | l, _, _ => some (causeProtection, laneSet (l.map (·.1)))

/-- Where a scratchpad address that passed the checks leads. -/
def State.spadLocOf (s : State) (team a : Nat) : Nat :=
  match s.spadMap team a with
  | .at t o => spadLoc t o
  | _ => 0

/-- A group that touches absent lines parks at the instruction, a long-latency wait (17 R197). -/
def absentPark (s : State) (g : Group) (lines : List (Nat × Nat)) : Eff :=
  .stall ((s.setCur { g with wait := .absent lines }).swapOut s.who)

/-- A per-lane scratchpad operation (17 R184, R197, R201). -/
def issueSpad (i : Info) (p : PendOp) (f : FM) (data : Group → Nat → List W32) (s : State) (g : Group) : Eff :=
  let act := g.active' i.pred
  if act == 0 then .done s
  else
    let as := (lanesOf act).map fun l => (l, (taddr f g l).toNat)
    match s.spadCheck g.team p.bytes as with
    | some (cause, targ) => .trap cause targ
    | none =>
      let accs : List LaneAcc := as.map fun x => { lane := x.1, addr := s.spadLocOf g.team x.2, data := data g x.1 }
      let absent := (accs.flatMap fun a => linesOf a.addr p.bytes).filter fun l => !s.present l
      if absent != [] then absentPark s g absent
      else pushOp s g { p with spad := true, colour := 0 } act accs

/-- VLDS (17 R186). -/
def execVlds (f : FM) (s : State) : Host.Outcome State Fault Refusal :=
  let i := Instr.info (.vlds f)
  issue i never never (issueSpad i (widthOp f .load .load) f noData) s

/-- VSTS (17 R186). -/
def execVsts (f : FM) (s : State) : Host.Outcome State Fault Refusal :=
  let i := Instr.info (.vsts f)
  issue i never never (issueSpad i (widthOp f .store .store) f (vecData f.vd.toNat (widthRegs f.mod))) s

/-- VATOMS (17 R191): its offset takes all 15 bits, so it has no ordering field (R188). -/
def execVatoms (f : FM) (s : State) : Host.Outcome State Fault Refusal :=
  let i := Instr.info (.vatoms f)
  issue i never never (issueSpad i { atomOp f .load false true with acq := false, rel := false } f (vecData f.vd.toNat (atomReads f.mod))) s

/-- PRESQ (17 R197): the presence mask of the 32 lines before it, and the change it makes; lines outside one region trap before the later checks of R201. -/
def execPresq (f : FM) (s : State) : Host.Outcome State Fault Refusal :=
  let i := Instr.info (.presq f)
  issue i never (fun _ g => lowestPoison i g)
    (fun s g =>
      let act := g.active' i.pred
      if act == 0 then .done s
      else
        let l := lowest act
        let a := (taddr f g l).toNat
        match s.spadMap g.team a with
        | .nothing => .trap causeProtection 0
        | .revoked => .trap (if 2 ^ 21 < a % 2 ^ 21 + 4096 then causeProtection else causeShareRevoked) 0
        | .at _ _ =>
          let loc := s.spadLocOf g.team a
          if s.spadSize (locTeam loc) < locOff loc + 4096 then .trap causeProtection 0
          else if a % 128 != 0 then .trap causeMisalign 0
          else
            let lines := (List.range 32).map fun k => (locTeam loc, locOff loc / 128 + k)
            let mask := laneSet ((List.range 32).filter fun k => s.present (locTeam loc, locOff loc / 128 + k))
            let t := s.team (locTeam loc)
            let absent := match f.mod.toNat with
              | 1 => lines.foldl (fun m x => ninsert m x.2) t.absent
              | 2 => t.absent.filter fun x => !lines.contains (locTeam loc, x)
              | _ => t.absent
            match pushOp s g { id := 0, ctr := .load, kind := .presq mask, scalar := true, spad := true, dest := f.vd.toNat } act
                [{ lane := 0, addr := loc, val := [mask], pois := [false], performed := true }] with
            | .done s1 => .done (s1.setTeam (locTeam loc) { s1.team (locTeam loc) with absent := absent })
            | e => e) s

/-! ### Pins (15 R178, 17 R195) -/

/-- The 64-bit address in a scalar pair. -/
def pairAddr (n : BitVec 7) (g : Group) : W64 := g.rpair n.toNat

/-- LPIN (17 R195). -/
def execLpin (f : FS) (s : State) : Host.Outcome State Fault Refusal :=
  let i := Instr.info (.lpin f)
  issue i never never (issueGlobal i { id := 0, ctr := .load, kind := .lpin, scalar := true, dest := f.sd.toNat } false 1 (oneHead (pairAddr f.sa))
    (oneAcc (pairAddr f.sa) fun _ => [])) s

/-- LUNPIN (17 R195). -/
def execLunpin (f : FS) (s : State) : Host.Outcome State Fault Refusal :=
  let i := Instr.info (.lunpin f)
  issue i never never (issueGlobal i { id := 0, ctr := .store, kind := .lunpin, scalar := true } false 1 (oneHead (pairAddr f.sa))
    (oneAcc (pairAddr f.sa) fun _ => [])) s

/-! ### Fences, drains and prefetch (17 R193, R194) -/

/-- An instruction that holds its group: it tries again, and a group whose lanes are parked on a fault parks there (17 R193, R202). -/
def hold (s : State) : Eff :=
  let g := s.cur
  if g.faultParked then .stall ((s.setCur { g with wait := .fault }).swapOut s.who) else .stall s

/-- FENCE: a release, an acquire or both, of a scope and a colour mask, behind the group's earlier scratchpad accesses whatever the mask (15 R163, R164, R166; 17 R193). -/
def execFence (f : FM) (s : State) : Host.Outcome State Fault Refusal :=
  let i := Instr.info (.fence f)
  issue i never never (whenActive i fun s g =>
    let cols := f.vd
    let rel := f.mod.getLsbD 1
    let acq := f.mod.getLsbD 0
    if g.spadOpen || rel && releaseOpen g.pend g.moves f.sco.toNat cols || acq && cols != 0 && readsOpen g.pend then hold s
    else
      match (if rel then s.releaseAt g f.sco.toNat cols else .ok (s, true)) with
      | .error _ => hold s
      | .ok (s1, false) => hold s1
      | .ok (s1, true) =>
        match (if acq then s1.acquireAt g f.sco.toNat cols else .ok (s1, ())) with
        | .error _ => hold s1
        | .ok (s2, _) => .done s2) s

/-- DRAIN: write-backs, the write-combining entries with `.wcb`, the invalidation with `.inv` (17 R193). -/
def execDrain (f : FM) (s : State) : Host.Outcome State Fault Refusal :=
  let i := Instr.info (.drain f)
  issue i never never (whenActive i fun s g =>
    let t := s.teamOf g
    let cols := f.vd
    match s.flushL1 t.core t.ctx (s.ctx t.ctx).asid cols with
    | .error _ => hold s
    | .ok (s1, _) =>
      let p := fun (e : WcbEntry) => e.ctx == t.ctx && cols.getLsbD e.colour
      let s2 := if f.mod.getLsbD 0 then s1.wcbSendAll t.core p else s1
      if f.mod.getLsbD 0 && (s2.core t.core).wcb.any p then hold s2
      else if f.mod.getLsbD 1 then
        match s2.acquireL1 t.core t.ctx (s2.ctx t.ctx).asid cols with
        | .error _ => hold s2
        | .ok (s3, _) => .done s3
      else .done s2) s

/-- One lane of PREF: the line comes to L1 or to the die's LLC, with ownership where asked; whatever stops it is ignored (17 R194). -/
def State.prefLane (s : State) (g : Group) (sco colour : Nat) (excl : Bool) (a : Nat) : State :=
  if !isCanonical a || isRemote a then s
  else
    let r := s.reqOf g a
    let s1 := if sco ≤ 1 then (match s.l1Fill r colour with | .ok (s1, _) => s1 | .error _ => s)
              else (match s.llcRead r with | .ok (s1, _) => s1 | .error _ => s)
    if excl then (match s1.ownLine r with | .ok (s2, _) => s2 | .error _ => s1) else s1

/-- PREF (17 R194). -/
def execPref (f : FM) (s : State) : Host.Outcome State Fault Refusal :=
  let i := Instr.info (.pref f)
  issue i never never
    (fun s g => .done ((lanesOf (g.active' i.pred)).foldl
      (fun s l => s.prefLane g f.sco.toNat f.col.toNat (f.mod == 1) (gaddr f 15 g l).toNat) s)) s

/-! ### Sharing groups (17 R198, R199) -/

/-- The lowest free slot of a sharing group. -/
def freeSlot (m : Tbl Nat) : Option Nat := (List.range 8).find? fun k => (tget m k).isNone

/-- The status of SPJOIN for a team and key (17 R198; assumption log 18 for the order of the refusals). -/
def State.joinStatus (s : State) (team key : Nat) : W32 :=
  let t := s.team team
  let m := tgetD (s.ctx t.ctx).shares key []
  if t.share.isSome then 0x80000003
  else match freeSlot m with
    | none => 0x80000001
    | some k => if m.any fun p => (s.team p.2).core == t.core then 0x80000002 else BitVec.ofNat 32 k

/-- The team joins: every member maps its scratchpad at its slot, and it maps theirs (17 R198). -/
def State.joinShare (s : State) (team key slot : Nat) : State :=
  let t := s.team team
  let c := s.ctx t.ctx
  (s.setCtx t.ctx { c with shares := tset c.shares key (tset (tgetD c.shares key []) slot team) }).setTeam team { t with share := some (key, slot) }

/-- The place of a group among those whose requests arrive in one cycle: ascending device core index, then gid (17 R198). -/
def State.placeOf (s : State) (g : Group) : Nat := s.coreOf g * 32 + g.gid

/-- An SPJOIN of a key arrived in this cycle from a group that comes after this one: this one arrives in the next (17 R198). -/
def State.joinLate (s : State) (g : Group) (key : Nat) : Bool :=
  match tget (s.ctxOf g).joinAt key with
  | some (c, o) => c == s.cycle && s.placeOf g < o
  | none => false

/-- An SPJOIN of a key arrives now. -/
def State.noteJoin (s : State) (g : Group) (key : Nat) : State :=
  s.setCtx (s.teamOf g).ctx { s.ctxOf g with joinAt := tset (s.ctxOf g).joinAt key (s.cycle, s.placeOf g) }

/-- SPJOIN (17 R198). -/
def execSpjoin (f : FS) (s : State) : Host.Outcome State Fault Refusal :=
  let i := Instr.info (.spjoin f)
  issue i never never (whenActive i fun s g =>
    let key := (g.rs f.sa.toNat).toNat
    let st := s.joinStatus g.team key
    if s.joinLate g key then .stall s
    else
      match pushOp s g { id := 0, ctr := .load, kind := .spjoin st, scalar := true, spad := true, dest := f.sd.toNat } 0xFFFFFFFF
          [{ lane := 0, addr := 0, val := [st], pois := [false], performed := true }] with
      | .done s1 => .done (if st.toNat < 8 then (s1.noteJoin g key).joinShare g.team key st.toNat else s1.noteJoin g key)
      | e => e) s

/-- Some access to a team's scratchpad that was issued is not performed (17 R199). -/
def State.spadBusy (s : State) (team : Nat) : Bool :=
  s.groups.any fun p =>
    (p.2.pend.any fun o => o.spad && o.lanes.any fun a => a.open && locTeam a.addr == team) ||
    (p.2.moves.any fun m => !m.done && m.locs.any fun x => locTeam x.2 == team)

/-- The steps by which a team leaves its sharing group: its slot is unmapped; once every access to its scratchpad issued before is performed, its own windows are revoked (17 R199). The answer says whether it has left. -/
def State.leaveShare (s : State) (team : Nat) : State × Bool :=
  let t := s.team team
  match t.share with
  | none => (s, true)
  | some (key, slot) =>
    let c := s.ctx t.ctx
    let m := tgetD c.shares key []
    let s1 := if tget m slot == some team then s.setCtx t.ctx { c with shares := tset c.shares key (tdel m slot) } else s
    if s1.spadBusy team then (s1, false) else (s1.setTeam team { s1.team team with share := none }, true)

/-- SPLEAVE (17 R199). -/
def execSpleave (s : State) : Host.Outcome State Fault Refusal :=
  let i := Instr.info .spleave
  issue i never never (whenActive i fun s g =>
    match s.leaveShare g.team with
    | (s1, true) => .done s1
    | (s1, false) => hold s1) s

end Sys2Proof.Machine
end

