-- ==== Sys2Proof/Machine/Vector.lean ====
section
/-! DEFINITION. Vector instructions: integer and bitwise, floating, compare and select, conversions and blocks, scale registers, and lane operations (13_isa_vector.md R132 to R156). -/

namespace Sys2Proof.Machine

/-! ### Lane by lane (13 R133, R134, R138) -/

/-- Each lane of ACTIVE of the destination receives the value computed for it from the registers held before the instruction (13 R133, R136). -/
def vecOp (i : Info) (vd : BitVec 8) (r : Group → Nat → W32) (s : State) : Host.Outcome State Fault Refusal :=
  issue i never never (whenActive i (onGroup fun g => g.wv vd.toNat (g.active' i.pred) (r g))) s

/-- The range of a TY code (07 R62). -/
def tyLo (ty : BitVec 4) : Int := if tySigned ty then -(2 ^ (tyBits ty - 1)) else 0
def tyHi (ty : BitVec 4) : Int := if tySigned ty then 2 ^ (tyBits ty - 1) - 1 else 2 ^ tyBits ty - 1
/-- The saturating or wrapping result of an exact integer (13 R138). -/
def narrow (ty : BitVec 4) (sat : Bool) (x : Int) : Nat := wrapBits (tyBits ty) (if sat then max (tyLo ty) (min (tyHi ty) x) else x)

/-- The elements of a lane computed from those of its operands (13 R134, R138). -/
def intLane (ty : BitVec 4) (sat : Bool) (op : Int → Int → Int → Int) (a b c : W32) : W32 :=
  packElems (tyBits ty) fun q =>
    let e := fun x => elemInt (tySigned ty) (tyBits ty) (elem x (tyBits ty) q)
    narrow ty sat (op (e a) (e b) (e c))

/-- An integer immediate in every element of a lane (13 R135). -/
def immLane (ty : BitVec 4) (x : BitVec 24) : W32 := packElems (tyBits ty) fun _ => wrapBits (tyBits ty) (imm24Int x).toInt

/-- An integer opcode in register form. -/
def intV (i : Info) (f : FV) (op : Int → Int → Int → Int) (s : State) : Host.Outcome State Fault Refusal :=
  vecOp i f.vd (fun g l => intLane f.ty f.sat op (g.rl f.va.toNat l) (opB f g l) (opC f g l)) s
/-- An integer opcode in immediate form. -/
def intVI (i : Info) (f : FVI) (op : Int → Int → Int → Int) (s : State) : Host.Outcome State Fault Refusal :=
  vecOp i f.vd (fun g l => intLane f.ty false op (g.rl f.va.toNat l) (immLane f.ty f.imm) 0) s
/-- An untyped opcode on whole lanes. -/
def bitV (i : Info) (f : FV) (op : W32 → W32 → W32 → W32) (s : State) : Host.Outcome State Fault Refusal :=
  vecOp i f.vd (fun g l => op (g.rl f.va.toNat l) (opB f g l) (opC f g l)) s
def bitVI (i : Info) (f : FVI) (op : W32 → W32 → W32) (s : State) : Host.Outcome State Fault Refusal :=
  vecOp i f.vd (fun g l => op (g.rl f.va.toNat l) (imm24Int f.imm)) s

/-- VMUL: the product, or with MOD[0] its high half (13 R138). -/
def mulOp (ty : BitVec 4) (hi : Bool) (a b : Int) : Int := if hi then a * b / 2 ^ tyBits ty else a * b
/-- The shifts of one element by an unsigned distance (13 R138). -/
def shlOp (ty : BitVec 4) (a b : Int) : Int :=
  let n := wrapBits (tyBits ty) b
  if n < tyBits ty then a * 2 ^ n else 0
def shrOp (ty : BitVec 4) (a b : Int) : Int :=
  let n := wrapBits (tyBits ty) b
  if n < tyBits ty then ((wrapBits (tyBits ty) a / 2 ^ n : Nat) : Int) else 0
def sarOp (ty : BitVec 4) (a b : Int) : Int :=
  let w := tyBits ty
  let x := elemInt true w (wrapBits w a)
  x / 2 ^ min (wrapBits w b) (w - 1)
/-- VBFN3: two 4-bit tables chosen by the bit of c (13 R137, R138). -/
def bfn3 (f0 f1 : BitVec 4) (a b c : W32) : W32 :=
  (List.range 32).foldl (fun r i =>
    let n := 2 * (a.getLsbD i).toNat + (b.getLsbD i).toNat
    if (if c.getLsbD i then f1 else f0).getLsbD n then r ||| (1#32 <<< i) else r) 0
/-- VBFI: a field of d replaced by the low bits of a (13 R138). -/
def bfi32 (a b c d : W32) : W32 :=
  if c.toNat = 0 ∨ 32 ≤ b.toNat then d
  else
    let n := min c.toNat (32 - b.toNat)
    let m : W32 := BitVec.ofNat 32 ((2 ^ n - 1) * 2 ^ b.toNat)
    (d &&& ~~~m) ||| ((a <<< b.toNat) &&& m)


/-- VADD (13 R138). -/
def execVadd (f : FV) (s : State) : Host.Outcome State Fault Refusal :=
  intV (Instr.info (.vadd f)) f (fun a b _ => a + b) s

/-- VADD (13 R138). Immediate form. -/
def execVaddImm (f : FVI) (s : State) : Host.Outcome State Fault Refusal :=
  intVI (Instr.info (.vaddImm f)) f (fun a b _ => a + b) s

/-- VSUB (13 R138). -/
def execVsub (f : FV) (s : State) : Host.Outcome State Fault Refusal :=
  intV (Instr.info (.vsub f)) f (fun a b _ => a - b) s

/-- VSUB (13 R138). Immediate form. -/
def execVsubImm (f : FVI) (s : State) : Host.Outcome State Fault Refusal :=
  intVI (Instr.info (.vsubImm f)) f (fun a b _ => a - b) s

/-- VMUL (13 R138). -/
def execVmul (f : FV) (s : State) : Host.Outcome State Fault Refusal :=
  intV (Instr.info (.vmul f)) f (fun a b _ => mulOp f.ty (f.mod.getLsbD 0) a b) s

/-- VMUL (13 R138). Immediate form. -/
def execVmulImm (f : FVI) (s : State) : Host.Outcome State Fault Refusal :=
  intVI (Instr.info (.vmulImm f)) f (fun a b _ => mulOp f.ty (f.mod.getLsbD 0) a b) s

/-- VMAD (13 R138). -/
def execVmad (f : FV) (s : State) : Host.Outcome State Fault Refusal :=
  intV (Instr.info (.vmad f)) f (fun a b c => a * b + c) s

/-- VMIN (13 R138). -/
def execVmin (f : FV) (s : State) : Host.Outcome State Fault Refusal :=
  intV (Instr.info (.vmin f)) f (fun a b _ => min a b) s

/-- VMIN (13 R138). Immediate form. -/
def execVminImm (f : FVI) (s : State) : Host.Outcome State Fault Refusal :=
  intVI (Instr.info (.vminImm f)) f (fun a b _ => min a b) s

/-- VMAX (13 R138). -/
def execVmax (f : FV) (s : State) : Host.Outcome State Fault Refusal :=
  intV (Instr.info (.vmax f)) f (fun a b _ => max a b) s

/-- VMAX (13 R138). Immediate form. -/
def execVmaxImm (f : FVI) (s : State) : Host.Outcome State Fault Refusal :=
  intVI (Instr.info (.vmaxImm f)) f (fun a b _ => max a b) s

/-- VABS (13 R138). -/
def execVabs (f : FV) (s : State) : Host.Outcome State Fault Refusal :=
  intV (Instr.info (.vabs f)) f (fun a _ _ => a.natAbs) s

/-- VAND (13 R138). -/
def execVand (f : FV) (s : State) : Host.Outcome State Fault Refusal :=
  bitV (Instr.info (.vand f)) f (fun a b _ => a &&& b) s

/-- VAND (13 R138). Immediate form. -/
def execVandImm (f : FVI) (s : State) : Host.Outcome State Fault Refusal :=
  bitVI (Instr.info (.vandImm f)) f (fun a b => a &&& b) s

/-- VOR (13 R138). -/
def execVor (f : FV) (s : State) : Host.Outcome State Fault Refusal :=
  bitV (Instr.info (.vor f)) f (fun a b _ => a ||| b) s

/-- VOR (13 R138). Immediate form. -/
def execVorImm (f : FVI) (s : State) : Host.Outcome State Fault Refusal :=
  bitVI (Instr.info (.vorImm f)) f (fun a b => a ||| b) s

/-- VXOR (13 R138). -/
def execVxor (f : FV) (s : State) : Host.Outcome State Fault Refusal :=
  bitV (Instr.info (.vxor f)) f (fun a b _ => a ^^^ b) s

/-- VXOR (13 R138). Immediate form. -/
def execVxorImm (f : FVI) (s : State) : Host.Outcome State Fault Refusal :=
  bitVI (Instr.info (.vxorImm f)) f (fun a b => a ^^^ b) s

/-- VNOT (13 R138). -/
def execVnot (f : FV) (s : State) : Host.Outcome State Fault Refusal :=
  bitV (Instr.info (.vnot f)) f (fun a _ _ => ~~~a) s

/-- VBFN3: F0 in MOD, F1 in TY (13 R137). -/
def execVbfn3 (f : FV) (s : State) : Host.Outcome State Fault Refusal :=
  bitV (Instr.info (.vbfn3 f)) f (bfn3 f.mod f.ty) s

/-- VSHL (13 R138). -/
def execVshl (f : FV) (s : State) : Host.Outcome State Fault Refusal :=
  intV (Instr.info (.vshl f)) f (fun a b _ => shlOp f.ty a b) s

/-- VSHL (13 R138). Immediate form. -/
def execVshlImm (f : FVI) (s : State) : Host.Outcome State Fault Refusal :=
  intVI (Instr.info (.vshlImm f)) f (fun a b _ => shlOp f.ty a b) s

/-- VSHR (13 R138). -/
def execVshr (f : FV) (s : State) : Host.Outcome State Fault Refusal :=
  intV (Instr.info (.vshr f)) f (fun a b _ => shrOp f.ty a b) s

/-- VSHR (13 R138). Immediate form. -/
def execVshrImm (f : FVI) (s : State) : Host.Outcome State Fault Refusal :=
  intVI (Instr.info (.vshrImm f)) f (fun a b _ => shrOp f.ty a b) s

/-- VSAR (13 R138). -/
def execVsar (f : FV) (s : State) : Host.Outcome State Fault Refusal :=
  intV (Instr.info (.vsar f)) f (fun a b _ => sarOp f.ty a b) s

/-- VSAR (13 R138). Immediate form. -/
def execVsarImm (f : FVI) (s : State) : Host.Outcome State Fault Refusal :=
  intVI (Instr.info (.vsarImm f)) f (fun a b _ => sarOp f.ty a b) s

/-- VBFX (13 R138). -/
def execVbfx (f : FV) (s : State) : Host.Outcome State Fault Refusal :=
  bitV (Instr.info (.vbfx f)) f (bfx32 (f.mod.getLsbD 0)) s

/-- VBFI merges into its destination (13 R138). -/
def execVbfi (f : FV) (s : State) : Host.Outcome State Fault Refusal :=
  vecOp (Instr.info (.vbfi f)) f.vd (fun g l => bfi32 (g.rl f.va.toNat l) (opB f g l) (opC f g l) (g.rl f.vd.toNat l)) s

/-- VPOPC (13 R138). -/
def execVpopc (f : FV) (s : State) : Host.Outcome State Fault Refusal :=
  bitV (Instr.info (.vpopc f)) f (fun a _ _ => BitVec.ofNat 32 (popc a)) s

/-- VCLZ (13 R138). -/
def execVclz (f : FV) (s : State) : Host.Outcome State Fault Refusal :=
  bitV (Instr.info (.vclz f)) f (fun a _ _ => BitVec.ofNat 32 (clz32 a)) s

/-! ### Floating instructions (13 R139 to R141) -/

/-- GCTL.FTZ as the clause under way sees it (05 R57). -/
def Group.ftz (g : Group) : Bool := g.gctl.getLsbD 1
/-- GCTL.SCALETRAP as the clause under way sees it (05 R57). -/
def Group.scaleTrap (g : Group) : Bool := g.gctl.getLsbD 0

/-- The elements of a lane computed as encodings of a floating type. -/
def fpLane (ty : BitVec 4) (op : Nat → Nat → Nat → Nat) (a b c : W32) : W32 :=
  packElems (tyBits ty) fun q => op (elem a (tyBits ty) q) (elem b (tyBits ty) q) (elem c (tyBits ty) q)
/-- A floating immediate as an operand: the FP32 value of R93, converted by RNE for the 16-bit types (13 R135), a denormal one before FTZ flushes it (assumption log 50). -/
def fpImmLane (ty : BitVec 4) (x : BitVec 24) : W32 :=
  if ty = 8 then imm24Fp x else packElems (tyBits ty) fun _ => (cvt (fmtF32.decode (imm24Fp x).toNat) (fmtOf ty) .rne false).1

def fpV (i : Info) (f : FV) (op : Fmt → Bool → RMode → Nat → Nat → Nat → Nat) (s : State) : Host.Outcome State Fault Refusal :=
  vecOp i f.vd (fun g l => fpLane f.ty (op (fmtOf f.ty) g.ftz (rmOf f.rm)) (g.rl f.va.toNat l) (opB f g l) (opC f g l)) s
def fpVI (i : Info) (f : FVI) (op : Fmt → Bool → RMode → Nat → Nat → Nat) (s : State) : Host.Outcome State Fault Refusal :=
  vecOp i f.vd (fun g l => fpLane f.ty (fun a b _ => op (fmtOf f.ty) g.ftz .rne a b) (g.rl f.va.toNat l) (fpImmLane f.ty f.imm) 0) s

/-- VFADD (13 R140). -/
def execVfadd (f : FV) (s : State) : Host.Outcome State Fault Refusal :=
  fpV (Instr.info (.vfadd f)) f (fun m z r a b _ => m.add z r a b) s

/-- VFADD (13 R140). Immediate form. -/
def execVfaddImm (f : FVI) (s : State) : Host.Outcome State Fault Refusal :=
  fpVI (Instr.info (.vfaddImm f)) f (fun m z r a b => m.add z r a b) s

/-- VFSUB (13 R140). -/
def execVfsub (f : FV) (s : State) : Host.Outcome State Fault Refusal :=
  fpV (Instr.info (.vfsub f)) f (fun m z r a b _ => m.sub z r a b) s

/-- VFSUB (13 R140). Immediate form. -/
def execVfsubImm (f : FVI) (s : State) : Host.Outcome State Fault Refusal :=
  fpVI (Instr.info (.vfsubImm f)) f (fun m z r a b => m.sub z r a b) s

/-- VFMUL (13 R140). -/
def execVfmul (f : FV) (s : State) : Host.Outcome State Fault Refusal :=
  fpV (Instr.info (.vfmul f)) f (fun m z r a b _ => m.mul z r a b) s

/-- VFMUL (13 R140). Immediate form. -/
def execVfmulImm (f : FVI) (s : State) : Host.Outcome State Fault Refusal :=
  fpVI (Instr.info (.vfmulImm f)) f (fun m z r a b => m.mul z r a b) s

/-- VFMA: one rounding (13 R140). -/
def execVfma (f : FV) (s : State) : Host.Outcome State Fault Refusal :=
  fpV (Instr.info (.vfma f)) f (fun m z r a b c => m.fma z r a b c) s

/-- VFMIN (13 R140). -/
def execVfmin (f : FV) (s : State) : Host.Outcome State Fault Refusal :=
  fpV (Instr.info (.vfmin f)) f (fun m z _ a b _ => m.minmax z false a b) s

/-- VFMIN (13 R140). Immediate form. -/
def execVfminImm (f : FVI) (s : State) : Host.Outcome State Fault Refusal :=
  fpVI (Instr.info (.vfminImm f)) f (fun m z _ a b => m.minmax z false a b) s

/-- VFMAX (13 R140). -/
def execVfmax (f : FV) (s : State) : Host.Outcome State Fault Refusal :=
  fpV (Instr.info (.vfmax f)) f (fun m z _ a b _ => m.minmax z true a b) s

/-- VFMAX (13 R140). Immediate form. -/
def execVfmaxImm (f : FVI) (s : State) : Host.Outcome State Fault Refusal :=
  fpVI (Instr.info (.vfmaxImm f)) f (fun m z _ a b => m.minmax z true a b) s

/-- VFRND (13 R140). -/
def execVfrnd (f : FV) (s : State) : Host.Outcome State Fault Refusal :=
  fpV (Instr.info (.vfrnd f)) f (fun m z r a _ _ => m.rnd z r a) s

/-- VFRCP (13 R141). -/
def execVfrcp (f : FV) (s : State) : Host.Outcome State Fault Refusal :=
  fpV (Instr.info (.vfrcp f)) f (fun m z r a _ _ => m.trans z r .rcp a) s

/-- VFRSQ (13 R141). -/
def execVfrsq (f : FV) (s : State) : Host.Outcome State Fault Refusal :=
  fpV (Instr.info (.vfrsq f)) f (fun m z r a _ _ => m.trans z r .rsq a) s

/-- VFSQRT (13 R141). -/
def execVfsqrt (f : FV) (s : State) : Host.Outcome State Fault Refusal :=
  fpV (Instr.info (.vfsqrt f)) f (fun m z r a _ _ => m.trans z r .sqrt a) s

/-- VFEXP2 (13 R141). -/
def execVfexp2 (f : FV) (s : State) : Host.Outcome State Fault Refusal :=
  fpV (Instr.info (.vfexp2 f)) f (fun m z r a _ _ => m.trans z r .exp2 a) s

/-- VFLOG2 (13 R141). -/
def execVflog2 (f : FV) (s : State) : Host.Outcome State Fault Refusal :=
  fpV (Instr.info (.vflog2 f)) f (fun m z r a _ _ => m.trans z r .log2 a) s

/-- VFTRIG (13 R141). -/
def execVftrig (f : FV) (s : State) : Host.Outcome State Fault Refusal :=
  fpV (Instr.info (.vftrig f)) f (fun m z r a _ _ => m.trans z r (if f.mod.getLsbD 0 then .cos else .sin) a) s

/-- VFTANH (13 R141). -/
def execVftanh (f : FV) (s : State) : Host.Outcome State Fault Refusal :=
  fpV (Instr.info (.vftanh f)) f (fun m z r a _ _ => m.trans z r .tanh a) s

/-! ### Compare and select (13 R142 to R144) -/

/-- VCMP and VFCMP: the bits of the lanes of ACTIVE are replaced in the mask (13 R143). -/
def cmpOp (i : Info) (vd : BitVec 8) (c : Group → Nat → Bool) (s : State) : Host.Outcome State Fault Refusal :=
  issue i never never (whenActive i (onGroup fun g =>
    let act := g.active' i.pred
    g.ws vd.toNat ((g.rs vd.toNat &&& ~~~act) ||| laneSet ((lanesOf act).filter (c g))))) s

/-- The signed or unsigned value of a lane (13 R143). -/
def laneInt (ty : BitVec 4) (x : W32) : Int := elemInt (tySigned ty) 32 x.toNat

/-- The condition of VFCMP on f32 operands (13 R143). -/
def vfcmpHolds (m : Nat) (ftz : Bool) (a b : W32) : Bool :=
  let x := fmtF32.input ftz a.toNat
  let y := fmtF32.input ftz b.toNat
  let un := x == .nan || y == .nan
  let lt := ltNum x y
  let gt := ltNum y x
  match m % 8 with
  | 0 => !un && !lt && !gt
  | 1 => un || lt || gt
  | 2 => !un && lt
  | 3 => !un && !lt
  | 4 => !un && !gt
  | 5 => !un && gt
  | 6 => un
  | _ => !un

/-- VCMP (13 R143). -/
def execVcmp (f : FV) (s : State) : Host.Outcome State Fault Refusal :=
  cmpOp (Instr.info (.vcmp f)) f.vd (fun g l => vcmpHolds f.mod.toNat (laneInt f.ty (g.rl f.va.toNat l)) (laneInt f.ty (opB f g l))) s

/-- VCMP (13 R143). Immediate form. -/
def execVcmpImm (f : FVI) (s : State) : Host.Outcome State Fault Refusal :=
  cmpOp (Instr.info (.vcmpImm f)) f.vd (fun g l => vcmpHolds f.mod.toNat (laneInt f.ty (g.rl f.va.toNat l)) (laneInt f.ty (imm24Int f.imm))) s

/-- VFCMP (13 R143). -/
def execVfcmp (f : FV) (s : State) : Host.Outcome State Fault Refusal :=
  cmpOp (Instr.info (.vfcmp f)) f.vd (fun g l => vfcmpHolds f.mod.toNat g.ftz (g.rl f.va.toNat l) (opB f g l)) s

/-- VFCMP (13 R143). Immediate form. -/
def execVfcmpImm (f : FVI) (s : State) : Host.Outcome State Fault Refusal :=
  cmpOp (Instr.info (.vfcmpImm f)) f.vd (fun g l => vfcmpHolds f.mod.toNat g.ftz (g.rl f.va.toNat l) (imm24Fp f.imm)) s

/-- VSEL: by lane with a scalar mask, bit by bit with a vector one (13 R144). -/
def execVsel (f : FV) (s : State) : Host.Outcome State Fault Refusal :=
  vecOp (Instr.info (.vsel f)) f.vd (fun g l =>
    let a := g.rl f.va.toNat l
    let b := opB f g l
    if f.cs then (if inSet (g.rs f.vc.toNat) l then a else b)
    else (a &&& g.rl f.vc.toNat l) ||| (b &&& ~~~(g.rl f.vc.toNat l))) s

/-! ### Conversions and blocks (13 R145 to R149) -/

/-- The option bits (13 R145). -/
def optSr (f : FV) : Bool := f.vc.getLsbD 0
def optInf (f : FV) : Bool := f.vc.getLsbD 1
def optCeil (f : FV) : Bool := f.vc.getLsbD 2
def optSc (f : FV) : Bool := f.vc.getLsbD 3

/-- The random word of value `p` of lane `l` in this issue (07 R80). -/
def State.random (s : State) (g : Group) (l p : Nat) : W32 :=
  let t := s.teamOf g
  let seed := g.seed.getD (s.ctxOf g).rngseed
  randWord seed (BitVec.ofNat 32 (1024 * t.linear) + lane g.tids l) g.calls (s.task t.task).launchId p

/-- The mode of a conversion: SR with the value's word, or RM (13 R145, R146). -/
def State.cvtMode (s : State) (g : Group) (f : FV) (l p : Nat) : RMode :=
  if optSr f then .sr (s.random g l p).toNat else rmOf f.rm

/-- The call counter advances once per issue of an SR-mode instruction (07 R81). -/
def Group.called (g : Group) (sr : Bool) : Group := if sr then { g with calls := g.calls + 1 } else g

/-- Whether a TY code is an integer type. -/
def tyInt (t : BitVec 4) : Bool := t.toNat < 8
/-- Bits of a value of a type, FP6 in 6 and e2m1 in 4 (13 R146). -/
def valBits (t : BitVec 4) : Nat := if tyInt t then tyBits t else (fmtOf t).bits

/-- One value converted, with its saturation flag (13 R146). FTZ applies to the wide formats (07 R66). -/
def vcvtValue (src dst : BitVec 4) (ftz : Bool) (mode : RMode) (inf : Bool) (x : W32) : W32 × Bool :=
  let bits := x.toNat % 2 ^ valBits src
  let v : FNum := if tyInt src then intNum (elemInt (tySigned src) (tyBits src) bits) else (fmtOf src).input ftz bits
  if tyInt dst then
    let n : Int := if tyInt src then max (tyLo dst) (min (tyHi dst) (elemInt (tySigned src) (tyBits src) bits))
      else toIntClamped v mode (tyLo dst) (tyHi dst)
    (BitVec.ofInt 32 n, false)
  else
    let r := cvt v (fmtOf dst) mode inf
    (BitVec.ofNat 32 ((fmtOf dst).flush ftz r.1), r.2)

/-- SAT as an XSTAT flag. -/
def satFlag (b : Bool) : BitVec 3 := if b then flagSat else 0
def rangeFlag (b : Bool) : BitVec 3 := if b then flagRange else 0
def nansFlag (b : Bool) : BitVec 3 := if b then flagNans else 0

/-- An effect of an instruction that counts calls: with ACTIVE empty only the call counter advances (13 R133). -/
def counted (i : Info) (sr : Bool) (k : State → Group → Lanes → Eff) (s : State) (g : Group) : Eff :=
  let act := g.active' i.pred
  if act = 0 then .done (s.setCur (g.called sr)) else k s g act

/-- VCVT (13 R146). -/
def execVcvt (f : FV) (s : State) : Host.Outcome State Fault Refusal :=
  let i := Instr.info (.vcvt f)
  issue i never never (counted i (optSr f) fun s g act =>
    let r := fun l => vcvtValue f.ty f.mod g.ftz (s.cvtMode g f l 0) (optInf f) (g.rl f.va.toNat l)
    .done (s.setCur (((g.wv f.vd.toNat act fun l => (r l).1).flag (satFlag ((lanesOf act).any fun l => (r l).2))).called (optSr f)))) s

/-- The block of lane `l` of a packed register with `n` elements a lane (13 R147). -/
def blockOf (n l : Nat) : Nat := n * l / 32
/-- The blocks with a lane in a set. -/
def blocksOf (n : Nat) (act : Lanes) : List Nat := (List.range n).filter fun j => (lanesOf act).any fun l => blockOf n l == j
/-- Some consumed scale byte of register `x` is poisoned (05 R49, 07 R70). -/
def scalePoison (g : Group) (x n : Nat) (act : Lanes) : Bool := (blocksOf n act).any fun j => (g.rxp x).getLsbD j
/-- Some consumed scale byte of register `x` is the NaN scale (07 R71). -/
def scaleNan (g : Group) (x n : Nat) (act : Lanes) : Bool := (blocksOf n act).any fun j => xbyte (g.rx x) j == 0xFF
/-- Some source lane of ACTIVE is poisoned (13 R136). -/
def lanesPoison (g : Group) (regs : List Nat) (act : Lanes) : Bool := regs.any fun n => g.rvp n &&& act != 0

/-- Poison of VPACK and VUNPACK (13 R136). -/
def packPoison (i : Info) (f : FV) (n x : Nat) (_ : State) (g : Group) : Bool :=
  let act := g.active' i.pred
  act != 0 && (lanesPoison g i.vr act || (optSc f && scalePoison g x n act))

/-- VPACK: with SC the scales held in x[VD] are applied first (13 R147). -/
def execVpack (f : FV) (s : State) : Host.Outcome State Fault Refusal :=
  let i := Instr.info (.vpack f)
  let n := packCount f.mod
  let d := fmtOf f.mod
  issue i never (packPoison i f n f.vd.toNat) (counted i (optSr f) fun s g act =>
    let sc := fun l => (xbyte (g.rx f.vd.toNat) (blockOf n l)).toNat
    if optSc f && g.scaleTrap && scaleNan g f.vd.toNat n act then .trap causeScaleNan 0
    else
      let r := fun l q =>
        if optSc f && sc l == 255 then ((if d.hasNan then d.nanEnc else 0), false)
        else
          let x := fmtF32.input g.ftz (g.rl (f.va.toNat + q) l).toNat
          let y := cvt (if optSc f then scaleNum x (127 - (sc l : Int)) else x) d (s.cvtMode g f l q) (optInf f)
          (d.flush g.ftz y.1, y.2)
      let sat := (lanesOf act).any fun l => (List.range n).any fun q => (r l q).2
      let nans := optSc f && scaleNan g f.vd.toNat n act
      .done (s.setCur (((g.wv f.vd.toNat act fun l => packElems (32 / n) fun q => (r l q).1).flag (satFlag sat ||| nansFlag nans)).called (optSr f)))) s

/-- VUNPACK: with SC the scales held in x[VA] are applied (13 R148). -/
def execVunpack (f : FV) (s : State) : Host.Outcome State Fault Refusal :=
  let i := Instr.info (.vunpack f)
  let n := packCount f.ty
  let d := fmtOf f.ty
  issue i never (packPoison i f n f.va.toNat) (whenActive i fun s g =>
    let act := g.active' i.pred
    let sc := fun l => (xbyte (g.rx f.va.toNat) (blockOf n l)).toNat
    if optSc f && g.scaleTrap && scaleNan g f.va.toNat n act then .trap causeScaleNan 0
    else
      let r := fun q l =>
        if optSc f && sc l == 255 then fmtF32.nanEnc
        else
          let e := d.input g.ftz (elem (g.rl f.va.toNat l) (32 / n) q % 2 ^ d.bits)
          fmtF32.flush g.ftz (cvt (if optSc f then scaleNum e ((sc l : Int) - 127) else e) fmtF32 (rmOf f.rm) false).1
      let nans := optSc f && scaleNan g f.va.toNat n act
      .done (s.setCur (((List.range n).foldl (fun h q => h.wv (f.vd.toNat + q) act fun l => BitVec.ofNat 32 (r q l)) g).flag (nansFlag nans)))) s

/-- Value `k` of block `j` as VRQ and XMAXE read it: from the lanes of the block, +0 where the lane has exited (13 R149). -/
def blockInput (g : Group) (va n j k : Nat) : FNum :=
  let i := 32 * j + k
  let l := i / n
  if inSet g.exited l then .fin false 0 0 else fmtF32.decode (g.rl (va + i % n) l).toNat

/-- A lane that VRQ or XMAXE reads is poisoned: every non-exited lane of a processed block (13 R136, R149). -/
def blockPoison (i : Info) (n : Nat) (_ : State) (g : Group) : Bool :=
  let act := g.active' i.pred
  (blocksOf n act).any fun j =>
    let m := laneSet ((List.range 32).filter fun l => blockOf n l == j && !inSet g.exited l)
    lanesPoison g i.vr m

/-- The scale bytes of the processed blocks, and 0x7F in bytes n to 7 (13 R149). -/
def Group.writeScales (g : Group) (x n : Nat) (blocks : List Nat) (r : Nat → ReqR) : Group :=
  let g1 := blocks.foldl (fun h j => h.wxb x j (BitVec.ofNat 8 (r j).scale) false) g
  if blocks = [] then g1 else ((List.range 8).filter (n ≤ ·)).foldl (fun h j => h.wxb x j 0x7F false) g1

/-- Requantises block `j` of the group's source registers. -/
def State.reqBlock (s : State) (g : Group) (f : FV) (n j : Nat) : ReqR :=
  requantise ((List.range 32).map (blockInput g f.va.toNat n j)) (fmtOf f.mod)
    (fun k => if optSr f then .sr (s.random g ((32 * j + k) / n) ((32 * j + k) % n)).toNat else .rne) (optCeil f)

/-- VRQ: requantises whole blocks, every lane of a processed block (13 R149). -/
def execVrq (f : FV) (s : State) : Host.Outcome State Fault Refusal :=
  let i := Instr.info (.vrq f)
  let n := packCount f.mod
  issue i never (blockPoison i n) (counted i (optSr f) fun s g act =>
    let blocks := blocksOf n act
    let r := s.reqBlock g f n
    let lanes := laneSet ((List.range 32).filter fun l => blocks.contains (blockOf n l))
    let value := fun l => packElems (32 / n) fun q => ((r (blockOf n l)).elems[n * l + q - 32 * blockOf n l]?).getD 0
    let g1 := (g.wv f.vd.toNat lanes value).writeScales f.vd.toNat n blocks r
    .done (s.setCur ((g1.flag (satFlag (blocks.any fun j => (r j).sat) ||| rangeFlag (blocks.any fun j => (r j).range))).called (optSr f)))) s

/-- XMAXE: only the scale bytes of the blocks (13 R149). -/
def execXmaxe (f : FV) (s : State) : Host.Outcome State Fault Refusal :=
  let i := Instr.info (.xmaxe f)
  let n := packCount f.mod
  issue i never (blockPoison i n) (whenActive i fun s g =>
    let blocks := blocksOf n (g.active' i.pred)
    let r := s.reqBlock g f n
    .done (s.setCur ((g.writeScales f.vd.toNat n blocks r).flag (rangeFlag (blocks.any fun j => (r j).range))))) s

/-! ### Scale registers (13 R150) -/

/-- XMOV (13 R150). -/
def execXmov (f : FV) (s : State) : Host.Outcome State Fault Refusal :=
  let i := Instr.info (.xmov f)
  issue i never never (whenActive i (onGroup fun g =>
    match f.mod.toNat with
    | 0 => g.wx f.vd.toNat (g.rx f.va.toNat)
    | 1 => g.wpair f.vd.toNat (g.rx f.va.toNat)
    | _ => g.wx f.vd.toNat (g.rpair f.va.toNat))) s

/-- XSET (13 R150). -/
def execXset (f : FV) (s : State) : Host.Outcome State Fault Refusal :=
  let i := Instr.info (.xset f)
  issue i never never (whenActive i (onGroup fun g =>
    ((List.range 8).filter fun j => (g.rs f.vc.toNat).getLsbD j).foldl
      (fun h j => h.wxb f.vd.toNat j ((g.rs f.vb.toNat).setWidth 8) false) g)) s

/-! ### Lane operations (13 R151 to R156) -/

/-- VMOV (13 R152). -/
def execVmov (f : FV) (s : State) : Host.Outcome State Fault Refusal :=
  vecOp (Instr.info (.vmov f)) f.vd (fun g l => if f.bs then g.rs f.vb.toNat else g.rl f.va.toNat l) s

/-- A floating immediate as a result: denormals are written as zero under FTZ (07 R66, 13 R135), and an FP32 NaN keeps its payload (assumption log 50). -/
def fpImmResult (ftz : Bool) (ty : BitVec 4) (x : BitVec 24) : W32 :=
  packElems (tyBits ty) fun q => (fmtOf ty).flush ftz (elem (fpImmLane ty x) (tyBits ty) q)

/-- VMOVI (13 R152). -/
def execVmovi (f : FVI) (s : State) : Host.Outcome State Fault Refusal :=
  vecOp (Instr.info (.vmovi f)) f.vd (fun g _ => if tyInt f.ty then immLane f.ty f.imm else fpImmResult g.ftz f.ty f.imm) s

/-- VBCAST (13 R152). -/
def execVbcast (f : FV) (s : State) : Host.Outcome State Fault Refusal :=
  let i := Instr.info (.vbcast f)
  vecOp i f.vd (fun g _ => g.rl f.va.toNat (lowest (g.active' i.pred))) s

/-- VLANE (13 R152). -/
def execVlane (f : FV) (s : State) : Host.Outcome State Fault Refusal :=
  let i := Instr.info (.vlane f)
  issue i never never (whenActive i fun s g =>
    let act := g.active' i.pred
    .done (s.setCur (g.wv f.vd.toNat act fun l =>
      match f.mod.toNat with
      | 0 => BitVec.ofNat 32 l
      | 1 => lane g.tids l
      | 2 => BitVec.ofNat 32 (1024 * (s.teamOf g).linear) + lane g.tids l
      | 3 => BitVec.ofNat 32 (2 ^ l - 1)
      | _ => act))) s

/-- The source lane of VSHFL for lane `l` with distance `d`, inside its segment (13 R153). -/
def shflSrc (mod : BitVec 4) (l d : Nat) : Option Nat :=
  let g : Nat := 32 / 2 ^ (mod.toNat / 4)
  let base : Nat := l / g * g
  let inside : Nat → Option Nat := fun k => if base ≤ k && k < base + g then some k else none
  match mod.toNat % 4 with
  | 0 => inside (base + d % g)
  | 1 => if d ≤ l then inside (l - d) else none
  | 2 => inside (l + d)
  | _ => inside (l ^^^ d)

/-- What VSHFL reads: its lanes of ACTIVE, and the source lanes (13 R136, R153). -/
def shflPoison (i : Info) (f : FV) (_ : State) (g : Group) : Bool :=
  let act := g.active' i.pred
  lanesPoison g i.vr act ||
  (lanesOf act).any fun l => match shflSrc f.mod l (opB f g l).toNat with
    | some k => !inSet g.exited k && inSet (g.rvp f.va.toNat) k
    | none => false

/-- VSHFL (13 R153). -/
def execVshfl (f : FV) (s : State) : Host.Outcome State Fault Refusal :=
  let i := Instr.info (.vshfl f)
  issue i never (shflPoison i f) (whenActive i (onGroup fun g =>
    g.wv f.vd.toNat (g.active' i.pred) fun l =>
      match shflSrc f.mod l (opB f g l).toNat with
      | none => g.rl f.va.toNat l
      | some k => if inSet g.exited k then 0 else g.rl f.va.toNat k)) s

/-- VVOTE (13 R154). -/
def execVvote (f : FV) (s : State) : Host.Outcome State Fault Refusal :=
  let i := Instr.info (.vvote f)
  issue i never never (whenActive i (onGroup fun g =>
    let ls := lanesOf (g.active' i.pred)
    let p := fun l => g.rl f.va.toNat l != 0
    g.ws f.vd.toNat (match f.mod.toNat with
      | 0 => laneSet (ls.filter p)
      | 1 => boolMask (ls.all p)
      | 2 => boolMask (ls.any p)
      | _ => boolMask (ls.all fun l => g.rl f.va.toNat l == g.rl f.va.toNat (ls.headD 0))))) s

/-- VMATCH (13 R154). -/
def execVmatch (f : FV) (s : State) : Host.Outcome State Fault Refusal :=
  let i := Instr.info (.vmatch f)
  vecOp i f.vd (fun g l =>
    let key := fun l => (g.rl f.va.toNat l).toNat % 2 ^ tyBits f.ty
    laneSet ((lanesOf (g.active' i.pred)).filter fun m => key m == key l)) s

/-- One step of a fold (13 R155). -/
def foldStep (f : FV) (ftz : Bool) (a b : W32) : W32 :=
  let x := laneInt f.ty a
  let y := laneInt f.ty b
  match f.mod.toNat % 8 with
  | 0 => BitVec.ofNat 32 (narrow f.ty f.sat (x + y))
  | 1 => if y < x then b else a
  | 2 => if x < y then b else a
  | 3 => a &&& b
  | 4 => a ||| b
  | 5 => a ^^^ b
  | _ => BitVec.ofNat 32 (fmtF32.add ftz (rmOf f.rm) a.toNat b.toNat)

/-- The value of an empty fold (13 R155). -/
def foldEmpty (f : FV) : W32 :=
  match f.mod.toNat % 8 with
  | 1 => BitVec.ofInt 32 (tyHi f.ty)
  | 2 => BitVec.ofInt 32 (tyLo f.ty)
  | 3 => 0xFFFFFFFF
  | 6 => 0x80000000
  | _ => 0

/-- The fold over values in ascending lane order; one value is itself (13 R155). -/
def foldLanes (f : FV) (ftz : Bool) : List W32 → W32
  | [] => foldEmpty f
  | x :: t => t.foldl (foldStep f ftz) x

/-- VSCAN (13 R155). -/
def execVscan (f : FV) (s : State) : Host.Outcome State Fault Refusal :=
  let i := Instr.info (.vscan f)
  vecOp i f.vd (fun g l =>
    let ls := (lanesOf (g.active' i.pred)).filter fun m => if f.mod.getLsbD 3 then m < l else m ≤ l
    foldLanes f g.ftz (ls.map (g.rl f.va.toNat))) s

/-- VREDUCE (13 R155). -/
def execVreduce (f : FV) (s : State) : Host.Outcome State Fault Refusal :=
  let i := Instr.info (.vreduce f)
  issue i never never (whenActive i (onGroup fun g =>
    g.ws f.vd.toNat (foldLanes f g.ftz ((lanesOf (g.active' i.pred)).map (g.rl f.va.toNat))))) s

/-- VRAND: the raw word, or a unit FP32 value (13 R156). -/
def execVrand (f : FV) (s : State) : Host.Outcome State Fault Refusal :=
  let i := Instr.info (.vrand f)
  issue i never never (counted i true fun s g act =>
    .done (s.setCur ((g.wv f.vd.toNat act fun l =>
      let r := s.random g l 0
      if f.mod = 0 then r else BitVec.ofNat 32 (cvt (.fin false (r.toNat / 256) (-24)) fmtF32 .rne false).1).called true))) s

end Sys2Proof.Machine
end

