-- ==== Sys2Proof/Machine/Tiles.lean ====
section
/-! DEFINITION. Tiles and accumulators: shape words, elements and scale columns, the moves between them, the scratchpad and vector registers, and requantise out of an accumulator (23_isa_matrix.md R240 to R250, R257, R258). -/

namespace Sys2Proof.Machine

/-! ### Shapes (23 R242, R243) -/

def shpOn (w : W32) : Bool := w.getLsbD 31
def shpCols (w : W32) : Nat := (getBits w 16 9).toNat + 1
def shpRows (w : W32) : Nat := (getBits w 8 7).toNat + 1
def shpCmp (w : W32) : Bool := w.getLsbD 5
def shpSq (w : W32) : Bool := w.getLsbD 4
def shpFmt (w : W32) : BitVec 4 := getBits w 0 4

/-- Bits of an element's place in a row: 16, 8, or 4 for e2m1 (23 R243). -/
def shpBits (w : W32) : Nat := match (shpFmt w).toNat with | 9 => 16 | 10 => 16 | 15 => 4 | _ => 8
/-- Bits of an element: FP6 elements fill 6 of their container (23 R243). -/
def shpValBits (w : W32) : Nat := match (shpFmt w).toNat with | 13 => 6 | 14 => 6 | _ => shpBits w
/-- The format is one of the MX element formats. -/
def shpMx (w : W32) : Bool := 11 ≤ (shpFmt w).toNat
/-- Row bytes RB. -/
def shpRB (w : W32) : Nat := shpCols w * shpBits w / 8
/-- Scale blocks of a row, nb. -/
def shpBlocks (w : W32) : Nat := if shpCmp w then shpCols w / 16 else shpCols w / 32
/-- Entry rows of the scale column: one a row, or one a square. -/
def shpEntries (w : W32) : Nat := if shpSq w then shpRows w / 32 else shpRows w

/-- A shape word is legal (23 R243, R244). -/
def shapeLegal (w : W32) : Bool :=
  if !shpOn w then w == 0
  else
    getBits w 25 6 == 0 && !w.getLsbD 15 && getBits w 6 2 == 0 &&
    (shpFmt w).toNat ∈ [0, 4, 9, 10, 11, 12, 13, 14, 15] && shpRB w ≤ 128 && shpRows w * shpRB w ≤ 8192 &&
    shpCols w % 16 == 0 && (!shpMx w || (if shpCmp w then shpCols w % 48 == 0 && shpCols w ≤ 128 else shpCols w % 32 == 0)) &&
    (shpMx w || (!shpSq w && !shpCmp w)) && !(shpSq w && shpCmp w) && (!shpSq w || shpRows w % 32 == 0)

/-- Every scale-column entry at 0x7F. -/
def scolOne : BitVec 8192 := BitVec.ofNat 8192 (ofBytes (List.replicate 1024 0x7F))

/-- Element (i, j) of a tile, as its format's bits. -/
def Tile.elem (t : Tile) (i j : Nat) : Nat := t.elems.toNat / 2 ^ (8 * shpRB t.shape * i + shpBits t.shape * j) % 2 ^ shpValBits t.shape
/-- Scale-column entry (e, k). -/
def Tile.entry (t : Tile) (e k : Nat) : Byte := getBits t.scol (8 * (8 * e + k)) 8
/-- The entry row of tile row i. -/
def Tile.entryRow (t : Tile) (i : Nat) : Nat := if shpSq t.shape then i / 32 else i

def Group.setTile (g : Group) (n : Nat) (t : Tile) : Group := { g with tiles := tset g.tiles n t }
def Group.tilePoison (g : Group) (n : Nat) : Bool := g.tp.getLsbD n
def Group.markTile (g : Group) (n : Nat) (p : Bool) : Group := { g with tp := if p then g.tp ||| (1#16 <<< n) else g.tp &&& ~~~(1#16 <<< n) }
def Group.accPoison (g : Group) (n : Nat) : Bool := g.cp.getLsbD n
def Group.markAcc (g : Group) (n : Nat) (p : Bool) : Group := { g with cp := if p then g.cp ||| (1#8 <<< n) else g.cp &&& ~~~(1#8 <<< n) }
def Group.setAcc (g : Group) (n : Nat) (a : BitVec 524288) : Group := { g with accs := tset g.accs n a }

/-- Word (i, j) of an accumulator (05 R48). -/
def accWord (a : BitVec 524288) (i j : Nat) : W32 := getBits a (32 * (128 * i + j)) 32
/-- An accumulator from its words. -/
def accOf (f : Nat → Nat → W32) : BitVec 524288 :=
  BitVec.ofNat 524288 ((List.range 16384).foldr (fun k a => (f (k / 128) (k % 128)).toNat + 2 ^ 32 * a) 0)
/-- The words (i, j) with i < m and j < n replaced. -/
def accMap (a : BitVec 524288) (m n : Nat) (f : Nat → Nat → W32 → W32) : BitVec 524288 :=
  accOf fun i j => if i < m && j < n then f i j (accWord a i j) else accWord a i j

/-! ### TSHAPE, TZERO, TSCL (23 R244, R245) -/

/-- TSHAPE and TSHAPE.rd (23 R244). -/
def execTshape (f : FV) (s : State) : Host.Outcome State Fault Refusal :=
  let i := Instr.info (.tshape f)
  issue i (fun _ g => f.mod == 0 && !shapeLegal (g.rs f.vb.toNat)) never
    (onGroup fun g =>
      if f.mod == 0 then (g.setTile f.vd.toNat { shape := g.rs f.vb.toNat, elems := 0, scol := scolOne }).markTile f.vd.toNat false
      else g.ws f.vb.toNat (g.tile f.vd.toNat).shape) s

/-- TZERO (23 R244). -/
def execTzero (f : FX) (s : State) : Host.Outcome State Fault Refusal :=
  issue (Instr.info (.tzero f)) never never
    (onGroup fun g => (g.setTile f.ta.toNat { g.tile f.ta.toNat with elems := 0, scol := scolOne }).markTile f.ta.toNat false) s

/-- TSCL (23 R245). -/
def execTscl (f : FV) (s : State) : Host.Outcome State Fault Refusal :=
  let n := f.vc.toNat + 1
  issue (Instr.info (.tscl f))
    (fun _ g => let w := (g.tile f.vd.toNat).shape
      !shpOn w || !shpMx w || 128 < n || shpEntries w < (g.rs f.vb.toNat).toNat + n) never
    (onGroup fun g =>
      let t := g.tile f.vd.toNat
      let q := (g.rs f.vb.toNat).toNat
      g.setTile f.vd.toNat { t with scol := (List.range n).foldl (fun c k => putBits c (64 * (q + k)) (g.rx (f.va.toNat + k))) t.scol }) s

/-! ### Tile and accumulator moves with the scratchpad (23 R246 to R248) -/

/-- Byte offset of word `u` of row `i`: σ of 19 R208 under `.diag`. -/
def diagWord (diag : Bool) (i u : Nat) : Nat := if diag then 4 * (32 * (u / 32) + (u + i) % 32) else 4 * u

/-- The units of a tile move with their scratchpad addresses: words, then, for an MX tile, scale entries as units 2048 + 8e + k (23 R246). Each address wraps modulo 2^32 (assumption log 50). -/
def tileUnits (w : W32) (diag : Bool) (a p sa : Nat) : List (Nat × Nat) :=
  let rw := shpRB w / 4
  ((List.range (shpRows w)).flatMap fun i => (List.range rw).map fun u => (i * rw + u, (a + i * p + diagWord diag i u) % 2 ^ 32)) ++
  (if shpMx w then (List.range (shpEntries w)).flatMap fun e => (List.range (shpBlocks w)).map fun k => (2048 + 8 * e + k, (sa + e * shpBlocks w + k) % 2 ^ 32)
   else [])

/-- The units of an accumulator move (23 R247). Each address wraps modulo 2^32 (assumption log 50). -/
def accUnits (row0 h c a p : Nat) : List (Nat × Nat) :=
  (List.range h).flatMap fun i => (List.range c).map fun j => (128 * (row0 + i) + j, (a + i * p + 4 * j) % 2 ^ 32)

/-- A group-level scratchpad move of 4-byte words: the checks of R201 in order, absent lines, the counter, and the capture (23 R248). -/
def issueMove (base : Nat) (m : TileMove) (units : List (Nat × Nat)) (s : State) (g : Group) : Eff :=
  let maps := units.flatMap fun x => [s.spadMap g.team x.2, s.spadMap g.team ((x.2 + m.unitBytes x.1 - 1) % 2 ^ 32)]
  if maps.any (· == .nothing) then .trap causeProtection 0
  else if maps.any (· == .revoked) then .trap causeShareRevoked 0
  else if base % 4 != 0 then .trap causeMisalign 0
  else
    let locs := units.map fun x => (x.1, s.spadLocOf g.team x.2)
    let absent := (locs.flatMap fun x => linesOf x.2 (m.unitBytes x.1)).filter fun l => !s.present l
    if absent != [] then absentPark s g absent.eraseDups
    else if 15 ≤ g.moves.length then .stall s
    else
      let (n, s1) := s.fresh
      .done (s1.setCur { g with moves := g.moves ++ [{ m with id := n, locs := locs }] })

/-- The uses of TLDS and TSTS that fail check 11 (23 R246). -/
def tileMoveBad (f : FM) (_ : State) (g : Group) : Bool :=
  let w := (g.tile f.vd.toNat).shape
  let p := (g.rs f.va.toNat).toNat
  !shpOn w || p < shpRB w || p % 4 != 0 || (f.mod.getLsbD 0 && (p % 128 != 0 || (tbase f g).toNat % 128 != 0))

/-- The units of a tile move of the group's tile. -/
def tileMoveUnits (f : FM) (g : Group) : List (Nat × Nat) :=
  tileUnits (g.tile f.vd.toNat).shape (f.mod.getLsbD 0) (tbase f g).toNat (g.rs f.va.toNat).toNat (g.rs (f.va.toNat + 1)).toNat

/-- TLDS (23 R246). -/
def execTlds (f : FM) (s : State) : Host.Outcome State Fault Refusal :=
  issue (Instr.info (.tlds f)) (tileMoveBad f) never
    (fun s g => issueMove (tbase f g).toNat { id := 0, kind := .tlds, dest := f.vd.toNat, shape := (g.tile f.vd.toNat).shape } (tileMoveUnits f g) s g) s

/-- TSTS: the container bits [7:6] of FP6 elements are written as zero (23 R246); the system handler stores a poisoned tile too (27 R291). -/
def execTsts (f : FM) (s : State) : Host.Outcome State Fault Refusal :=
  issue (Instr.info (.tsts f)) (tileMoveBad f) (fun _ g => g.mode != .sysHandler && g.tilePoison f.vd.toNat)
    (fun s g => let t := g.tile f.vd.toNat
      issueMove (tbase f g).toNat { id := 0, kind := .tsts, dest := f.vd.toNat, shape := t.shape, elems := t.elems, scol := t.scol } (tileMoveUnits f g) s g) s

/-- The region word of CLDS and CSTS: rows, columns, first row (23 R247). -/
def regRows (r : W32) : Nat := (getBits r 0 7).toNat + 1
def regCols (r : W32) : Nat := (getBits r 8 7).toNat + 1
def regRow0 (r : W32) : Nat := (getBits r 16 7).toNat

/-- The uses of CLDS and CSTS that fail check 11 (23 R247). -/
def accMoveBad (f : FM) (_ : State) (g : Group) : Bool :=
  let r := g.rs (f.va.toNat + 1)
  let p := (g.rs f.va.toNat).toNat
  128 < regRow0 r + regRows r || p < 4 * regCols r || p % 4 != 0 || r.getLsbD 7 || r.getLsbD 15 || getBits r 23 9 != 0

/-- The units of an accumulator move. -/
def accMoveUnits (f : FM) (g : Group) : List (Nat × Nat) :=
  let r := g.rs (f.va.toNat + 1)
  accUnits (regRow0 r) (regRows r) (regCols r) (tbase f g).toNat (g.rs f.va.toNat).toNat

/-- CLDS (23 R247). -/
def execClds (f : FM) (s : State) : Host.Outcome State Fault Refusal :=
  issue (Instr.info (.clds f)) (accMoveBad f) never
    (fun s g => issueMove (tbase f g).toNat { id := 0, kind := .clds, dest := f.vd.toNat } (accMoveUnits f g) s g) s

/-- CSTS (23 R247); the system handler stores a poisoned accumulator too (27 R291). -/
def execCsts (f : FM) (s : State) : Host.Outcome State Fault Refusal :=
  issue (Instr.info (.csts f)) (accMoveBad f) (fun _ g => g.mode != .sysHandler && g.accPoison f.vd.toNat)
    (fun s g => issueMove (tbase f g).toNat { id := 0, kind := .csts, dest := f.vd.toNat, acc := g.acc f.vd.toNat } (accMoveUnits f g) s g) s

/-! ### TMOV (23 R249) -/

/-- The uses of TMOV that fail check 8 or 11 (23 R249). -/
def tmovBad (f : FV) (_ : State) (g : Group) : Bool :=
  let w := (g.tile f.va.toNat).shape
  let n := f.vc.toNat + 1
  !shpOn w || 128 < n || shpRows w < (g.rs f.vb.toNat).toNat + n || (shpMx w && g.nx < f.vd.toNat + n)

/-- What TMOV reads is poisoned: the tile, or the vector registers and, where scales move, the scale registers, all of each (23 R241, R249). -/
def tmovPoison (f : FV) (_ : State) (g : Group) : Bool :=
  let w := (g.tile f.va.toNat).shape
  let regs := regSpan f.vd.toNat (f.vc.toNat + 1)
  if f.mod == 0 then (regs.any fun n => g.rvp n != 0) || (shpMx w && !shpSq w && regs.any fun n => g.rxp n != 0)
  else g.tilePoison f.va.toNat

/-- TMOV (23 R249): its operands are captured, and its destination is written when the move completes. -/
def execTmov (f : FV) (s : State) : Host.Outcome State Fault Refusal :=
  issue (Instr.info (.tmov f)) (tmovBad f) (tmovPoison f)
    (fun s g =>
      let t := g.tile f.va.toNat
      let n := f.vc.toNat + 1
      if 15 ≤ g.moves.length then .stall s
      else
        let (k, s1) := s.fresh
        let m : TileMove := { id := k, kind := if f.mod == 0 then .tmovIn else .tmovOut, dest := if f.mod == 0 then f.va.toNat else f.vd.toNat,
                              shape := t.shape, row0 := (g.rs f.vb.toNat).toNat, rows := n, elems := t.elems, scol := t.scol,
                              regs := if f.mod == 0 then (regSpan f.vd.toNat n).map fun j => (g.rv j, g.rx j) else [] }
        .done (s1.setCur { g with moves := g.moves ++ [m] })) s

/-! ### The completion of a move (09 R88, 23 R248) -/

/-- The units of a move: those with a scratchpad location, or the words and scale bytes that TMOV moves, lane l of register k as 32k + l and scale byte b as 8192 + 8k + b. -/
def TileMove.units (m : TileMove) : List Nat :=
  match m.kind with
  | .tmovIn =>
    let rw := shpRB m.shape / 4
    ((List.range m.rows).flatMap fun k => (List.range rw).map fun u => 32 * k + u) ++
    (if shpMx m.shape && !shpSq m.shape then (List.range (8 * m.rows)).map (8192 + ·) else [])
  | .tmovOut =>
    (List.range (32 * m.rows)) ++ (if shpMx m.shape then (List.range (8 * m.rows)).map (8192 + ·) else [])
  | _ => m.locs.map (·.1)

/-- FP6 containers hold zero in bits [7:6] of each byte (23 R246, R249). -/
def fp6Word (w : W32) (x : W32) : W32 := if shpValBits w = 6 then x &&& 0x3F3F3F3F else x

/-- Writes one unit of a move. -/
def State.landUnit (s : State) (u : Nat) (m : TileMove) (k : Nat) : State × Bool :=
  let g := s.group u
  let t := g.tile m.dest
  let loc := ((m.locs.find? (·.1 == k)).map (·.2)).getD 0
  let n := m.unitBytes k
  match m.kind with
  | .tlds =>
    let x := s.spadRead loc n
    let t1 := if k < 2048 then { t with elems := putBits t.elems (32 * k) (fp6Word m.shape (BitVec.ofNat 32 x)) }
              else { t with scol := putBits t.scol (8 * (k - 2048)) (BitVec.ofNat 8 x) }
    (s.setGroup u (g.setTile m.dest t1), s.spadPoisoned loc n)
  | .tsts =>
    let x := if k < 2048 then (fp6Word m.shape (getBits m.elems (32 * k) 32)).toNat else (getBits m.scol (8 * (k - 2048)) 8).toNat
    (s.spadWrite loc n x false, false)
  | .clds => (s.setGroup u (g.setAcc m.dest (putBits (g.acc m.dest) (32 * k) (BitVec.ofNat 32 (s.spadRead loc 4)))), s.spadPoisoned loc 4)
  | .csts => (s.spadWrite loc 4 (getBits m.acc (32 * k) 32).toNat false, false)
  | .tmovIn =>
    if k < 8192 then
      let r := (m.regs[k / 32]?).getD (0, 0)
      let at_ := 8 * shpRB m.shape * (m.row0 + k / 32) + 32 * (k % 32)
      (s.setGroup u (g.setTile m.dest { t with elems := putBits t.elems at_ (fp6Word m.shape (lane r.1 (k % 32))) }), false)
    else
      let j := k - 8192
      let r := (m.regs[j / 8]?).getD (0, 0)
      (s.setGroup u (g.setTile m.dest { t with scol := putBits t.scol (8 * (8 * (m.row0 + j / 8) + j % 8)) (xbyte r.2 (j % 8)) }), false)
  | .tmovOut =>
    if k < 8192 then
      let q := m.row0 + k / 32
      let x : W32 := if 32 * (k % 32) < 8 * shpRB m.shape then getBits m.elems (8 * shpRB m.shape * q + 32 * (k % 32)) 32 else 0
      (s.setGroup u (g.wl (m.dest + k / 32) (k % 32) x false), false)
    else
      let j := k - 8192
      let e := if shpSq m.shape then (m.row0 + j / 8) / 32 else m.row0 + j / 8
      let x : Byte := if j % 8 < shpBlocks m.shape then getBits m.scol (8 * (8 * e + j % 8)) 8 else 0x7F
      (s.setGroup u (g.wxb (m.dest + j / 8) (j % 8) x false), false)

/-- Writes units of a move, noting the poison that they meet. -/
def State.landUnits (s : State) (u : Nat) (m : TileMove) : List Nat → State × Bool
  | [] => (s, false)
  | k :: t =>
    let (s1, p) := s.landUnit u m k
    let (s2, q) := s1.landUnits u m t
    (s2, p || q)

/-- A move waits for earlier scratchpad accesses and moves of its group to the same bytes (15 R167). -/
def Group.moveHeld (g : Group) (m : TileMove) : Bool :=
  (g.pend.any fun p => p.spad && p.id < m.id && (m.stores || p.writes) && p.lanes.any fun a => a.open && m.touches (a.range p)) ||
  (g.moves.any fun q => q.id < m.id && (m.stores || q.stores) && q.locs.any fun x => !q.landed.contains x.1 && !q.done && m.touches (x.2 + 2 ^ 72, q.unitBytes x.1))

/-- The poison bit of the destination once a move has completed: poisoned data sets it; clean data clears it where every element, with every scale, has been written (23 R241, R248). -/
def Group.movePoison (g : Group) (m : TileMove) (bad : Bool) : Group :=
  match m.kind with
  | .tlds => g.markTile m.dest bad
  | .clds => if bad then g.markAcc m.dest true else if m.locs.length = 16384 then g.markAcc m.dest false else g
  | .tmovIn => if m.rows = shpRows m.shape && !(shpMx m.shape && shpSq m.shape) then g.markTile m.dest false else g
  | _ => g

/-- The move writes tiles or accumulators, which a product of its group reads from its issue on: it lands before or after the product, whole (09 R87, R88; 23 R241, R255). -/
def TileMove.fills (m : TileMove) : Bool := m.kind == .tlds || m.kind == .clds || m.kind == .tmovIn

/-- TILE_MOVE_COMPLETE for group `s.who`: the listed units of a move land, each at once, as a reader before the covering wait may find them; without a list the rest lands and the move leaves the tile counter in issue order (05 R53, 09 R88, 23 R248). -/
def execTileMoveComplete (op : Nat) (units : Option (List Nat)) (s : State) : Host.Outcome State Fault Refusal :=
  let u := s.who
  let g := s.cur
  match g.moves.find? (·.id == op) with
  | none => .next s
  | some m =>
    if m.done || g.moveHeld m || (m.fills && g.product.isSome) then .next s
    else
      let left := m.units.filter fun k => !m.landed.contains k
      let now := match units with | none => left | some l => left.filter l.contains
      let (s1, p) := s.landUnits u m now
      let bad := m.bad || p
      let m1 := { m with landed := m.landed ++ now, bad := bad, done := units.isNone }
      let g1 := s1.group u
      let g2 := { g1 with moves := g1.moves.map fun q => if q.id = op then m1 else q }
      let g3 := if p then g2.movePoison { m with rows := 0, locs := [] } true else g2
      .next (s1.setGroup u (if units.isNone then (g3.movePoison m bad).retire else g3))

/-! ### Accumulators and vector registers (23 R250, R257, R258) -/

/-- CTOV (23 R250). -/
def execCtov (f : FV) (s : State) : Host.Outcome State Fault Refusal :=
  let n := f.vc.toNat + 1
  issue (Instr.info (.ctov f)) (fun _ g => 128 < (g.rs f.vb.toNat).toNat + n) (fun _ g => g.accPoison f.va.toNat)
    (onGroup fun g =>
      let a := g.acc f.va.toNat
      let r := (g.rs f.vb.toNat).toNat
      (List.range (4 * n)).foldl (fun h q => h.wv (f.vd.toNat + q) 0xFFFFFFFF fun l => accWord a (r + q / 4) (32 * (q % 4) + l)) g) s

/-- VTOC (23 R250): all 32 lanes are read (R241); writing every row clears the accumulator's poison. -/
def execVtoc (f : FV) (s : State) : Host.Outcome State Fault Refusal :=
  let n := f.vc.toNat + 1
  issue (Instr.info (.vtoc f)) (fun _ g => 128 < (g.rs f.vb.toNat).toNat + n)
    (fun _ g => (regSpan f.va.toNat (4 * n)).any fun k => g.rvp k != 0)
    (onGroup fun g =>
      let r := (g.rs f.vb.toNat).toNat
      let a := (List.range (4 * n)).foldl (fun a q => putBits a (32 * (128 * (r + q / 4) + 32 * (q % 4))) (g.rv (f.va.toNat + q))) (g.acc f.vd.toNat)
      let g1 := g.setAcc f.vd.toNat a
      if n = 128 then g1.markAcc f.vd.toNat false else g1) s

/-- CZERO (23 R258). -/
def execCzero (f : FX) (s : State) : Host.Outcome State Fault Refusal :=
  issue (Instr.info (.czero f)) never never
    (onGroup fun g =>
      let g1 := (g.setAcc f.cd.toNat 0).markAcc f.cd.toNat false
      if f.mod == 1 then (g1.setAcc f.ce.toNat 0).markAcc f.ce.toNat false else g1) s

/-- CSCALE (23 R258). -/
def execCscale (f : FV) (s : State) : Host.Outcome State Fault Refusal :=
  issue (Instr.info (.cscale f)) never (fun _ g => g.accPoison f.vd.toNat)
    (onGroup fun g =>
      let m := (g.rs f.vb.toNat).toNat
      g.setAcc f.vd.toNat (accMap (g.acc f.vd.toNat) 128 128 fun _ _ x => BitVec.ofNat 32 (fmtF32.mul false (rmOf f.rm) x.toNat m))) s

/-- Block `k` of accumulator row `r` requantised (23 R257): under `.sr` the word of element (r, j) is that of lane r mod 32 and p = 128 ⌊r / 32⌋ + j. -/
def State.crqBlock (s : State) (g : Group) (f : FV) (r k : Nat) : ReqR :=
  requantise ((List.range 32).map fun j => fmtF32.decode (accWord (g.acc f.va.toNat) r (32 * k + j)).toNat) (fmtOf f.ty)
    (fun j => if f.mod.getLsbD 2 then .sr (s.random g (r % 32) (128 * (r / 32) + 32 * k + j)).toNat else .rne) (f.mod.getLsbD 1)

/-- The uses of CRQ that fail check 11 (23 R257). -/
def crqBad (f : FV) (_ : State) (g : Group) : Bool :=
  let q := (g.rs f.vb.toNat).toNat
  let n := f.vc.toNat + 1
  if f.mod.getLsbD 0 then 128 < q + (if f.ty == 15 then 2 * n else n)
  else
    let w := (g.tile f.vd.toNat).shape
    !shpOn w || shpFmt w != f.ty || shpCmp w || shpSq w || 128 < shpCols w || 128 < q + shpRows w

/-- The row bytes of requantised blocks: elements in containers of `b` bits. -/
def packBlocks (b : Nat) (rs : List ReqR) : Nat := (rs.flatMap (·.elems)).foldr (fun x a => x % 2 ^ b + 2 ^ b * a) 0

/-- The scale bytes of blocks, 0x7F above them. -/
def scaleBytes (rs : List ReqR) : W64 := BitVec.ofNat 64 (ofBytes ((rs.map fun r => BitVec.ofNat 8 r.scale) ++ List.replicate (8 - rs.length) 0x7F))

/-- The flags of requantised blocks (07 R78). -/
def reqFlags (rs : List ReqR) : BitVec 3 := satFlag (rs.any (·.sat)) ||| rangeFlag (rs.any (·.range))

/-- CRQ, the tile form: the whole tile is written (23 R257). -/
def State.crqTile (s : State) (g : Group) (f : FV) : Group :=
  let t := g.tile f.vd.toNat
  let w := t.shape
  let q := (g.rs f.vb.toNat).toNat
  let rows := (List.range (shpRows w)).map fun i => (List.range (shpCols w / 32)).map fun k => s.crqBlock g f (q + i) k
  let t1 : Tile := { t with
    elems := BitVec.ofNat 65536 (rows.foldr (fun r a => packBlocks (shpBits w) r + 2 ^ (8 * shpRB w) * a) 0),
    scol := rows.zipIdx.foldl (fun c p => putBits c (64 * p.2) (scaleBytes p.1)) t.scol }
  ((g.setTile f.vd.toNat t1).markTile f.vd.toNat false).flag (reqFlags (rows.flatMap id))

/-- CRQ, the vector form: register pairs of four blocks of one row, or of eight blocks of two rows for e2m1 (23 R257). -/
def State.crqVec (s : State) (g : Group) (f : FV) : Group :=
  let q := (g.rs f.vb.toNat).toNat
  let four := f.ty == 15
  (List.range (f.vc.toNat + 1)).foldl (fun h k =>
    let rs := if four then ((List.range 4).map fun b => s.crqBlock g f (q + 2 * k) b) ++ ((List.range 4).map fun b => s.crqBlock g f (q + 2 * k + 1) b)
              else (List.range 4).map fun b => s.crqBlock g f (q + k) b
    let v : VReg := BitVec.ofNat 1024 (packBlocks (if four then 4 else 8) rs)
    ((h.wv (f.vd.toNat + k) 0xFFFFFFFF fun l => lane v l).wx (f.vd.toNat + k) (scaleBytes rs)).flag (reqFlags rs)) g

/-- CRQ (23 R257). -/
def execCrq (f : FV) (s : State) : Host.Outcome State Fault Refusal :=
  issue (Instr.info (.crq f)) (crqBad f) (fun _ g => g.accPoison f.va.toNat)
    (fun s g => .done (s.setCur ((if f.mod.getLsbD 0 then s.crqVec g f else s.crqTile g f).called (f.mod.getLsbD 2)))) s

end Sys2Proof.Machine
end

