-- ==== Sys2Proof/Machine/Matrix.lean ====
section
/-! DEFINITION. The matrix products: operands, checks at issue, the summation of a chunk, and the array that completes chunks (23_isa_matrix.md R251 to R256; 07_arithmetic.md R76, R77). -/

namespace Sys2Proof.Machine

/-! ### Operands (23 R243, R251) -/

/-- An operand: a tile, or the span of a tile and the next. -/
structure MatOp where
  t    : Nat
  span : Bool
deriving DecidableEq, Repr

/-- The tiles of an operand. -/
def MatOp.tiles (o : MatOp) : List Nat := if o.span then [o.t, o.t + 1] else [o.t]
def MatOp.shape (o : MatOp) (g : Group) : W32 := (g.tile o.t).shape
def MatOp.rows (o : MatOp) (g : Group) : Nat := (if o.span then 2 else 1) * shpRows (o.shape g)
def MatOp.cols (o : MatOp) (g : Group) : Nat := shpCols (o.shape g)
/-- The tile and row of span row i. -/
def MatOp.row (o : MatOp) (g : Group) (i : Nat) : Tile × Nat :=
  let r := shpRows (o.shape g)
  if o.span && r ≤ i then (g.tile (o.t + 1), i - r) else (g.tile o.t, i)
/-- Element (i, k) of the operand. -/
def MatOp.elem (o : MatOp) (g : Group) (i k : Nat) : Nat := let (t, r) := o.row g i; t.elem r k
/-- The scale of block `b` of row i. -/
def MatOp.scale (o : MatOp) (g : Group) (i b : Nat) : Nat := let (t, r) := o.row g i; (t.entry (t.entryRow r) b).toNat

/-- The operand is shaped in a format, and a span is an even pair of equal shapes (23 R243, R254). -/
def MatOp.ok (o : MatOp) (g : Group) (fmt : BitVec 4) (cmp : Bool) : Bool :=
  let w := o.shape g
  shpOn w && shpFmt w == fmt && shpCmp w == cmp && (!o.span || (o.t % 2 == 0 && (g.tile (o.t + 1)).shape == w))

/-- The element format of an FA or FB code (09 R98). -/
def mxCode (c : BitVec 3) : BitVec 4 := match c.toNat with | 0 => 12 | 1 => 11 | 2 => 13 | 3 => 14 | _ => 15
def halfCode (c : BitVec 3) : BitVec 4 := if c == 0 then 10 else 9
def intCode (c : BitVec 3) : BitVec 4 := if c == 0 then 0 else 4

def opA (f : FX) : MatOp := ⟨f.ta.toNat, f.mod.getLsbD 0⟩
def opBt (f : FX) : MatOp := ⟨f.tb.toNat, f.mod.getLsbD 1⟩
def opG (f : FX) : MatOp := ⟨f.tg.toNat, f.mod.getLsbD 2⟩

/-! ### Checks (23 R251 to R254) -/

/-- MMA, MMAF and MMAI: one K in both operands, a multiple of the chunk; outputs of at most 128 × 128. -/
def mmaBad (f : FX) (ca cb : BitVec 4) (chunk : Nat) (g : Group) : Bool :=
  let a := opA f
  let b := opBt f
  !a.ok g ca false || !b.ok g cb false || a.cols g != b.cols g || a.cols g % chunk != 0 || 128 < a.rows g || 128 < b.rows g

/-- MMAS: A holds K / 2 stored columns under CMP, and the mask is n8 with M rows and at least K / 8 columns; K is a multiple of 96 (23 R251). -/
def mmasBad (f : FX) (g : Group) : Bool :=
  let a := opA f
  let b := opBt f
  let m : MatOp := ⟨f.tg.toNat, false⟩
  let k := 2 * a.cols g
  !a.ok g (mxCode f.fa) true || !b.ok g (mxCode f.fb) false || !m.ok g 4 false || b.cols g != k || k % 96 != 0 || k % 32 != 0 ||
  m.rows g != a.rows g || 8 * m.cols g < k || 128 < a.rows g || 128 < b.rows g

/-- MMAD: G is M × N, W is Kw × N, X is M × Kw; G and X are scaled by squares; the accumulators differ (23 R251, R253). -/
def mmadBad (f : FX) (g : Group) : Bool :=
  let gg := opA f
  let w := opBt f
  let x := opG f
  !gg.ok g (mxCode f.fa) false || !w.ok g (mxCode f.fb) false || !x.ok g (mxCode f.fb) false ||
  !shpSq (gg.shape g) || !shpSq (x.shape g) || gg.cols g != w.cols g || x.rows g != gg.rows g || x.cols g != w.rows g ||
  gg.cols g % 32 != 0 || gg.rows g % 32 != 0 || 128 < gg.rows g || 128 < gg.cols g || 128 < w.rows g || f.cd == f.ce

/-- Some tile of the operands or some accumulator is poisoned (23 R254). -/
def matPoison (g : Group) (ops : List MatOp) (accs : List Nat) : Bool :=
  (ops.any fun o => o.tiles.any g.tilePoison) || accs.any g.accPoison

/-- Some of the first `n` blocks of the operand's rows has the NaN scale (23 R254). -/
def MatOp.nanScale (o : MatOp) (g : Group) (n : Nat) : Bool :=
  (List.range (o.rows g)).any fun i => (List.range n).any fun b => o.scale g i b == 0xFF

/-! ### Summation (07 R76, R77) -/

/-- The value that one block adds: NaN, an infinity, or the exact sum scaled and rounded once; an exact zero is +0. -/
def blockValue (ea eb : List FNum) (k : Int) : Nat :=
  let s := (ea.zip eb).foldl (fun a p => addNum .rne a (mulNum p.1 p.2)) (.fin false 0 0)
  match s with
  | .fin _ 0 _ => 0
  | x => (cvt (scaleNum x k) fmtF32 .rne false).1

/-- The accumulator word after a block of value v. -/
def accAdd (c : W32) (v : Nat) : W32 := BitVec.ofNat 32 (fmtF32.add false .rne c.toNat v)

/-- Elements of a row as values. -/
def MatOp.nums (o : MatOp) (g : Group) (i from_ n : Nat) : List FNum :=
  (List.range n).map fun k => (fmtOf (shpFmt (o.shape g))).decode (o.elem g i (from_ + k))

/-- The value of an MX block under its two scales: the NaN scale makes it NaN (07 R71, R76). -/
def mxValue (sa sb : Nat) (ea eb : List FNum) : Nat :=
  if sa = 0xFF ∨ sb = 0xFF then fmtF32.nanEnc else blockValue ea eb ((sa : Int) + sb - 254)

/-- The result of a chunk: the accumulators, and whether it consumed a NaN scale. -/
abbrev ChunkR := List (Nat × BitVec 524288) × Bool

/-- Chunk q of MMA (23 R251). -/
def mmaChunk (f : FX) (g : Group) (q : Nat) : ChunkR :=
  let a := opA f
  let b := opBt f
  let m := a.rows g
  let n := b.rows g
  let r := accMap (g.acc f.cd.toNat) m n fun i j c =>
    accAdd c (mxValue (a.scale g i q) (b.scale g j q) (a.nums g i (32 * q) 32) (b.nums g j (32 * q) 32))
  ([(f.cd.toNat, r)], (List.range m).any (fun i => a.scale g i q == 0xFF) || (List.range n).any fun j => b.scale g j q == 0xFF)

/-- Bit `b` of row i of the mask tile (23 R252). -/
def maskBit (o : MatOp) (g : Group) (i b : Nat) : Bool := (o.elem g i (b / 8) / 2 ^ (b % 8)) % 2 == 1

/-- Logical element `b` of row i of A under MMAS: the stored value whose turn it is at a set bit, +0 at a clear bit and beyond the twelfth of its group (23 R252). -/
def sparseElem (a m : MatOp) (g : Group) (i b : Nat) : FNum :=
  let start := b / 24 * 24
  let rank := ((List.range (b - start)).filter fun k => maskBit m g i (start + k)).length
  if maskBit m g i b && rank < 12 then (fmtOf (shpFmt (a.shape g))).decode (a.elem g i (12 * (b / 24) + rank)) else .fin false 0 0

/-- Chunk q of MMAS (23 R251, R252). -/
def mmasChunk (f : FX) (g : Group) (q : Nat) : ChunkR :=
  let a := opA f
  let b := opBt f
  let k : MatOp := ⟨f.tg.toNat, false⟩
  let m := a.rows g
  let n := b.rows g
  let r := accMap (g.acc f.cd.toNat) m n fun i j c =>
    accAdd c (mxValue (a.scale g i q) (b.scale g j q) ((List.range 32).map fun e => sparseElem a k g i (32 * q + e)) (b.nums g j (32 * q) 32))
  ([(f.cd.toNat, r)], (List.range m).any (fun i => a.scale g i q == 0xFF) || (List.range n).any fun j => b.scale g j q == 0xFF)

/-- Column values: elements (32 q + e, i) of an operand, e below 32. -/
def MatOp.column (o : MatOp) (g : Group) (q i : Nat) : List FNum :=
  (List.range 32).map fun e => (fmtOf (shpFmt (o.shape g))).decode (o.elem g (32 * q + e) i)

/-- Chunk q of MMAD: the chunks of G × W over N first, then those of Xᵀ × G over M (23 R253). -/
def mmadChunk (f : FX) (g : Group) (q : Nat) : ChunkR :=
  let gg := opA f
  let w := opBt f
  let x := opG f
  let m := gg.rows g
  let n := gg.cols g
  let kw := w.rows g
  if q < n / 32 then
    let r := accMap (g.acc f.cd.toNat) m kw fun i j c =>
      accAdd c (mxValue (gg.scale g i q) (w.scale g j q) (gg.nums g i (32 * q) 32) (w.nums g j (32 * q) 32))
    ([(f.cd.toNat, r)], (List.range m).any (fun i => gg.scale g i q == 0xFF) || (List.range kw).any fun j => w.scale g j q == 0xFF)
  else
    let p := q - n / 32
    let r := accMap (g.acc f.ce.toNat) kw n fun i j c =>
      accAdd c (mxValue (x.scale g (32 * p) (i / 32)) (gg.scale g (32 * p) (j / 32)) (x.column g p i) (gg.column g p j))
    ([(f.ce.toNat, r)],
     (List.range (kw / 32)).any (fun b => x.scale g (32 * p) b == 0xFF) || (List.range (n / 32)).any fun b => gg.scale g (32 * p) b == 0xFF)

/-- Chunk q of MMAF: 16 elements, no scales (07 R77). -/
def mmafChunk (f : FX) (g : Group) (q : Nat) : ChunkR :=
  let a := opA f
  let b := opBt f
  ([(f.cd.toNat, accMap (g.acc f.cd.toNat) (a.rows g) (b.rows g) fun i j c => accAdd c (blockValue (a.nums g i (16 * q) 16) (b.nums g j (16 * q) 16) 0))], false)

/-- Chunk q of MMAI: exact products added modulo 2^32 (07 R77). -/
def mmaiChunk (f : FX) (g : Group) (q : Nat) : ChunkR :=
  let a := opA f
  let b := opBt f
  ([(f.cd.toNat, accMap (g.acc f.cd.toNat) (a.rows g) (b.rows g) fun i j c =>
      (List.range 32).foldl (fun c e =>
        c + BitVec.ofInt 32 (elemInt (f.fa == 0) 8 (a.elem g i (32 * q + e)) * elemInt (f.fb == 0) 8 (b.elem g j (32 * q + e)))) c)], false)

/-- A chunk of a product (23 R255). -/
def chunkOf (i : Instr) (g : Group) (q : Nat) : ChunkR :=
  match i with
  | .mma f => mmaChunk f g q
  | .mmas f => mmasChunk f g q
  | .mmad f => mmadChunk f g q
  | .mmaf f => mmafChunk f g q
  | .mmai f => mmaiChunk f g q
  | _ => ([], false)

/-! ### Issue and chunks (23 R254, R255) -/

def mprogValid (w : W64) : Bool := w.getLsbD 63
def mprogChunks (w : W64) : Nat := (getBits w 54 4).toNat
def mprogPcw (w : W64) : Nat := (getBits w 0 54).toNat
/-- MPROG with VALID, CHUNKS and PCW (05 R59). -/
def mprogOf (chunks pcw : Nat) : W64 := BitVec.ofNat 64 (2 ^ 63 + chunks % 16 * 2 ^ 54 + pcw % 2 ^ 54)

/-- A product that passed its checks starts at the chunk that MPROG names for its word, and asks the core's array for it; its group waits there (23 R255). -/
def startProduct (i : Instr) (n : Nat) (s : State) (g : Group) : Eff :=
  let first := if mprogValid g.mprog && mprogPcw g.mprog == g.herePc.toNat / 8 then min (mprogChunks g.mprog) n else 0
  let g1 := { g with mprog := putBits g.mprog 63 (0#1) }
  if n ≤ first then .done (s.setCur g1)
  else
    let k := s.coreOf g
    .stall ((s.setCur { g1 with wait := .product, product := some ⟨i, first, n⟩ }).setCore k { s.core k with arrayQ := (s.core k).arrayQ.filter (· != s.who) ++ [s.who] })

/-- The NaN scale among the consumed entries traps under SCALETRAP; else the product starts (23 R254). -/
def scaledProduct (i : Instr) (n : Nat) (nan : Bool) (s : State) (g : Group) : Eff :=
  if g.scaleTrap && nan then .trap causeScaleNan 0 else startProduct i n s g

/-- MMA (23 R251). -/
def execMma (f : FX) (s : State) : Host.Outcome State Fault Refusal :=
  issue (Instr.info (.mma f)) (fun _ g => mmaBad f (mxCode f.fa) (mxCode f.fb) 32 g) (fun _ g => matPoison g [opA f, opBt f] [f.cd.toNat])
    (fun s g => let n := (opA f).cols g / 32
      scaledProduct (.mma f) n ((opA f).nanScale g n || (opBt f).nanScale g n) s g) s

/-- MMAS (23 R252). -/
def execMmas (f : FX) (s : State) : Host.Outcome State Fault Refusal :=
  issue (Instr.info (.mmas f)) (fun _ g => mmasBad f g) (fun _ g => matPoison g [opA f, opBt f, ⟨f.tg.toNat, false⟩] [f.cd.toNat])
    (fun s g => let n := 2 * (opA f).cols g / 32
      scaledProduct (.mmas f) n ((opA f).nanScale g n || (opBt f).nanScale g n) s g) s

/-- MMAD (23 R253). -/
def execMmad (f : FX) (s : State) : Host.Outcome State Fault Refusal :=
  issue (Instr.info (.mmad f)) (fun _ g => mmadBad f g) (fun _ g => matPoison g [opA f, opBt f, opG f] [f.cd.toNat, f.ce.toNat])
    (fun s g =>
      let nb := (opA f).cols g / 32
      let mb := (opA f).rows g / 32
      scaledProduct (.mmad f) (nb + mb) ((opA f).nanScale g nb || (opBt f).nanScale g nb || (opG f).nanScale g ((opG f).cols g / 32)) s g) s

/-- MMAF (23 R251). -/
def execMmaf (f : FX) (s : State) : Host.Outcome State Fault Refusal :=
  issue (Instr.info (.mmaf f)) (fun _ g => mmaBad f (halfCode f.fa) (halfCode f.fb) 16 g) (fun _ g => matPoison g [opA f, opBt f] [f.cd.toNat])
    (fun s g => startProduct (.mmaf f) ((opA f).cols g / 16) s g) s

/-- MMAI (23 R251). -/
def execMmai (f : FX) (s : State) : Host.Outcome State Fault Refusal :=
  issue (Instr.info (.mmai f)) (fun _ g => mmaBad f (intCode f.fa) (intCode f.fb) 32 g) (fun _ g => matPoison g [opA f, opBt f] [f.cd.toNat])
    (fun s g => startProduct (.mmai f) ((opA f).cols g / 32) s g) s

/-- MATRIX_CHUNK_COMPLETE for group `s.who`: the product that has waited longest for its core's array completes its next chunk and asks again, or ends and its group goes on (23 R255). -/
def execMatrixChunkComplete (s : State) : Host.Outcome State Fault Refusal :=
  let u := s.who
  let g := s.cur
  let k := s.coreOf g
  let core := s.core k
  match g.product, g.clause with
  | some p, some c =>
    let queue := core.arrayQ.filter fun v => (s.group v).product.isSome
    if g.status != .live || queue.head? != some u then .next s
    else
      let r := chunkOf p.instr g p.next
      let g1 := (r.1.foldl (fun h a => h.setAcc a.1 a.2) g).flag (nansFlag r.2)
      let s1 := s.setCore k { core with arrayQ := queue.drop 1 ++ (if p.next + 1 < p.chunks then [u] else []) }
      if p.next + 1 < p.chunks then .next (s1.setGroup u { g1 with product := some { p with next := p.next + 1 } })
      else .next (advance (s1.setGroup u { g1 with product := none, wait := .none, pathCount := g1.pathCount + 1 }) u c)
  | _, _ => .next s

end Sys2Proof.Machine
end

