-- ==== Sys2Proof/Machine/Layout.lean ====
section
/-! DEFINITION. Tensor layout records: their fields, the checks at issue, the place of an element in memory and in the scratchpad, and the conversion of elements (19_copy_engine.md R206 to R215). -/

namespace Sys2Proof.Machine

/-! ### The record (19 R206) -/

/-- The fields of a layout record. -/
structure Lay where
  base   : Nat
  z00    : Nat
  ext    : List Nat
  stride : List Nat
  box    : List Nat
  mode   : Nat
  mfmt   : Nat
  sfmt   : Nat
  scm    : Nat
  trn    : Bool
  swz    : Bool
  ndim   : Nat
  col    : Nat
  pitch  : Nat
  scloff : Nat
  fill   : Nat
  scale  : Nat
  padw   : Nat
  padh   : Nat
  z38    : Nat
  base2  : Nat
  z39    : Nat
deriving DecidableEq, Repr

/-- Bits [lo + len - 1 : lo] of the record from a byte offset on. -/
def recField (r : BitVec 512) (off lo len : Nat) : Nat := (getBits r (8 * off + lo) len).toNat

def layOf (r : BitVec 512) : Lay :=
  { base := recField r 0 0 57, z00 := recField r 0 57 7,
    ext := (List.range 5).map fun n => recField r (8 + 4 * n) 0 32,
    stride := 0 :: (List.range 4).map fun n => recField r (0x1C + 4 * n) 0 32,
    box := ((List.range 4).map fun n => recField r 0x2C (8 * n) 8 + 1) ++ [recField r 0x30 33 8 + 1],
    mode := recField r 0x30 61 3, mfmt := recField r 0x30 56 5, sfmt := recField r 0x30 51 5, scm := recField r 0x30 49 2,
    trn := recField r 0x30 48 1 == 1, swz := recField r 0x30 47 1 == 1, ndim := recField r 0x30 44 3, col := recField r 0x30 41 3,
    pitch := recField r 0x30 19 14, scloff := recField r 0x30 0 19,
    fill := recField r 0x38 48 16, scale := recField r 0x38 40 8, padw := recField r 0x38 32 8, padh := recField r 0x38 24 8,
    z38 := recField r 0x38 0 24, base2 := recField r 0x38 0 57, z39 := recField r 0x38 57 7 }

def Lay.e (l : Lay) (n : Nat) : Nat := (l.ext[n]?).getD 0
/-- Byte stride of dimension n. -/
def Lay.st (l : Lay) (n : Nat) : Nat := 16 * (l.stride[n]?).getD 0
def Lay.s (l : Lay) (n : Nat) : Nat := (l.box[n]?).getD 1

/-- The element format of a memory format code: packed codes count as their element format (19 R209). -/
def eltFmt (m : Nat) : Nat := if m = 16 then 13 else if m = 17 then 14 else m
def isPacked (m : Nat) : Bool := 16 ≤ m
def isMxFmt (m : Nat) : Bool := 11 ≤ eltFmt m && eltFmt m ≤ 15
def isWideFmt (m : Nat) : Bool := 8 ≤ m && m ≤ 10
/-- Bits of an element in its place in the scratchpad, or of a wide or integer element in memory (05 R52, 09 R94). -/
def placeBits (f : Nat) : Nat := match eltFmt f with | 0 => 8 | 4 => 8 | 1 => 16 | 5 => 16 | 9 => 16 | 10 => 16 | 2 => 32 | 6 => 32 | 8 => 32 | 3 => 64 | 7 => 64 | 15 => 4 | _ => 8
/-- Bits of an element of an MX line: FP6 takes 6 (07 R73). -/
def lineBits (f : Nat) : Nat := match eltFmt f with | 13 => 6 | 14 => 6 | 15 => 4 | _ => 8
/-- Elements of a line, or of a packed span (07 R73, R74). -/
def lineElems (m : Nat) : Nat := if isPacked m then 512 else if m = 15 then 256 else 128
/-- Bytes of a line, or of a packed span. -/
def lineSpan (m : Nat) : Nat := if isPacked m then 384 else 128
/-- Bytes w of an element, for alignment and addresses; a half byte counts as 1 for alignment. -/
def fmtBytes (f : Nat) : Nat := max 1 (placeBits f / 8)

/-- Row length L of the scratchpad side (19 R208). -/
def Lay.L (l : Lay) : Nat := if l.trn then l.s 1 else l.s 0
/-- Rows of the scratchpad side. -/
def Lay.rows (l : Lay) : Nat := (if l.trn then l.s 0 else l.s 1) * l.s 2 * l.s 3 * l.s 4
/-- Row pitch P in bytes. -/
def Lay.P (l : Lay) : Nat := 4 * l.pitch

/-- The direction reads global memory. -/
def EngKind.isLoad : EngKind → Bool
  | .load => true
  | _ => false

def Lay.srcFmt (l : Lay) (load : Bool) : Nat := if load then eltFmt l.mfmt else l.sfmt
def Lay.dstFmt (l : Lay) (load : Bool) : Nat := if load then l.sfmt else eltFmt l.mfmt

/-- A pair and scale mode of the conversion table (19 R209). -/
def pairOk (a b scm : Nat) : Bool :=
  if a = b then scm == 0
  else if isWideFmt a && isWideFmt b then scm == 0
  else if isMxFmt a && isWideFmt b then scm == 0
  else isWideFmt a && isMxFmt b && scm != 0

/-! ### The checks at issue (19 R215) -/

/-- The fields above NDIM, and the ranges of those up to it. -/
def Lay.dimsBad (l : Lay) : Bool :=
  (List.range 5).any fun n =>
    if n ≤ l.ndim then l.e n = 0 || 2 ^ 31 ≤ l.e n
    else l.e n != 0 || (l.st n != 0 && !(l.mode == 3 && n == 2)) || l.s n != 1

/-- The rows of R215 that are ILLEGAL. SCALE under another SCM than 1 and SCLOFF beside a format without scales are no fields that a mode leaves unused, and pass (R206; assumption log 50). A packed format asks for s0 in multiples of 512, which BOX0 cannot name (assumption log 43). -/
def Lay.illegal (l : Lay) (k : EngKind) (co : List Int) : Bool :=
  let load := k.isLoad
  let a := l.srcFmt load
  let b := l.dstFmt load
  let mx := isMxFmt l.mfmt
  let c := fun (n : Nat) => (co[n]?).getD 0
  let w := fmtBytes l.mfmt
  let q : Int := if isPacked l.mfmt then 512 else 32
  (3 < l.mode || 17 < l.mfmt || 15 < l.sfmt || l.mfmt == 3 || l.mfmt == 7 || l.sfmt == 3 || l.sfmt == 7 || !pairOk a b l.scm ||
    (l.scm == 1 && l.mode != 3 && l.scale == 0xFF)) ||
  ((match l.mode with | 0 => 4 < l.ndim | 2 => l.ndim != 3 || l.s 2 != 1 || l.s 3 != 1 | _ => l.ndim != 1) || l.dimsBad ||
    (l.mode == 3 && (l.trn || l.scm != 0 || l.mfmt != l.sfmt || l.st 2 = 0 || l.st 2 * 8 < l.e 1 * placeBits l.mfmt || l.z39 != 0)) ||
    (l.mode != 3 && (l.z38 != 0)) || (l.mode != 3 && l.mode != 2 && (l.fill != 0 || l.padw != 0 || l.padh != 0)) || l.z00 != 0) ||
  (2 ^ 56 ≤ l.base || l.base % w != 0 || (l.mode == 3 && (2 ^ 56 ≤ l.base2 || l.base2 % w != 0)) ||
    (l.mode == 3) != (k == .stash) || ((l.mode == 1 || l.mode == 2) && k != .load)) ||
  ((l.mode == 1 || l.mode == 2) && mx || (l.mode == 1 && (c 0 % l.s 0 != 0 || c 1 % l.s 1 != 0))) ||
  (mx && (l.base % 128 != 0 || (l.e 0 : Int) % q != 0 || (l.s 0 : Int) % q != 0 || c 0 % q != 0 ||
    ((List.range 5).any fun n => l.st n % lineSpan l.mfmt != 0) || (l.trn && a == b))) ||
  (8 * l.P < l.L * placeBits l.sfmt || l.P = 0 || (l.swz && l.P % 128 != 0) || (isMxFmt l.sfmt && l.L % 32 != 0))

/-- Byte offset of byte `o` of row `i` (19 R208). -/
def Lay.sigma (l : Lay) (i o : Nat) : Nat := if l.swz then 4 * (32 * (o / 128) + (o / 4 + i) % 32) + o % 4 else o

/-- Bytes of a row as the operation touches it. -/
def Lay.rowBytes (l : Lay) : Nat := let n := (l.L * placeBits l.sfmt + 7) / 8; if l.swz then (n + 127) / 128 * 128 else n
/-- Bytes of the scale area. -/
def Lay.scaleBytes (l : Lay) : Nat := if isMxFmt l.sfmt then l.rows * (l.L / 32) else 0

/-- What R215 says of a record and its operands: refused with a cause, or accepted. -/
def Lay.check (l : Lay) (k : EngKind) (co : List Int) (sp spad : Nat) : Option Nat :=
  if l.illegal k co then some causeIllegal
  else if sp % 4 != 0 || (l.swz && sp % 128 != 0) then some causeMisalign
  else if spad < sp + (l.rows - 1) * l.P + l.rowBytes || (l.scaleBytes != 0 && spad < sp + l.scloff + l.scaleBytes) then some causeProtection
  else none

/-! ### Positions (19 R207, R208, R211 to R213) -/

/-- Box position of element j of scratchpad row i (19 R208). -/
def Lay.pos (l : Lay) (i j : Nat) : List Nat :=
  let (b0, b1, r) := if l.trn then (i % l.s 0, j, i / l.s 0) else (j, i % l.s 1, i / l.s 1)
  [b0, b1, r % l.s 2, r / l.s 2 % l.s 3, r / l.s 2 / l.s 3]

/-- Coordinates of a box position (19 R207). -/
def coordsAt (co : List Int) (b : List Nat) : List Int := (List.range 5).map fun n => (co[n]?).getD 0 + ((b[n]?).getD 0 : Nat)

/-- The coordinates lie inside the tensor. -/
def Lay.inside (l : Lay) (ic : List Int) : Bool :=
  (List.range (l.ndim + 1)).all fun n => let x := (ic[n]?).getD 0; 0 ≤ x && x < l.e n

/-- BASE with the strides of the dimensions from 1 on. -/
def Lay.rowAddr (l : Lay) (ic : List Int) : Int :=
  (List.range l.ndim).foldl (fun a n => a + (ic[n + 1]?).getD 0 * l.st (n + 1)) l.base

/-- Where an element stands in memory: the address of its first line or of itself, its bit there, and for MX formats its block. -/
structure MemAt where
  va    : Nat
  bit   : Nat
  block : Nat
deriving DecidableEq, Repr

/-- The place of an inside element in plain layouts (19 R207). -/
def Lay.memAt (l : Lay) (ic : List Int) : MemAt :=
  let i0 := ((ic[0]?).getD 0).toNat
  if isMxFmt l.mfmt then
    let e := lineElems l.mfmt
    { va := ((l.rowAddr ic + (lineSpan l.mfmt * (i0 / e) : Nat)) % 2 ^ 64).toNat, bit := lineBits l.mfmt * (i0 % e), block := i0 % e / 32 }
  else { va := ((l.rowAddr ic + (i0 * fmtBytes l.mfmt : Nat)) % 2 ^ 64).toNat, bit := 0, block := 0 }

/-- What an element of the load direction is taken from. -/
inductive Where where
  | mem (a : MemAt)
  | zero (outside : Bool)
  | fill
  | sparse (tile q : Nat) (inside : Bool)
deriving DecidableEq, Repr

/-- The source of box position `b` in the load direction (19 R210 to R212). -/
def Lay.source (l : Lay) (co : List Int) (b : List Nat) : Where :=
  let c := fun (n : Nat) => (co[n]?).getD 0
  let b0 : Nat := (b[0]?).getD 0
  let b1 : Nat := (b[1]?).getD 0
  match l.mode with
  | 2 =>
    let q : Int := c 1 + b1
    let w : Int := l.e 1
    let h : Int := l.e 2
    let x2 := BitVec.ofInt 32 (c 2)
    if q < 0 || (l.e 3 : Int) * h * w ≤ q then .fill
    else
      let yi := q / w % h + (x2.extractLsb' 16 16).toInt - l.padh
      let xi := q % w + (x2.extractLsb' 0 16).toInt - l.padw
      if yi < 0 || h ≤ yi || xi < 0 || w ≤ xi then .fill
      else
        let ch := c 0 + b0
        if ch < 0 || (l.e 0 : Int) ≤ ch then .zero true
        else .mem ⟨((l.base + ch * fmtBytes l.mfmt + xi * l.st 1 + yi * l.st 2 + q / (w * h) * l.st 3) % 2 ^ 64).toNat, 0, 0⟩
  | 1 =>
    let s0 : Int := l.s 0
    let s1 : Int := l.s 1
    let across : Int := ((l.e 0 + l.s 0 - 1) / l.s 0 : Nat)
    let tile := ((l.base + (c 1 / s1 * across + c 0 / s0) * l.st 1) % 2 ^ 64).toNat
    .sparse tile (b1 * l.s 0 + b0) (l.inside (coordsAt co b))
  | _ =>
    let ic := coordsAt co b
    if l.inside ic then .mem (l.memAt ic) else .zero true

/-- The scratchpad offset of byte `o` of row i of an operation at SP. -/
def Lay.spadByte (l : Lay) (sp i o : Nat) : Nat := sp + i * l.P + l.sigma i o
/-- The scratchpad offset of the scale byte of block k of row i. -/
def Lay.spadScale (l : Lay) (sp i k : Nat) : Nat := sp + l.scloff + i * (l.L / 32) + k

/-! ### Conversion (19 R209) -/

/-- An element on its way: its bits and block scale where it came from memory or scratchpad, or the value that fills it. -/
inductive Elem where
  | bits (x : Nat) (scale : Nat)
  | zero
  | fill
deriving DecidableEq, Repr

/-- FILL as a value (19 R206). -/
def Lay.fillNum (l : Lay) : FNum := fmtF32.decode (l.fill * 65536)

/-- The value of an element of a floating format, its scale aside. -/
def Lay.value (l : Lay) (src : Nat) (e : Elem) : FNum :=
  match e with
  | .bits x _ => (fmtOf (BitVec.ofNat 4 src)).decode x
  | .zero => .fin false 0 0
  | .fill => l.fillNum

/-- One converted element: its bits, the flags it raises, and whether it consumed a NaN scale (19 R209). -/
def Lay.convert (l : Lay) (src dst : Nat) (e : Elem) : Nat × BitVec 3 × Bool :=
  let d := fmtOf (BitVec.ofNat 4 dst)
  let out := fun (x : FNum) => let r := cvt x d .rne false; (r.1, satFlag r.2, false)
  if src < 8 then
    match e with
    | .bits x _ => (x, 0, false)
    | .zero => (0, 0, false)
    | .fill => (wrapBits (placeBits dst) (elemInt true 16 l.fill), 0, false)
  else if src = dst then
    match e with
    | .bits x _ => (x, 0, false)
    | _ => out (l.value src e)
  else if isMxFmt src then
    match e with
    | .bits _ s => if s = 0xFF then (d.nanEnc, flagNans, true) else out (scaleNum (l.value src e) ((s : Int) - 127))
    | _ => out (l.value src e)
  else if isMxFmt dst then out (scaleNum (l.value src e) (127 - (l.scale : Int)))
  else out (l.value src e)

/-- A block of 32 elements converted: bits, scale, flags (19 R209). -/
def Lay.convertBlock (l : Lay) (src dst : Nat) (es : List Elem) : List Nat × Nat × BitVec 3 :=
  if src != dst && 2 ≤ l.scm then
    let r := requantise (es.map (l.value src)) (fmtOf (BitVec.ofNat 4 dst)) (fun _ => .rne) (l.scm == 3)
    (r.elems, r.scale, satFlag r.sat ||| rangeFlag r.range)
  else
    let r := es.map (l.convert src dst)
    let scale := if src = dst then (es.findSome? fun e => match e with | .bits _ s => some s | _ => none).getD 0x7F else l.scale
    (r.map (·.1), scale, r.foldl (fun a x => a ||| x.2.1) 0)

/-- Blocks convert as wholes: same-format MX copies and per-block scaling; the others element by element. -/
def Lay.blockwise (l : Lay) (load : Bool) : Bool :=
  let a := l.srcFmt load
  let b := l.dstFmt load
  isMxFmt b && (a == b || 2 ≤ l.scm)

end Sys2Proof.Machine
end

