-- ==== Sys2Proof/Machine/Copy.lean ====
section
/-! DEFINITION. Engine operations: slots and tokens, the issue of TCOPY, TCOPYS and STASH with the read of the layout record, the landing of elements, and completion (19_copy_engine.md R203 to R220; 05_state.md R53; 21_isa_engines.md R222 to R226). -/

namespace Sys2Proof.Machine

/-! ### Slots (19 R204) -/

/-- A group that stands at an instruction of its clause. -/
def State.atWord (s : State) (u : Nat) : Bool := let g := s.group u; g.status == .live && g.clause.isSome

/-- A team whose parked operations are on its core: they are neither saved, nor being saved, nor still to be restored (27 R289, R290). -/
def Team.onCore (t : Team) : Bool := t.save == .running || t.save == .preempting

/-- An operation holds its slot until it completes or is cancelled (19 R204). Those that parked for the save of their team hold none from the save on, and claim one again at its resumption: one that finds none free goes on once it has one (27 R289, R290; assumption log 50). -/
def State.inSlot (s : State) (o : EngOp) : Bool := o.status != .cancelled && (o.status == .running || (s.team o.team).onCore)

/-- Slots of a core in use: its operations, the issues whose record is being read, and a slot granted to a waiting issuer (19 R204). -/
def State.usedSlots (s : State) (core : Nat) : Nat :=
  (s.ops.filter fun p => p.2.core == core && p.2.slot && s.inSlot p.2).length +
  (s.groups.filter fun p => p.2.status == .live && (p.2.wait matches .record _ _) && s.coreOf p.2 == core).length +
  (match (s.core core).held with | some u => if s.atWord u then 1 else 0 | none => 0)

/-- A waiting issuer's place: those that have waited longer come first, ties in scheduler order (19 R204). -/
def slotInsert (sched : Nat → Nat) (u c : Nat) : List (Nat × Nat) → List (Nat × Nat)
  | [] => [(u, c)]
  | (v, d) :: t => if c < d || (c = d && sched u < sched v) then (u, c) :: (v, d) :: t else (v, d) :: slotInsert sched u c t

/-- Claims a slot for the group `s.who`: the one granted to it, or a free one that nobody has waited for; else it waits in the queue. -/
def State.claimSlot (s : State) (g : Group) : State × Bool :=
  let k := s.coreOf g
  let c := s.core k
  let q := c.slotQ.filter fun p => s.atWord p.1
  if c.held == some s.who then (s.setCore k { c with held := none }, true)
  else if q.isEmpty && s.usedSlots k < 16 then (s.setCore k { c with slotQ := q }, true)
  else if q.any fun p => p.1 == s.who then (s, false)
  else (s.setCore k { c with slotQ := slotInsert (fun v => (s.group v).gid % 4) s.who s.cycle q }, false)

/-- ENGINE_SLOT_GRANT for core `s.who`: a freed slot goes to the issuer that has waited longest (19 R204). -/
def execEngineSlotGrant (s : State) : Host.Outcome State Fault Refusal :=
  let k := s.who
  let c := s.core k
  let held := c.held.filter s.atWord
  match held, c.slotQ.filter fun p => s.atWord p.1 with
  | none, p :: t => if s.usedSlots k < 16 then .next (s.setCore k { c with held := some p.1, slotQ := t }) else .next s
  | _, _ => .next s

/-! ### Tokens and operations (05 R53; 19 R217; 21 R222) -/

/-- Outstanding accesses of a group that an operation issued now follows (15 R172). -/
def Group.forkWaits (g : Group) : List Nat :=
  ((g.pend.filter fun p => p.lanes.any (·.open)).map (·.id)) ++ ((g.moves.filter fun m => !m.done).map (·.id))

/-- The operations and requests of a list that are not finished with memory. -/
def State.stillOpen (s : State) (l : List Nat) : List Nat :=
  l.filter fun n => s.groups.any fun p => (p.2.pend.any fun o => o.id == n && o.lanes.any (·.open)) || p.2.moves.any fun m => m.id == n && !m.done

/-- The fork of an operation has passed. -/
def State.forked (s : State) (o : EngOp) : Bool := (s.stillOpen o.waits).isEmpty

/-- An operation is issued: ENGSEQ advances and is captured, the token counts it and takes its record, and a copy joins the copy counter (05 R53, 21 R222). -/
def State.startOp (s : State) (g : Group) (copy : Bool) (o : EngOp) : State :=
  let (n, s1) := s.fresh
  let t := g.tok o.token
  let seq := g.engseq + 1
  let g1 := { g with engseq := seq, copies := if copy then g.copies ++ [(⟨n, false⟩ : CopyRef)] else g.copies }
  let g2 := g1.setTok o.token { t with sig := false, count := t.count + 1, status := 0, oob := 0, last := n }
  (s1.setCur g2).setOp { o with id := n, core := s.coreOf g, team := g.team, group := s.who, groups := [s.who], ctx := (s.teamOf g).ctx,
                                pc := g.herePc, engseq := seq, trapNan := g.scaleTrap, waits := g.forkWaits }

/-- The operation that an issue fills in. -/
def newOp (k : EngKind) (token : Nat) : EngOp :=
  { id := 0, kind := k, core := 0, team := 0, group := 0, groups := [], ctx := 0, token := token, pc := 0, engseq := 0 }

/-- The token completes for every group that holds it: its count falls, and at 0 it is signalled; flags are held with it; its record takes the status where the operation is the last that named it (05 R53, 19 R217). -/
def Group.tokenDone (g : Group) (o : EngOp) (status : BitVec 3) : Group :=
  let t := g.tok o.token
  let n := if t.count == 0 then 0 else t.count - 1
  let t1 := { t with count := n, sig := t.sig || n == 0, held := t.held ||| o.flags }
  let g1 := g.setTok o.token (if t.last = o.id then { t1 with status := status, oob := BitVec.ofNat 32 (min o.oob 0xFFFFFFFF) } else t1)
  { g1 with copies := retireCopies (g1.copies.map fun c => if c.op = o.id then { c with done := true } else c) }

/-- The lines that no other operation in flight still lands in become present (19 R216). An operation that is parked while its team is being saved or resumed holds none absent: the handlers use the whole scratchpad, and its lines are absent again with the restored area (27 R289, R290). -/
def State.landLines (s : State) (o : EngOp) (ls : List Nat) : State :=
  let t := s.team o.team
  let busy := fun (l : Nat) => s.ops.any fun p => p.2.id != o.id && p.2.team == o.team && s.inSlot p.2 && (tget p.2.landing l).isSome
  s.setTeam o.team { t with absent := t.absent.filter fun l => !(ls.contains l && !busy l) }

/-- The scale bytes that an operation has put together are written, those of one scratchpad word at once (19 R218). -/
def State.flushScales (s : State) (o : EngOp) : State × EngOp :=
  match o.scales with
  | [] => (s, o)
  | (loc, _, _) :: _ => (s.spadWrite loc o.scales.length (ofBytes (o.scales.map (·.2.1))) (o.scales.any (·.2.2)), { o with scales := [] })

/-- One more scale byte, the next in the linear scale area: it waits until its word is full or the operation ends (19 R208, R218). -/
def State.putScale (s : State) (o : EngOp) (loc : Nat) (x : Byte) (poison last : Bool) : State × EngOp :=
  let o1 := { o with scales := o.scales ++ [(loc, x, poison)] }
  if loc % 4 = 3 || last then s.flushScales o1 else (s, o1)

/-- Cancels an operation: what it has converted is written, and the lines it has not landed count as landed (19 R216, R219, R220). -/
def State.cancelOp (s : State) (o : EngOp) (trap : Option (Nat × W32)) : State :=
  let (s1, o1) := s.flushScales o
  let o2 := { o1 with status := .cancelled, trap := trap, landing := [] }
  (s1.setOp o2).landLines o2 (tkeys o.landing)

/-- Completes an operation: token, counter, record; the group traps at its next clause where a trap is due (19 R217, R219). -/
def State.completeOp (s : State) (o : EngOp) : State :=
  let status : BitVec 3 := if o.trap.isSome then 4 else if o.status == .cancelled then 3 else 1
  let s1 := { s with ops := tdel s.ops o.id }
  let s2 := o.groups.foldl (fun s u => s.setGroup u ((s.group u).tokenDone o status)) s1
  match o.trap with
  | none => s2
  | some (cause, targ) =>
    let g := s2.group o.group
    if g.status == .live && o.groups.contains o.group then s2.setGroup o.group { g with armed := g.armed ++ [⟨cause, o.pc, targ⟩] } else s2

/-! ### TCOPY, TCOPYS and STASH (17 R200; 19 R203, R205; 21 R224) -/

/-- The vector registers of the leader lane are poisoned (21 R223). -/
def leaderPoison (i : Info) (g : Group) : Bool :=
  let act := g.active' i.pred
  act != 0 && i.vr.any fun n => inSet (g.rvp n) (lowest act)

/-- The address check, the stalls, and the begin of the record's read, for which the scheduler stalls (19 R204, R205; 21 R223, R224). -/
def issueCopy (kind : Nat) (f : FE) (s : State) (g : Group) : Eff :=
  let a := (g.rpair f.sr.toNat).toNat
  if 2 ^ 56 ≤ a then .trap causeProtection 0
  else if a % 64 != 0 then .trap causeMisalign 0
  else if 15 ≤ g.copies.length || (g.tok f.tok.toNat).count == 15 then .stall s
  else
    match s.claimSlot g with
    | (s1, false) => .stall s1
    | (s1, true) => .stall (s1.setCur { s1.cur with wait := .record kind f })

/-- TCOPY (21 R224). -/
def execTcopy (f : FE) (s : State) : Host.Outcome State Fault Refusal :=
  let i := Instr.info (.tcopy f)
  issue i never (fun _ g => leaderPoison i g) (whenActive i (issueCopy 0 f)) s

/-- TCOPYS (21 R224). -/
def execTcopys (f : FE) (s : State) : Host.Outcome State Fault Refusal :=
  let i := Instr.info (.tcopys f)
  issue i never (fun _ g => leaderPoison i g) (whenActive i (issueCopy 1 f)) s

/-- STASH (17 R200). -/
def execStash (f : FE) (s : State) : Host.Outcome State Fault Refusal :=
  let i := Instr.info (.stash f)
  issue i never (fun _ g => leaderPoison i g) (whenActive i (issueCopy 2 f)) s

/-- The direction of an issue. -/
def copyKind (k : Nat) : EngKind := match k with | 0 => .load | 1 => .store | _ => .stash

/-- The captured coordinates (19 R203, R207). -/
def coordsOf (l : Lay) (g : Group) (f : FE) : List Int :=
  let v := fun k => g.rl (f.vc.toNat + k) (lowest g.mask)
  let c3 := v 3
  [(v 0).toInt, (v 1).toInt, (v 2).toInt] ++
  (if l.ndim = 4 then [(c3.extractLsb' 0 16).toInt, (c3.extractLsb' 16 16).toInt] else [c3.toInt, 0])

/-- The lines that a load lands in, each with the last position that writes it (19 R216). -/
def Lay.landing (l : Lay) (sp : Nat) : Tbl Nat :=
  (List.range (l.rows * l.L)).foldl (fun t n =>
    let i := n / l.L
    let j := n % l.L
    let t1 := tset t (l.spadByte sp i (j * placeBits l.sfmt / 8) / 128) n
    if isMxFmt l.sfmt && j % 32 == 0 then tset t1 (l.spadScale sp i (j / 32) / 128) n else t1) []

/-- The record has been read and accepted: the operation takes its slot, and a load clears the presence bits of its lines (19 R205, R216). -/
def State.issueOp (s : State) (g : Group) (kind : Nat) (f : FE) (lrec : BitVec 512) : State :=
  let l := layOf lrec
  let sp := (g.rs f.sx.toNat).toNat
  let landing := if kind = 0 then l.landing sp else []
  let s1 := s.startOp g true { newOp (copyKind kind) f.tok.toNat with record := lrec, coords := coordsOf l g f, sp := sp, colour := l.col, landing := landing }
  let t := s1.team g.team
  s1.setTeam g.team { t with absent := (tkeys landing).foldl ninsert t.absent }

/-- The group's earlier stores to a layout record that are not performed: its read follows them in program order (15 R168, 19 R205). -/
def Group.recordOpen (g : Group) (a : Nat) : List LaneAcc :=
  g.pend.flatMap fun p => if p.writes then p.lanes.filter fun b => b.open && rangesMeet (b.range p) (a, 64) else []

/-- RECORD_READ_COMPLETE for group `s.who`: the layout record is read through L1 at group scope in colour 0, after the group's earlier stores to it; a replayable fault parks the group before the instruction issues, a poisoned record traps, and the record is checked before the operation takes its slot (19 R205, R215). -/
def execRecordReadComplete (s : State) : Host.Outcome State Fault Refusal :=
  let u := s.who
  let g := s.cur
  match g.wait, g.clause with
  | .record kind f, some c =>
    if g.status != .live then .next s
    else
      let here : ResumeAt := ⟨g.pc, true, c.idx, c.words.length⟩
      let a := (g.rpair f.sr.toNat).toNat
      if g.recordOpen a != [] then .next (if (g.recordOpen a).any (·.fault.isSome) then s.setCur { g with wait := .fault } else s) else
      match s.loadLine (s.reqOf g a) 0 0 with
      | .error (.fault cause) =>
        let (n, s1) := s.groupFault u 0 cause 0 a (wordPc g c) 0
        .next (s1.setGroup u { s1.group u with wait := .spillFault (some n) })
      | .error .violation => .next ((((s.seen (s.reqOf g a)).groupFault u 0 0x40 0 a (wordPc g c) 0).2).trap u causeProtection 0 (wordPc g c) here)
      | .error _ => .next (s.setCur (s.waitsAt g a 0))
      | .ok (s1, (line, poison)) =>
        let lrec := BitVec.ofNat 512 (lineNat line (a % 128) 64)
        let l := layOf lrec
        if poison then .next (s1.trap u causePoison 0 (wordPc g c) here)
        else
          match l.check (copyKind kind) (coordsOf l g f) (g.rs f.sx.toNat).toNat (s1.spadSize g.team) with
          | some cause => if cause = causeIllegal then .next (s1.kill u causeIllegal (wordPc g c)) else .next (s1.trap u cause 0 (wordPc g c) here)
          | none =>
            let s2 := s1.setGroup u { s1.group u with wait := .none, pathCount := g.pathCount + 1, issued := true }
            .next (advance (s2.issueOp s2.cur kind f lrec) u c)
  | _, _ => .next s

/-- TCQRY (21 R225). -/
def execTcqry (f : FE) (s : State) : Host.Outcome State Fault Refusal :=
  let i := Instr.info (.tcqry f)
  issue i never never (whenActive i fun s g =>
    let r := s.record g f.tok.toNat
    .done (s.setCur ((g.ws f.sr.toNat (r.1.setWidth 32)).ws (f.sr.toNat + 1) r.2))) s

/-- TOKCLR (21 R226). -/
def execTokclr (f : FE) (s : State) : Host.Outcome State Fault Refusal :=
  let i := Instr.info (.tokclr f)
  issue i never never (whenActive i (onGroup fun g => g.setTok f.tok.toNat { g.tok f.tok.toNat with sig := false })) s

/-! ### Global accesses of an operation (15 R172; 19 R206, R207) -/

/-- A request of an operation. -/
def State.opReq (s : State) (o : EngOp) (va : Nat) : Req := ⟨o.core, o.ctx, tagAsid (s.ctx o.ctx).asid va, va⟩

/-- A line read at group scope in the operation's colour; an address with any of bits [63:56] set is a violation. -/
def State.opLine (s : State) (o : EngOp) (va : Nat) : MemR (Line × Bool) :=
  if 2 ^ 56 ≤ va then .error .violation else s.loadLine (s.opReq o va) 0 o.colour

/-- `n` bytes of one line. -/
def State.opBytes (s : State) (o : EngOp) (va n : Nat) : MemR (Nat × Bool) :=
  match s.opLine o va with
  | .error e => .error e
  | .ok (s1, (l, p)) => .ok (s1, (lineNat l (va % 128) n, p))

/-- The set bits of a bitmap among its first `q`, and bit `q` itself; reads one byte at a time (19 R212). -/
def State.maskRank (s : State) (o : EngOp) (tile q : Nat) : Nat → MemR (Nat × Bool × Bool)
  | 0 => .ok (s, (0, false, false))
  | k + 1 =>
    match s.maskRank o tile q k with
    | .error e => .error e
    | .ok (s1, (n, hit, po)) =>
      match s1.opBytes o ((tile + k) % 2 ^ 64) 1 with
      | .error e => .error e
      | .ok (s2, (b, p)) =>
        let below := ((List.range 8).filter fun i => 8 * k + i < q && b / 2 ^ i % 2 == 1).length
        .ok (s2, (n + below, hit || (q / 8 == k && b / 2 ^ (q % 8) % 2 == 1), po || p))

/-- An element of memory with its scale and poison (07 R73, R74). -/
def State.memElem (s : State) (o : EngOp) (l : Lay) (a : MemAt) : MemR (Elem × Bool) :=
  if isMxFmt l.mfmt then
    let n := lineBits l.mfmt
    let va := a.va + 128 * (a.bit / 1024)
    let lo := a.bit % 1024
    match s.opLine o va with
    | .error e => .error e
    | .ok (s1, (x, p)) =>
      match (if lo + n ≤ 1024 then .ok (s1, ((0 : Line), false)) else s1.opLine o (va + 128)) with
      | .error e => .error e
      | .ok (s2, (y, q)) =>
        match s2.opLine o (a.va + 128 * (if isPacked l.mfmt then a.block / 8 else 0)) with
        | .error e => .error e
        | .ok (s3, (z, r)) =>
          let bits := (x.toNat % 2 ^ 1024 + y.toNat % 2 ^ 1024 * 2 ^ 1024) / 2 ^ lo % 2 ^ n
          .ok (s3, (.bits bits (lineByte z (128 + a.block % 8)).toNat, p || q || r))
  else
    match s.opBytes o a.va (fmtBytes l.mfmt) with
    | .error e => .error e
    | .ok (s1, (x, p)) => .ok (s1, (.bits x 0, p))

/-- The address of value `n` of a sparse tile: the values follow the mask (19 R212). -/
def Lay.sparseVa (l : Lay) (tile n : Nat) : Nat := (tile + (l.s 0 * l.s 1 + 127) / 128 * 16 + n * fmtBytes l.mfmt) % 2 ^ 64

/-- The element of box position `b`, its poison, and how much it adds to the out-of-bounds count. A sparse position outside the tensor reads its mask, and its value where the bit is set, and is +0 (19 R210 to R212). -/
def State.loadElem (s : State) (o : EngOp) (l : Lay) (b : List Nat) : MemR (Elem × Bool × Nat) :=
  match l.source o.coords b with
  | .zero out => .ok (s, (.zero, false, if out then 1 else 0))
  | .fill => .ok (s, (.fill, false, 1))
  | .mem a =>
    match s.memElem o l a with
    | .error e => .error e
    | .ok (s1, (x, p)) => .ok (s1, (x, p, 0))
  | .sparse tile q inside =>
    match s.maskRank o tile q (q / 8 + 1) with
    | .error e => .error e
    | .ok (s1, (_, false, p)) => .ok (s1, (.zero, inside && p, if inside then 0 else 1))
    | .ok (s1, (n, true, p)) =>
      match s1.opBytes o (l.sparseVa tile n) (fmtBytes l.mfmt) with
      | .error e => .error e
      | .ok (s2, (x, r)) => .ok (s2, if inside then (.bits x 0, p || r, 0) else (.zero, false, 1))

/-- The elements of consecutive positions of a row, as many as are read before an error (19 R219). -/
def State.loadRun (s : State) (o : EngOp) (l : Lay) (i : Nat) : List Nat → State × List (Elem × Bool × Nat) × Option MemErr
  | [] => (s, [], none)
  | j :: t =>
    match s.loadElem o l (l.pos i j) with
    | .error e => (s, [], some e)
    | .ok (s1, x) => let (s2, xs, e) := s1.loadRun o l i t; (s2, x :: xs, e)

/-! ### Landing of elements (19 R208, R209, R214, R216, R218) -/

/-- What an attempt to go on comes to. -/
inductive Prog where
  | moved (s : State) (o : EngOp)
  | wait
  | err (e : MemErr)

/-- The elements that land together from position (i, j) on: a block, or what stands in one scratchpad word (19 R218). -/
def Lay.runLen (l : Lay) (j : Nat) : Nat :=
  if l.blockwise true then 32
  else let n := max 1 (32 / placeBits l.sfmt); min (n - j % n) (l.L - j)

/-- Writes `n` bits of value `x` at bit `bit` of row i of the scratchpad side, all within one word; a whole word at once (19 R218). -/
def State.spadBits (s : State) (o : EngOp) (l : Lay) (i bit n x : Nat) (poison : Bool) : State :=
  let loc := spadLoc o.team (l.spadByte o.sp i (bit / 32 * 4))
  let b := bit % 32
  let old := s.spadRead loc 4
  let new := old - old / 2 ^ b % 2 ^ n * 2 ^ b + x % 2 ^ n * 2 ^ b
  let lo := b / 8
  let hi := (b + n + 7) / 8
  s.spadWrite (loc + lo) (hi - lo) (new / 2 ^ (8 * lo)) poison

/-- Writes a run of `n` elements of `w` bits from column j on, word by word. -/
def State.spadRun (s : State) (o : EngOp) (l : Lay) (i j w : Nat) (xs : List Nat) (poison : Bool) : State :=
  let per := 32 / w
  (List.range ((xs.length + per - 1) / per)).foldl (fun s k =>
    let here := (xs.drop (k * per)).take per
    s.spadBits o l i ((j + k * per) * w) (w * here.length) (here.foldr (fun x a => x % 2 ^ w + 2 ^ w * a) 0) poison) s

/-- Positions up to `n` have landed: their lines are present once nothing else lands in them (19 R216). -/
def State.landed (s : State) (o : EngOp) (n : Nat) : State × EngOp :=
  let ls := (o.landing.filter fun p => p.2 < n).map (·.1)
  let o1 := { o with next := n, landing := o.landing.filter fun p => n ≤ p.2 }
  ((s.setOp o1).landLines o1 ls, o1)

/-- Bits of an element in memory (05 R52, 07 R73). -/
def memBits (f : Nat) : Nat := if isMxFmt f then lineBits f else placeBits f

/-- The element came from memory. -/
def Elem.real : Elem → Bool
  | .bits _ _ => true
  | _ => false

/-- The next elements of a load in canonical order: read, converted and written (19 R209, R218). -/
def State.landLoad (s : State) (o : EngOp) : Prog :=
  let l := layOf o.record
  let i := o.next / l.L
  let j := o.next % l.L
  let src := l.srcFmt true
  let dst := l.dstFmt true
  let (s1, xs, e) := s.loadRun o l i ((List.range (l.runLen j)).map (j + ·))
  let poison := xs.any (·.2.1)
  let w := placeBits l.sfmt
  let scaleAt := spadLoc o.team (l.spadScale o.sp i (j / 32))
  let last := l.rows * l.L ≤ o.next - j % 32 + 32
  let done (r : State × EngOp) (flags : BitVec 3) (nan : Bool) : Prog :=
    let o1 := { r.2 with oob := o.oob + (xs.map (·.2.2)).foldl (· + ·) 0, flags := o.flags ||| flags,
                         moved := o.moved + memBits l.mfmt * (xs.filter (·.1.real)).length,
                         trap := if nan && o.trapNan then some (causeScaleNan, o.engseq.setWidth 32) else o.trap, since := none }
    let (s2, o2) := r.1.landed o1 (o.next + xs.length)
    .moved s2 o2
  if l.blockwise true then
    match e with
    | some e => .err e
    | none =>
      let (bits, scale, flags) := l.convertBlock src dst (xs.map (·.1))
      done ((s1.spadRun o l i j w bits poison).putScale o scaleAt (BitVec.ofNat 8 scale) poison last) flags false
  else
    match xs, e with
    | [], some e => .err e
    | _, _ =>
      let r := xs.map fun x => l.convert src dst x.1
      let nan := r.any (·.2.2)
      let flags := r.foldl (fun a x => a ||| x.2.1) 0
      let s2 := s1.spadRun o l i j w (r.map (·.1)) poison
      done (if isMxFmt l.sfmt && j % 32 == 0 then s2.putScale o scaleAt (BitVec.ofNat 8 l.scale) false last else (s2, o))
        (if o.trapNan then flags &&& ~~~flagNans else flags) nan

/-- The scratchpad bytes of element (i, j): offset and count; and that of its scale where it has one. -/
def Lay.srcBytes (l : Lay) (sp i j : Nat) : List (Nat × Nat) :=
  (l.spadByte sp i (j * placeBits l.sfmt / 8), fmtBytes l.sfmt) :: (if isMxFmt l.sfmt then [(l.spadScale sp i (j / 32), 1)] else [])

/-- Element (i, j) as the scratchpad holds it, with its poison. -/
def State.spadElem (s : State) (o : EngOp) (l : Lay) (i j : Nat) : Elem × Bool :=
  let w := placeBits l.sfmt
  let loc := spadLoc o.team (l.spadByte o.sp i (j * w / 8))
  let x := s.spadRead loc (fmtBytes l.sfmt) / 2 ^ (j * w % 8) % 2 ^ (if isMxFmt l.sfmt then lineBits l.sfmt else w)
  let sc := if isMxFmt l.sfmt then s.spadRead (spadLoc o.team (l.spadScale o.sp i (j / 32))) 1 else 0
  (.bits x sc, (l.srcBytes o.sp i j).any fun b => s.spadPoisoned (spadLoc o.team b.1) b.2)

/-- Every scratchpad line of the elements is present (19 R214). -/
def State.srcPresent (s : State) (o : EngOp) (l : Lay) (es : List (Nat × Nat)) : Bool :=
  es.all fun e => (l.srcBytes o.sp e.1 e.2).all fun b => s.present (o.team, b.1 / 128) && s.present (o.team, (b.1 + b.2 - 1) / 128)

/-- One byte of a line that a store writes: line address, byte of the line, value. -/
abbrev LineByte := Nat × Nat × Byte

/-- The bytes of an MX block that are not its elements': its scale, and the bytes that every producer of its layout fills (07 R73, R74). -/
def Lay.blockExtras (l : Lay) (a : MemAt) (scale : Nat) : List LineByte :=
  let sc : LineByte := (a.va + 128 * (if isPacked l.mfmt then a.block / 8 else 0), 128 + a.block % 8, BitVec.ofNat 8 scale)
  let pads : List LineByte :=
    if isPacked l.mfmt then (if a.block = 15 then (List.range 8).map fun k => (a.va + 256, 128 + k, 0x7F) else [])
    else if l.mfmt = 15 then []
    else ((List.range 4).map fun k => (a.va, 132 + k, (0x7F : Byte))) ++ (if lineBits l.mfmt = 6 then (List.range 32).map fun k => (a.va, 96 + k, (0 : Byte)) else [])
  sc :: pads

/-- The bytes of an MX block at its place (07 R73, R74). -/
def Lay.blockBytes (l : Lay) (a : MemAt) (bits : List Nat) (scale : Nat) : List LineByte :=
  let n := lineBits l.mfmt
  let data := bits.foldr (fun x acc => x % 2 ^ n + 2 ^ n * acc) 0
  let body := (List.range (4 * n)).map fun k =>
    let at_ := a.bit / 8 + k
    (a.va + 128 * (at_ / 128), at_ % 128, BitVec.ofNat 8 (data / 2 ^ (8 * k)))
  body ++ l.blockExtras a scale

/-- Writes bytes of lines at group scope through L1, one access a line; poisoned data poisons the line (15 R169, R172; 19 R219). -/
def State.storeBytes (s : State) (o : EngOp) (poison : Bool) (bs : List LineByte) : MemR Unit :=
  let lines := (bs.map (·.1)).eraseDups
  lines.foldl (fun (r : MemR Unit) va =>
    match r with
    | .error e => .error e
    | .ok (s1, _) =>
      if 2 ^ 56 ≤ va then .error .violation
      else
        let here := bs.filter (·.1 == va)
        let mask : LineMask := here.foldl (fun m b => m ||| (1#136 <<< b.2.1)) 0
        let data := lineOf fun k => ((here.find? (·.2.1 == k)).map (·.2.2)).getD 0
        s1.putLine (s1.opReq o va) 0 o.colour mask data poison) (.ok (s, ()))

/-- Writes bits of a byte run: `n` bits at bit `bit` from address `va` on take the value `x`, the other bits of their bytes stay (19 R214). -/
def State.mergeBits (s : State) (o : EngOp) (va bit n x : Nat) : MemR (List LineByte) :=
  (List.range ((bit % 8 + n + 7) / 8)).foldl (fun (r : MemR (List LineByte)) k =>
    match r with
    | .error e => .error e
    | .ok (s1, bs) =>
      let at_ := (va + bit / 8 + k) % 2 ^ 64
      match s1.opBytes o at_ 1 with
      | .error e => .error e
      | .ok (s2, (old, _)) =>
        let here := BitVec.ofNat 8 (x % 2 ^ n * 2 ^ (bit % 8) / 2 ^ (8 * k))
        let m := BitVec.ofNat 8 ((2 ^ n - 1) * 2 ^ (bit % 8) / 2 ^ (8 * k))
        .ok (s2, bs ++ [(at_ / 128 * 128, at_ % 128, (BitVec.ofNat 8 old &&& ~~~m) ||| here)])) (.ok (s, []))

/-- The positions that are converted and written together, and how far the operation then goes on. -/
abbrev Piece := List (Nat × Nat) × Nat

/-- What the next step of a store, or of the plain pass of a stash, takes from the scratchpad, in canonical order: the elements of one scratchpad word, each written by itself; under an MX memory format the whole line where the box covers it, else a block; where the box is transposed, a block down each column of the word, or under a tile scale its elements (15 R169; 19 R209, R214, R218, R219). -/
def Lay.storePieces (l : Lay) (co : List Int) (n : Nat) : List Piece :=
  let i := n / l.L
  let j := n % l.L
  let per := max 1 (32 / placeBits l.sfmt)
  let word := List.range (min (per - j % per) (l.L - j))
  if !isMxFmt l.mfmt || (l.trn && l.scm = 1) then word.map fun k => ([(i, j + k)], 1)
  else if l.trn then
    if i % l.s 0 % 32 = 0 then word.map fun k => ((List.range 32).map fun m => (i + m, j + k), 1) else [([], l.L - j)]
  else
    let e := lineElems l.mfmt
    let ic := coordsAt co (l.pos i j)
    let i0 : Int := (ic[0]?).getD 0
    let whole := i0 % (e : Int) == 0 && j + e ≤ l.L && l.inside ic && l.inside (coordsAt co (l.pos i (j + e - 1)))
    let c := if whole then e else min 32 (l.L - j)
    [((List.range c).map fun k => (i, j + k), c)]

/-- The list in pieces of 32. -/
def pieces {α : Type} : Nat → List α → List (List α)
  | 0, _ => []
  | n + 1, l => if l.isEmpty then [] else l.take 32 :: pieces n (l.drop 32)

/-- The bytes that a piece writes, from its elements as the scratchpad holds them, with the flags that its conversion raises and whether it consumed a NaN scale (19 R209, R214). -/
def State.pieceBytes (s : State) (o : EngOp) (l : Lay) (es : List (Nat × Nat)) (xs : List Elem) : MemR (List LineByte × BitVec 3 × Bool) :=
  let src := l.srcFmt false
  let dst := l.dstFmt false
  let at_ := fun (es : List (Nat × Nat)) => match es with | (i, j) :: _ => l.memAt (coordsAt o.coords (l.pos i j)) | [] => ⟨0, 0, 0⟩
  if isMxFmt l.mfmt && es.length != 1 then
    let parts := (pieces 16 (es.zip xs)).map fun p =>
      let (bits, scale, flags) := l.convertBlock src dst (p.map Prod.snd)
      (l.blockBytes (at_ (p.map Prod.fst)) bits scale, flags)
    .ok (s, (parts.flatMap Prod.fst, parts.foldl (fun a p => a ||| p.2) 0, false))
  else
    let r := l.convert src dst (xs.headD .zero)
    let a := at_ es
    match s.mergeBits o a.va a.bit (memBits l.mfmt) r.1 with
    | .error e => .error e
    | .ok (s1, bs) =>
      .ok (s1, (if isMxFmt l.mfmt && a.bit % (32 * lineBits l.mfmt) = 0 then bs ++ l.blockExtras a l.scale else bs), r.2)

/-- Converts and writes one piece; positions outside the tensor are dropped and counted (19 R209, R210, R214). -/
def State.storePiece (s : State) (o : EngOp) (p : Piece) : MemR EngOp :=
  let l := layOf o.record
  let go (s : State) (oob moved : Nat) (flags : BitVec 3) (nan : Bool) : MemR EngOp :=
    let o1 := { o with next := o.next + p.2, oob := o.oob + oob, moved := o.moved + moved, flags := o.flags ||| flags,
                       trap := if nan && o.trapNan then some (causeScaleNan, o.engseq.setWidth 32) else o.trap, since := none }
    .ok (s.setOp o1, o1)
  match p.1 with
  | [] => go s 0 0 0 false
  | (i, j) :: _ =>
    if !l.inside (coordsAt o.coords (l.pos i j)) then go s p.1.length 0 0 false
    else
      let xs := p.1.map fun e => s.spadElem o l e.1 e.2
      match s.pieceBytes o l p.1 (xs.map (·.1)) with
      | .error e => .error e
      | .ok (s1, (bs, flags, nan)) =>
        match s1.storeBytes o (xs.any (·.2)) bs with
        | .error e => .error e
        | .ok (s2, _) => go s2 0 (memBits l.mfmt * p.1.length) (if o.trapNan then flags &&& ~~~flagNans else flags) nan

/-- Writes pieces one after another, as many as meet no error (19 R219). -/
def State.storeRun (s : State) (o : EngOp) : List Piece → State × EngOp × Option MemErr
  | [] => (s, o, none)
  | p :: t =>
    match s.storePiece o p with
    | .error e => (s, o, some e)
    | .ok (s1, o1) => s1.storeRun o1 t

/-- The next elements of a store, or of the plain pass of a stash (19 R209, R210, R214, R218). -/
def State.landStore (s : State) (o : EngOp) : Prog :=
  let l := layOf o.record
  let ps := l.storePieces o.coords o.next
  if !s.srcPresent o l (ps.flatMap (·.1)) then .wait
  else
    match s.storeRun o ps with
    | (s1, o1, none) => .moved s1 o1
    | (s1, o1, some e) => if o1.next = o.next then .err e else .moved s1 o1

/-- The address of the element of the transposed layout that position (i, j) of a stash goes to: row c0 + j, column c1 + i; none where it lies outside (19 R213). -/
def Lay.turned (l : Lay) (co : List Int) (i j : Nat) : Option (Nat × Nat) :=
  let r : Int := (co[0]?).getD 0 + (j : Int)
  let c : Int := (co[1]?).getD 0 + (i : Int)
  if r < 0 || (l.e 0 : Int) ≤ r || c < 0 || (l.e 1 : Int) ≤ c then none
  else some (((l.base2 : Int) + (c.toNat * placeBits l.mfmt / 8 : Nat) + r * l.st 2).toNat % 2 ^ 64, c.toNat * placeBits l.mfmt % 8)

/-- The elements of one scratchpad word from position (i, j) on, in the transposed pass of a stash: each is written by itself, as many as meet no error (19 R213, R218). MX elements stand there in the places that the address of R213 gives them: FP6 in whole bytes, e2m1 in the half byte of its column, with no scales (assumption log 50). -/
def State.turnRun (s : State) (o : EngOp) (l : Lay) (i : Nat) : List Nat → State × EngOp × Option MemErr
  | [] => (s, o, none)
  | j :: t =>
    match l.turned o.coords i j with
    | none => let o1 := { o with next := o.next + 1, since := none }; (s.setOp o1).turnRun o1 l i t
    | some (at_, bit) =>
      let x := s.spadElem o l i j
      let w := placeBits l.mfmt
      match s.mergeBits o at_ bit w (match x.1 with | .bits b _ => b | _ => 0) with
      | .error e => (s, o, some e)
      | .ok (s1, bs) =>
        match s1.storeBytes o x.2 bs with
        | .error e => (s, o, some e)
        | .ok (s2, _) =>
          let o1 := { o with next := o.next + 1, since := none, moved := o.moved + w }
          (s2.setOp o1).turnRun o1 l i t

/-- The columns of the scratchpad word that the next position of the transposed pass lies in. -/
def EngOp.turnCols (o : EngOp) : Nat × List Nat :=
  let l := layOf o.record
  let n := o.next - l.rows * l.L
  let per := max 1 (32 / placeBits l.sfmt)
  (n / l.L, (List.range (min (per - n % l.L % per) (l.L - n % l.L))).map (n % l.L + ·))

/-- The next elements of the transposed pass of a stash (19 R213, R218). -/
def State.landTransposed (s : State) (o : EngOp) : Prog :=
  let l := layOf o.record
  let w := o.turnCols
  if !s.srcPresent o l (w.2.map fun j => (w.1, j)) then .wait
  else
    match s.turnRun o l w.1 w.2 with
    | (s1, o1, none) => .moved s1 o1
    | (s1, o1, some e) => if o1.next = o.next then .err e else .moved s1 o1

/-- Positions of an operation in canonical order; a stash has a second pass (19 R218). -/
def EngOp.positions (o : EngOp) : Nat :=
  let l := layOf o.record
  l.rows * l.L * (if o.kind == .stash then 2 else 1)

/-- The next step of a copy; the elements that it moves are charged to the context (19 R204, R216, R218; 31 R326). -/
def State.landCopy (s : State) (o : EngOp) : Prog :=
  let l := layOf o.record
  let c := (s.ctx o.ctx).inPeriod s.cycle
  if o.positions ≤ o.next then .wait
  else if overBudget (c.copyBits / 8) c.budget.copy then .wait
  else
    match (if o.kind == .load then s.landLoad o else if o.next < l.rows * l.L then s.landStore o else s.landTransposed o) with
    | .moved s1 o1 => let c1 := (s1.ctx o.ctx).inPeriod s.cycle; .moved (s1.setCtx o.ctx { c1 with copyBits := c1.copyBits + (o1.moved - o.moved) }) o1
    | p => p

end Sys2Proof.Machine
end

