-- ==== Sys2Proof/Machine/Engines.lean ====
section
/-! DEFINITION. What an engine operation does on its own: the next step of a copy, a Gallery copy, a signal or a flush, the faults and violations it meets, and its completion (15 R172; 19 R216 to R220; 21 R232 to R234; 25 R267, R271). -/

namespace Sys2Proof.Machine

/-! ### Gallery copies (21 R232) -/

/-- The bytes that go together: those of one 128-byte unit that lie in one line on either side. -/
def EngOp.piece (o : EngOp) : Nat :=
  min (min (o.len - o.next) (128 - o.next % 128)) (min (128 - (o.src + o.next) % 128) (128 - (o.dst + o.next) % 128))

/-- Every line carries its sideband where source, destination and length are multiples of 128. -/
def EngOp.wholeLines (o : EngOp) : Bool := o.src % 128 == 0 && o.dst % 128 == 0 && o.len % 128 == 0

/-- The bytes of a piece at their place in the destination line. -/
def EngOp.pieceMask (o : EngOp) : LineMask := if o.wholeLines then fullMask else byteMask ((o.dst + o.next) % 128) o.piece
def EngOp.pieceData (o : EngOp) (l : Line) : Line :=
  if o.wholeLines then l else lineSet 0 ((o.dst + o.next) % 128) o.piece (lineNat l ((o.src + o.next) % 128) o.piece)

/-- A refused access cancels the operation, with REMOTE_ERROR to follow (19 R219, 21 R232). -/
def State.opRefused (s : State) (o : EngOp) : Prog :=
  let s1 := s.cancelOp o (some (causeRemoteError, o.engseq.setWidth 32))
  .moved s1 { o with status := .cancelled }

/-- Sends a request of an operation to the device that serves an offset, or learns why it cannot. -/
def State.opAsk (s : State) (o : EngOp) (va : Nat) (write : Bool) (kind : Nat → PktKind) (line : Line) (mask : LineMask) (poison : Bool) : Prog :=
  let off := remoteOffset va
  match s.remoteTry (dieOf o.core) o.ctx (remotePeer va) off write with
  | (s1, .go server) =>
    let (n, s2) := s1.remoteSend (dieOf o.core) o.ctx (remotePeer va) server o.colour (kind off) line mask poison
    let o1 := { o with waits := [n] }
    .moved (s2.setOp o1) o1
  | (s1, .refused) => s1.opRefused o
  | (s1, .absent) => let o1 := { o with absentThere := true }; .moved (s1.setOp o1) o1
  | (s1, .wait) => .moved (s1.setOp o) o

/-- The piece is written: the operation goes on with the next one. -/
def State.pieceDone (s : State) (o : EngOp) : Prog :=
  let o1 := { o with next := o.next + o.piece, phase := 0, got := none, since := none, waits := [] }
  .moved (s.setOp o1) o1

/-- A store at device scope in this device's memory; poisoned data poisons the line (15 R162, 19 R219). -/
def State.opStore (s : State) (o : EngOp) (va : Nat) (mask : LineMask) (data : Line) (poison : Bool) : MemR Unit :=
  s.putLine (s.opReq o va) 3 o.colour mask data poison

/-- The next step of a Gallery copy: local reads at group scope, local writes at device scope, remote accesses at the target (21 R232). -/
def State.galCopy (s : State) (o : EngOp) : Prog :=
  if isRemote o.dst then
    if o.phase = 2 then s.pieceDone o
    else if o.phase = 1 && o.waits != [] then .wait
    else
      match s.opLine o (o.src + o.next) with
      | .error e => .err e
      | .ok (s1, (l, p)) =>
        s1.opAsk { o with phase := 1 } (o.dst + o.next) true (fun (n : Nat) => .write (n / 128 * 128)) (o.pieceData l) o.pieceMask p
  else
    match o.got with
    | some (l, p) =>
      match s.opStore o (o.dst + o.next) o.pieceMask (o.pieceData l) p with
      | .error e => .err e
      | .ok (s1, _) => s1.pieceDone o
    | none =>
      if o.phase = 1 && o.waits != [] then .wait
      else s.opAsk { o with phase := 1 } (o.src + o.next) false (fun (n : Nat) => .read n) 0 0 false

/-! ### Signals and flushes (21 R233, R234) -/

/-- An entry holds a remote store that the operation's group issued before it, whenever the store entered the buffer (15 R172, R173). -/
def EngOp.follows (o : EngOp) (e : WcbEntry) : Bool := e.writers.any fun w => w.1 == o.group && w.2.2.2 < o.id

/-- The write-combining entries that a signal or a flush waits for: of its peer, or of its colours, those allocated before its issue, and for a signal those that hold earlier stores of its group (15 R164; 21 R233, R234). -/
def EngOp.drains (o : EngOp) (e : WcbEntry) : Bool :=
  e.ctx == o.ctx && (if o.kind == .gflush then e.id < o.id && e.peer == o.peer else (e.id < o.id || o.follows e) && o.cols.getLsbD e.colour)

/-- The entries that hold earlier remote stores of the operation's group: what a Gallery copy accesses comes after them, in all colours; a signal orders those of its colours alone (15 R172, R173; 21 R223, R233). -/
def EngOp.forkEntry (o : EngOp) (e : WcbEntry) : Bool := o.follows e && (o.kind != .gsig || o.cols.getLsbD e.colour)

/-- The group's earlier remote stores are drained; the answer says that the targets have acknowledged them. -/
def State.forkDrain (s : State) (o : EngOp) : State × Bool :=
  (s.wcbSendAll o.core o.forkEntry, !((s.core o.core).wcb.any o.forkEntry))

/-- The entries are drained; the answer says that none is left. -/
def State.opDrain (s : State) (o : EngOp) : State × Bool :=
  (s.wcbSendAll o.core o.drains, !((s.core o.core).wcb.any o.drains))

/-- The increment of a flag in this device's memory: one atomic step at its home; a poisoned flag is left alone and recorded (15 R171; 17 R191; 21 R233). -/
def State.incFlag (s : State) (r : Req) (inc : W32) (colour : Nat) : MemR Unit :=
  match s.homeLineW r with
  | .error e => .error e
  | .ok (s1, l) =>
    if !l.attrs.w then .error .violation
    else if s1.pageFull r.asid r.va then .error (.fault faultCompFull)
    else if l.poison then .ok (s1.deferred 2 r.asid r.va r.core, ())
    else
      let j := r.va % 128
      .ok (s1.homeWrite r l (byteMask j 8) (lineSet l.data j 8 ((lineNat l.data j 8 + inc.toNat) % 2 ^ 64)) colour false, ())

/-- A signal: phase 10 releases, phase 11 increments, phase 12 waits for the answer of a remote increment, phase 13 has it (21 R233). -/
def State.signalStep (s : State) (o : EngOp) (flag : Nat) : Prog :=
  if o.phase = 10 then
    match s.flushL1 o.core o.ctx (s.ctx o.ctx).asid o.cols with
    | .error e => .err e
    | .ok (s1, _) =>
      let (s2, clear) := s1.opDrain o
      let o1 := if clear then { o with phase := 11, waits := [], since := none } else o
      .moved (s2.setOp o1) o1
  else if o.phase = 11 || (o.phase = 12 && o.waits == []) then
    if isRemote flag then s.opAsk { o with phase := 12 } flag true (fun (n : Nat) => .signal n o.inc) 0 0 false
    else
      match s.incFlag (s.opReq o flag) o.inc o.colour with
      | .error e => .err e
      | .ok (s1, _) => let o1 := { o with phase := 13, since := none }; .moved (s1.setOp o1) o1
  else .wait

/-- The flag of an operation. -/
def EngOp.flagAt (o : EngOp) : Nat := o.flag.getD 0

/-- The next step of a Gallery copy or of a signal, once the group's earlier remote stores are performed (15 R172; 21 R232, R233). -/
def State.galStep (s : State) (o : EngOp) : Prog :=
  match s.forkDrain o with
  | (s1, false) => .moved s1 o
  | (s1, true) =>
    if o.kind == .gsig then s1.signalStep o o.flagAt
    else if o.next < o.len then s1.galCopy o
    else if o.flag.isSome && o.len != 0 then s1.signalStep (if o.phase < 10 then { o with phase := 10 } else o) o.flagAt
    else .wait

/-- The next step of an operation. -/
def State.progress (s : State) (o : EngOp) : Prog :=
  match o.kind with
  | .load | .store | .stash => s.landCopy o
  | .gcopy | .gsig => s.galStep o
  | .gflush => .moved (s.opDrain o).1 o

/-- The operation has nothing left to do. -/
def State.opFinished (s : State) (o : EngOp) : Bool :=
  match o.status with
  | .cancelled => true
  | .running =>
    (match o.kind with
     | .load | .store | .stash => o.positions ≤ o.next
     | .gcopy => o.len ≤ o.next && (o.flag.isNone || o.len == 0 || o.phase == 13)
     | .gsig => o.phase == 13
     | .gflush => !((s.core o.core).wcb.any o.drains))
  | _ => false

/-- The operation may go on: it holds its slot, and it runs, or the record that it is parked on is released with RETRY while its team is on its core (25 R270; 27 R289). -/
def State.opAwake (s : State) (o : EngOp) : Bool :=
  !o.absentThere && o.slot &&
  (match o.status with
   | .running => true
   | .parked (some r) => (s.team o.team).onCore && (s.ctx o.ctx).released.contains (r, false)
   | _ => false)

/-- The operation need not wait for its fork, or the fork has passed: a flush and an empty copy access nothing (21 R232, R234). -/
def State.mayProceed (s : State) (o : EngOp) : Bool :=
  o.kind == .gflush || (o.kind == .gcopy && o.len == 0) || o.status == .cancelled || s.forked o

/-! ### Faults of an operation (19 R219; 25 R267, R271) -/

/-- The VAs that the next step of a load reads for box position `b`, in order. -/
def State.loadVas (s : State) (o : EngOp) (l : Lay) (b : List Nat) : List Nat :=
  match l.source o.coords b with
  | .zero _ => []
  | .fill => []
  | .mem a =>
    if isMxFmt l.mfmt then
      let va := a.va + 128 * (a.bit / 1024)
      [va] ++ (if a.bit % 1024 + lineBits l.mfmt ≤ 1024 then [] else [va + 128]) ++ [a.va + 128 * (if isPacked l.mfmt then a.block / 8 else 0)]
    else [a.va]
  | .sparse tile q _ =>
    ((List.range (q / 8 + 1)).map fun k => (tile + k) % 2 ^ 64) ++
    (match s.maskRank o tile q (q / 8 + 1) with
     | .ok (_, (n, true, _)) => [l.sparseVa tile n]
     | _ => [])

/-- The VAs that the next step of a copy accesses, in order. -/
def State.copyVas (s : State) (o : EngOp) : List Nat :=
  let l := layOf o.record
  let i := o.next / l.L
  let j := o.next % l.L
  if o.kind == .load then (List.range (l.runLen j)).flatMap fun k => s.loadVas o l (l.pos i (j + k))
  else if o.next < l.rows * l.L then
    ((l.storePieces o.coords o.next).flatMap (·.1)).flatMap fun e =>
      let a := l.memAt (coordsAt o.coords (l.pos e.1 e.2))
      if !l.inside (coordsAt o.coords (l.pos e.1 e.2)) then []
      else if isMxFmt l.mfmt then [a.va + 128 * (a.bit / 1024), a.va + 128 * (if isPacked l.mfmt then a.block / 8 else 0)] else [a.va]
  else o.turnCols.2.filterMap fun j => (l.turned o.coords o.turnCols.1 j).map (·.1)

/-- The VAs of this device that the next step of an operation accesses. -/
def State.opVas (s : State) (o : EngOp) : List Nat :=
  match o.kind with
  | .load | .store | .stash => s.copyVas o
  | .gcopy => if o.next < o.len then [if isRemote o.dst then o.src + o.next else o.dst + o.next] else [o.flagAt]
  | .gsig => [o.flagAt]
  | .gflush => []

/-- An operation restored while its core had no free slot takes one as soon as there is one, and goes on if it was parked for the save (19 R204, 27 R290; assumption log 50). -/
def State.reclaim (s : State) (o : EngOp) : EngOp :=
  if (s.team o.team).onCore && s.usedSlots o.core < 16 then { o with slot := true, status := if o.status == .parked none then .running else o.status } else o

/-- COPY_WRITE_LAND for operation `s.who`: its next accesses are performed, in canonical order; one restored without a slot first waits for one (19 R204, R216, R218; 21 R232, R233; 27 R290). -/
def execCopyWriteLand (s : State) : Host.Outcome State Fault Refusal :=
  match s.op s.who with
  | none => .next s
  | some o =>
    if !o.slot then .next (s.setOp (s.reclaim o))
    else if s.opAwake o && s.mayProceed o then
      let o1 := { o with status := .running }
      match (s.setOp o1).progress o1 with
      | .moved s1 _ => .next s1
      | .wait => .next s
      | .err .wait => .next (s.setOp { o1 with since := (s.opVas o).findSome? fun va => s.sinceMig (s.opReq o va).asid va o.since })
      | .err _ => .next s
    else .next s

/-- The remote VA that the next step of an operation accesses. -/
def EngOp.remoteVa (o : EngOp) : Nat :=
  if o.kind == .gcopy && o.next < o.len then (if isRemote o.dst then o.dst + o.next else o.src + o.next) else o.flagAt

/-- The step reads, writes or is atomic (25 R269). -/
def EngOp.access (o : EngOp) : Nat :=
  match o.kind with
  | .load => 0
  | .store | .stash => 1
  | .gcopy => if o.len ≤ o.next then 2 else if isRemote o.dst && !o.absentThere then 0 else if !isRemote o.dst && o.absentThere then 0 else 1
  | .gsig => 2
  | .gflush => 0

/-- The first VA at which the step meets an error: a read of it for a load or a Gallery copy's source, else a store of nothing. -/
def State.opErrVa (s : State) (o : EngOp) : Nat :=
  let bad (va : Nat) : Bool :=
    match s.opLine o va with
    | .error _ => true
    | .ok _ => o.access != 0 && (match s.storeLine (s.opReq o va) 0 o.colour 0 0 with | .error _ => true | .ok _ => false)
  let l := s.opVas o
  (l.find? bad).getD (l.headD 0)

/-- The agent of an operation's fault (25 R267). -/
def EngOp.agent (o : EngOp) : Nat := match o.kind with | .load | .store | .stash => 3 | _ => 4

/-- Parks an operation on a new record (19 R219). -/
def State.parkOp (s : State) (o : EngOp) (cause va : Nat) : State :=
  let (n, s0) := s.groupFault o.group o.agent cause o.access va o.pc (o.engseq.setWidth 32)
  let (s1, o) := s0.flushScales o
  s1.setOp { o with status := .parked (some n), absentThere := false, since := none, phase := if o.phase = 1 then 0 else if o.phase = 12 then 11 else o.phase, waits := if o.absentThere then [] else o.waits }

/-- A violation that an operation meets is recorded, and cancels it with the trap to follow (19 R219, 25 R267). -/
def State.opViolates (s : State) (o : EngOp) : State :=
  let va := s.opErrVa o
  ((s.seen (s.opReq o va)).groupFault o.group o.agent 0x40 o.access va o.pc (o.engseq.setWidth 32)).2.cancelOp o (some (causeProtection, o.engseq.setWidth 32))

/-- ENGINE_OP_FAULT for operation `s.who`: a replayable fault parks it, a violation or a release with FAIL cancels it with the trap to follow, that of a saved team's operation once the team is restored (19 R219; 21 R232; 25 R267, R270; 27 R289). -/
def execEngineOpFault (s : State) : Host.Outcome State Fault Refusal :=
  match s.op s.who with
  | none => .next s
  | some o =>
    let viol (s : State) : State := s.cancelOp o (some (causeProtection, o.engseq.setWidth 32))
    if o.absentThere && o.status == .running then .next (s.parkOp o faultRemote o.remoteVa)
    else
      match o.status with
      | .parked (some r) =>
        if (s.team o.team).onCore && (s.ctx o.ctx).released.contains (r, true) then .next (viol s)
        else if s.opAwake o then
          match s.progress { o with status := .running } with
          | .err (.fault c) => .next (s.parkOp o c (s.opErrVa o))
          | .err .violation => .next (s.opViolates o)
          | _ => .next s
        else .next s
      | .running =>
        if s.forked o then
          match s.progress o with
          | .err (.fault c) => .next (s.parkOp o c (s.opErrVa o))
          | .err .violation => .next (s.opViolates o)
          | _ => .next s
        else .next s
      | _ => .next s

/-- ENGINE_OP_COMPLETE for operation `s.who` (05 R53, 19 R217). -/
def execEngineOpComplete (s : State) : Host.Outcome State Fault Refusal :=
  match s.op s.who with
  | none => .next s
  | some o => if s.opFinished o && s.mayProceed o then .next (s.completeOp o) else .next s

/-- Since when something waits is longer ago than the limit of R271. -/
def State.waitedLong (s : State) (since : Option Nat) : Bool := match since with | some c => c + 65536 ≤ s.cycle | none => false

/-- MIGRATE_WAIT_TIMEOUT for group `s.who`: a miss that has waited 65,536 cycles for a migrating page becomes a MIGRATING fault of its agent. `op` names an outstanding access of the group, or an engine operation; 0 is what the group itself waits for: its fetch, the read of a layout record, its spill area, or an access that holds it (25 R267, R271). -/
def execMigrateWaitTimeout (op : Nat) (s : State) : Host.Outcome State Fault Refusal :=
  let u := s.who
  let g := s.cur
  let asid := fun (va : Nat) => tagAsid (s.ctxOf g).asid va
  match s.op op, g.pendOp op with
  | some o, _ =>
    if o.status == .running && s.waitedLong o.since then
      match (s.opVas o).find? fun va => s.migrating (s.opReq o va).asid va with
      | some va => .next (s.parkOp o faultMigrating va)
      | none => .next s
    else .next s
  | none, some p =>
    let late := p.lanes.filter fun a => a.open && a.fault.isNone && s.waitedLong a.since && s.migrating (asid a.addr) a.addr
    .next ((s.recordPages u p (late.map fun a => (a.lane, a.addr, faultMigrating))).parkNow u)
  | none, none =>
    if g.status != .live || !s.waitedLong g.fetchSince || !s.migrating (asid g.fetchVa) g.fetchVa then .next s
    else
      let agent := g.fetchKind / 16
      let (n, s1) := s.groupFault u agent faultMigrating (g.fetchKind % 16) g.fetchVa (if agent = 1 then g.pc else g.herePc) 0
      let wait : GWait := match agent, g.wait with
        | 1, _ => .fetchFault (some n) g.pc
        | 2, _ => .spillFault (some n)
        | _, .record _ _ => .spillFault (some n)
        | _, _ => .opFault n
      .next (s1.setGroup u { s1.group u with wait := wait, fetchSince := none })

/-! ### Issue of Gallery operations (21 R232 to R234) -/

/-- The issue of a Gallery operation: its token and a slot, then the operation itself. -/
def issueGallery (o : EngOp) (s : State) (g : Group) : Eff :=
  if (g.tok o.token).count == 15 then .stall s
  else
    match s.claimSlot g with
    | (s1, false) => .stall s1
    | (s1, true) => .done (s1.startOp s1.cur false o)

/-- The first failing check of addresses that stand for a whole operation: PROTECTION, then MISALIGN. -/
def State.opCheck (s : State) (as : List Nat) (aligns : List (Nat × Nat)) : Option Nat :=
  if as.any (s.badGlobal true) then some causeProtection
  else if aligns.any fun p => p.1 % p.2 != 0 then some causeMisalign
  else none

/-- The destination and the length of GCOPY at the leader lane. -/
def gcopyDst (f : FE) (g : Group) (act : Lanes) : Nat := (g.rl (f.vc.toNat + 1) (lowest act)).toNat * 2 ^ 32 + (g.rl f.vc.toNat (lowest act)).toNat
def gcopyLen (f : FE) (g : Group) (act : Lanes) : Nat := (g.rl (f.vc.toNat + 2) (lowest act)).toNat

/-- GCOPY (21 R232). -/
def execGcopy (f : FE) (s : State) : Host.Outcome State Fault Refusal :=
  let i := Instr.info (.gcopy f)
  issue i (fun _ g => let act := g.active' i.pred; act != 0 && isRemote (g.rpair f.sr.toNat).toNat == isRemote (gcopyDst f g act))
    (fun _ g => leaderPoison i g)
    (whenActive i fun s g =>
      let act := g.active' i.pred
      let src := (g.rpair f.sr.toNat).toNat
      let dst := gcopyDst f g act
      let n := gcopyLen f g act
      let col := f.mod.toNat % 8
      let flag := if f.mod.getLsbD 3 then some (g.rpair f.sx.toNat).toNat else none
      match s.opCheck ([src, dst] ++ flag.toList) ([(src, 16), (dst, 16), (n, 16)] ++ flag.toList.map fun a => (a, 8)) with
      | some cause => .trap cause 0
      | none => issueGallery { newOp .gcopy f.tok.toNat with src := src, dst := dst, len := n, flag := flag, inc := 1, cols := 1#8 <<< col, colour := col } s g) s

/-- GFLUSH (21 R234). -/
def execGflush (f : FE) (s : State) : Host.Outcome State Fault Refusal :=
  let i := Instr.info (.gflush f)
  issue i never never (whenActive i fun s g => issueGallery { newOp .gflush f.tok.toNat with peer := (g.rs f.sx.toNat).toNat } s g) s

/-- GSIG (21 R233). -/
def execGsig (f : FE) (s : State) : Host.Outcome State Fault Refusal :=
  let i := Instr.info (.gsig f)
  issue i never never (whenActive i fun s g =>
    let a := (g.rpair f.sr.toNat).toNat
    match s.opCheck [a] [(a, 8)] with
    | some cause => .trap cause 0
    | none => issueGallery { newOp .gsig f.tok.toNat with flag := some a, inc := g.rs f.sx.toNat, cols := f.rid.setWidth 8, phase := 10 } s g) s

end Sys2Proof.Machine
end

