-- ==== Sys2Proof/Machine/Fabric.lean ====
section
/-! DEFINITION. Stage rings, the domain barrier, GSLOT, norm collectives and MIRROR (21_isa_engines.md R227 to R239; 23_isa_matrix.md R259, R260; 29_gallery.md R296, R297). -/

namespace Sys2Proof.Machine

/-! ### Stage rings (21 R227 to R231) -/

/-- Ring `n` of a team. -/
def Team.ring (t : Team) (n : Nat) : Ring := tgetD t.rings n {}
def State.setRing (s : State) (team n : Nat) (r : Ring) : State := let t := s.team team; s.setTeam team { t with rings := tset t.rings n r }

/-- The stage and expected phase of a ticket (21 R229). -/
def ticketStage (x : W32) : Nat := (getBits x 0 4).toNat
def ticketPhase (x : W32) : Bool := x.getLsbD 4
/-- The ticket of a stage and phase. -/
def ticketOf (stage : Nat) (phase : Bool) : W32 := BitVec.ofNat 32 (stage % 16 + if phase then 16 else 0)

/-- The ring does not exist (21 R228). -/
def ringAbsent (f : FE) (s : State) (g : Group) : Bool := !((s.teamOf g).ring f.rid.toNat).en
/-- The ring does not exist, or the ticket names a stage above NST (21 R228). -/
def ticketBad (f : FE) (s : State) (g : Group) : Bool :=
  ringAbsent f s g || ((s.teamOf g).ring f.rid.toNat).nst.toNat < ticketStage (g.rs f.sx.toNat)

/-- The operations that a deferred ring operation of the group waits for: its outstanding accesses and tile moves, and, with a token, its engine operations that named it (21 R230). -/
def State.ringWaits (s : State) (g : Group) (tok : Option Nat) : List Nat :=
  ((g.pend.filter fun p => !p.done).map (·.id)) ++ ((g.moves.filter fun m => !m.done).map (·.id)) ++
  (match tok with
   | none => []
   | some t => (s.ops.filter fun p => p.2.token == t && p.2.group == s.who && p.2.status != .cancelled).map (·.1))

/-- A deferred ring operation joins the group's four; a fifth stalls (21 R230). -/
def deferRing (rel : Bool) (f : FE) (tok : Option Nat) (s : State) (g : Group) : Eff :=
  if 4 ≤ g.ringOps.length then .stall s
  else
    let x := g.rs f.sx.toNat
    .done (s.setCur { g with ringOps := g.ringOps ++ [{ rel := rel, ring := f.rid.toNat, stage := ticketStage x, phase := ticketPhase x, tok := tok, waits := s.ringWaits g tok }] })

/-- RPUSH (21 R230). -/
def execRpush (f : FE) (s : State) : Host.Outcome State Fault Refusal :=
  let i := Instr.info (.rpush f)
  issue i (ticketBad f) never (whenActive i (deferRing false f (if f.mod == 1 then some f.tok.toNat else none))) s

/-- RREL (21 R230). -/
def execRrel (f : FE) (s : State) : Host.Outcome State Fault Refusal :=
  let i := Instr.info (.rrel f)
  issue i (ticketBad f) never (whenActive i (deferRing true f none)) s

/-- A cursor goes up by one stage; past NST it wraps and its lap flips (21 R229). -/
def Ring.bump (r : Ring) (stage : BitVec 4) (lap : Bool) : BitVec 4 × Bool := if r.nst.toNat ≤ stage.toNat then (0, !lap) else (stage + 1, lap)

/-- RPOP: where a group with a higher gid has already popped this side in the cycle, the pop falls into the next one, so that the tickets of a cycle go out in ascending gid (21 R229; assumption log 50). -/
def execRpop (f : FE) (s : State) : Host.Outcome State Fault Refusal :=
  let i := Instr.info (.rpop f)
  issue i (ringAbsent f) never (whenActive i fun s g =>
    let r := (s.teamOf g).ring f.rid.toNat
    let side := if f.mod == 0 then 1 else 0
    if (match tget r.popAt side with | some (n, gid) => n == s.cycle && g.gid < gid | none => false) then .stall s
    else
      let r0 := { r with popAt := tset r.popAt side (s.cycle, g.gid) }
      let (x, r1) : W32 × Ring :=
        if f.mod == 0 then let n := r.bump r.pstg r.plap; (ticketOf r.pstg.toNat r.plap, { r0 with pstg := n.1, plap := n.2 })
        else let n := r.bump r.cstg r.clap; (ticketOf r.cstg.toNat (!r.clap), { r0 with cstg := n.1, clap := n.2 })
      .done ((s.setRing g.team f.rid.toNat r1).setCur (g.ws f.sr.toNat x))) s

/-- RWAIT: ends its clause; the group then waits for the phase bit (21 R231). -/
def execRwait (f : FE) (s : State) : Host.Outcome State Fault Refusal :=
  let i := Instr.info (.rwait f)
  issue i (ticketBad f) never (whenActive i fun s g =>
    let x := g.rs f.sx.toNat
    .done (s.setCur { g with wait := .rwait f.rid.toNat (ticketStage x) (f.mod == 0) (ticketPhase x) })) s

/-- An operation that a deferred ring operation waits for has completed. -/
def State.ringClear (s : State) (g : Group) (n : Nat) : Bool :=
  (g.pend.all fun p => p.id != n || p.done) && (g.moves.all fun m => m.id != n || m.done) &&
  (match s.op n with | some o => o.status == .cancelled | none => true)

/-- The ring before the flips of a cycle: its phase bits are what RWAIT sees until the next one (21 R231). -/
def Ring.flips (r : Ring) (cycle : Nat) : Ring := { r with fph0 := (r.seen cycle).1, eph0 := (r.seen cycle).2, flipAt := some cycle }

/-- The flips of one ring operation (21 R230). -/
def Ring.apply (r : Ring) (cycle : Nat) (rel : Bool) (stage : Nat) : Ring :=
  if rel then
    let n := tgetD r.rels stage 0 + 1
    if n = r.reln.toNat + 1 then { r.flips cycle with rels := tset r.rels stage 0, eph := r.eph ^^^ (1#16 <<< stage) }
    else { r with rels := tset r.rels stage n }
  else { r.flips cycle with fph := r.fph ^^^ (1#16 <<< stage) }

/-- RING_OP_EFFECT for group `s.who`: its oldest deferred ring operation takes effect once what it waits for has completed; a saved team's wait (21 R230). -/
def execRingOpEffect (s : State) : Host.Outcome State Fault Refusal :=
  let g := s.cur
  let t := s.teamOf g
  match g.ringOps with
  | [] => .next s
  | o :: rest =>
    if t.live && (t.save == .running || t.save == .preempting) && o.waits.all (s.ringClear g) then
      .next ((s.setRing g.team o.ring ((t.ring o.ring).apply s.cycle o.rel o.stage)).setCur { g with ringOps := rest })
    else .next s

/-- RWAIT_RELEASE for group `s.who`: the phase bit has the expected value; the acquire at team scope does nothing to L1 (15 R166, 21 R231). -/
def execRwaitRelease (s : State) : Host.Outcome State Fault Refusal :=
  let g := s.cur
  match g.wait with
  | .rwait ring stage full phase =>
    if g.status == .live && (s.teamOf g).live && (s.teamOf g).ringMet s.cycle ring stage full phase then .next (s.setCur { g with wait := .none }) else .next s
  | _ => .next s

/-! ### The domain barrier (21 R236; 29 R311) -/

/-- One arrival at a barrier's home: the first fixes the expected count; the answer holds the arrivals that a completion releases (21 R236, 29 R311). -/
def GBar.arrive (b : GBar) (count dev tag : Nat) : GBar × List (Nat × Nat) :=
  let want := if b.count = 0 then count else b.want
  let all := b.arrivals ++ [(dev, tag)]
  if want ≤ b.count + 1 then ({ phases := b.phases + 1, want := 0, count := 0, arrivals := [] }, all)
  else ({ b with want := want, count := b.count + 1, arrivals := all }, [])

/-- An arrival is counted at this device for a context with no domain job, and sent to the barrier's home for any other (29 R307, R311). -/
def State.gbarArrive (s : State) (g : Group) (n : Nat) (count : W32) : State :=
  let ctx := (s.teamOf g).ctx
  let (tag, s1) := s.fresh
  let s2 := s1.setCur { g with wait := .gbar n tag }
  let c := s2.ctx ctx
  if c.djob = 0 then
    let (b, out) := (tgetD c.gbars n {}).arrive count.toNat s2.gal.me tag
    s2.setCtx ctx { c with gbars := tset c.gbars n b, gbarDone := c.gbarDone ++ out.map (·.2) }
  else s2.sendPkt ctx { src := s2.gal.me, dst := c.gbhome, djob := c.djob, tag := tag, kind := .gbarArrive n count }

/-- GBAR: a release at domain scope of all colours, then an arrival, then the wait (21 R236). -/
def execGbar (f : FE) (s : State) : Host.Outcome State Fault Refusal :=
  let i := Instr.info (.gbar f)
  issue i never never (whenActive i fun s g =>
    if writesOpen g.pend 0xFF || g.spadOpen then hold s
    else
      match s.releaseAt g 4 0xFF with
      | .error _ => hold s
      | .ok (s1, false) => hold s1
      | .ok (s1, true) => .done (s1.gbarArrive s1.cur f.rid.toNat (g.rs f.sx.toNat))) s

/-! ### GSLOT (21 R235; 29 R296 to R298) -/

/-- Steps of a flight (29 R296). -/
def Gallery.flight (g : Gallery) : Nat := (g.devices - 1 + 127) / 128
/-- Nanoseconds of `n` core cycles, at 1.4 cycles each, or 0.7 in P2 (29 R297, 33 R337). -/
def Gallery.nsOf (g : Gallery) (n : Nat) : Nat := n * (if g.slow then 10 else 5) / 7
/-- The reference as the device counts it at a cycle, in nanoseconds (29 R298). -/
def Gallery.nsAt (g : Gallery) (cycle : Nat) : Nat := g.timeNs + g.nsOf (cycle - g.markAt)
/-- The step that a cycle lies in (29 R297). -/
def Gallery.stepAt (g : Gallery) (cycle : Nat) : Nat := (g.nsAt cycle - g.epoch) / g.stepNs
/-- The cycle from which the light of step `n` is valid, rounded up (29 R297). -/
def Gallery.lightCycle (g : Gallery) (n : Nat) : Nat := g.markAt + ((g.epoch + n * g.stepNs + 48 - g.timeNs) * 7 + (if g.slow then 9 else 4)) / (if g.slow then 10 else 5)
/-- The ports of a flight step that connect a peer. -/
def Gallery.portsTo (g : Gallery) (k peer : Nat) : List Nat :=
  (List.range 128).filter fun p => let e := tgetD g.caltab (128 * k + p) 0; e.getLsbD 15 && (getBits e 0 12).toNat == peer
/-- Steps from step `n` on until a peer is connected (29 R296, R299). -/
def Gallery.stepsUntil (g : Gallery) (n peer : Nat) : Option Nat :=
  (List.range g.flight).find? fun d => g.portsTo ((n + d) % g.flight) peer != []

/-- The device takes part in step `n`: it is aligned, and a boundary has passed since it was (29 R298). -/
def Gallery.takesPart (g : Gallery) (n : Nat) : Bool := g.aligned && g.from_ ≤ n

/-- What GSLOT returns (21 R235). -/
def State.gslot (s : State) (p : Nat) : W32 × W32 :=
  let gal := s.gal
  let none_ : W32 × W32 := (0xFFFFFFFF, 0xFFFFFFFF)
  if !gal.takesPart (gal.stepAt s.cycle) then none_
  else if gal.devices ≤ p || gal.lost.contains p then none_
  else if p = gal.me then (0, 0)
  else
    let n := gal.stepAt s.cycle
    match gal.stepsUntil n p with
    | none => none_
    | some d => (BitVec.ofNat 32 d, BitVec.ofNat 32 (min (gal.lightCycle (n + d) - s.cycle) 0xFFFFFFFF))

/-- GSLOT (21 R235). -/
def execGslot (f : FE) (s : State) : Host.Outcome State Fault Refusal :=
  let i := Instr.info (.gslot f)
  issue i never never (whenActive i fun s g =>
    let r := s.gslot (g.rs f.sx.toNat).toNat
    .done (s.setCur ((g.ws f.sr.toNat r.1).ws (f.sr.toNat + 1) r.2))) s

/-! ### Norm collectives (21 R237, R238; 23 R260) -/

/-- A core's partial: the exact sum of its contributions, rounded once (21 R237). -/
def normPartial (xs : List W32) : Nat :=
  let sum := xs.foldl (fun (a : Option FNum) x => some (match a with
    | none => fmtF32.decode x.toNat
    | some y => addNum .rne y (fmtF32.decode x.toNat))) none
  (cvt (sum.getD (.fin false 0 0)) fmtF32 .rne false).1

/-- The sum of encodings, ascending, each step rounded (23 R260, 29 R312). -/
def normSum (xs : List Nat) : W32 :=
  BitVec.ofNat 32 (xs.foldl (fun a x => (cvt (addNum .rne (fmtF32.decode a) (fmtF32.decode x)) fmtF32 .rne false).1) 0)

/-- The quotient of two values, rounded to nearest. -/
def divRne (a b : FNum) : Nat :=
  match a, b with
  | .nan, _ => fmtF32.nanEnc
  | _, .nan => fmtF32.nanEnc
  | .inf x, .fin y _ _ => fmtF32.signed (x != y) fmtF32.infEnc
  | .inf _, .inf _ => fmtF32.nanEnc
  | .fin x _ _, .inf y => fmtF32.signed (x != y) 0
  | .fin x m e, .fin y n d =>
    if n = 0 then (if m = 0 then fmtF32.nanEnc else fmtF32.signed (x != y) fmtF32.infEnc)
    else
      let k := m * 2 ^ 128
      (fmtF32.finish .rne false (x != y) (k / n) (e - d - 128) (k % n != 0)).1

/-- The multiplier of a domain total under the current CLIP (23 R260). -/
def normMult (u clip : W32) : W32 :=
  let nan : W32 := 0x7FC00000
  let x := fmtF32.decode u.toNat
  let c := fmtF32.decode clip.toNat
  let zero := match x with | .fin _ m _ => m == 0 | _ => false
  let neg := match x with | .fin n m _ => n && m != 0 | .inf n => n | .nan => false
  if x == .nan || neg || c == .nan then nan
  else if clip == 0x7F800000 || zero then 0x3F800000
  else
    let q := fmtF32.trans false .rne .sqrt u.toNat
    let t := fmtF32.decode (divRne c (fmtF32.decode q))
    if t == .nan then nan
    else if ltNum t (.fin false 1 0) then BitVec.ofNat 32 (divRne c (fmtF32.decode q)) else 0x3F800000

/-- NORMBOX takes the multiplier of a completed collective, in one step; the cycle is kept, for a write of the same cycle comes before it (23 R259, R260). -/
def Ctx.deposit (c : Ctx) (cycle j : Nat) (u : W32) : Ctx :=
  let m := normMult u c.normclip
  let n := (getBits c.normbox 32 16).toNat + 1
  { c with normAt := some cycle, normbox := BitVec.ofNat 64 (2 ^ 63 + n % 2 ^ 16 * 2 ^ 32 + m.toNat), norms := c.norms.filter (·.seq != j), normDone := tset c.normDone j m }

/-- A collective that has its last contribution closes: its total is formed, and goes to the home of the domain job (21 R237, 23 R260, 29 R312). -/
def State.normClose (s : State) (ctx : Nat) (n : Norm) : State :=
  let c := s.ctx ctx
  let n1 := { n with closed := true, total := normSum (n.parts.map fun p => normPartial p.2), sent := c.djob != 0 }
  let s1 := s.setCtx ctx { c with norms := c.norms.map fun x => if x.seq = n.seq then n1 else x }
  if c.djob = 0 then s1
  else s1.sendPkt ctx { src := s1.gal.me, dst := c.gbhome, djob := c.djob, kind := .normTotal n.seq n1.total }

/-- NRMADD (21 R237). -/
def execNrmadd (f : FE) (s : State) : Host.Outcome State Fault Refusal :=
  let i := Instr.info (.nrmadd f)
  issue i never never (whenActive i fun s g =>
    let ctx := (s.teamOf g).ctx
    let c := s.ctx ctx
    let k := (g.rs f.sr.toNat).toNat
    let x := g.rs f.sx.toNat
    let core := s.coreOf g
    let add (c : Ctx) (n : Norm) : Eff :=
      let n1 := { n with count := n.count + 1, parts := tset n.parts core (tgetD n.parts core [] ++ [x]) }
      let c1 := { c with norms := (c.norms.filter (·.seq != n.seq)) ++ [n1] }
      let s1 := (s.setCtx ctx c1).setCur { g with norm := some n.seq }
      .done (if n1.want ≤ n1.count then s1.normClose ctx n1 else s1)
    match c.norms.find? (!·.closed) with
    | some n => add c n
    | none =>
      if 2 ≤ c.norms.length then .stall s
      else add { c with normSeq := c.normSeq + 1 } { seq := c.normSeq, want := max k 1 }) s

/-- NRMRD: waits for the collective of the group's last NRMADD, else for the oldest incomplete one, else reads NORMBOX as it stands (21 R238). -/
def execNrmrd (f : FE) (s : State) : Host.Outcome State Fault Refusal :=
  let i := Instr.info (.nrmrd f)
  issue i never never (whenActive i fun s g =>
    let c := s.ctxOf g
    let g1 := { g with norm := none }
    match g.norm, c.norms with
    | some j, _ => .done (s.setCur { g1 with wait := .nrmrd (some j) f.sr.toNat })
    | none, n :: _ => .done (s.setCur { g1 with wait := .nrmrd (some n.seq) f.sr.toNat })
    | none, [] => .done (s.setCur (g1.ws f.sr.toNat (if c.normbox.getLsbD 63 then c.normbox.setWidth 32 else 0x7FC00000)))) s

/-- NORM_DEPOSIT for context `s.who`: the total of its oldest closed collective becomes the domain total where no job combines it (23 R260, 29 R307); the answer of a combining home is served from the packets that arrived (29 R312). -/
def State.normDeposit (s : State) (ctx : Nat) : State :=
  let c := s.ctx ctx
  match c.norms with
  | n :: _ => if n.closed && !n.sent then s.setCtx ctx (c.deposit s.cycle n.seq n.total) else s
  | [] => s

/-! ### MIRROR (21 R239; 29 R313) -/

/-- MIRROR: the release of a device-scope fence, then the wait for the buddy (21 R239). -/
def execMirror (f : FE) (s : State) : Host.Outcome State Fault Refusal :=
  let i := Instr.info (.mirror f)
  issue i never never (whenActive i fun s g =>
    let c := s.ctxOf g
    let cols : Byte := f.rid
    if cols == 0 then .done s
    else if c.broken then .trap causeRemoteError 0
    else if writesOpen g.pend cols || g.spadOpen then hold s
    else
      match s.releaseAt g 3 cols with
      | .error _ => hold s
      | .ok (s1, false) => hold s1
      | .ok (s1, true) =>
        let c1 := s1.ctxOf g
        if (c1.buddy == 0xFFFF || c1.djob == 0) && !s1.mirrorsOpen (s1.teamOf g).ctx cols s1.nextId then .done s1
        else
          let cl := g.clause
          .done (s1.setCur { s1.cur with wait := .mirror cols.toNat s1.nextId g.pc (cl.elim 0 (·.idx)) (cl.elim 0 (·.words.length)) })) s

end Sys2Proof.Machine
end

