-- ==== Sys2Proof/Machine/System.lean ====
section
/-! DEFINITION. The system instructions: system registers, TRET, CTXSV and CTXLD, error, translation and cache maintenance, heat and debug access, QPOST (05_state.md R55 to R60; 25 R265, R274; 27 R286, R287, R294; 31 R322; 33 R335). -/

namespace Sys2Proof.Machine

/-! ### Reading system registers (05 R55 to R60; 21 R227) -/

/-- BARSTn: GONE reads 31 at most (05 R60). -/
def Barrier.word (b : Barrier) : W64 :=
  BitVec.ofNat 64 (min b.gone.length 31 * 2 ^ 13 + b.phases % 2 * 2 ^ 12 + b.arr.length % 64 * 2 ^ 6 + b.e % 64)

/-- RINGSTn (21 R227). -/
def Ring.word (r : Ring) : W64 :=
  BitVec.ofNat 64 (r.fph.toNat * 2 ^ 48 + r.eph.toNat * 2 ^ 32 + r.clap.toNat * 2 ^ 23 + r.cstg.toNat * 2 ^ 19 + r.plap.toNat * 2 ^ 18 +
    r.pstg.toNat * 2 ^ 14 + r.en.toNat * 2 ^ 8 + r.reln.toNat * 2 ^ 4 + r.nst.toNat)

/-- The value of a system register for the issuing group (05 R55). GCTL reads as last written, in the clause of the SWR too, whose instructions still act under the old value (R57; assumption log 50). -/
def State.sysRead (s : State) (g : Group) (r : Nat) : W64 :=
  let t := s.teamOf g
  let c := s.ctx t.ctx
  let k := s.core t.core
  if r = 0 then BitVec.ofNat 64 (t.ctx % 2 ^ 16 * 2 ^ 16 + c.asid % 2 ^ 16)
  else if r = 1 then g.gstat c
  else if r = 2 then g.xstat.setWidth 64
  else if r = 3 then g.gctlNext.setWidth 64
  else if r = 4 then c.errstat
  else if r = 5 then c.errpc
  else if r = 6 then g.mprog
  else if r = 7 then g.pathq.setWidth 64
  else if r = 8 then c.rngseed.setWidth 64
  else if r = 0x10 then g.engseq
  else if r < 0x30 then (t.bar (r - 0x20)).word
  else if r < 0x38 then (t.ring (r - 0x30)).word
  else if r = 0x40 then c.normbox
  else if r = 0x41 then c.normclip.setWidth 64
  else if r = 0x50 then BitVec.ofNat 64 c.wcbage
  else if r = 0x60 then c.heatctl.setWidth 64
  else if r < 0x108 then tgetD k.brk (r - 0x100) 0
  else k.samp

/-- The half that MOD bit 0 selects (05 R55). -/
def halfOf (hi : Bool) (x : W64) : W32 := if hi then x.extractLsb' 32 32 else x.setWidth 32
/-- A register with one half replaced. -/
def putHalf (hi : Bool) (x : W64) (v : W32) : W64 := if hi then putBits x 32 v else putBits x 0 v

/-- SRD (05 R55, 27 R286). -/
def execSrd (f : FY) (s : State) : Host.Outcome State Fault Refusal :=
  let i := Instr.info (.srd f)
  issue i never never (whenActive i fun s g =>
    .done (s.setCur (g.ws f.sd.toNat (halfOf (f.mod.getLsbD 0) (s.sysRead g f.sysreg.toNat))))) s

/-! ### Writing system registers -/

def State.modCtx (s : State) (g : Group) (f : Ctx → Ctx) : State := let k := (s.teamOf g).ctx; s.setCtx k (f (s.ctx k))

/-- SWR to a register without a row of its own: read-only fields and reserved bits keep their value; ERRSTAT and ERRPC ignore it (05 R55 to R59; 07 R81; 15 R175; 23 R259). -/
def execSwr (f : FY) (s : State) : Host.Outcome State Fault Refusal :=
  let i := Instr.info (.swr f)
  issue i never never (whenActive i fun s g =>
    let hi := f.mod.getLsbD 0
    let v := g.rs f.sa.toNat
    let new := putHalf hi (s.sysRead g f.sysreg.toNat) v
    .done (match f.sysreg.toNat with
      | 2 => if hi then s else s.setCur { g with xstat := w1c g.xstat (v.setWidth 3) }
      | 3 => s.setCur { g with gctlNext := new.setWidth 2 }
      | 6 => s.setCur { g with mprog := new &&& 0x83FFFFFFFFFFFFFF }
      | 7 => if hi then s else s.setCur { g with pathq := if v.toNat < 16 then 16 else v }
      | 8 => if hi then s else s.modCtx g fun c =>
          { c with rngPrev := if c.rngAt = s.cycle then c.rngPrev else c.rngseed, rngAt := s.cycle, rngseed := v }
      | 0x10 => s.setCur { g with engseq := new }
      | 0x41 => if hi then s else s.modCtx g fun c => { c with normclip := v }
      | 0x50 => if hi then s else s.modCtx g fun c => { c with wcbage := min 64000 (max 500 (v.toNat % 2 ^ 16)) }
      | _ => s)) s

/-- SWR to HEATCTL: DECAY below 16 becomes 16, and every slice counts the context's translations from 0 again; the decays that the old DECAY has made due come first (25 R272, R273). -/
def execHeatctlWrite (f : FY) (s : State) : Host.Outcome State Fault Refusal :=
  let i := Instr.info (.heatctlWrite f)
  issue i never never (whenActive i fun s g =>
    let v := putHalf (f.mod.getLsbD 0) (s.sysRead g 0x60) (g.rs f.sa.toNat)
    let decay := max 16 (getBits v 4 5).toNat
    .done (s.decayed.modCtx g fun c => { c with heatctl := BitVec.ofNat 10 ((getBits v 9 1).toNat * 2 ^ 9 + decay * 2 ^ 4 + (getBits v 0 4).toNat), heatN := [] })) s

/-- SWR to BARSTn: E, at most 32; the phase is evaluated (03 R37, 05 R60). No phase completes under the old E in the cycle of the write: a write that follows such a completion waits for the next cycle. -/
def execBarstWrite (f : FY) (s : State) : Host.Outcome State Fault Refusal :=
  let i := Instr.info (.barstWrite f)
  issue i never never (whenActive i fun s g =>
    if f.mod.getLsbD 0 then .done s
    else
      let n := f.sysreg.toNat - 0x20
      let t := s.teamOf g
      let b := ({ t.bar n with e := min 32 ((g.rs f.sa.toNat).toNat % 64) }).eval
      if tget t.barDone n == some (s.cycle, false) then .stall s
      else .done (s.setTeam g.team { t with bars := tset t.bars n b, barDone := t.barNoted n b s.cycle true })) s

/-- SWR to RINGSTn: EN, RELN and NST take the low half; every other field and every hidden release count becomes 0 (21 R227). -/
def execRingstWrite (f : FY) (s : State) : Host.Outcome State Fault Refusal :=
  let i := Instr.info (.ringstWrite f)
  issue i never never (whenActive i fun s g =>
    let n := f.sysreg.toNat - 0x30
    let v := putHalf (f.mod.getLsbD 0) (s.sysRead g f.sysreg.toNat) (g.rs f.sa.toNat)
    .done (s.setRing g.team n { en := v.getLsbD 8, reln := getBits v 4 4, nst := getBits v 0 4 })) s

/-- SWR to PCBRKn: the writer's context owns the comparator; the write applies from the next cycle (33 R329, R330). -/
def execPcbrkWrite (f : FY) (s : State) : Host.Outcome State Fault Refusal :=
  let i := Instr.info (.pcbrkWrite f)
  issue i never never (whenActive i fun s g =>
    let n := f.sysreg.toNat - 0x100
    let t := s.teamOf g
    let k := s.core t.core
    let old := s.brkNow t.core n
    .done (s.setCore t.core { k with brk := tset k.brk n (putHalf (f.mod.getLsbD 0) (tgetD k.brk n 0) (g.rs f.sa.toNat)),
                                     brkOld := tset k.brkOld n (old, s.cycle), brkOwner := tset k.brkOwner n t.ctx })) s

/-- SAMPCTL with a LOGN that a write of its high half has brought into 6 to 20 (33 R331; assumption log 27). -/
def clampLogn (hi : Bool) (x : W64) : W64 :=
  if hi then putBits x 58 (BitVec.ofNat 5 (min 20 (max 6 (getBits x 58 5).toNat))) else x

/-- SWR to SAMPCTL: the writer's context owns it (33 R331). -/
def execSampctlWrite (f : FY) (s : State) : Host.Outcome State Fault Refusal :=
  let i := Instr.info (.sampctlWrite f)
  issue i never never (whenActive i fun s g =>
    let t := s.teamOf g
    let k := s.core t.core
    .done (s.setCore t.core { k with samp := clampLogn (f.mod.getLsbD 0) (putHalf (f.mod.getLsbD 0) k.samp (g.rs f.sa.toNat) &&& 0xFFC03FFFFFFFFFFF), sampOwner := t.ctx, sampLost := 0 })) s

/-- SWR to NORMBOX; a deposit of the same cycle is applied after it, so a write that follows one waits for the next cycle (23 R259). -/
def execNormboxWrite (f : FY) (s : State) : Host.Outcome State Fault Refusal :=
  let i := Instr.info (.normboxWrite f)
  issue i never never (whenActive i fun s g =>
    let v := putHalf (f.mod.getLsbD 0) (s.sysRead g 0x40) (g.rs f.sa.toNat)
    if (s.ctxOf g).normAt == some s.cycle then .stall s
    else .done (s.modCtx g fun c => { c with normbox := v &&& 0x8000FFFFFFFFFFFF })) s

/-- ERRCLR: in one cycle it comes before every event, so after an event it waits for the next cycle (05 R58). -/
def execErrclr (s : State) : Host.Outcome State Fault Refusal :=
  let i := Instr.info .errclr
  issue i never never (whenActive i fun s g =>
    if (s.ctxOf g).errAt == some s.cycle then .stall s else .done (s.modCtx g fun c => { c with errstat := 0, errpc := 0 })) s

/-! ### TRET, CTXSV, CTXLD (27 R283, R286, R287) -/

/-- The uses of TRET that are illegal (27 R283). -/
def tretBad (f : FY) (_ : State) (g : Group) : Bool :=
  match g.frame with
  | none => true
  | some fr =>
    g.stack.length != fr.depth || g.widen.isSome ||
    (if fr.resume then g.staged.isNone || f.mod == 2 || (f.mod == 1 && (g.staged.getD 0).toNat / 2 ^ (8 * 8 + 57) % 2 == 0)
     else (f.mod == 1 && !fr.inside) || (f.mod == 2 && !(g.mode == .sysHandler && fr.cause == causePreempt && g.saved)))

/-- TRET (27 R283, R289, R290). -/
def execTret (f : FY) (s : State) : Host.Outcome State Fault Refusal :=
  let i := Instr.info (.tret f)
  issue i (tretBad f) never (whenActive i fun s g =>
    match g.frame with
    | none => .kill causeIllegal
    | some fr =>
      if fr.resume then .leave (s.setCur { g with wait := .tretResume (f.mod == 1), clause := none })
      else if f.mod == 2 then .leave (s.setCur { g with wait := .parked, clause := none })
      else .leave (s.setCur (g.returnFrom fr (f.mod == 1)))) s

/-- A block with its CRC at offset 0 (27 R292). -/
def sealBlock (b : BitVec 32768) : BitVec 32768 := putBits b 0 (crc32c (bytesOf 4092 (b.toNat / 2 ^ 32)))

/-- The bits of a block that are neither reserved nor unlisted: bit offset and length (27 R292). -/
def blockUsed : List (Nat × Nat) :=
  [(0, 32), (0x20, 8), (0x28, 5), (0x43, 59), (0x9C, 28)] ++
  [(0x018 * 8, 6), (0x018 * 8 + 12, 4), (0x018 * 8 + 24, 40), (0x020 * 8, 3), (0x028 * 8, 2), (0x030 * 8, 58), (0x030 * 8 + 63, 1),
   (0x038 * 8, 192), (0x050 * 8, 6), (0x050 * 8 + 8, 6), (0x050 * 8 + 16, 4), (0x050 * 8 + 24, 4), (0x054 * 8, 40), (0x05A * 8, 48),
   (0x060 * 8, 33), (0x068 * 8, 6), (0x068 * 8 + 16, 16)] ++
  ((List.range 4).flatMap fun k => [((0x070 + 8 * k) * 8, 13), ((0x070 + 8 * k) * 8 + 15, 1)]) ++
  [(0x090 * 8, 96 * 8), (0x0F0 * 8, 4), (0x0F0 * 8 + 8, 40), (0x0F8 * 8, 1)] ++
  ((List.range 32).map fun k => ((0x100 + 32 * k) * 8, 160)) ++
  [(0x500 * 8, 256 * 32 + 256 * 8 + 16 * 8 + 24)] ++
  ((List.range 8).map fun k => ((0xA40 + 8 * k) * 8, 35)) ++ [(0xAC0 * 8, 512)]

/-- A field of a block. -/
def blkField (b : BitVec 32768) (off bit len : Nat) : Nat := natField b.toNat (8 * off + bit) len

/-- The block names the group, its CRC and version are right, and no depth, count or reserved field is out of range (27 R287). -/
def State.blockOk (s : State) (g : Group) (b : BitVec 32768) : Bool :=
  let onChip := blkField b 0x068 0 6
  let spilled := blkField b 0x068 16 16
  let used := (blockUsed).foldl (fun m p => m ||| ((2 ^ p.2 - 1) * 2 ^ p.1)) 0
  BitVec.ofNat 32 b.toNat == crc32c (bytesOf 4092 (b.toNat / 2 ^ 32)) && blkField b 4 0 8 == 1 && blkField b 4 8 5 == g.gid &&
  1 ≤ onChip && onChip ≤ 32 && spilled ≤ lrecSpillN (s.lrecOf g) && (spilled == 0 || onChip == 32) &&
  blkField b 0x018 14 2 < 2 && blkField b 0x0F0 0 4 ≤ 5 && ((List.range 8).all fun k => blkField b (0xA40 + 8 * k) 32 3 ≤ 4) &&
  b.toNat ||| used == used

/-- A park on a replayable fault of an access that holds its group (17 R202, 25 R267). -/
def opPark (s : State) (kind va cause : Nat) : Eff :=
  let (n, s1) := s.groupFault s.who 0 cause kind va s.cur.herePc 0
  .stall ((s1.setCur { s1.cur with wait := .opFault n }).swapOut s.who)

/-- What a fault, a violation or a wait does to an access that holds its group: a violation is recorded, and traps at the next clause (17 R202; 25 R267); a privileged access `priv`, which cannot complete, traps where it stands. -/
def opStop (priv : Bool) (s : State) (kind va : Nat) (e : MemErr) : Eff :=
  match e with
  | .fault cause => opPark s kind va cause
  | .wait => .stall (s.setCur (s.waitsAt s.cur va kind))
  | _ =>
    let s1 := ((s.seen (s.reqOf s.cur va)).groupFault s.who 0 0x40 kind va s.cur.herePc 0).2
    if priv then .fail s1 causeProtection 0 else .done (s1.setCur { s1.cur with armed := s1.cur.armed ++ [⟨causeProtection, s1.cur.herePc, 0⟩] })

/-- An earlier access of the group to `n` bytes from `a` on is not performed: a store, or with `loads` a load too (15 R168). -/
def Group.openAt (g : Group) (a n : Nat) (loads : Bool) : Bool :=
  g.pend.any fun p => (p.writes || loads) && p.lanes.any fun b => b.open && rangesMeet (b.range p) (a, n)

/-- Device-scope stores of the data bytes of consecutive lines in colour 0; the answer of the first that fails names its address. -/
def State.storeLines (s : State) (g : Group) : List (Nat × Line × LineMask) → Except (Nat × MemErr) State
  | [] => .ok s
  | (va, l, m) :: t =>
    match s.storeLine (s.reqOf g va) 3 0 m l with
    | .error e => .error (va, e)
    | .ok (s1, _) => s1.storeLines g t

/-- The issue checks of CTXSV and CTXLD (27 R287). -/
def ctxAddr (a : Nat) : Option Nat := if 2 ^ 56 ≤ a then some causeProtection else if a % 4096 != 0 then some causeMisalign else none

/-- CTXSV: the block as at handler entry, by device-scope stores in colour 0 (27 R287). -/
def execCtxsv (f : FY) (s : State) : Host.Outcome State Fault Refusal :=
  let i := Instr.info (.ctxsv f)
  issue i never never (whenActive i fun s g =>
    let a := (g.rpair f.sa.toNat).toNat
    match ctxAddr a with
    | some cause => .trap cause 0
    | none =>
      if g.openAt a 4096 true then hold s else
      let b := sealBlock (g.frameNow.block)
      let lines := (List.range 32).map fun k => (a + 128 * k, BitVec.ofNat 1088 (natField b.toNat (1024 * k) 1024), byteMask 0 128)
      match s.storeLines g lines with
      | .error (va, e) => opStop true s 1 va e
      | .ok s1 => .done (s1.setCur { s1.cur with saved := true })) s

/-- Device-scope loads of the data bytes of `n` consecutive lines in colour 0, with their poison. -/
def State.loadLines (s : State) (g : Group) (a : Nat) : Nat → Except (Nat × MemErr) (State × Nat × Bool)
  | 0 => .ok (s, 0, false)
  | n + 1 =>
    match s.loadLines g a n with
    | .error e => .error e
    | .ok (s1, x, p) =>
      match s1.loadLine (s1.reqOf g (a + 128 * n)) 3 0 with
      | .error e => .error (a + 128 * n, e)
      | .ok (s2, (l, q)) => .ok (s2, x + lineNat l 0 128 * 2 ^ (1024 * n), p || q)

/-- CTXLD: reads and stages a block; a poisoned one traps, a bad one kills (27 R287). -/
def execCtxld (f : FY) (s : State) : Host.Outcome State Fault Refusal :=
  let i := Instr.info (.ctxld f)
  issue i never never (whenActive i fun s g =>
    let a := (g.rpair f.sa.toNat).toNat
    match ctxAddr a with
    | some cause => .trap cause 0
    | none =>
      if g.openAt a 4096 false then hold s else
      match s.loadLines g a 32 with
      | .error (va, e) => opStop true s 0 va e
      | .ok (s1, x, p) =>
        if p then .trap causePoison 0
        else if s1.blockOk g (BitVec.ofNat 32768 x) then .done (s1.setCur { s1.cur with staged := some (BitVec.ofNat 32768 x) })
        else .kill causeIllegal) s

/-! ### Translation and cache maintenance (25 R265; 27 R294) -/

/-- TLBINV: drops matching entries from every slice; heat entries are kept (25 R265). -/
def execTlbinv (f : FY) (s : State) : Host.Outcome State Fault Refusal :=
  let i := Instr.info (.tlbinv f)
  issue i never never (whenActive i fun s g =>
    let asid := (s.ctxOf g).asid
    if f.mod == 0 then
      let va := (g.rpair f.sa.toNat).toNat
      if 2 ^ 56 ≤ va then .trap causeProtection 0
      else .done { s with tlb := s.tlb.filter fun e => !((e.asid == asid || e.asid == 0) && e.page ≤ va && va < e.page + e.psize) }
    else if f.mod == 1 then .done { s with tlb := s.tlb.filter fun e => e.asid != (g.rs f.sa.toNat).toNat % 2 ^ 16 }
    else .done { s with tlb := [] }) s

/-- The keys of lines of an extent that some cache of the device holds, of an ASID or of ASID 0. -/
def State.cachedKeys (s : State) (asid base size : Nat) : List Nat :=
  let all := (s.cores.flatMap fun p => tkeys p.2.l1) ++ (s.llc.map fun p => p.1 % 2 ^ 66)
  ((all.filter fun k => (keyAsid k == asid || keyAsid k == 0) && base ≤ keyVa k && keyVa k < base + size).foldl ninsert [])

/-- Writes back the L1 copies of a line, core by core. -/
def State.writeBackAll (s : State) (ctx key : Nat) : List Nat → MemR Unit
  | [] => .ok (s, ())
  | k :: t => match s.writeBack k ctx key with
    | .error e => .error e
    | .ok (s1, _) => s1.writeBackAll ctx key t

/-- The line's dirty bytes go from the LLC to memory, and its home keeps it clean (25 R265). -/
def State.cleanHome (s : State) (r : Req) : MemR Unit :=
  match s.recall r.key with
  | .error e => .error e
  | .ok (s1, _) =>
    let h := homeDie r.va
    match s1.llcAt h r.key with
    | none => .ok (s1, ())
    | some l =>
      if !l.dirty then .ok (s1, ())
      else
        match s1.pageOf r.asid r.va with
        | none => .error (.fault faultNotPresent)
        | some x =>
          if pteMig x.pte then .error .wait
          else match s1.lineOut r l x fun s => s.setLlc h r.key { (s.llcAt h r.key).getD l with dirty := false } with
            | (s2, true) => .ok (s2, ())
            | (s2, false) => .ok (if s1.pageFull r.asid r.va then s2 else s2.memoryFault r.ctx faultCompFull 1 (r.va / 128 * 128) r.core, ())

/-- The line is pinned by some context (15 R178). -/
def State.pinned (s : State) (key : Nat) : Bool := s.ctxs.any fun p => p.2.pins.contains key

/-- The write-back, then the discard, of one line: where `keep` holds, pinned lines are written back and stay (25 R265); a line that a FULL page cannot take back is not discarded (R277). -/
def State.cinvLine (s : State) (ctx key : Nat) (wb inv keep : Bool) : MemR Unit :=
  let r : Req := ⟨noCore, s.ctxOfKey ctx key, keyAsid key, keyVa key⟩
  let pin := keep && s.pinned key
  match (if wb || pin then s.writeBackAll ctx key (tkeys s.cores) else .ok (s, ())) with
  | .error e => .error e
  | .ok (s1, _) =>
    match (if wb || pin then s1.cleanHome r else .ok (s1, ())) with
    | .error e => .error e
    | .ok (s2, _) =>
      if !inv || pin then .ok (s2, ())
      else if wb && ((s2.llcAt (homeDie r.va) key).map (·.dirty)).getD false then (if keep then .ok (s2, ()) else .error .wait)
      else
        let s3 := (tkeys s2.cores).foldl (fun s k => s.dropL1 k key) s2
        match s3.pullOthers noCore key (s3.dirAt key).rel with
        | .error e => .error e
        | .ok (s4, _) =>
          let s5 := (List.range 4).foldl (fun s d => s.dropLlc d key) s4
          .ok ((s5.setDir key {}).clearResv key, ())

def State.cinvLines (s : State) (ctx : Nat) (wb inv keep : Bool) : List Nat → MemR Unit
  | [] => .ok (s, ())
  | k :: t => match s.cinvLine ctx k wb inv keep with
    | .error e => .error e
    | .ok (s1, _) => s1.cinvLines ctx wb inv keep t

/-- CINV (25 R265). -/
def execCinv (f : FY) (s : State) : Host.Outcome State Fault Refusal :=
  let i := Instr.info (.cinv f)
  issue i never never (whenActive i fun s g =>
    let va := (g.rpair f.sa.toNat).toNat
    let size := match f.mod.toNat / 4 with | 0 => 128 | 1 => 2 ^ 16 | _ => 2 ^ 21
    if 2 ^ 56 ≤ va then .trap causeProtection 0
    else
      match s.cinvLines (s.teamOf g).ctx (f.mod.getLsbD 0) (f.mod.getLsbD 1) true (s.cachedKeys (s.ctxOf g).asid (va / size * size) size) with
      | .error _ => hold s
      | .ok (s1, _) => .done s1) s

/-- ICINV: a device-scope release of all colours, then every instruction cache of the device forgets the context's code, and every loop buffer is stale (27 R294). -/
def execIcinv (s : State) : Host.Outcome State Fault Refusal :=
  let i := Instr.info .icinv
  issue i never never (whenActive i fun s g =>
    if writesOpen g.pend 0xFF || g.spadOpen then hold s
    else
      match s.releaseAt g 3 0xFF with
      | .error _ => hold s
      | .ok (s1, false) => hold s1
      | .ok (s1, true) =>
        let asid := (s1.ctxOf g).asid
        .done { s1 with cores := s1.cores.map fun p => (p.1, { p.2 with icache := p.2.icache.filter fun l => keyAsid l.1 != asid && keyAsid l.1 != 0, loops := [] }) }) s

/-! ### Heat, debug access, QPOST (25 R274; 33 R335; 31 R322) -/

/-- Record k of HEATRD: the region's VA and the count of an entry of the context, else all ones (25 R274). -/
def State.heatRecord (s : State) (ctx e : Nat) : Nat × Bool :=
  match tget s.heat e with
  | some h => if h.ctx = ctx then (h.region * 2 ^ 21 + h.count % 2 ^ 16 * 2 ^ 64, true) else (2 ^ 64 - 1 + h.count % 2 ^ 16 * 2 ^ 64, false)
  | none => (2 ^ 64 - 1, false)

/-- HEATRD's illegal uses (25 R265). -/
def heatBad (f : FY) (_ : State) (g : Group) : Bool :=
  let e0 := (g.rs (f.sa.toNat + 2)).toNat
  let n := (g.rs (f.sa.toNat + 3)).toNat
  n > 4096 || e0 + n > 524288

/-- One record of HEATRD: a device-scope store of 16 bytes in colour 0, through the write-combining buffer where the destination is remote. The answer says whether it has been made. -/
def State.heatPut (s : State) (g : Group) (va x : Nat) : State × Except MemErr Bool :=
  if isRemote va then
    let t := s.teamOf g
    let o := remoteOffset va
    match s.remoteTry (dieOf t.core) t.ctx (remotePeer va) o true with
    | (s1, .go _) =>
      let r := s1.wcbStore t.core t.ctx t.task (remotePeer va) (o / 128) 0 (byteMask (o % 128) 16) (BitVec.ofNat 1088 (x * 2 ^ (8 * (o % 128)))) none (s.who, g.herePc, 32, s1.nextId)
      (r.1, .ok r.2)
    | (s1, .wait) => (s1, .ok false)
    | (s1, .refused) => (s1, .error .remote)
    | (s1, .absent) => (s1, .error (.fault faultRemote))
  else
    match s.storeAt (s.reqOf g va) 3 0 16 x with
    | .error e => (s, .error e)
    | .ok (s1, _) => (s1, .ok true)

/-- What the stores of HEATRD come to. -/
inductive HeatRun where
  | all (s : State) (bad : List (Nat × MemErr))
  | again
  | stop (va : Nat) (e : MemErr)

/-- The records of HEATRD, one after another (address, content): those that a violation or a refusal stops are left out and listed; a fault or a wait stops all of them (17 R202). -/
def State.heatStores (s : State) (g : Group) (bad : List (Nat × MemErr)) : List (Nat × Nat) → HeatRun
  | [] => .all s bad
  | (va, x) :: t =>
    match s.heatPut g va x with
    | (s1, .ok true) => s1.heatStores g bad t
    | (_, .ok false) => .again
    | (_, .error (.fault c)) => .stop va (.fault c)
    | (_, .error .wait) => .stop va .wait
    | (s1, .error e) => s1.heatStores g (bad ++ [(va, e)]) t

/-- A remote destination is prepared before any record is stored, so that each is stored once: the translations of its units are asked for, and entries that its records cannot merge with are drained (15 R173; 29 R309). -/
def State.heatReady (s : State) (g : Group) (vas : List Nat) : State × Bool :=
  vas.foldl (fun (a : State × Bool) va =>
    if !isRemote va then a
    else
      let t := s.teamOf g
      let o := remoteOffset va
      let s1 := match a.1.remoteTry (dieOf t.core) t.ctx (remotePeer va) o true with | (s1, .wait) => (s1, false) | (_, _) => (a.1, true)
      let clash := fun (e : WcbEntry) => e.peer == remotePeer va && e.line == o / 128 && !e.fits t.ctx 0 none
      (s1.1.wcbSendAll t.core clash, a.2 && s1.2 && !((s1.1.core t.core).wcb.any clash))) (s, true)

/-- HEATRD: the records and sD are those of one moment (25 R265, R274). -/
def execHeatrd (f : FY) (s : State) : Host.Outcome State Fault Refusal :=
  let i := Instr.info (.heatrd f)
  issue i (heatBad f) never (whenActive i fun s g =>
    let a := (g.rpair f.sa.toNat).toNat
    let e0 := (g.rs (f.sa.toNat + 2)).toNat
    let n := (g.rs (f.sa.toNat + 3)).toNat
    if n = 0 then .done s
    else if s.badGlobal true a then .trap causeProtection 0
    else if a % 16 != 0 then .trap causeMisalign 0
    else if g.openAt a (16 * n) true then hold s
    else
      let recs := (List.range n).map fun k => (a + 16 * k, s.decayed.heatRecord (s.teamOf g).ctx (e0 + k))
      match s.heatReady g (recs.map (·.1)) with
      | (s1, false) => .stall s1
      | (s1, true) =>
        match s1.decayed.heatStores g [] (recs.map fun r => (r.1, r.2.1)) with
        | .again => .stall s1
        | .stop va e => opStop false s1 1 va e
        | .all s2 bad =>
          let viol := (bad.filter (·.2 == .violation)).map (·.1)
          let s3 := (viol.foldl (fun s va => s.seen (s.reqOf g va)) s2).violated s.who 1 g.herePc viol
          let arm (p : Bool) (cause : Nat) : List Armed := if p then [⟨cause, g.herePc, 0⟩] else []
          let h := s3.cur
          .done (s3.setCur { h.ws f.sd.toNat (BitVec.ofNat 32 (recs.filter (·.2.2)).length) with
            armed := h.armed ++ arm (viol != []) causeProtection ++ arm (bad.any (·.2 == .remote)) causeRemoteError })) s

/-- The target of a debug access: the group that holds the slot, where it is neither empty, retired nor killed (33 R335). -/
def State.debugTarget (s : State) (g : Group) (a : W32) : Option Nat :=
  let gid := (getBits a 27 5).toNat
  match tget (s.teamOf g).groups gid with
  | some u => if (s.group u).status == .live && (s.group u).gid == gid then some u else none
  | none => none

/-- The class of a debug access is reserved, or its index is out of range (33 R335). -/
def debugBad (write : Bool) (f : FY) (s : State) (g : Group) : Bool :=
  let a := g.rs f.sa.toNat
  let cls := (getBits a 24 3).toNat
  let n := (getBits a 0 24).toNat
  4 ≤ cls || (write && cls == 3) || (cls == 3 && 1024 ≤ n) ||
  (match s.debugTarget g a with
   | none => false
   | some u =>
     let t := s.group u
     (cls == 0 && t.ns ≤ n) || (cls == 1 && t.nv ≤ n / 32) || (cls == 2 && t.nx ≤ n / 2))

/-- DBGRD: an empty target reads 0; poisoned bits are returned as they are; word 6 of the block of another group shows its GSTAT as it stands, so that software sees its mode (33 R335; assumption log 50). -/
def execDbgrd (f : FY) (s : State) : Host.Outcome State Fault Refusal :=
  let i := Instr.info (.dbgrd f)
  issue i (debugBad false f) never (whenActive i fun s g =>
    let a := g.rs f.sa.toNat
    let n := (getBits a 0 24).toNat
    let x : W32 :=
      match s.debugTarget g a with
      | none => 0
      | some u =>
        let t := s.group u
        match (getBits a 24 3).toNat with
        | 0 => if n = 0 then 0xFFFFFFFF else tgetD t.s n 0
        | 1 => t.rl (n / 32) (n % 32)
        | 2 => getBits (t.rx (n / 2)) (32 * (n % 2)) 32
        | _ =>
          let b := match t.mode, t.frameS with
            | .sysHandler, some fr => fr.block
            | _, _ => hiddenOf (s.blockFields t t.frameNow)
          if n = 6 && u != s.who then (t.gstat (s.ctxOf t)).setWidth 32 else BitVec.ofNat 32 (natField (sealBlock b).toNat (32 * n) 32)
    .done (s.setCur (g.ws f.sd.toNat x))) s

/-- DBGWR: performed only on a target in system-handler mode; it clears the poison of its unit (33 R335). -/
def execDbgwr (f : FY) (s : State) : Host.Outcome State Fault Refusal :=
  let i := Instr.info (.dbgwr f)
  issue i (debugBad true f) never (whenActive i fun s g =>
    let a := g.rs f.sa.toNat
    let n := (getBits a 0 24).toNat
    let x := g.rs f.sd.toNat
    match s.debugTarget g a with
    | none => .done s
    | some u =>
      let t := s.group u
      if t.mode != .sysHandler then .done s
      else
        .done (s.setGroup u (match (getBits a 24 3).toNat with
          | 0 => if n = 0 then t else { t with s := tset t.s n x, sp := t.sp &&& ~~~(1#128 <<< n) }
          | 1 => t.wl (n / 32) (n % 32) x false
          | _ => { t with x := tset t.x (n / 2) (putBits (t.rx (n / 2)) (32 * (n % 2)) x),
                          xp := tset t.xp (n / 2) (t.rxp (n / 2) &&& ~~~(0xF#8 <<< (4 * (n % 2)))) }))) s

/-- QPOST: a device-scope release of all colours, then one decrement of PRED at its home, which never wraps (31 R320, R322). -/
def execQpost (f : FY) (s : State) : Host.Outcome State Fault Refusal :=
  let i := Instr.info (.qpost f)
  issue i never never (whenActive i fun s g =>
    let a := (g.rpair f.sa.toNat).toNat
    if 2 ^ 56 ≤ a then .trap causeProtection 0
    else if a % 128 != 0 then .trap causeMisalign 0
    else if writesOpen g.pend 0xFF || g.spadOpen then hold s
    else
      match s.releaseAt g 3 0xFF with
      | .error _ => hold s
      | .ok (s1, false) => hold s1
      | .ok (s1, true) =>
        let r := s1.reqOf g (a + 0x40)
        match s1.homeLineW r with
        | .error e => opStop false s1 2 (a + 0x40) e
        | .ok (s2, l) =>
          if !l.attrs.w then opStop false s1 2 (a + 0x40) .violation
          else if s2.pageFull r.asid r.va then opStop false s1 2 (a + 0x40) (.fault faultCompFull)
          else if l.poison then
            if f.sd == 0 then .done (s2.deferred 2 r.asid r.va r.core)
            else let (ws, s3) := s2.freeWords 1; .done (s3.setCur ((s3.cur.ws f.sd.toNat (ws.headD 0)).poisonS f.sd.toNat))
          else
            let old := tcbPred l.data
            let s3 := if old = 0 then s2 else s2.homeWrite r l (byteMask 0x40 4) (lineSet l.data 0x40 4 (old - 1)) 0 false
            .done (s3.setCur (s3.cur.ws f.sd.toNat (BitVec.ofNat 32 old)))) s

end Sys2Proof.Machine
end

