-- ==== Sys2Proof/Machine/Teams.lean ====
section
/-! DEFINITION. Teams and grids: REGROUP's exchange, retirement, the end of a grid, the launch checks, placement and pre-emption, the save of a team and its resumption (03_execution.md R16 to R25, R39 to R46; 05 R50, R51; 19 R220; 27 R288 to R292; 31 R319 to R321). -/

namespace Sys2Proof.Machine

/-! ### The launch record (03 R19, 05 R50) -/

def lrecNat (l : BitVec 512) (bit len : Nat) : Nat := natField l.toNat bit len
def lrecEntry (l : BitVec 512) : Nat := lrecNat l 0 57
def lrecArgs (l : BitVec 512) : Nat := lrecNat l 64 64
def lrecX (l : BitVec 512) : Nat := lrecNat l 160 32
def lrecY (l : BitVec 512) : Nat := lrecNat l 192 32
def lrecZ (l : BitVec 512) : Nat := lrecNat l 224 32
def lrecV (l : BitVec 512) : Nat := lrecNat l 256 6
def lrecF (l : BitVec 512) : Nat := lrecNat l 262 6
def lrecM (l : BitVec 512) : Nat := lrecNat l 268 6
def lrecP (l : BitVec 512) : Nat := lrecNat l 274 6
def lrecPrio (l : BitVec 512) : Nat := lrecNat l 280 2
def lrecCores (l : BitVec 512) : Bool := l.getLsbD 282
/-- The budget of a role (03 R19). -/
def lrecBudget (l : BitVec 512) : Role → Nat
  | .vector => lrecNat l 288 14
  | .feed => lrecNat l 304 14
  | .matrix => lrecNat l 320 14
/-- Teams of a grid. -/
def lrecTeams (l : BitVec 512) : Nat := lrecX l * lrecY l * lrecZ l
/-- Slots of a team (03 R17). -/
def lrecSlots (l : BitVec 512) : Nat := lrecV l + lrecF l + lrecM l + lrecP l

/-- Vector, scale and scalar registers of a budget (03 R19, 05 R48). -/
def budgetV (b : Nat) : Nat := b % 32 * 16
def budgetX (b : Nat) : Nat := b / 32 % 32 * 16
def budgetS (b : Nat) : Nat := b / 1024 * 16
/-- Bytes of register file that a slot of a budget needs (05 R51). -/
def budgetBytes (b : Nat) : Nat := 128 * budgetV b + 8 * budgetX b + 4 * budgetS b
/-- A budget within its ranges (03 R19). -/
def budgetOk (b : Nat) : Bool := 1 ≤ b / 1024 && b / 1024 ≤ 8 && 2 ≤ b % 32 && b % 32 ≤ 16 && b / 32 % 32 ≤ b % 32

/-- The register-file need of a team, in bytes: spare slots use the VECTOR budget (05 R51). -/
def lrecNeed (l : BitVec 512) : Nat :=
  ((lrecV l + lrecP l) * budgetBytes (lrecBudget l .vector) + lrecF l * budgetBytes (lrecBudget l .feed) +
    lrecM l * budgetBytes (lrecBudget l .matrix) + 4095) / 4096 * 4096

/-- The fields of POOLW (05 R50). -/
def poolRfg (p : W32) : Nat := (getBits p 0 6).toNat
def poolSpg (p : W32) : Nat := (getBits p 6 6).toNat
def poolTsg (p : W32) : Nat := (getBits p 12 6).toNat
def poolTgm (p : W32) : Nat := (getBits p 24 4).toNat

/-! ### Fit (03 R21, R25; 05 R51) -/

/-- What a team takes of a core: its register files, its MATRIX groups and its slots on each scheduler. -/
structure Seat where
  core : Nat
  need : Nat
  mtx  : Nat
  per  : List Nat
deriving DecidableEq, Repr

/-- A team not yet placed fills all its slots. -/
def newSeat (core : Nat) (l : BitVec 512) : Seat :=
  { core := core, need := lrecNeed l, mtx := lrecM l, per := (List.range 4).map fun k => ((List.range (lrecSlots l)).filter (· % 4 == k)).length }

/-- The slots of a team that are resident on scheduler `k`: its groups that have not retired, and its empty slots (03 R25). -/
def State.teamSlots (s : State) (t : Team) (k : Nat) : Nat :=
  ((List.range t.slots).filter fun gid => gid % 4 == k && (match tget t.groups gid with
    | none => true
    | some u => (s.group u).holdsSlot)).length

/-- What the teams resident on the cores take, without those of `gone`. -/
def State.seats (s : State) (gone : List Nat) : List Seat :=
  (s.teams.filter fun p => p.2.live && !gone.contains p.1).map fun p =>
    let l := (s.task p.2.task).lrec
    { core := p.2.core, need := lrecNeed l, mtx := p.2.nmtx, per := (List.range 4).map (s.teamSlots p.2) }

/-- A core with these seats accepts one more under a partition word (03 R25, 05 R51). -/
def accepts (on : List Seat) (pw : W32) (n : Seat) : Bool :=
  let sum := fun (f : Seat → Nat) => (on.map f).foldl (· + ·) (f n)
  ((List.range 4).all fun k => sum (fun x => (x.per[k]?).getD 0) ≤ 16) &&
  sum (·.need) ≤ poolRfg pw * 65536 && (on.length + 1) * poolSpt pw ≤ poolSpg pw && sum (·.mtx) * poolTgm pw ≤ poolTsg pw

/-- The free granules of a core, part by part (03 R21). -/
def freeGranules (on : List Seat) (pw : W32) : Nat :=
  let sum := fun (f : Seat → Nat) => (on.map f).foldl (· + ·) 0
  (poolRfg pw - (sum (·.need) + 65535) / 65536) + (poolSpg pw - on.length * poolSpt pw) + (poolTsg pw - sum (·.mtx) * poolTgm pw)

/-- Cores of the device (01 R9). -/
def coreCount : Nat := 256

/-- The core for a team: one of the same partition word with the most free granules, else an idle one on the die with the fewest teams (03 R21). `word` is the partition word of a core, `open_` says that the core is not held for another task. -/
def pickCore (word : Nat → W32) (open_ : Nat → Bool) (seats : List Seat) (pw : W32) (n : Seat) : Option Nat :=
  let on := fun (k : Nat) => seats.filter (·.core == k)
  let free := (List.range coreCount).filter open_
  match firstBy (fun k => 1000 - freeGranules (on k) pw) (free.filter fun k => word k == pw && accepts (on k) pw n) with
  | some k => some k
  | none =>
    if accepts [] pw n then firstBy (fun k => (seats.filter fun x => dieOf x.core == dieOf k).length) (free.filter fun k => (on k).isEmpty)
    else none

/-- Cores for several teams placed one after another (03 R22). -/
def pickAll (open_ : Nat → Bool) (pw : W32) : (Nat → W32) → List Seat → List Seat → Option (List Nat)
  | _, _, [] => some []
  | word, seats, n :: t =>
    match pickCore word open_ seats pw n with
    | none => none
    | some k => (pickAll open_ pw (fun j => if j = k then pw else word j) (seats ++ [{ n with core := k }]) t).map fun l => k :: l

/-! ### The launch checks (03 R20) -/

/-- Teams of a launch record that one empty core holds. -/
def perCore (l : BitVec 512) : Nat :=
  let pw := lrecPoolw l
  let n := newSeat 0 l
  let slots := (n.per.map fun x => if x = 0 then 16 else 16 / x).foldl min 16
  let files := if n.need = 0 then 16 else poolRfg pw * 65536 / n.need
  let spad := if poolSpt pw = 0 then 16 else poolSpg pw / poolSpt pw
  let mtx := if n.mtx * poolTgm pw = 0 then 16 else poolTsg pw / (n.mtx * poolTgm pw)
  min (min slots files) (min spad mtx)

/-- The conditions of R20, in order. -/
def launchFaults (l : BitVec 512) (c : Ctx) : List Bool :=
  let v := lrecV l
  let f := lrecF l
  let m := lrecM l
  let p := lrecP l
  let pw := lrecPoolw l
  let spt := poolSpt pw
  [lrecNat l 57 7 != 0 || lrecNat l 283 5 != 0 || lrecNat l 302 2 != 0 || lrecNat l 318 2 != 0 || lrecNat l 334 18 != 0 || lrecNat l 368 16 != 0 ||
     lrecNat l 448 64 != 0 || lrecNat l 156 4 != 0,
   lrecX l == 0 || lrecY l == 0 || lrecZ l == 0 || (v != 0 && !budgetOk (lrecBudget l .vector)) || (f != 0 && !budgetOk (lrecBudget l .feed)) ||
     (m != 0 && !budgetOk (lrecBudget l .matrix)),
   2 ^ 31 < lrecTeams l,
   v + f + m == 0,
   32 < lrecSlots l,
   p != 0 && v == 0,
   poolRfg pw + poolSpg pw + poolTsg pw != 48 || 32 < spt || poolSpg pw < spt ||
     (if m = 0 then poolTgm pw != 0 else poolTgm pw < 4 || 11 < poolTgm pw),
   poolRfg pw * 65536 < lrecNeed l || poolTsg pw < m * poolTgm pw,
   !((newSeat 0 l).per.all (· ≤ 16)),
   lrecCores l && coreCount * perCore l < lrecTeams l,
   c.savesz * 4096 < 0xB2000 || c.savesz * 4096 < spt * 65536 + 65536,
   lrecEntry l % 8 != 0 || 2 ^ 56 ≤ lrecEntry l || (lrecSpillN l != 0 && (lrecSpillB l % 32 != 0 || 2 ^ 56 ≤ lrecSpillB l))]

/-- The refusal reason: the lowest-numbered condition that holds; 0 where none does (03 R20). -/
def refusal (l : BitVec 512) (c : Ctx) : Nat := match (launchFaults l c).findIdx? id with | some k => k + 1 | none => 0

/-! ### The device's own accesses to a context's memory (31 R321) -/

/-- The request of the device for an address of a context. -/
def State.devReq (s : State) (ctx va : Nat) : Req := ⟨noCore, ctx, tagAsid (s.ctx ctx).asid va, va⟩

/-- `n` bytes of one line, at its home. -/
def State.devRead (s : State) (ctx va n : Nat) : MemR Nat :=
  match s.homeLine (s.devReq ctx va) with
  | .error e => .error e
  | .ok (s1, l) => .ok (s1, lineNat l.data (va % 128) n)

/-- `n` bytes, at most a line of them, that may cross into the next line; an address that is not canonical, or remote, names none (31 R321). -/
def State.devBytes (s : State) (ctx va n : Nat) : MemR Nat :=
  let k := min n (128 - va % 128)
  if !isCanonical va || isRemote va then .error .violation
  else
    match s.devRead ctx va k with
    | .error e => .error e
    | .ok (s1, x) =>
      if k = n then .ok (s1, x)
      else if !isCanonical (va + k) || isRemote (va + k) then .error .violation
      else
        match s1.devRead ctx (va + k) (n - k) with
        | .error e => .error e
        | .ok (s2, y) => .ok (s2, x + y * 256 ^ k)

/-- Writes `n` bytes of one line at its home. -/
def State.devWrite (s : State) (ctx va n x : Nat) : MemR Unit :=
  let r := s.devReq ctx va
  match s.homeLine r with
  | .error e => .error e
  | .ok (s1, l) => if !l.attrs.w then .error .violation else .ok (s1.homeWrite r l (byteMask (va % 128) n) (lineSet l.data (va % 128) n x) 0 false, ())

/-- The device writes STATE and REASON of a task; a TCB whose page no longer lets it be written keeps what it holds. None where the write must wait. -/
def State.tcbState (s : State) (k : Nat) (st reason : Nat) : Option State :=
  let t := s.task k
  match s.devWrite t.ctx (t.tcb + 0x44) 2 (st + 256 * reason) with
  | .ok (s1, _) => some s1
  | .error .wait => none
  | .error _ => some s

/-! ### Starting teams and groups (03 R17, R24; 05 R48; 17 R197; 21 R228) -/

/-- The role of a gid at launch; none for a spare slot (03 R17). -/
def slotRole (l : BitVec 512) (gid : Nat) : Option Role :=
  let n := lrecSlots l
  if gid < lrecV l then some .vector
  else if gid < lrecV l + lrecP l then none
  else if gid < n - lrecM l then some .feed
  else if gid < n then some .matrix
  else none

/-- A group as it starts (03 R24, 05 R48). -/
def freshGroup (l : BitVec 512) (team gid : Nat) (r : Role) : Group :=
  let b := lrecBudget l r
  { status := .live, team := team, gid := gid, role := r, nv := budgetV b, nx := budgetX b, ns := budgetS b,
    na := if r == .matrix then poolTgm (lrecPoolw l) - 3 else 0,
    s := [(1, BitVec.ofNat 32 (lrecArgs l)), (2, BitVec.ofNat 32 (lrecArgs l / 2 ^ 32))],
    pc := BitVec.ofNat 57 (lrecEntry l),
    tids := mapLanes 0xFFFFFFFF (fun k => BitVec.ofNat 32 (32 * gid + k)) 0 }

/-- A new group enters the active set of its scheduler while it has room, else the pending set (03 R25). -/
def State.seatGroup (s : State) (u : Nat) (g : Group) : State :=
  let (n, s1) := s.fresh
  let room := s1.hasRoom (s1.team g.team).core (g.gid % 4)
  s1.setGroup u { g with active := room, age := n, mayIssue := s.cycle, readySince := none }

/-- Starts the groups of the listed gids. -/
def State.startGroups (s : State) (l : BitVec 512) (team : Nat) : List Nat → State
  | [] => s
  | gid :: t =>
    match slotRole l gid with
    | none => s.startGroups l team t
    | some r =>
      let (u, s1) := s.fresh
      let tm := s1.team team
      ((s1.setTeam team { tm with groups := tset tm.groups gid u }).seatGroup u (freshGroup l team gid r)).startGroups l team t

/-- The rings of a kernel as its `.ring` directives set them (10 R108, 21 R228; assumption log 8). -/
def State.startRings (s : State) (ctx entry : Nat) : Tbl Ring :=
  (s.kernelRings.filter fun p => p.1 == ctx && p.2.1 == entry).foldl
    (fun t p => tset t p.2.2.1 { en := p.2.2.2.getLsbD 8, reln := getBits p.2.2.2 4 4, nst := getBits p.2.2.2 0 4 }) []

/-- A core takes the partition word of a team (03 R21). -/
def State.partition (s : State) (k : Nat) (pw : W32) : State := s.setCore k { s.core k with poolw := pw }

/-- Places the team of linear index `idx` of a task on a core and starts its groups (03 R21, R24). -/
def State.startTeam (s : State) (task idx core : Nat) : State :=
  let (t, s1) := s.fresh
  let tk := s1.task task
  let l := tk.lrec
  let s2 := (s1.partition core (lrecPoolw l)).setTeam t
    { ctx := tk.ctx, task := task, core := core, linear := idx, x := idx % lrecX l, y := idx / lrecX l % lrecY l, z := idx / (lrecX l * lrecY l),
      nvec := lrecV l, nfeed := lrecF l, nmtx := lrecM l, spare := lrecP l, live := true, rings := s1.startRings tk.ctx (lrecEntry l), placed := t }
  (s2.setTask task { tk with placed := tk.placed + 1 }).startGroups l t (List.range (lrecSlots l))

/-- A group of a saved team starts in the resume handler: everything else is as at group start, and that is the state a CTXSV there captures (27 R287, R290; assumption log 50). -/
def State.resumeGroup (s : State) (u : Nat) : State :=
  let g := s.group u
  let t := s.team g.team
  let c := s.ctx t.ctx
  let f := freshGroup (s.task t.task).lrec g.team g.gid g.role
  let pc : VA := BitVec.ofNat 57 c.resumeEntry
  let g1 : Group := { f with tids := g.tids, pc := pc }
  let fr : Frame := { resume := true, block := hiddenOf (s.blockFields g1 { resume := true }) }
  s.seatGroup u { g1 with mode := .sysHandler, cause := causePreempt, targ := 1, frameS := some fr,
                          bankS := entryBank 0 1 causePreempt (saveBase c t.linear g.gid) }

/-- Places a saved team on a core and starts its groups in the resume handler: they enter the active sets one after another while there is room (03 R25, 27 R290). -/
def State.resumeTeam (s : State) (t core : Nat) : State :=
  let (n, s1) := s.fresh
  let tm := s1.team t
  let tk := s1.task tm.task
  let s2 := ((s1.partition core (lrecPoolw tk.lrec)).setTeam t { tm with live := true, core := core, save := .resuming, placed := n, stopped := [] }).setTask
    tm.task { tk with saved := tk.saved.filter (· != t) }
  let s3 := (tkeys tm.kept).foldl (fun s u => s.setGroup u { s.group u with active := false }) s2
  (tkeys tm.kept).foldl (fun s u => s.resumeGroup u) s3

/-! ### The dispatcher (03 R21 to R23) -/

/-- Tasks that wait for placement: their gate is open. -/
def State.waitingTasks (s : State) : List Nat :=
  (s.tasks.filter fun p => p.2.gate && !p.2.done && !p.2.refused && (!p.2.checked || p.2.saved != [] || p.2.placed < lrecTeams p.2.lrec)).map (·.1)

/-- The tasks in the order of service: descending PRIO, then the order in which their gates opened (03 R21). -/
def State.serviceOrder (s : State) : Nat → List Nat → List Nat
  | 0, _ => []
  | n + 1, l =>
    match firstBy (fun k => (3 - lrecPrio (s.task k).lrec) * 2 ^ 64 + (s.task k).gateAt) l with
    | none => []
    | some k => k :: s.serviceOrder n (l.filter (· != k))

/-- The core is not held for the team of another task (03 R21). -/
def State.openFor (s : State) (task k : Nat) : Bool := match (s.core k).heldFor with | none => true | some t => t == task

/-- Teams of a task that are on their way out: being saved, or saved. -/
def Team.leaving (t : Team) : Bool := t.save == .preempting || t.save == .saving || t.again

/-- What a task places next: saved teams first, in their order, else its next team; all of them where its teams must be co-resident, once every one that leaves is saved (03 R21 to R23). -/
def State.nextTeams (s : State) (task : Nat) : List (Option Nat × Nat) :=
  let tk := s.task task
  let n := lrecTeams tk.lrec
  if lrecCores tk.lrec then
    if tk.saved != [] then
      if s.teams.any fun p => p.2.live && p.2.task == task && p.2.leaving then [] else tk.saved.map fun t => (some t, (s.team t).linear)
    else if tk.placed = 0 then (List.range n).map fun k => (none, k)
    else []
  else
    match firstBy (fun t => (s.team t).linear) tk.saved with
    | some t => [(some t, (s.team t).linear)]
    | none => if tk.placed < n then [(none, tk.placed)] else []

/-- What a team to be placed takes of a core. -/
def State.seatOf (s : State) (task : Nat) (t : Option Nat × Nat) : Seat :=
  match t.1 with
  | none => newSeat 0 (s.task task).lrec
  | some k =>
    let tm := s.team k
    { newSeat 0 (s.task task).lrec with per := (List.range 4).map (s.teamSlots tm) }

/-- Cores for the teams to be placed, with the teams of `gone` counted as gone. -/
def State.placesFor (s : State) (task : Nat) (ts : List (Option Nat × Nat)) (gone : List Nat) : Option (List Nat) :=
  pickAll (s.openFor task) (lrecPoolw (s.task task).lrec) (fun k => (s.core k).poolw) (s.seats gone) (ts.map (s.seatOf task))

/-- Places the teams: cores held for the task are released, and the first placement sets STATE to 2 (03 R21; 31 R321). -/
def State.placeTeams (s : State) (task : Nat) (ts : List ((Option Nat × Nat) × Nat)) : Option State :=
  let first := (s.task task).placed == 0
  let s1 : State := { s with cores := s.cores.map fun p => (p.1, if p.2.heldFor == some task then { p.2 with heldFor := none } else p.2) }
  let s2 := ts.foldl (fun s p => match p.1.1 with | none => s.startTeam task p.1.2 p.2 | some t => s.resumeTeam t p.2) s1
  if first then s2.tcbState task 2 0 else some s2

/-- The victims of a blocked team, one after another: the lowest PRIO first, within it the most recently placed; a grid with CORES = 1 as a whole (03 R22, R23). The answer is empty where even all of them are not enough. -/
def State.victims (s : State) (task : Nat) (ts : List (Option Nat × Nat)) : Nat → List Nat → List Nat
  | 0, _ => []
  | n + 1, gone =>
    let prio := fun (t : Nat) => lrecPrio (s.task (s.team t).task).lrec
    let cand := (s.teams.filter fun p => p.2.live && !gone.contains p.1 && !p.2.leaving && prio p.1 < lrecPrio (s.task task).lrec).map (·.1)
    match firstBy (fun t => prio t * 2 ^ 64 + (2 ^ 64 - (s.team t).placed)) cand with
    | none => []
    | some v =>
      let all := if lrecCores (s.task (s.team v).task).lrec then cand.filter fun t => (s.team t).task == (s.team v).task else [v]
      let gone1 := gone ++ all
      if (s.placesFor task ts gone1).isSome then all
      else match s.victims task ts n gone1 with
        | [] => []
        | l => all ++ l

/-- A team is pre-empted: its groups stop at their pre-emption points; a team that is just resuming goes again once it has resumed (03 R23, 27 R288). Its core is held for the blocked task. -/
def State.preempt (s : State) (task t : Nat) : State :=
  let tm := s.team t
  let k := s.core tm.core
  (s.setTeam t (if tm.save == .resuming then { tm with again := true } else { tm with save := .preempting, stopped := [] })).setCore tm.core
    { k with heldFor := some (k.heldFor.getD task) }

/-- One action of the dispatcher for a task: its refusal, a placement, or the choice of victims (03 R20 to R23); none where it can do nothing. -/
def State.serve (s : State) (task : Nat) : Option State :=
  let tk := s.task task
  if !tk.checked then
    match refusal tk.lrec (s.ctx tk.ctx) with
    | 0 => some (s.setTask task { tk with checked := true })
    | n =>
      ((s.setTask task { tk with checked := true, refused := true }).setCtx tk.ctx ((s.ctx tk.ctx).recordAt s.cycle coreCount 0 0 causeIllegal tk.tcb)).tcbState task 4 n
  else
    match s.nextTeams task with
    | [] => none
    | ts =>
      match s.placesFor task ts [] with
      | some ks => s.placeTeams task (ts.zip ks)
      | none =>
        let going := (s.teams.filter fun p => p.2.live && p.2.leaving).map (·.1)
        if (s.placesFor task ts going).isSome then none
        else match s.victims task ts s.teams.length going with
          | [] => none
          | vs => some (vs.foldl (fun s t => s.preempt task t) s)

/-- TEAM_PLACEMENT: the dispatcher takes its next action, for the first task in the order of service that has one (03 R20 to R23; 31 R320, R321). While the gates are held no new team starts (01 R13); that the dispatcher then takes no other action either, so that no saved team resumes, no victim is chosen and no launch is refused, is the model's choice (assumption log 50). -/
def execTeamPlacement (s : State) : Host.Outcome State Fault Refusal :=
  if s.plat.gates || s.plat.pstate = 3 then .next s
  else
    let l := s.waitingTasks
    .next (((s.serviceOrder l.length l).findSome? s.serve).getD s)

/-! ### REGROUP's exchange (03 R39 to R44) -/

/-- A lane as REGROUP orders it: key, old gid, old lane, and its group. -/
structure Mover where
  key  : Nat
  gid  : Nat
  lane : Nat
  uid  : Nat
deriving DecidableEq, Repr

/-- Cuts a list into pieces of at most 32. -/
def cut32 : Nat → List Mover → List (List Mover)
  | 0, _ => []
  | n + 1, l => if l.isEmpty then [] else l.take 32 :: cut32 n (l.drop 32)

/-- Groups that `n` lanes fill. -/
def groupsFor (n : Nat) : Nat := (n + 31) / 32

/-- The keys merged where pure groups would exceed the capacity: two lowest-ranked, then one by one, until the rest fits (03 R41). -/
def mergeSet (cap : Nat) (pop : Nat → Nat) (ranked : List Nat) : List Nat :=
  let fits := fun (k : Nat) =>
    let m := ranked.take k
    ((ranked.drop k).map fun x => groupsFor (pop x)).foldl (· + ·) (groupsFor ((m.map pop).foldl (· + ·) 0)) ≤ cap
  if fits 0 then []
  else match (List.range (ranked.length + 1)).find? fun k => 2 ≤ k && fits k with
    | some k => ranked.take k
    | none => ranked

/-- Puts a key in its place among keys ranked by the number of their lanes, then by value (03 R41). -/
def rankInsert (pop : Nat → Nat) (k : Nat) : List Nat → List Nat
  | [] => [k]
  | a :: t => if pop k < pop a || (pop k == pop a && k ≤ a) then k :: a :: t else a :: rankInsert pop k t

/-- The packing: each new group's key and movers, in the order of their new gids (03 R40, R41). Movers come sorted by old gid and lane. -/
def packing (cap : Nat) (ms : List Mover) : List (W32 × List Mover) :=
  let pop := fun (k : Nat) => (ms.filter (·.key == k)).length
  let keys := (List.range 256).filter fun k => pop k != 0
  let ranked := keys.foldr (rankInsert pop) []
  let merged := mergeSet cap pop ranked
  let pure_ := (keys.filter fun k => !merged.contains k).flatMap fun k => (cut32 33 (ms.filter (·.key == k))).map fun l => (BitVec.ofNat 32 k, l)
  let mixed := (cut32 33 ((keys.filter fun k => merged.contains k).flatMap fun k => ms.filter (·.key == k))).map fun l => (0xFFFFFFFF#32, l)
  pure_ ++ mixed

/-- The participants, ascending by gid: VECTOR groups that have not retired or been killed (03 R39). -/
def State.participants (s : State) (t : Team) : List Nat :=
  (t.groups.filter fun p => let g := s.group p.2; g.role == .vector && g.status == .live).map (·.2)

/-- The exchange may start: every participant has arrived and drained its counters, and the team is not being saved (03 R39, R44). -/
def State.regroupReady (s : State) (t : Team) : Bool :=
  let ps := s.participants t
  t.live && (t.save == .running || t.save == .preempting) && !ps.isEmpty &&
  ps.all fun u =>
    let g := s.group u
    (g.wait matches .regroup) && t.arrived.contains g.gid && !t.stopped.contains g.gid && g.pend.isEmpty && g.copies.isEmpty

/-- The value that a lane of a register that is not carried takes: zero or one held before by some register of some participating lane; which is free (03 R42; assumption log 5). -/
def State.leftOver (s : State) (ms : List Mover) (nv n : Nat) : W32 :=
  let c := Config.freeNat n
  if c % 2 = 0 then 0
  else match ms[c / 2 % (max ms.length 1)]? with
    | none => 0
    | some m => (s.group m.uid).rl (c / 2 / (max ms.length 1) % max nv 1) m.lane

/-- A vector register of a new group, with its poison: carried with its lanes, else open (03 R42, R44). -/
def State.movedReg (s : State) (ms here : List Mover) (carried : Bool) (nv r seed : Nat) : VReg × Lanes :=
  if carried then
    (here.zipIdx.foldl (fun v m => setLane v m.2 ((s.group m.1.uid).rl r m.1.lane)) 0,
     laneSet ((here.zipIdx.filter fun m => inSet ((s.group m.1.uid).rvp r) m.1.lane).map (·.2)))
  else (mapLanes 0xFFFFFFFF (fun k => s.leftOver ms nv (seed + 32 * r + k)) 0, 0)

/-- A new group (03 R42). `p0` is the participant with the lowest old gid, `flags` the OR of every XSTAT, `f` the REGROUP. -/
def State.regrouped (s : State) (p0 : Group) (f : FV) (flags : BitVec 3) (ms : List Mover) (gid seed : Nat) (key : W32) (here : List Mover) : Group :=
  let regs := (List.range p0.nv).map fun r => (r, s.movedReg ms here (f.vb.toNat ≤ r && r ≤ f.vc.toNat) p0.nv r seed)
  let exist := laneSet (List.range here.length)
  let g : Group :=
    { status := .live, team := p0.team, gid := gid, role := .vector, nv := p0.nv, nx := p0.nx, ns := p0.ns, na := p0.na,
      v := regs.map fun r => (r.1, r.2.1), vp := (regs.filter fun r => r.2.2 != 0).map fun r => (r.1, r.2.2),
      x := (List.range p0.nx).map fun n => (n, 0xFFFFFFFFFFFFFFFF),
      s := p0.s, sp := p0.sp, bankU := p0.bankU, bankS := p0.bankS, bankP := p0.bankP,
      pc := p0.nextPc, stack := [{ mask := exist }], exited := ~~~exist,
      tids := here.zipIdx.foldl (fun v m => setLane v m.2 (lane (s.group m.1.uid).tids m.1.lane)) 0,
      tokens := p0.tokens, xstat := flags, gctl := p0.gctlNext, gctlNext := p0.gctlNext, pathq := p0.pathq, engseq := p0.engseq, calls := p0.calls,
      key := key, mode := p0.mode, targ := p0.targ, cause := p0.cause, frameU := p0.frameU, frameS := p0.frameS }
  g.ws f.vd.toNat key

/-- The recount of a barrier, with E := max(0, E − Vold + Vnew) (03 R43): `old` are the gids of the old VECTOR groups, `vold` and `vnew` their number before and after. -/
def Barrier.recount (b : Barrier) (old : List Nat) (vold vnew : Nat) : Barrier :=
  let keep := fun (l : List Nat) => l.filter fun g => !old.contains g
  { b with e := b.e + vnew - vold, arr := keep b.arr, carried := keep b.carried, gone := keep b.gone }.eval

/-- An engine operation after the exchange: one that the participant `p0` issued completes in every new group, another's in none (21 R226). -/
def EngOp.regrouped (o : EngOp) (olds news : List Nat) (p0 : Nat) : EngOp :=
  let kept := o.groups.filter fun u => !olds.contains u
  if o.groups.contains p0 then { o with groups := kept ++ news, group := if olds.contains o.group then news.headD o.group else o.group }
  else { o with groups := kept }

/-- Seats the new groups and gives the first of them the armed traps of every participant. -/
def State.seatNew (s : State) (team : Nat) : List (Nat × Group) → State
  | [] => s
  | (u, g) :: t =>
    let tm := s.team team
    ((s.setTeam team { tm with groups := tset tm.groups g.gid u }).seatGroup u g).seatNew team t

/-- REGROUP_EXCHANGE for team `s.who` (03 R39 to R43; 15 R179; 21 R226, R230). -/
def execRegroupExchange (s : State) : Host.Outcome State Fault Refusal :=
  let t := s.team s.who
  let ps := s.participants t
  match t.regroup, ps with
  | some (_, .regroup f), u0 :: _ =>
    if !s.regroupReady t then .next s
    else
      let p0 := s.group u0
      let ms := ps.flatMap fun u =>
        let g := s.group u
        (lanesOf (~~~g.exited)).map fun l => ({ key := (g.rl f.va.toNat l).toNat % 256, gid := g.gid, lane := l, uid := u } : Mover)
      let cap := t.slots - t.nfeed - t.nmtx
      let packs := packing cap ms
      let flags := ps.foldl (fun x u => x ||| (s.group u).xstat) 0
      let armed := ps.flatMap fun u => (s.group u).armed
      let uids := (List.range packs.length).map (s.nextId + ·)
      let olds := (t.groups.filter fun p => (s.group p.2).role == .vector)
      let vold := olds.length
      let s1 : State := { s with nextId := s.nextId + packs.length, free := s.free + 32 * 256 * packs.length }
      let new := (packs.zip uids).zipIdx.map fun p =>
        let g := s.regrouped p0 f flags ms p.2 (s.free + 32 * 256 * p.2) p.1.1.1 p.1.1.2
        (p.1.2, if p.2 = 0 then { g with armed := armed } else g)
      let s2 := ps.foldl (fun s u =>
        let g := s.group u
        s.setGroup u { g with status := .retired, clause := none, wait := .none, resv := [], armed := [], product := none }) s1
      let s3 : State := { s2 with ops := s2.ops.map fun p => (p.1, p.2.regrouped ps uids u0) }
      let tm := s3.team s.who
      let s4 := s3.setTeam s.who
        { tm with groups := tm.groups.filter (fun p => !olds.any (·.1 == p.1)), regroup := none, arrived := [],
                  bars := (List.range 16).foldl (fun bs n => tset bs n ((tm.bar n).recount (olds.map (·.1)) vold packs.length)) tm.bars }
      .next (s4.seatNew s.who new)
  | _, _ => .next s

/-! ### Retirement and the end of a team (03 R45, 19 R220) -/

/-- The groups of a team, retired ones of before a REGROUP among them. -/
def State.membersOf (s : State) (team : Nat) : List (Nat × Group) := s.groups.filter fun p => p.2.team == team && p.2.status != .idle

/-- An operation that reads or writes its team's scratchpad. -/
def EngOp.copies (o : EngOp) : Bool := o.kind == .load || o.kind == .store || o.kind == .stash

/-- Where the team area of a team begins: slot 32 (27 R291). -/
def teamArea (c : Ctx) (team : Nat) : Nat := saveBase c team 32

/-- Device loads of consecutive lines into a scratchpad image. -/
def State.areaRead (s : State) (ctx base : Nat) : Nat → MemR Memory
  | 0 => .ok (s, [])
  | n + 1 =>
    match s.areaRead ctx base n with
    | .error e => .error e
    | .ok (s1, m) =>
      match s1.devRead ctx (base + 128 * n) 128 with
      | .error e => .error e
      | .ok (s2, x) => .ok (s2, mwriteL noSide m (128 * n) (bytesOf 128 x))

/-- The operations of a restored team take the free slots of its core in the order of their issue, and go on; those that find none wait for one (19 R204, 27 R290; assumption log 50). -/
def State.resumeOps (s : State) (team : Nat) : State :=
  let core := (s.team team).core
  let mine := (s.ops.filter fun p => p.2.team == team && p.2.status != .cancelled).map (·.1)
  let now := mine.take (16 - s.usedSlots core)
  { s with ops := s.ops.map fun p =>
    (p.1, if p.2.team != team then p.2
          else { p.2 with core := core, slot := now.contains p.1 || p.2.status == .cancelled,
                          status := if p.2.status == .parked none && now.contains p.1 then .running else p.2.status }) }

/-- Where the last group of a team dies in a handler of its save or resumption, its stores go on from the image that the team area holds, as after a resumption; none where the area cannot be read now (19 R220; 27 R289; assumption log 50). -/
def State.revive (s : State) (team : Nat) : Option State :=
  let t := s.team team
  if (t.save == .saving || t.save == .resuming) && s.ops.any fun p => p.2.team == team && (p.2.kind == .store || p.2.kind == .stash) then
    match s.areaRead t.ctx (teamArea (s.ctx t.ctx) t.linear) (s.spadSize team / 128) with
    | .error _ => none
    | .ok (s1, m) => some ((s1.resumeOps team).setTeam team { t with spad := m, absent := t.keptAbsent, spadPoison := t.keptPoison, save := .running, again := false })
  else some s

/-- A team with no live group ends: its load-direction operations are cancelled, it leaves its sharing group, and once no operation or access of it is open it frees what it holds (03 R45; 17 R197, R199; 19 R220). -/
def State.endTeam (s : State) (team : Nat) : State :=
  let t := s.team team
  if !t.live || (s.membersOf team).any (fun p => p.2.status == .live) then s
  else
    let s1 := (s.ops.filter fun p => p.2.team == team && p.2.kind == .load && p.2.status != .cancelled).foldl (fun s p => s.cancelOp p.2 none) s
    match (s1.revive team).map fun s => s.leaveShare team with
    | none => s1
    | some (s2, false) => s2
    | some (s2, true) =>
      if (s2.ops.any fun p => p.2.team == team && p.2.copies) || ((s2.membersOf team).any fun p => p.2.pend != [] || p.2.moves != []) then s2
      else s2.setTeam team { s2.team team with live := false, spad := [], absent := [], spadPoison := [], rings := [], bars := [], regroup := none,
                                               arrived := [], stopped := [], save := .running, again := false, kept := [] }

/-- GROUP_RETIRE for group `s.who`: a group whose last lane has exited retires once its loads, stores and tile moves have completed; with its team's last group the team ends (03 R38, R45). -/
def execGroupRetire (s : State) : Host.Outcome State Fault Refusal :=
  let g := s.cur
  if g.status == .live && g.exited == 0xFFFFFFFF && g.clause.isNone && g.pend.isEmpty && g.moves.isEmpty then
    let s1 := (s.setCur { g with status := .retired, resv := [], wait := .none, armed := [] }).groupGone s.who
    .next (s1.endTeam g.team)
  else if g.status == .retired || g.status == .killed then .next (s.endTeam g.team)
  else .next s

/-! ### The end of a grid (03 R46; 31 R321) -/

/-- Every core writes back the dirty lines of a context, of all colours (03 R46). -/
def State.flushCores (s : State) (ctx : Nat) : List Nat → MemR Unit
  | [] => .ok (s, ())
  | k :: t =>
    match s.flushL1 k ctx (s.ctx ctx).asid 0xFF with
    | .error e => .error e
    | .ok (s1, _) => s1.flushCores ctx t

/-- One successor: its PRED is decremented at its home, and never wraps (31 R321). The answer is false where the entry is bad; a poisoned PRED is left alone and recorded. -/
def State.succeed (s : State) (ctx tcb : Nat) : MemR Bool :=
  let a := tcb + 0x40
  if !isCanonical tcb || isRemote tcb then .ok (s, false)
  else
    let r := s.devReq ctx a
    match s.homeLine r with
    | .error .wait => .error .wait
    | .error _ => .ok (s, false)
    | .ok (s1, l) =>
      if !l.attrs.w then .ok (s, false)
      else if s1.pageFull r.asid r.va then .error .wait
      else if l.poison then .ok (s1.deferred 2 r.asid r.va r.core, true)
      else
        let n := lineNat l.data (a % 128) 4
        .ok (if n = 0 then s1 else s1.homeWrite r l (byteMask (a % 128) 4) (lineSet l.data (a % 128) 4 (n - 1)) 0 false, true)

/-- The successors in list order; a bad entry is recorded with its own VA (31 R321). -/
def State.successors (s : State) (ctx list : Nat) : Nat → MemR Bool
  | 0 => .ok (s, true)
  | n + 1 =>
    match s.successors ctx list n with
    | .error e => .error e
    | .ok (s1, good) =>
      let a := (list + 8 * n) % 2 ^ 64
      let bad (s : State) : State × Bool := (s.setCtx ctx ((s.ctx ctx).recordAt s.cycle coreCount 0 0 causeProtection a), false)
      match s1.devBytes ctx a 8 with
      | .error .wait => .error .wait
      | .error _ => .ok (bad s1)
      | .ok (s2, tcb) =>
        match s2.succeed ctx tcb with
        | .error e => .error e
        | .ok (s3, true) => .ok (s3, good)
        | .ok (s3, false) => .ok (bad s3)

/-- Every team of the task has been placed and has ended, and no engine operation of it is left (03 R46). -/
def State.gridOver (s : State) (k : Nat) : Bool :=
  let tk := s.task k
  let mine := (s.teams.filter fun p => p.2.task == k && p.2.ctx == tk.ctx).map (·.1)
  tk.gate && tk.checked && !tk.done && !tk.refused && tk.placed == lrecTeams tk.lrec && tk.saved == [] &&
  (s.teams.all fun p => p.2.task != k || !p.2.live) && (s.ops.all fun p => !mine.contains p.2.team)

/-- GRID_END for task `s.who`: write-backs, drained write-combining entries, STATE 3, then the successors, and STATE 5 where an entry was bad (03 R46; 15 R174; 31 R321). -/
def execGridEnd (s : State) : Host.Outcome State Fault Refusal :=
  let k := s.who
  let tk := s.task k
  if !s.gridOver k then .next s
  else
    match s.flushCores tk.ctx (tkeys s.cores) with
    | .error _ => .next s
    | .ok (s1, _) =>
      let s2 := (tkeys s1.cores).foldl (fun s c => s.wcbSendAll c fun e => e.task == k && e.ctx == tk.ctx) s1
      if s2.cores.any fun p => p.2.wcb.any fun e => e.task == k && e.ctx == tk.ctx then .next s2
      else
        match (s2.setTask k { tk with done := true }).tcbState k 3 0 with
        | none => .next s2
        | some s3 =>
          let n := match s3.devRead tk.ctx (tk.tcb + 0x4C) 2 with | .ok (_, x) => x | .error _ => 0
          let list := match s3.devRead tk.ctx (tk.tcb + 0x50) 8 with | .ok (_, x) => x | .error _ => 0
          match s3.successors tk.ctx list n with
          | .error _ => .next s2
          | .ok (s4, true) => .next s4
          | .ok (s4, false) => .next ((s4.tcbState k 5 0).getD s4)

/-! ### Pre-emption (23 R256; 27 R288, R289) -/

/-- The group stands at a place where it stops for pre-emption: at a boundary where no trap is entered first, at a chunk boundary of a product, parked on an absent line, at REGROUP (27 R284, R288), or at a BARRIVE that waits for its carried arrival to be counted, which it makes again on resumption (assumption log 50). -/
def State.stopPlace (s : State) (u : Nat) : Bool :=
  let g := s.group u
  g.mode != .sysHandler && g.exited != 0xFFFFFFFF && !g.faultParked &&
  (match g.clause with
   | none => g.resume.isNone && !s.trapDue u &&
       (g.wait matches .none | .bar _ _ | .barCarry _ _ | .rwait _ _ _ _ | .gbar _ _ | .nrmrd _ _ | .mirror _ _ _ _ _ | .fetchFault _ _)
   | some _ =>
     match g.product with
     | some p => 1 ≤ p.next && p.next < p.chunks
     | none => g.wait matches .absent _ | .regroup | .barCarry _ _)

/-- PREEMPT_POINT for group `s.who`: it stops. A product stops with its progress in MPROG and leaves the array's queue; an arrival at REGROUP is taken back, to be made again (03 R44; 23 R255, R256; 27 R288). -/
def execPreemptPoint (s : State) : Host.Outcome State Fault Refusal :=
  let g := s.cur
  let t := s.team g.team
  if g.status == .live && t.live && t.save == .preempting && !t.stopped.contains g.gid && s.stopPlace s.who then
    let arrived := t.arrived.filter (· != g.gid)
    let t1 := { t with stopped := ninsert t.stopped g.gid, arrived := arrived, regroup := if arrived.isEmpty then none else t.regroup }
    let g1 := match g.product with
      | some p => { g with product := none, wait := .none, mprog := mprogOf p.next (g.herePc.toNat / 8) }
      | none => if g.clause.isSome then { g with wait := .none } else g
    let k := s.core t.core
    .next (((s.setTeam g.team t1).setCur g1).setCore t.core { k with arrayQ := k.arrayQ.filter (· != s.who) })
  else .next s

/-- The barriers and rings as the team area keeps them behind the scratchpad image, whose layout is the device's own (27 R289, R291; assumption log 21). -/
def teamWords (bars rings : List W64) : Nat := ((bars ++ rings).zipIdx.map fun w => w.1.toNat * 2 ^ (64 * w.2)).foldl (· + ·) 0

/-- Device stores of consecutive whole lines; `f k` holds the data of line `k`. -/
def State.areaWrite (s : State) (ctx base : Nat) (f : Nat → Nat) : Nat → MemR Unit
  | 0 => .ok (s, ())
  | n + 1 =>
    match s.areaWrite ctx base f n with
    | .error e => .error e
    | .ok (s1, _) => s1.devWrite ctx (base + 128 * n) 128 (f n)

/-- Every live group of the team has stopped, its groups' accesses are complete, and each of its operations is done, parked, or, a copy, one that is to park here (27 R288, R289; 19 R220). -/
def State.saveReady (s : State) (team : Nat) (park : List Nat) : Bool :=
  let t := s.team team
  let ms := s.membersOf team
  t.live && t.save == .preempting && (ms.any fun p => p.2.status == .live) &&
  (ms.all fun p => (p.2.status != .live || t.stopped.contains p.2.gid) && p.2.pend.isEmpty && p.2.moves.isEmpty) &&
  (s.ops.all fun p => p.2.team != team ||
    (match p.2.status with
     | .parked _ => true
     | .running => p.2.copies && park.contains p.1
     | .cancelled => false))

/-- A stopped group enters the system handler with PREEMPT (27 R289). -/
def State.enterSave (s : State) (u : Nat) : State :=
  let g := s.group u
  let r : ResumeAt := match g.clause with
    | some c => ⟨g.pc, true, c.idx, c.words.length⟩
    | none => ⟨g.pc, false, 0, 0⟩
  s.trap u causePreempt 0 g.herePc r

/-- TEAM_SAVE for team `s.who`: its copies park, it leaves its sharing group, its reservations are cleared, the team area is written, and every live group enters the system handler, which finds every scratchpad line present (15 R179; 17 R199; 27 R289). `park` names the operations that the device parks here. -/
def execTeamSave (park : List Nat) (s : State) : Host.Outcome State Fault Refusal :=
  let k := s.who
  if !s.saveReady k park then .next s
  else
    match s.leaveShare k with
    | (s1, false) => .next s1
    | (s0, true) =>
      let s1 := (s0.ops.filter fun p => p.2.team == k).foldl (fun s p => let r := s.flushScales p.2; r.1.setOp r.2) s0
      let t := s1.team k
      let c := s1.ctx t.ctx
      let lines := s1.spadSize k / 128
      let words := teamWords ((List.range 16).map fun n => (t.bar n).word) ((List.range 8).map fun n => (t.ring n).word)
      match s1.areaWrite t.ctx (teamArea c t.linear) (fun n => if n < lines then mreadN noSide t.spad (128 * n) 128 else natField words (1024 * (n - lines)) 1024) (lines + 2) with
      | .error _ => .next s1
      | .ok (s2, _) =>
        let s3 : State := { s2 with ops := s2.ops.map fun p =>
          (p.1, if p.2.team == k && p.2.status == .running then { p.2 with status := .parked none } else p.2) }
        let s4 := s3.setTeam k { t with save := .saving, stopped := [], keptAbsent := t.absent, keptPoison := t.spadPoison, keptBars := t.bars,
                                        keptRings := t.rings, absent := [] }
        let live := (s4.membersOf k).filter fun p => p.2.status == .live
        .next (live.foldl (fun s p => (s.setGroup p.1 { s.group p.1 with resv := [] }).enterSave p.1) s4)

/-- The team's handlers have nothing outstanding: accesses, moves, and operations that are not parked. -/
def State.handlersIdle (s : State) (team : Nat) : Bool :=
  ((s.membersOf team).all fun p => p.2.pend.isEmpty && p.2.moves.isEmpty) &&
  (s.ops.all fun p => p.2.team != team || (p.2.status matches .parked _))

/-- TEAM_LEAVE_CORE for team `s.who`: every group has parked; the team leaves its core (27 R289). -/
def execTeamLeaveCore (s : State) : Host.Outcome State Fault Refusal :=
  let k := s.who
  let t := s.team k
  let live := (s.membersOf k).filter fun p => p.2.status == .live
  if t.live && t.save == .saving && !live.isEmpty && (live.all fun p => p.2.wait == .parked) && s.handlersIdle k then
    let tk := s.task t.task
    .next ((s.setTeam k { t with live := false, save := .saved, kept := live, spad := [], spadPoison := [] }).setTask t.task { tk with saved := tk.saved ++ [k] })
  else .next s

/-! ### Resumption (27 R290, R292) -/

/-- Stack entry `k` of a block, counted from the bottom. -/
def blockEntry (b : BitVec 32768) (k : Nat) : StackEntry :=
  { pc := BitVec.ofNat 64 (blkField b (0x100 + 32 * k) 0 64), rcv := BitVec.ofNat 64 (blkField b (0x108 + 32 * k) 0 64),
    mask := BitVec.ofNat 32 (blkField b (0x110 + 32 * k) 0 32) }

/-- The pending wait of a block (27 R292); what the block does not hold comes from the wait kept. -/
def blockWait (b : BitVec 32768) (t : Team) (kept : GWait) (next : Nat) : GWait :=
  let n := blkField b 0x0F0 8 8
  let x := blkField b 0x0F0 16 32
  match blkField b 0x0F0 0 4, kept with
  | 0, _ => .none
  | 1, .bar k u => if k = n then .bar k u else .bar n ((t.bar n).phases + 1)
  | 1, .barCarry k u => if k = n then .barCarry k u else .bar n ((t.bar n).phases + 1)
  | 1, _ => .bar n ((t.bar n).phases + 1)
  | 2, _ => .rwait n (x % 16) (x / 2 ^ 31 == 1) (x / 16 % 2 == 1)
  | 3, .gbar _ tag => .gbar n tag
  | 4, .nrmrd j _ => .nrmrd (if j.isNone then none else some x) n
  | 4, _ => .nrmrd (some x) n
  | 5, .mirror _ upto pc idx words => .mirror n upto pc idx words
  | 5, _ => .mirror n next 0 0 0
  | _, _ => .none

/-- The spilled entries of a stack, read again from the spill area at group scope: those above index 31, bottom first (03 R32). -/
def State.spilledEntries (s : State) (g : Group) : Nat → MemR (List StackEntry)
  | 0 => .ok (s, [])
  | n + 1 =>
    match s.spilledEntries g n with
    | .error e => .error e
    | .ok (s1, l) =>
      let a := s1.spillAddr g (32 + n)
      match s1.loadAt (s1.reqOf g a) 0 0 16 with
      | .error e => .error e
      | .ok (s2, (lo, _)) =>
        match s2.loadAt (s2.reqOf g (a + 16)) 0 0 16 with
        | .error e => .error e
        | .ok (s3, (hi, _)) => .ok (s3, l ++ [{ pc := BitVec.ofNat 64 lo, rcv := BitVec.ofNat 64 (lo / 2 ^ 64), mask := BitVec.ofNat 32 hi }])

/-- The tokens of a block: counts, signalled bits and completion records; the flags held and the last operation come from the frame kept (05 R53, 19 R217). -/
def blockTokens (b : BitVec 32768) (kept : Tbl Token) : Tbl Token :=
  (List.range 8).map fun t =>
    (t, { sig := blkField b 0x058 t 1 == 1, count := BitVec.ofNat 4 (blkField b 0x054 (4 * t) 4), held := (tgetD kept t {}).held,
          status := BitVec.ofNat 3 (blkField b (0xA40 + 8 * t) 32 3), oob := BitVec.ofNat 32 (blkField b (0xA40 + 8 * t) 0 32), last := (tgetD kept t {}).last })

/-- The pending ring operations of a block; the operations that each still waits for come from the frame kept (21 R230, 27 R292). -/
def blockRingOps (b : BitVec 32768) (kept : List RingOp) : List RingOp :=
  (List.range 4).filterMap fun k =>
    let f := blkField b (0x070 + 8 * k)
    if f 15 1 = 1 then
      some { rel := f 8 1 == 1, ring := f 0 3, stage := f 3 4, phase := f 7 1 == 1, tok := if f 9 1 = 1 then some (f 10 3) else none,
             waits := match kept[k]? with | some o => o.waits | none => [] }
    else none

/-- The copy counter of a block: the operations that were outstanding as the handler was entered; one beyond those names none (05 R53, 27 R289, R292). -/
def blockCopies (n : Nat) (kept : List CopyRef) : List CopyRef :=
  kept.take n ++ List.replicate (n - kept.length) { op := 0 }

/-- The staged block replaces the group's hidden state; the registers are those that the handler restored (27 R287, R290, R292). `spilled` are the stack entries above index 31, bottom first. -/
def applyBlock (b : BitVec 32768) (g kept : Group) (t : Team) (skip : Bool) (spilled : List StackEntry) (next : Nat) : Group :=
  let kf : Frame := kept.frameS.getD {}
  let pc : VA := BitVec.ofNat 57 (blkField b 0x008 0 57)
  let inside := blkField b 0x008 57 1 == 1
  let idx := blkField b 0x008 58 4
  let mode : Mode := if blkField b 0x018 14 2 = 1 then .userHandler else .user
  let here : VA × Option Nat :=
    if !inside then (pc, none)
    else if !skip then (pc, some idx)
    else if kf.endsClause then (pc + BitVec.ofNat 57 (8 * (kf.hdrWords + 1)), none)
    else (pc, some (idx + 1))
  let stack := spilled.reverse ++ ((List.range (blkField b 0x068 0 6)).map (blockEntry b)).reverse
  let own := (List.range 8).map fun k => (120 + k, BitVec.ofNat 32 (blkField b (0x0B0 + 4 * k) 0 32))
  let words := fun (off n width : Nat) => (List.range n).map fun k => (k, blkField b (off + width * k) 0 (8 * width))
  let gctl : BitVec 2 := BitVec.ofNat 2 (blkField b 0x028 0 2)
  { g with
    pc := here.1, resume := here.2, clause := none,
    waits := if inside then noWait else FW.ofWord (blkField b 0x010 0 64),
    targ := BitVec.ofNat 32 (blkField b 0x018 32 32), cause := blkField b 0x018 24 8, mode := mode,
    xstat := BitVec.ofNat 3 (blkField b 0x020 0 3), gctlNext := gctl, gctl := if inside then kf.gctl else gctl,
    mprog := BitVec.ofNat 64 (blkField b 0x030 0 64), pathq := BitVec.ofNat 32 (blkField b 0x038 0 32), pathCount := blkField b 0x038 32 32,
    engseq := BitVec.ofNat 64 (blkField b 0x040 0 64), calls := BitVec.ofNat 32 (blkField b 0x048 0 32), key := BitVec.ofNat 32 (blkField b 0x04C 0 32),
    tokens := blockTokens b kf.tokens, copies := blockCopies (blkField b 0x050 16 4) kf.copies, pend := [], moves := [],
    wait := blockWait b t kf.wait next,
    norm := if blkField b 0x0F8 0 1 = 0 then none else if blkField b 0x0F0 0 4 = 2 || blkField b 0x0F0 0 4 = 4 then kf.norm else some (blkField b 0x0F0 16 32),
    widen := if blkField b 0x060 32 1 = 1 then some (BitVec.ofNat 32 (blkField b 0x060 0 32)) else none,
    stack := stack, exited := ~~~(blockEntry b 0).mask,
    ringOps := blockRingOps b kf.ringOps,
    frameU := if mode == .userHandler then some (unpackFrame (blkField b 0x090 0 256)) else none, frameS := none,
    s := own.foldl (fun s p => if p.1 < g.ns then tset s p.1 p.2 else s) g.s,
    bankU := (words 0x0D0 8 4).map fun p => (p.1, BitVec.ofNat 32 p.2), bankP := kept.bankP &&& 0x00FF,
    vp := ((words 0x500 256 4).filter fun p => p.2 != 0).map fun p => (p.1, BitVec.ofNat 32 p.2),
    xp := ((words 0x900 256 1).filter fun p => p.2 != 0).map fun p => (p.1, BitVec.ofNat 8 p.2),
    sp := BitVec.ofNat 128 (blkField b 0xA00 0 128), tp := BitVec.ofNat 16 (blkField b 0xA10 0 16), cp := BitVec.ofNat 8 (blkField b 0xA12 0 8),
    tiles := (words 0xAC0 16 4).foldl (fun ts p => if p.2 = 0 && (tget ts p.1).isNone then ts else tset ts p.1 { tgetD ts p.1 {} with shape := BitVec.ofNat 32 p.2 }) g.tiles,
    saved := false, staged := none, armed := kept.armed, seed := if inside then kf.seed else none, resv := [], product := none, bpSkip := false }

/-- Applies the staged blocks of the listed groups, one after another. -/
def State.applyBlocks (s : State) (t : Team) : List (Nat × Group) → MemR Unit
  | [] => .ok (s, ())
  | (u, kept) :: rest =>
    let g := s.group u
    let b := g.staged.getD 0
    match s.spilledEntries g (blkField b 0x068 16 16) with
    | .error e => .error e
    | .ok (s1, l) =>
      let skip := match g.wait with | .tretResume k => k | _ => false
      (s1.setGroup u (applyBlock b g kept t skip l s1.nextId)).applyBlocks t rest

/-- RESUME_RESTORE for team `s.who`: every group has reached its TRET; the team area is restored, the staged blocks replace the groups' state, and the parked operations go on (27 R290). -/
def execResumeRestore (s : State) : Host.Outcome State Fault Refusal :=
  let k := s.who
  let t := s.team k
  let live := (s.membersOf k).filter fun p => p.2.status == .live
  if t.live && t.save == .resuming && !live.isEmpty && (live.all fun p => p.2.wait matches .tretResume _) && s.handlersIdle k then
    match s.areaRead t.ctx (teamArea (s.ctx t.ctx) t.linear) (s.spadSize k / 128) with
    | .error _ => .next s
    | .ok (s1, m) =>
      let dead := (tkeys t.kept).filter fun u => (s.group u).status != .live
      let t0 := { t with spad := m, absent := t.keptAbsent, spadPoison := t.keptPoison, bars := t.keptBars, rings := t.keptRings }
      let t1 := dead.foldl (fun t u => t.barsGo (s.group u).gid) t0
      match (s1.setTeam k t1).applyBlocks t1 (live.map fun p => (p.1, (tget t.kept p.1).getD p.2)) with
      | .error _ => .next s
      | .ok (s2, _) =>
        .next ((s2.resumeOps k).setTeam k { t1 with save := if t.again then .preempting else .running, again := false, stopped := [], kept := [] })
  else .next s

end Sys2Proof.Machine
end

