-- ==== Sys2Proof/Machine/Home.lean ====
section
/-! DEFINITION. What caches and homes do on their own: requests of a line's home, pulls of released lines, invalidations and write-backs (15_memory_model.md R157 to R166, R178, R179; 25_translation.md R264, R277). -/

namespace Sys2Proof.Machine

/-- The request of a core for a line by its tag; none where no context holds the ASID. For a global page it is the first context's (assumption log 40). -/
def State.lineReq (s : State) (core asid : Nat) (va : VA) : Option Req :=
  match (if asid = 0 then s.ctxs.head? else s.ctxOfAsid asid) with
  | some (c, _) => if isRemote va.toNat then none else some ⟨core, c, asid, va.toNat⟩
  | none => none

/-- A line leaves the LLC of a die: a die that is not the home gives its copy back; the home evicts it after the pulls, unless it is pinned or must stay; a compressed page that it overflows becomes FULL (15 R160, R165, R178; 25 R277). -/
def State.evictFrom (s : State) (r : Req) : State :=
  let h := homeDie r.va
  if r.die != h && (s.llcAt r.die r.key).isSome then
    match (s.dirAt r.key).st with
    | .owned _ => match s.recall r.key with | .ok (s1, _) => s1 | .error _ => s
    | .shared m => (s.dropLlc r.die r.key).setDir r.key { s.dirAt r.key with st := if m &&& ~~~(1#4 <<< r.die) == 0 then .uncached else .shared (m &&& ~~~(1#4 <<< r.die)) }
    | .uncached => s.dropLlc r.die r.key
  else if s.pinned r.key || ((s.llcAt h r.key).map (·.stuck)).getD false then s
  else
    match s.evict r with
    | .error _ => s
    | .ok (s1, true) => s1
    | .ok (s1, false) => if s.pageFull r.asid r.va then s1 else s1.memoryFault r.ctx faultCompFull 1 (r.va / 128 * 128) r.core

/-- HOME_REQUEST: a read or fill, an ownership request, or an eviction, for a line on behalf of a core's die (15 R160, R165; 25 R264, R272). -/
def execHomeRequest (r : HomeReq) (s : State) : Host.Outcome State Fault Refusal :=
  match s.lineReq r.core r.asid r.va with
  | none => .next s
  | some q =>
    match r.kind with
    | .read => .next (match s.llcRead q with | .ok (s1, _) => s1 | .error _ => s)
    | .own => .next (match s.ownLine q with | .ok (s1, l) => if l.attrs.w then s1 else s | .error _ => s)
    | .evict => .next (s.evictFrom q)

/-- The oldest entry of a line's release record for a core. -/
def DirLine.entryOf (d : DirLine) (core : Nat) : Option RelEntry := d.rel.find? (·.core == core)

/-- RELEASE_PULL of a line by its home, answered by core `s.who`: the core writes back the dirty lines that the entry covers (15 R165, R341). -/
def execReleasePull (asid : Nat) (va : VA) (s : State) : Host.Outcome State Fault Refusal :=
  match (s.dirAt (lineKey asid va.toNat)).entryOf s.who with
  | none => .next s
  | some e => .next (match s.pullEntry e with | .ok (s1, _) => s1 | .error _ => s)

/-- PULL_ACK for a line from core `s.who`: the write-backs of the recorded context have been made, and the entry is retired (15 R165, R341). -/
def execPullAck (asid : Nat) (va : VA) (s : State) : Host.Outcome State Fault Refusal :=
  let k := lineKey asid va.toNat
  match (s.dirAt k).entryOf s.who with
  | none => .next s
  | some e =>
    if (s.core e.core).pulled e || (s.l1Covered e.core (s.ctx e.ctx).asid e.cols).all fun l => ((s.l1At e.core l).map (·.dirty)).getD 0 == 0 then
      .next (s.retire k e)
    else .next s

/-- DIRECTORY_INVALIDATE of a line at die `s.who`: a sharer that is not the home drops its copy; L1 copies stay (15 R160). -/
def execDirectoryInvalidate (asid : Nat) (va : VA) (s : State) : Host.Outcome State Fault Refusal :=
  let k := lineKey asid va.toNat
  let d := s.dirAt k
  match d.st with
  | .shared m =>
    if s.who < 4 && m.getLsbD s.who && s.who != homeDie va.toNat then
      let n := m &&& ~~~(1#4 <<< s.who)
      .next ((s.dropLlc s.who k).setDir k { d with st := if n == 0 then .uncached else .shared n })
    else .next s
  | _ => .next s

/-- L1_WRITE_BACK of a line by core `s.who`: its dirty bytes go to the LLC; an evicted line leaves L1 then (15 R158, R160; 25 R277). -/
def execL1WriteBack (asid : Nat) (va : VA) (evict : Bool) (s : State) : Host.Outcome State Fault Refusal :=
  let k := lineKey asid va.toNat
  match s.writeBack s.who (s.ctxOfKey 0 k) k with
  | .error _ => .next s
  | .ok (s1, _) => .next (if evict then s1.dropL1 s.who k else s1)

end Sys2Proof.Machine
end

