-- ==== Sys2Proof/Machine/Gallery.lean ====
section
/-! DEFINITION. The Gallery: requests served at their target, answers at their source, domain services, and the port group with its calendar, frames, retry and sessions (29_gallery.md R295 to R316; 33 R339). -/

namespace Sys2Proof.Machine

/-! ### Packets passed to the memory system -/

/-- The packet of the Gallery that an event serves: the one at index `s.who`. -/
def State.served (s : State) : Option Packet := s.gal.serve[s.who]?

/-- The packet that an event serves is served. -/
def State.took (s : State) : State :=
  { s with gal := { s.gal with serve := (s.gal.serve.zipIdx.filter fun p => p.2 != s.who).map (·.1) } }

/-- The line that a request acts on. -/
def packetLine (p : Packet) : Option Nat :=
  match p.kind with
  | .write a => some (a / 128)
  | .read a => some (a / 128)
  | .atomic a _ _ _ _ => some (a / 128)
  | .signal a _ => some (a / 128)
  | .mirror va => some (va / 128)
  | _ => none

/-- A packet carries a line (29 R303). -/
def packetHasLine (p : Packet) : Bool := match p.kind with | .write _ | .mirror _ | .readReply => true | _ => false

/-- The line of a packet goes from the die where it is to another of this device, over the boundaries between them (01 R8, R15). -/
def State.haul (s : State) (die : Nat) (p : Packet) : State × Packet :=
  if packetHasLine p then let r := s.cross p.die die p.line p.poison; (r.1, { p with die := die, line := r.2.1, poison := r.2.2 }) else (s, p)

/-- No earlier packet of the same source and colour acts on the same line (15 R176; 29 R301); mirrored writes of one source are all in order (29 R313). -/
def State.inOrder (s : State) (p : Packet) : Bool :=
  (s.gal.serve.take s.who).all fun q =>
    !(q.src == p.src && (match p.kind, q.kind with
      | .mirror _, .mirror _ => true
      | _, _ => q.colour == p.colour && (packetLine p).isSome && (packetLine q) == (packetLine p)))

/-! ### Answers at the source (15 R173, R174; 17 R183; 21 R232 to R234; 29 R308, R309, R313) -/

/-- What a write-combining entry does with its answer: performed frees it; a refusal drops it and its writers trap; one whose page is absent waits for its replay; after MOVED it is sent once more (29 R308, R309). -/
def State.wcbAnswer (s : State) (core : Nat) (e : WcbEntry) (k : PktKind) : State :=
  let gone (s : State) : State := s.wcbUpdate core fun l => l.filter (·.id != e.id)
  match k with
  | .refused => armWriters (gone s) causeRemoteError e
  | .moved => (s.wcbUpdate core fun l => l.map fun x => if x.id = e.id then { x with again := true } else x).wcbSend core { e with again := true }
  | .notPresent => s.wcbPark core e
  | _ => gone s

/-- A page that has left its serving device: the source drops its translation (29 R309). -/
def State.dropXlat (s : State) (p : Packet) : State :=
  match s.gal.reqs.find? (·.tag == p.tag) with
  | none => s
  | some q =>
    let unit := ((packetLine q).getD 0) * 128 / 65536
    { s with gal := { s.gal with xlats := s.gal.xlats.filter fun x => !(x.server == p.src && x.djob == p.djob && x.unit == unit) } }

/-- The core and entry that a tag names. -/
def State.wcbOf (s : State) (tag : Nat) : Option (Nat × WcbEntry) :=
  s.cores.findSome? fun c => (c.2.wcb.find? fun e => e.id == tag && e.sent && !e.again).map fun e => (c.1, e)

/-- The context whose mirrored write a tag names. -/
def State.mirrorOf (s : State) (tag : Nat) : Option (Nat × Ctx) := tfind s.ctxs fun _ c => c.mirrors.any (·.1 == tag)

/-- A mirrored write is answered: one that the buddy did not perform breaks its mirror (29 R313). -/
def State.mirrorAnswer (s : State) (k : Nat) (c : Ctx) (p : Packet) : State :=
  let s1 := s.setCtx k { c with mirrors := c.mirrors.filter (·.1 != p.tag) }
  if p.kind == .refused || p.kind == .notPresent then s1.mirrorBreaks k ((c.mirrors.filter (·.1 == p.tag)).map (·.2.2)) else s1

/-- An acknowledged invalidation: with the last one the unit is tracked no longer (29 R310). -/
def Gallery.invalAcked (g : Gallery) (tag : Nat) : Gallery :=
  { g with trackers := (g.trackers.map fun t => { t with pendingAcks := t.pendingAcks.filter (· != tag) }).filter fun t => t.pendingAcks != [] || t.devs != [] || t.all }

/-- The die of the core whose lane or engine operation an answer is for. -/
def State.askerDie (s : State) (p : Packet) : Nat :=
  match s.groups.find? fun g => g.2.pend.any fun o => o.lanes.any fun a => a.tag == some p.tag with
  | some g => dieOf (s.teamOf g.2).core
  | none => match s.ops.find? fun e => e.2.waits.contains p.tag with | some e => dieOf e.2.core | none => p.die

/-- An answer reaches whoever asked: a lane, an engine operation, a translation, a write-combining entry, a mirror. -/
def State.answer (s : State) (q : Packet) : State :=
  let (s9, p) := s.haul (s.askerDie q) q
  let s0 := if p.kind == .moved then s9.dropXlat p else s9
  let s1 : State := { s0 with gal := { s0.gal.invalAcked p.tag with reqs := s0.gal.reqs.filter (·.tag != p.tag) } }
  let s2 := s1.answerLane p.tag fun o a => a.answer o p
  let s3 : State := { s2 with ops := s2.ops.map fun e => (e.1, if e.2.waits.contains p.tag && e.2.status != .cancelled then e.2.answer p else e.2) }
  let s4 : State := match s3.gal.asked p.tag with
    | some q => { s3 with gal := s3.gal.learn q p.kind }
    | none => s3
  let s5 := match s4.wcbOf p.tag with
    | some (c, e) => s4.wcbAnswer c e p.kind
    | none => s4
  match s5.mirrorOf p.tag with
  | some (k, c) => s5.mirrorAnswer k c p
  | none => s5

/-- A packet is passed on: an answer to a lane, an operation or a translation request at once, any other packet to its event. -/
def State.passPacket (s : State) (p : Packet) : State :=
  let serve : State := { s with gal := { s.gal with serve := s.gal.serve ++ [p] } }
  match p.kind with
  | .readReply | .atomicReply _ _ | .performed | .refused | .notPresent | .xlatReply _ _ _ =>
    if (s.wcbOf p.tag).isSome || (s.mirrorOf p.tag).isSome then serve else s.answer p
  | .invalAck _ => s.answer p
  | _ => serve

/-- Answers a request, for the context of its job, with a line that stands at die `die`; a reply for a job that has no context here is charged to none (29 R314). -/
def State.reply (s : State) (q : Packet) (kind : PktKind) (line : Line) (poison : Bool) (die : Nat := 0) : State :=
  let p : Packet := { src := s.gal.me, dst := q.src, djob := q.djob, tag := q.tag, kind := kind, line := line, poison := poison, die := die }
  if q.src = s.gal.me then s.passPacket p else s.sendPkt ((s.ctxOfJob q.djob).elim noCtx (·.1)) p

/-- A request that no device answers any more is refused (29 R306, R308, R316). -/
def State.refuse (s : State) (q : Packet) : State := s.answer { q with src := q.dst, dst := s.gal.me, kind := .refused }

/-! ### The target's side (29 R308 to R310; 15 R171) -/

/-- Writes bytes of a line at its home for a peer, with the colours of the access; poisoned data poisons it (15 R171; 17 R202; 25 R264, R277; 29 R306). -/
def State.homeStore (s : State) (r : Req) (mask : LineMask) (data : Line) (cols : Byte) (poison : Bool) : MemR Unit :=
  match s.homeLineW r with
  | .error e => .error e
  | .ok (s1, l) =>
    if !l.attrs.w then .error .violation
    else if s1.pageFull r.asid r.va then .error (.fault faultCompFull)
    else .ok (s1.homeMerge r l mask data cols poison, ())

/-- The device has given a peer the translation of a unit (29 R310). -/
def State.tracks (s : State) (ctx unit dev : Nat) : Bool :=
  dev == s.gal.me || s.gal.trackers.any fun t => t.ctx == ctx && t.unit == unit && (t.all || t.devs.contains dev)

/-- Performs a request at the home of the local address that its offset maps to, where the line that it brings goes first. -/
def State.serveAccess (s9 : State) (r : Req) (q : Packet) : MemR (PktKind × Line × Bool) :=
  let (s, p) := s9.haul (homeDie r.va) q
  match p.kind with
  | .write _ => (s.homeStore r p.mask p.line (1#8 <<< p.colour) p.poison).map fun x => (x.1, .performed, 0, false)
  | .read _ => (s.homeLine r).map fun x => (x.1, .readReply, x.2.data, x.2.poison)
  | .atomic _ fl ret op vals =>
    (s.performAtomic r { id := 0, ctr := .load, kind := .atomic fl ret op, bytes := atomBytes fl op, scope := 4, colour := p.colour } { lane := 0, addr := r.va, data := vals } fl ret op).map fun x =>
      (x.1, if ret then .atomicReply x.2.val (x.2.pois.any id) else .performed, 0, false)
  | .signal _ inc => (s.incFlag r inc p.colour).map fun x => (x.1, .performed, 0, false)
  | _ => .error .violation

/-- The offset that a request names. -/
def packetOffset (p : Packet) : Nat :=
  match p.kind with
  | .write a => a
  | .read a => a
  | .atomic a _ _ _ _ => a
  | .signal a _ => a
  | _ => 0

/-- REMOTE_REQUEST for packet `s.who`: the access is performed, refused, answered as not present, or, where the source's translation is no longer one of this device's, as MOVED (15 R180; 29 R308, R309). -/
def execRemoteRequest (s : State) : Host.Outcome State Fault Refusal :=
  match s.served with
  | none => .next s
  | some p =>
    if (packetLine p).isNone || (p.kind matches .mirror _) || !s.inOrder p then .next s
    else
      match s.serveReq p.djob (packetOffset p) with
      | none => .next (s.took.reply p .refused 0 false)
      | some r =>
        match s.took.serveAccess r p with
        | .ok (s1, (k, l, po)) => .next (s1.reply p k l po (homeDie r.va))
        | .error .wait => .next s
        | .error (.fault c) =>
          if c = faultCompFull then .next s
          else .next (s.took.reply p (if s.tracks r.ctx ((packetOffset p) / 65536) p.src then .notPresent else .moved) 0 false)
        | .error _ => .next (s.took.reply p .refused 0 false)

/-- The page that a request's offset maps to is in a move, so that a walk to it waits (25 R271). -/
def State.movingUnit (s : State) (djob : W32) (unit : Nat) : Bool :=
  match s.serveReq djob (unit * 65536) with
  | some r => (match s.pageOf r.asid r.va with | some x => pteMig x.pte | none => false)
  | none => false

/-- REMOTE_TRANSLATION_REQUEST for packet `s.who`: the named device answers, and tracks the device that asked; while the unit's invalidation is under way, or its page in a move, it waits (25 R271; 29 R309, R310). -/
def execRemoteTranslationRequest (s : State) : Host.Outcome State Fault Refusal :=
  match s.served with
  | some p =>
    match p.kind with
    | .xlat unit =>
      let ctx := (s.ctxOfJob p.djob).elim noCtx (·.1)
      if s.movingUnit p.djob unit || s.gal.trackers.any fun t => t.ctx == ctx && t.unit == unit && t.pendingAcks != [] then .next s
      else
        let k := s.serveXlat p.djob unit
        let add (g : Gallery) : Gallery :=
          match g.trackers.find? fun t => t.ctx == ctx && t.unit == unit with
          | none => { g with trackers := g.trackers ++ [⟨ctx, unit, [p.src], false, []⟩] }
          | some _ => { g with trackers := g.trackers.map fun t =>
              if t.ctx == ctx && t.unit == unit then
                (if t.all || t.devs.contains p.src then t else if t.devs.length < 8 then { t with devs := t.devs ++ [p.src] } else { t with all := true })
              else t }
        let s1 : State := if k matches .xlatReply _ _ _ then { s.took with gal := add s.took.gal } else s.took
        .next (s1.reply p k 0 false)
    | _ => .next s
  | none => .next s

/-- MOVED for packet `s.who`: the source drops its translation and asks again (29 R309). -/
def execMoved (s : State) : Host.Outcome State Fault Refusal :=
  match s.served with
  | some p => if p.kind == .moved then .next (s.took.answer p) else .next s
  | none => .next s

/-- REMOTE_INVALIDATE for packet `s.who`: the source drains its write-combining entries of the unit, drops the translation on every die once none of them needs it, and acknowledges once everything that it sent through the translation, to whichever device serves the unit, is answered (29 R310). -/
def execRemoteInvalidate (s : State) : Host.Outcome State Fault Refusal :=
  match s.served with
  | some p =>
    match p.kind with
    | .inval unit =>
      let mine := fun (e : WcbEntry) => e.peer == p.src && e.line * 128 / 65536 == unit
      let s1 := (tkeys s.cores).foldl (fun s c => s.wcbSendAll c mine) s
      let here := fun (x : RemoteXlat) => x.dev == p.src && x.djob == p.djob && x.unit == unit && x.bad == 0
      let undrained := s1.cores.any fun c => c.2.wcb.any fun e => mine e && !e.sent && e.recs.isEmpty && s1.gal.xlats.any fun x => here x && x.die == dieOf c.1
      let s2 : State := { s1 with gal := { s1.gal with xlats := s1.gal.xlats.filter fun x => !here x } }
      let open_ := (s2.cores.any fun c => c.2.wcb.any fun e => mine e && e.sent && !e.again) ||
        s2.gal.reqs.any fun q => q.named == p.src && q.djob == p.djob && (match (packetLine q) with | some l => l * 128 / 65536 == unit && !(q.kind matches .mirror _) | none => false)
      if undrained then .next s1 else if open_ then .next s2 else .next (s2.took.reply p (.invalAck unit) 0 false)
    | _ => .next s
  | none => .next s

/-- WCB_ACK for packet `s.who` (15 R174). -/
def execWcbAck (s : State) : Host.Outcome State Fault Refusal :=
  match s.served with
  | some p => if (s.wcbOf p.tag).isSome && !((packetLine p).isSome) then .next (s.took.answer p) else .next s
  | none => .next s

/-! ### Services for the domain (29 R311 to R313) -/

/-- GBAR_ARRIVAL for packet `s.who`: GBHOME counts it, and a completed phase is told to every device with an arrival (29 R311). -/
def execGbarArrival (s : State) : Host.Outcome State Fault Refusal :=
  match s.served with
  | some p =>
    match p.kind with
    | .gbarArrive n count =>
      let key := p.djob.toNat * 16 + n
      let (b, out) := (tgetD s.gal.gbhome key {}).arrive count.toNat p.src p.tag
      let s1 := s.took
      let s2 : State := { s1 with gal := { s1.gal with gbhome := tset s1.gal.gbhome key b } }
      let devs := out.foldl (fun l x => ninsert l x.1) []
      let ctx := (s.ctxOfJob p.djob).elim noCtx (·.1)
      .next (devs.foldl (fun s d => s.sendPkt ctx { src := s.gal.me, dst := d, djob := p.djob, kind := .gbarDone n ((out.filter (·.1 == d)).map (·.2)) }) s2)
    | _ => .next s
  | none => .next s

/-- GBAR_COMPLETION for packet `s.who`: the waiters whose arrivals it names are released (29 R311). -/
def execGbarCompletion (s : State) : Host.Outcome State Fault Refusal :=
  match s.served with
  | some p =>
    match p.kind, s.ctxOfJob p.djob with
    | .gbarDone _ tags, some (k, c) => .next (s.took.setCtx k { c with gbarDone := c.gbarDone ++ tags })
    | .gbarDone _ _, none => .next s.took
    | _, _ => .next s
  | none => .next s

/-- NORM_TOTAL_RECEIVE for packet `s.who`: GBHOME adds a device's total; with the last of NRMDEV it combines them and returns U to each; a later total is answered with the same U (29 R312). -/
def execNormTotalReceive (s : State) : Host.Outcome State Fault Refusal :=
  match s.served with
  | some p =>
    match p.kind, s.ctxOfJob p.djob with
    | .normTotal j t, some (k, c) =>
      let key := p.djob.toNat * 2 ^ 64 + j
      let ret (s : State) (d : Nat) (u : W32) : State := s.sendPkt k { src := s.gal.me, dst := d, djob := p.djob, kind := .normReturn j u }
      match tget s.gal.normTot key with
      | some u => .next (ret s.took p.src u)
      | none =>
        let all := tset (tgetD s.gal.normHome key []) p.src t
        let s1 := s.took
        if all.length < c.nrmdev then .next { s1 with gal := { s1.gal with normHome := tset s1.gal.normHome key all } }
        else
          let u := normSum (all.map (·.2.toNat))
          let s2 : State := { s1 with gal := { s1.gal with normHome := tdel s1.gal.normHome key, normTot := tset s1.gal.normTot key u } }
          .next ((tkeys all).foldl (fun s d => ret s d u) s2)
    | _, _ => .next s
  | none => .next s

/-- NORM_DEPOSIT: the multiplier of a domain total goes to NORMBOX. Where `answer` holds, packet `s.who` brings the total from the combining home (29 R312); else context `s.who` deposits its oldest closed collective, which no job combines (23 R260, 29 R307). -/
def execNormDeposit (answer : Bool) (s : State) : Host.Outcome State Fault Refusal :=
  if answer then
    match s.served with
    | some p =>
      match p.kind, s.ctxOfJob p.djob with
      | .normReturn j u, some (k, c) => .next (s.took.setCtx k (c.deposit s.cycle j u))
      | .normReturn _ _, none => .next s.took
      | _, _ => .next s
    | none => .next s
  else .next (s.normDeposit s.who)

/-- MIRRORED_WRITE for packet `s.who`: the buddy performs it at the same VA in its context of the same job, at device scope (29 R313). -/
def execMirroredWrite (s : State) : Host.Outcome State Fault Refusal :=
  match s.served with
  | some p =>
    match p.kind with
    | .mirror va =>
      if !s.inOrder p then .next s
      else
        match s.ctxOfJob p.djob with
        | none => .next (s.took.reply p .refused 0 false)
        | some (k, c) =>
          let (s0, q) := s.took.haul (homeDie va) p
          match s0.homeStore ⟨noCore, k, tagAsid c.asid va, va⟩ p.mask q.line p.cols q.poison with
          | .ok (s1, _) => .next (s1.reply p .performed 0 false)
          | .error .wait => .next s
          | .error (.fault c) => if c = faultCompFull then .next s else .next (s.took.reply p .refused 0 false)
          | .error _ => .next (s.took.reply p .refused 0 false)
    | _ => .next s
  | none => .next s

/-- MIRROR_ACK for packet `s.who`: an acknowledgement, or a refusal, which breaks the mirror (21 R239, 29 R313). -/
def execMirrorAck (s : State) : Host.Outcome State Fault Refusal :=
  match s.served with
  | some p => if (s.mirrorOf p.tag).isSome && (packetLine p).isNone then .next (s.took.answer p) else .next s
  | none => .next s

/-! ### The port group (29 R296 to R301, R304) -/

/-- What names a frame. -/
def frameId (f : GalFrame) : FrameId := ⟨f.src, f.dst, f.session, f.counter⟩

/-- The reference as the device counts it, in nanoseconds (29 R298). -/
def State.nowNs (s : State) : Nat := s.gal.nsAt s.cycle

/-- When a port can start its next frame in step `n`: not in the guard, and not before the frames sent before (29 R297). -/
def State.portStart (s : State) (n port : Nat) : Nat := max (max s.nowNs (s.gal.epoch + n * s.gal.stepNs + 48)) (tgetD s.gal.used port 0)

/-- Frames that still fit on a port in step `n`: one takes 16 ns, and each ends within its step (29 R297). -/
def State.portRoom (s : State) (n port : Nat) : Nat := (s.gal.epoch + (n + 1) * s.gal.stepNs - s.portStart n port) / 16

/-- The landing credit that a peer has left for this device (29 R300). -/
def Gallery.creditOf (g : Gallery) (r : Nat) : Nat := tgetD g.credit r (min 256 (32768 / (g.devices - 1)))

/-- The current session to a peer. -/
def Gallery.sessionTo (g : Gallery) (peer : Nat) : Option Session := g.sessions.find? fun x => x.out && x.peer == peer

/-- A frame goes out on a port in step `n`, with what is owed to the hop peer in its trailer; every copy of it differs only in its hop fields (29 R300, R304, R305). -/
def State.transmit (s : State) (n port via : Nat) (f : GalFrame) (relayed retrans : Bool) : Gallery :=
  let g := s.gal
  let f1 := { f with xmit := g.me, relayed := relayed, retrans := retrans, hopAcks := tgetD g.hopAcks via [], credit := tgetD g.owed via 0 }
  { g with light := g.light ++ [(port, f1)], used := tset g.used port (s.portStart n port + 16), hopAcks := tdel g.hopAcks via, owed := tdel g.owed via }

/-- A port of step `n` to a peer with room for a frame. -/
def State.portFor (s : State) (n peer : Nat) : Option Nat := (s.gal.portsTo (n % s.gal.flight) peer).find? fun p => 0 < s.portRoom n p

/-- A frame is charged to the context that originated it, while that exists (29 R314). -/
def State.chargeGal (s : State) (ctx : Nat) : State :=
  match tget s.ctxs ctx with
  | some c0 => let c := c0.inPeriod s.cycle; s.setCtx ctx { c with useGal := c.useGal + 2048 }
  | none => s

/-- A relayed frame spends one frame of landing credit (29 R300). -/
def Gallery.spend (g : Gallery) (via dest : Nat) : Gallery := if via = dest then g else { g with credit := tset g.credit via (g.creditOf via - 1) }

/-- The relay for a packet in step `n`: the connected device with the most landing credit, ties to the lowest port; where no port to it has room, the packet stays unsent (29 R299). -/
def State.relayFor (s : State) (n dest : Nat) : Option (Nat × Nat) :=
  let g := s.gal
  let k := n % g.flight
  let peer := fun (p : Nat) => (getBits (tgetD g.caltab (128 * k + p) 0) 0 12).toNat
  let ok := fun (p : Nat) => (tgetD g.caltab (128 * k + p) 0).getLsbD 15 && peer p != dest && peer p != g.me && !g.lost.contains (peer p) && 0 < g.creditOf (peer p)
  (firstBy (fun p => 2 ^ 16 - g.creditOf (peer p)) ((List.range 128).filter ok)).bind fun p => (s.portFor n (peer p)).map fun q => (q, peer p)

/-- Where a packet for `dest` with path wait `w` goes in step `n`, as its port and hop peer: to its destination where that is connected, else, unless it is held for its destination's step, to a relay; `queued` frames are held for the destination already (29 R299). -/
def State.pathFor (s : State) (n dest w queued : Nat) : Option (Nat × Nat) :=
  match s.portFor n dest, s.gal.stepsUntil n dest with
  | some port, _ => some (port, dest)
  | none, some 0 => none
  | none, d => if (match d with | some k => k ≤ w | none => false) && queued + 1 ≤ (s.gal.stepNs - 48) / 16 then none else s.relayFor n dest

/-- What is held for a destination beside frame `h`: frames that wait for their step with it, and packets not yet sent (29 R299). -/
def Gallery.heldFor (g : Gallery) (n dest : Nat) (h : HeldFrame) : Nat :=
  (g.held.filter fun x => x != h && !x.hopAck && x.via == dest && x.frame.dst == dest && x.sent ≤ n).length + (g.out.filter (·.pkt.dst == dest)).length

/-- Frames held for a retransmission, or landed here for another device, go out where their hop peer is met; one whose landing device is lost is placed as if it were new (29 R299, R300, R304, R316). -/
def State.resend (s : State) (n : Nat) (h : HeldFrame) : State :=
  if h.hopAck || n < h.sent then s
  else
    match (if h.again then s.pathFor n h.frame.dst ((h.frame.pkts.head?.map (packetW (s.ctx h.ctx))).getD 0) (s.gal.heldFor n h.frame.dst h) else (s.portFor n h.via).map fun p => (p, h.via)) with
    | none => s
    | some (port, via) =>
      let relayed := h.landed || via != h.frame.dst
      let g0 := s.transmit n port via h.frame relayed (h.sent != 0)
      let g1 := if h.again then g0.spend via h.frame.dst else g0
      let s1 : State := { s with gal := { g1 with held := g1.held.map fun x =>
        if (frameId x.frame) = (frameId h.frame) && x.landed == h.landed then { x with sent := n + 1, via := via, again := false } else x } }
      if h.landed then s1 else s1.chargeGal h.ctx

/-- The packets of a destination and colour may still be sent in session `x`: none sent more than two flights ago, and none of an older session, lacks its acknowledgement (29 R301, R305; assumption log 23). -/
def Gallery.windowOpen (g : Gallery) (n x : Nat) (p : Packet) : Bool :=
  (seqClass p).isNone ||
  !(g.held.any fun h => !h.landed && h.frame.dst == p.dst && (h.first + 2 * g.flight < n || h.frame.session != x) && h.frame.pkts.any fun q => seqClass q == seqClass p)

/-- A new frame for a packet leaves on a port, to whose die its line goes first, and is held until it is acknowledged end to end (29 R302, R303, R314; assumption log 22). -/
def State.sendNew (s9 : State) (n port via : Nat) (o : OutPkt) (x : Session) : State :=
  let (s, pkt0) := s9.haul (galleryDie port) o.pkt
  let pkt := { pkt0 with sess := some x.number }
  let f : GalFrame := { src := s.gal.me, dst := o.pkt.dst, xmit := s.gal.me, relayed := false, retrans := false, session := x.number, counter := x.counter,
                         pkts := [pkt], crcOk := true, tagOk := true, lineOk := true, hopAcks := [], credit := 0 }
  let g1 := (s.transmit n port via f (via != o.pkt.dst) false).spend via o.pkt.dst
  let g2 := { g1 with held := g1.held ++ [({ frame := f, first := n, sent := n + 1, via := via, ctx := o.ctx } : HeldFrame)],
                      sessions := g1.sessions.map fun y => if y.out && y.peer == x.peer && y.number == x.number then { y with counter := y.counter + 1 } else y,
                      reqs := g1.reqs.map fun q => if q.tag == pkt.tag && q.dst == pkt.dst then { q with sess := pkt.sess } else q }
  { s with gal := g2 }.chargeGal o.ctx

/-- Places the packets not yet sent, in order: each when it has reached the port group, and once in each later step (29 R299, R301, R314). The table counts the frames held for each destination. -/
def State.placePackets (s : State) (n : Nat) : List OutPkt → Tbl Nat → State
  | [], _ => s
  | o :: t, queued =>
    let dest := o.pkt.dst
    let held := tgetD queued dest 0
    let keep : State := { s with gal := { s.gal with out := s.gal.out ++ [{ o with placed := some n }] } }
    let c := (s.ctx o.ctx).inPeriod s.cycle
    let go : Option ((Nat × Nat) × Session) :=
      match s.gal.sessionTo dest with
      | none => none
      | some x =>
        if o.placed == some n || overBudget c.useGal c.budget.gal || !s.gal.windowOpen n x.number o.pkt || 2 ^ 48 ≤ x.counter + 1 then none
        else (s.pathFor n dest o.w held).map fun r => (r, x)
    match go with
    | some ((port, via), x) => (s.sendNew n port via o x).placePackets n t queued
    | none => keep.placePackets n t (tset queued dest (held + 1))

/-- The frames that wait here for a step with their destination, by destination (29 R299, R304; assumption log 22). -/
def Gallery.queuedFor (g : Gallery) (n : Nat) : Tbl Nat :=
  (g.held.filter fun h => !h.hopAck && h.via == h.frame.dst && h.sent ≤ n).foldl (fun t h => tset t h.via (tgetD t h.via 0 + 1)) []

/-- Frames with no packets carry the acknowledgements and credit that no other frame took back (29 R304). -/
def State.emptyFrames (s : State) (n : Nat) : State :=
  let peers := (tkeys s.gal.hopAcks ++ tkeys s.gal.owed).foldl ninsert []
  peers.foldl (fun s r =>
    match s.portFor n r with
    | some port =>
      { s with gal := s.transmit n port r { src := s.gal.me, dst := r, xmit := s.gal.me, relayed := false, retrans := false, session := 0, counter := 0,
                                              pkts := [], crcOk := true, tagOk := true, lineOk := true, hopAcks := [], credit := 0 } false false }
    | none => s) s

/-- GALLERY_STEP: at a step boundary, and again within the step for packets that have come since: landed frames are forwarded first, then retransmissions, then the packets not yet sent (29 R297, R299, R300, R304). -/
def execGalleryStep (s : State) : Host.Outcome State Fault Refusal :=
  let g := s.gal
  if g.flight = 0 || s.nowNs < g.epoch then .next s
  else
    let n := g.stepAt s.cycle
    let s1 : State := if g.sn ≤ n then { s with gal := { g with sn := n + 1, used := [], light := [], ackOut := [], hopAcks := [] } } else s
    if !g.takesPart n then .next s1
    else
      let h := s1.gal.held
      let s2 := ((h.filter (·.landed)) ++ (h.filter (!·.landed))).foldl (fun s x => s.resend n x) s1
      let out := s2.gal.out
      .next (({ s2 with gal := { s2.gal with out := [] } }.placePackets n out (s2.gal.queuedFor n)).emptyFrames n)

/-- TIMING_MARK: the mark of step `n`, with whether the device is within 5 ns of the reference. A device that was not aligned transmits again from the next step boundary on (29 R298). -/
def execTimingMark (n : Nat) (ok : Bool) (s : State) : Host.Outcome State Fault Refusal :=
  let g := s.gal
  let s1 : State := { s with gal := { g with timeNs := g.epoch + n * g.stepNs, markAt := s.cycle, missed := 0, aligned := ok, from_ := if ok && !g.aligned then n + 1 else g.from_ } }
  .next (if g.aligned && !ok then s1.softError 0 else s1)

/-- ALIGNMENT_LOSS: the alignment error exceeds 5 ns, or a mark is missed; the fourth in a row stops transmission (29 R298, 33 R340). -/
def execAlignmentLoss (exceeded : Bool) (s : State) : Host.Outcome State Fault Refusal :=
  let g := s.gal
  let missed := if exceeded then g.missed else min (g.missed + 1) 4
  let aligned := g.aligned && !exceeded && missed < 4
  let s1 : State := { s with gal := { g with missed := missed, aligned := aligned } }
  .next (if g.aligned && !aligned then s1.softError 0 else s1)

/-! ### Receiving (29 R300 to R306) -/

/-- Where the next number of a session, source and class is kept: a session numbers its packets from 0 (29 R301; assumption log 23). -/
def seqKey (session src q : Nat) : Nat := (session * 4096 + src) * 16 + q

/-- The sequence of a packet that a frame of a session has brought. -/
def packetKey (p : Packet) : Option Nat := (seqClass p).map fun q => seqKey (p.sess.getD 0) p.src q

/-- Passes the packets of a (source, colour) that are next in sequence (29 R301). -/
def State.drainReorder (s : State) (key : Nat) : Nat → State
  | 0 => s
  | n + 1 =>
    let want := tgetD s.gal.seqIn key 0
    match s.gal.reorder.find? fun p => packetKey p == some key && p.seq == some want with
    | none => s
    | some p =>
      ({ s with gal := { s.gal with reorder := s.gal.reorder.filter (· != p), seqIn := tset s.gal.seqIn key (want + 1) } }.passPacket p).drainReorder key n

/-- Frames all of whose packets have been passed are acknowledged end to end (29 R302). -/
def State.ackPassed (s : State) : State :=
  let done := fun (e : FrameId × List (Nat × Nat)) => e.2.all fun q => q.2 < tgetD s.gal.seqIn q.1 0
  { s with gal := { s.gal with unacked := s.gal.unacked.filter (fun e => !done e), ackOut := s.gal.ackOut ++ (s.gal.unacked.filter done).map (·.1) } }

/-- A packet of an accepted frame: one that is numbered waits its turn (29 R301). -/
def State.acceptPacket (s : State) (p : Packet) : State :=
  match packetKey p, p.seq with
  | some k, some _ =>
    let s1 : State := { s with gal := { s.gal with reorder := s.gal.reorder ++ [p] } }
    s1.drainReorder k s1.gal.reorder.length
  | _, _ => s.passPacket p

/-- The trailer of a good frame: hop acknowledgements and landing credit; a landed frame that its destination has acknowledged returns its credit to its source (29 R300, R304). -/
def Gallery.trailer (g : Gallery) (f : GalFrame) : Gallery :=
  let acked := fun (h : HeldFrame) => h.via == f.xmit && f.hopAcks.contains (frameId h.frame)
  let back := g.held.filter fun h => h.landed && acked h
  { g with held := (g.held.filter fun h => !(h.landed && acked h)).map fun h => if acked h then { h with hopAck := true } else h,
           owed := back.foldl (fun t h => tset t h.frame.src (tgetD t h.frame.src 0 + 1)) g.owed,
           credit := if f.credit = 0 then g.credit else tset g.credit f.xmit (g.creditOf f.xmit + f.credit) }

/-- What was received in a session and not yet passed on is forgotten (29 R306; assumption log 23). -/
def Gallery.forget (g : Gallery) (x : Session) : Gallery :=
  { g with reorder := g.reorder.filter (fun p => !(p.src == x.peer && p.sess == some x.number)),
           unacked := g.unacked.filter fun e => !(e.1.src == x.peer && e.1.session == x.number) }

/-- The session ends at its destination: it is forgotten, and the event is a soft error of the die that discarded the frame (29 R306). -/
def State.endInbound (s : State) (die : Nat) (x : Session) : State :=
  { s with gal := { s.gal.forget x with sessions := s.gal.sessions.filter (· != x) } }.softError die

/-- A frame for this device that a port of die `die` received: a session that it does not know discards it; a counter accepted before is acknowledged again; a tag that fails is counted; else its packets are accepted, and lines whose check fails are poisoned (29 R302, R305, R306; 01 R15). -/
def State.acceptFrame (s : State) (die : Nat) (f : GalFrame) : State :=
  match s.gal.sessions.find? fun x => !x.out && x.peer == f.src && x.number == f.session with
  | none => s
  | some x =>
    let put (y : Session) (s : State) : State := { s with gal := { s.gal with sessions := s.gal.sessions.map fun z => if z = x then y else z } }
    if x.accepted.contains f.counter then
      if s.gal.unacked.any fun e => e.1 == frameId f then s else { s with gal := { s.gal with ackOut := s.gal.ackOut ++ [frameId f] } }
    else if !f.tagOk then
      let n := tgetD x.discards f.counter 0 + 1
      if 8 ≤ n then s.endInbound die x else put { x with discards := tset x.discards f.counter n } s
    else
      let pkts := f.pkts.map fun p => if !f.lineOk && (packetHasLine p) then { p with src := f.src, sess := some f.session, die := die, poison := true } else { p with src := f.src, sess := some f.session, die := die }
      let s1 := put { x with accepted := ninsert x.accepted f.counter } s
      let s2 := if !f.lineOk && pkts.any packetHasLine then s1.softError die else s1
      let seqs := pkts.filterMap fun p => match packetKey p, p.seq with | some k, some n => some (k, n) | _, _ => none
      let s3 : State := { s2 with gal := { s2.gal with unacked := s2.gal.unacked ++ [(frameId f, seqs)] } }
      (pkts.foldl (fun s p => s.acceptPacket p) s3).ackPassed

/-- FRAME_RECEIVE: a frame arrives on a port of the current step. A bad CRC discards it; its trailer is taken; a frame for another device lands, once; one for this device is accepted (29 R300, R301, R304 to R306). -/
def execFrameReceive (f : GalFrame) (s : State) : Host.Outcome State Fault Refusal :=
  let g := s.gal
  let ports := if g.flight = 0 || g.sn = 0 then [] else g.portsTo ((g.sn - 1) % g.flight) f.xmit
  if !f.crcOk || ports.isEmpty then .next s
  else
    let g1 := g.trailer f
    if f.pkts.isEmpty then .next { s with gal := g1 }
    else
      let s1 : State := { s with gal := { g1 with hopAcks := tset g1.hopAcks f.xmit (tgetD g1.hopAcks f.xmit [] ++ [frameId f]) } }
      if f.dst = g.me then .next (s1.acceptFrame (galleryDie (ports.headD 0)) f)
      else if s1.gal.held.any fun h => h.landed && (frameId h.frame) == frameId f then .next s1
      else .next { s1 with gal := { s1.gal with held := s1.gal.held ++ [({ frame := f, first := 0, sent := 0, via := f.dst, ctx := 0, landed := true } : HeldFrame)] } }

/-- END_TO_END_ACK of a frame of this device (29 R302). -/
def execEndToEndAck (id : FrameId) (s : State) : Host.Outcome State Fault Refusal :=
  .next { s with gal := { s.gal with held := s.gal.held.filter fun h => h.landed || (frameId h.frame) != id } }

/-! ### Sessions (29 R305, R306; 33 R339) -/

/-- Requests that no answer can reach any more are refused, with what of them is not yet sent (29 R306, R308, R310, R316). -/
def State.refuseThose (s : State) (mine : Packet → Bool) : State :=
  let out := s.gal.out.filter fun o => !(s.gal.reqs.any fun q => q.tag == o.pkt.tag && o.pkt.dst == q.dst && mine q)
  (s.gal.reqs.filter mine).foldl (fun s q => s.refuse q) { s with gal := { s.gal with reqs := s.gal.reqs.filter (fun q => !mine q), out := out } }

/-- What a peer that takes part no longer has not answered is refused: every request, and every invalidation, which then counts as acknowledged (29 R308, R310, R316; 33 R339). -/
def State.refuseAll (s : State) (peer : Nat) : State := s.refuseThose fun q => q.dst == peer

/-- A session to a peer ends at its source: its frames are dropped, and every request that one of its frames carried and no answer has come for is refused; packets of those frames that are no requests wait for the next session (29 R306; assumption log 23). -/
def State.endOutbound (s : State) (peer number : Nat) : State :=
  let gone := fun (h : HeldFrame) => !h.landed && h.frame.dst == peer && h.frame.session == number
  let back := (s.gal.held.filter gone).flatMap fun h => (h.frame.pkts.filter fun p => !isRequest p).map fun p => ({ pkt := p, ctx := h.ctx, w := packetW (s.ctx h.ctx) p } : OutPkt)
  ({ s with gal := { s.gal with sessions := s.gal.sessions.filter (fun x => !(x.out && x.peer == peer && x.number == number)),
                                held := s.gal.held.filter (fun h => !gone h), out := back ++ s.gal.out } }.refuseThose
    fun q => q.dst == peer && isRequest q && q.sess == some number).softError 0

/-- GCM_RESEND of a frame of this device that two flights have not seen acknowledged: it is sent again with the same counter; the eighth time ends its session (29 R306). -/
def execGcmResend (id : FrameId) (s : State) : Host.Outcome State Fault Refusal :=
  match s.gal.held.find? fun h => !h.landed && (frameId h.frame) == id && h.hopAck && h.sent + 2 * s.gal.flight ≤ s.gal.sn with
  | none => .next s
  | some h =>
    if 8 ≤ h.tries + 1 then .next (s.endOutbound id.dst id.session)
    else .next { s with gal := { s.gal with held := s.gal.held.map fun x =>
      if (frameId x.frame) == id && !x.landed then { x with hopAck := false, via := id.dst, tries := x.tries + 1 } else x } }

/-- The packets not yet sent to a peer are numbered from 0 again, as those of its new session (29 R301; assumption log 23). -/
def Gallery.renumber (g : Gallery) (peer : Nat) : Gallery :=
  g.out.foldl (fun g o =>
    match seqClass o.pkt with
    | some q =>
      if o.pkt.dst = peer then
        let n := tgetD g.seqOut (peer * 16 + q) 0
        { g with out := g.out ++ [{ o with pkt := { o.pkt with seq := some n } }], seqOut := tset g.seqOut (peer * 16 + q) (n + 1) }
      else { g with out := g.out ++ [o] }
    | none => { g with out := g.out ++ [o] }) { g with out := [], seqOut := g.seqOut.filter fun p => p.1 / 16 != peer }

/-- The public key of this bring-up's ephemeral session key, which the report binds (33 R338, R339). -/
def State.boundKey (s : State) : List Byte := keyBytes (publicKey (privateKey (s.plat.eph.getD 0)))

/-- The session of an ordered pair under a number: the first 32 bytes that HKDF gives for the ECDH secret of the two bound keys are the key, the next 4 the salt (29 R305; 33 R339). -/
def State.session (s : State) (peer number : Nat) (key : List Byte) (out : Bool) : Session :=
  let info := if out then Config.sessionInfo s.gal.me peer number else Config.sessionInfo peer s.gal.me number
  let okm := hkdf384 (ecdh (privateKey (s.plat.eph.getD 0)) (keyPoint key)) info
  { peer := peer, out := out, number := number, key := BitVec.ofNat 256 (bigNat (okm.take 32)), salt := BitVec.ofNat 32 (bigNat ((okm.drop 32).take 4)) }

/-- SESSION_ESTABLISH with a peer under a session number, with the key that the peer's report binds: a session each way; a report that fails its verification gives no key and no session, and requests to that peer are refused (29 R305, R306; 33 R339). -/
def execSessionEstablish (peer number : Nat) (key : Option (List Byte)) (s : State) : Host.Outcome State Fault Refusal :=
  let g := s.gal
  if s.plat.eph.isNone || g.devices ≤ peer || peer = g.me || (g.sessions.any fun x => x.peer == peer && number ≤ x.number) then .next s
  else match key with
    | none => .next ({ s with gal := { g with unverified := ninsert g.unverified peer, sessions := g.sessions.filter (·.peer != peer) } }.refuseAll peer)
    | some key =>
      let g2 := g.renumber peer
      .next { s with gal := { g2 with unverified := g2.unverified.filter (· != peer),
                                      sessions := s.session peer number key true :: s.session peer number key false :: g2.sessions.filter fun x => !(x.out && x.peer == peer) } }

/-- DEVICE_LOST: the controller has removed a device from the calendar: requests to it are refused, its write-combining entries dropped, and frames landed on it sent again (29 R308, R316). -/
def execDeviceLost (dev : Nat) (s : State) : Host.Outcome State Fault Refusal :=
  let g := s.gal
  if g.devices ≤ dev || dev = g.me || g.lost.contains dev then .next s
  else
    let s1 : State := { s with gal := { g with
      lost := ninsert g.lost dev,
      caltab := g.caltab.map fun p => (p.1, if p.2.getLsbD 15 && (getBits p.2 0 12).toNat == dev then 0 else p.2),
      held := (g.held.filter fun h => h.frame.dst != dev).map fun h => if h.via == dev then { h with via := h.frame.dst, hopAck := false, again := !h.landed } else h,
      sessions := g.sessions.filter (·.peer != dev), hopAcks := tdel g.hopAcks dev, owed := tdel g.owed dev,
      xlats := g.xlats.filter fun x => x.dev != dev && x.server != dev,
      trackers := g.trackers.map fun t => { t with devs := t.devs.filter (· != dev) } } }
    let s2 := s1.refuseAll dev
    let s3 := (tkeys s2.cores).foldl (fun s c =>
      ((s.core c).wcb.filter (·.peer == dev)).foldl (fun s e => armWriters (s.wcbUpdate c fun l => l.filter (·.id != e.id)) causeRemoteError e) s) s2
    .next { s3 with gal := { s3.gal with out := s3.gal.out.filter (·.pkt.dst != dev) } }

end Sys2Proof.Machine
end

