-- ==== Sys2Proof/Machine/Commands.lean ====
section
/-! DEFINITION. The host's side: the command ring and its registers, the commands, and host accesses to device memory (31_host.md R317 to R326, R343, R344; 25 R261 to R264, R268, R270, R271, R273, R275, R276). -/

namespace Sys2Proof.Machine

/-! ### The command ring (31 R323, R324) -/

/-- Entries written and not executed. -/
def CmdRing.pending (r : CmdRing) : Nat := (r.wp - r.rp).toNat
/-- The slot of the next entry. -/
def CmdRing.slot (r : CmdRing) : Nat := r.base.toNat + 64 * (r.rp.toNat % 2 ^ r.k)
/-- The lap of the next entry. -/
def CmdRing.lap (r : CmdRing) : Nat := r.rp.toNat / 2 ^ r.k % 256

/-- The next entry as host memory holds it. -/
def State.ringEntry (s : State) : Nat := mreadN noSide s.host s.ring.slot 64

/-- The check that precedes an entry: consumption stops on an overrun, with vector 0; an entry one lap behind is awaited; one that is executing is checked no more (31 R324). -/
def State.ringCheck (s : State) : State :=
  let r := s.ring
  let lap := natField s.ringEntry 16 8
  if !r.en || r.overrun || r.busy || r.pending = 0 then s
  else if 2 ^ r.k < r.pending || (lap != r.lap && (lap + 1) % 256 != r.lap) then
    { s with ring := { r with overrun := true } }.raiseVector 0
  else s

/-- The entry that may execute now: the one that is executing, or, while the ring is enabled, the next one where it passes the check (31 R324). -/
def State.nextEntry (s : State) : Option Nat :=
  let r := s.ring
  if r.busy then some r.entry
  else if r.en && !r.overrun && 0 < r.pending && r.pending ≤ 2 ^ r.k && natField s.ringEntry 16 8 == r.lap then some s.ringEntry else none

/-- An entry completes: STATUS and the reason are written, CRRP advances, vector 2 is raised, and the next entry is checked (31 R323, R344). -/
def State.endCmd (s : State) (reason : Nat) : State :=
  let r := s.ring
  let h := mwrite noSide (mwrite noSide s.host (r.slot + 1) (if reason = 0 then 1 else 2)) (r.slot + 3) (BitVec.ofNat 8 reason)
  ({ s with host := h, ring := { r with rp := r.rp + 1, busy := false, entry := 0 } }.raiseVector 2).ringCheck

/-- Fields of an entry: `n` bytes from byte `o` on. -/
def cmdField (e o n : Nat) : Nat := natField e (8 * o) (8 * n)
def cmdCode (e : Nat) : Nat := cmdField e 0 1
def cmdCtx (e : Nat) : Nat := cmdField e 4 2

/-- What a command does: its completion, its refusal with a reason, or a wait with what it has begun. -/
inductive Did where
  | done (s : State)
  | refused (reason : Nat)
  | waits (s : State)

/-- Executes the next entry where its code is `code`, or where no command has it: an unknown code, a context that does not exist, a byte that must be zero refuse it (31 R323, R344). -/
def State.runCmd (s : State) (code : Nat) (f : State → Nat → Ctx → Nat → Did) : Host.Outcome State Fault Refusal :=
  match s.nextEntry with
  | none => .next s
  | some e =>
    let k := cmdCtx e
    if cmdCode e = 0 ∨ 8 < cmdCode e then .next (s.endCmd 1)
    else if cmdCode e != code then .next s
    else if code != 1 && cmdField e 6 2 != 0 then .next (s.endCmd 1)
    else if code != 1 && (tget s.ctxs k).isNone then .next (s.endCmd 2)
    else
      match f s k (s.ctx k) e with
      | .done s1 => .next (s1.endCmd 0)
      | .refused n => .next (s.endCmd n)
      | .waits s1 => .next { s1 with ring := { s1.ring with busy := true, entry := e } }

/-- The host ports are trained: from step 5 of bring-up on (33 R336). -/
def State.portsUp (s : State) : Bool := s.plat.power && 5 ≤ s.plat.step

/-- CRWP_DOORBELL: the host rings with the number of entries that it has written (31 R323). -/
def execCrwpDoorbell (wp : W32) (s : State) : Host.Outcome State Fault Refusal :=
  .next (if !s.portsUp then s else { s with ring := { s.ring with wp := wp } }.ringCheck)

/-- K as a write of the register at 0x008 leaves it: it changes only while EN is 0, and to 4 to 12 (31 R323). -/
def CmdRing.newK (r : CmdRing) (v : W32) : Nat := let k := v.toNat % 16; if r.en || k < 4 || 12 < k then r.k else k

/-- CR_ENABLE: a write of the register at 0x008 that takes EN from 0 to 1 clears OVERRUN and resumes at CRRP (31 R324). The first one ends bring-up, and opens the gates (33 R336). -/
def execCrEnable (v : W32) (s : State) : Host.Outcome State Fault Refusal :=
  if s.ring.en || !v.getLsbD 31 || !s.portsUp then .next s
  else .next ({ s with plat := if s.plat.step = 7 then s.plat else { s.plat with step := 7, gates := false }, ring := { s.ring with en := true, k := s.ring.newK v, overrun := false } }.ringCheck)

/-- REGISTER_WRITE: CRBASE, and a write of the register at 0x008 that does not enable; the other registers take no write (31 R323). -/
def execRegisterWrite (off : Nat) (v : W64) (s : State) : Host.Outcome State Fault Refusal :=
  if !s.portsUp then .next s
  else if off = 0 then .next { s with ring := { s.ring with base := v &&& ~~~0xFFF } }
  else if off = 8 && (s.ring.en || !v.getLsbD 31) then .next { s with ring := { s.ring with en := s.ring.en && v.getLsbD 31, k := s.ring.newK (v.setWidth 32) } }
  else .next s

/-! ### The reverse map (25 R262) -/

/-- The span of an entry of a level. -/
def levelSpan (level : Nat) : Nat := if level = 3 then 2 ^ 39 else levelSize level
/-- Entries of a table of a level (25 R262). -/
def levelEntries (level : Nat) : Nat := match level with | 3 => 65536 | 0 => 32 | _ => 512

/-- The valid entries of a table in HBM: only listed bytes can have V set. -/
def State.validEntries (s : State) (table n : Nat) : List (Nat × W64) :=
  s.hbm.filterMap fun c =>
    if table ≤ c.1 && c.1 < table + 8 * n && (c.1 - table) % 8 = 0 && c.2.getLsbD 0 then
      some ((c.1 - table) / 8, BitVec.ofNat 64 (mreadN hbmSide s.hbm c.1 8))
    else none

/-- The pages that the entries of a table of a level map, from VA `base` on: their addresses, sizes and entries (25 R262). -/
def State.leavesUnder (s : State) : Nat → Nat → Nat → List (Nat × Nat × W64)
  | 0, table, base => ((s.validEntries table (levelEntries 0)).filter fun e => pteLeaf e.2).map fun e => (base + e.1 * levelSpan 0, levelSpan 0, e.2)
  | level + 1, table, base =>
    (s.validEntries table (levelEntries (level + 1))).flatMap fun e =>
      let va := base + e.1 * levelSpan (level + 1)
      if pteLeaf e.2 then (if level + 1 < 3 then [(va, levelSpan (level + 1), e.2)] else [])
      else s.leavesUnder level (pteAddr e.2) va

/-- The reverse map as the tables now stand: what they map as before keeps its entry, a page that a move rewrites the context that created its mapping; what is new is charged to context `ctx`, whose command made it (25 R262, R271, R278). -/
def State.reverse (s : State) (ctx : Nat) : List RevEntry :=
  let roots := (0, Config.globalRoot, 2 ^ 55) :: s.ctxs.map fun c => (c.2.asid, c.2.root, 0)
  roots.flatMap fun r => (s.leavesUnder 3 r.2.1 r.2.2).map fun l =>
    match s.rev.find? fun e => e.asid == r.1 && e.va == l.1 && e.size == l.2.1 && e.pte == l.2.2 with
    | some e => e
    | none =>
      let moved := s.rev.find? fun e => e.asid == r.1 && e.va == l.1 && e.size == l.2.1 && (pteMig e.pte || e.pte ||| 0x80 == l.2.2)
      { asid := r.1, va := l.1, size := l.2.1, pte := l.2.2, ctx := moved.elim ctx (·.ctx) }

/-! ### Contexts (31 R325) -/

/-- A page table at a physical address lies in the reserved area of HBM (25 R262; assumption log 11). -/
def tablePlace (a n : Nat) : Bool := a % 4096 == 0 && Config.reservedBase ≤ a && a + n ≤ 2 ^ 40

/-- CTX_CREATE: the context, with an empty fault log, whose header reads zero (25 R261, R262, R268; 27 R281, R291; 31 R325, R344). -/
def execCtxCreate (s : State) : Host.Outcome State Fault Refusal :=
  s.runCmd 1 fun s k _ e =>
    let asid := cmdField e 6 2
    let root := cmdField e 8 8
    let log := cmdField e 16 8
    let save := cmdField e 24 8
    let m := log % 32
    if (tget s.ctxs k).isSome then .refused 2
    else if asid = 0 || (s.ctxOfAsid asid).isSome then .refused 3
    else if m < 6 || 16 < m || log / 32 % 2 != 0 || save % 4096 < 0xB2 || !tablePlace root 0x80000 || cmdField e 48 8 == 0 || cmdField e 56 8 == 0 then .refused 4
    else
      let s1 := s.setCtx k
        { asid := asid, root := root, logBase := log / 64 * 64, logM := m, saveb := save / 4096 * 4096, savesz := save % 4096,
          quota := cmdField e 32 4, userEntry := cmdField e 40 8, sysEntry := cmdField e 48 8, resumeEntry := cmdField e 56 8,
          rngAt := s.cycle, heatAt := s.cycle, periodAt := s.cycle }
      .done { s1 with host := mwriteL noSide s1.host (log / 64 * 64) (bytesOf 64 0), rev := s1.reverse k }

/-- A task of the context that is armed and below STATE 3. -/
def State.busyCtx (s : State) (k : Nat) : Bool :=
  (s.teams.any fun p => p.2.ctx == k && p.2.live) || s.tasks.any fun p => p.2.ctx == k && !p.2.done && !p.2.refused

/-- The collectives of a job that this device combines are forgotten: they are counted from the creation of its context (29 R312). -/
def Gallery.forgetNorms (g : Gallery) (djob : W32) : Gallery :=
  let other := fun (key : Nat) => key / 2 ^ 64 != djob.toNat
  { g with normHome := g.normHome.filter (fun p => other p.1), normTot := g.normTot.filter (fun p => other p.1) }

/-- CTX_DESTROY: pins, the collectives of its job, its mappings and the ASID are released (15 R178; 25 R262; 29 R312; 31 R325). Of the global pages that it mapped no context is the owner any more (25 R278). Its heat entries stay and decay as a context's after reset (25 R273; assumption log 42). -/
def execCtxDestroy (s : State) : Host.Outcome State Fault Refusal :=
  s.runCmd 2 fun s k c _ =>
    if s.busyCtx k then .refused 6
    else .done { s with ctxs := tdel s.ctxs k, tasks := s.tasks.filter fun p => p.2.ctx != k,
                        cores := s.cores.map fun c => (c.1, { c.2 with heldFor := if c.2.heldFor.any fun t => (s.task t).ctx = k then none else c.2.heldFor }),
                        tlb := s.tlb.filter fun e => e.asid != c.asid,
                        rev := (s.rev.filter fun e => e.asid != c.asid).map fun e => if e.ctx = k then { e with ctx := noCtx } else e,
                        kernelRings := s.kernelRings.filter fun r => r.1 != k,
                        gal := { s.gal.forgetNorms c.djob with trackers := s.gal.trackers.filter fun t => t.ctx != k } }

/-! ### MAP (25 R261 to R264, R271, R275, R276) -/

/-- The entry breaks the rules of its table, valid or not; the next table of a valid one lies in the reserved area (25 R262, R263). -/
def pteBad (level : Nat) (p : W64) (global : Bool) : Bool :=
  getBits p 48 4 != 0 || p.getLsbD 11 || pteCb p == 3 || pteG p != global || (level == 0 && !pteLeaf p) || (level == 3 && pteLeaf p) ||
  (!pteLeaf p && pteTier p) || (pteC p && (level != 0 || !pteLeaf p)) ||
  (pteLeaf p && pteAddr p % (if pteC p then 2 ^ 14 else levelSize level) != 0) || (pteV p && !pteLeaf p && !tablePlace (pteAddr p) 0x1000)

/-- Bytes of the frame that an entry names: a compressed page has its budget (25 R263). -/
def pteFrame (level : Nat) (p : W64) : Nat := if pteC p then 16384 * (pteCb p + 1) else levelSize level

/-- Two ranges meet. -/
def meets (a n b m : Nat) : Bool := a < b + m && b < a + n

/-- The pool base of a context in a tier; 0 where it has none (25 R276). -/
def Ctx.pool (c : Ctx) (tier : Bool) : Nat := if tier then c.ovfCxl else c.ovfHbm

/-- Where the overflow slot of a mapping lies in its tier (25 R276). -/
def State.slotAt (s : State) (e : RevEntry) : Nat := (s.ctx e.ctx).pool (pteTier e.pte) + 16384 * pteOvf e.pte

/-- The level of a mapping's page. -/
def sizeLevel (n : Nat) : Nat := if n = 2 ^ 30 then 2 else if n = 2 ^ 21 then 1 else 0

/-- A mapping of a frame that it may not map, beside the mappings `rev`: outside its tier, in the reserved area, in an overflow pool, or mapped elsewhere where either mapping is writable; or one whose overflow slot another page of the tier has (25 R262, R263, R266, R276). -/
def State.frameBad (s : State) (rev : List RevEntry) (m : RevEntry) : Bool :=
  let a := pteAddr m.pte
  let n := pteFrame (sizeLevel m.size) m.pte
  let tier := pteTier m.pte
  let others := rev.filter fun e => !(e.asid == m.asid && e.va == m.va) && pteTier e.pte == tier
  (if tier then s.tierSize < a + n else Config.reservedBase < a + n) ||
  (s.ctxs.any fun c => c.2.pool tier != 0 && meets a n (c.2.pool tier) (2 ^ 26)) ||
  (others.any fun e => (pteW m.pte || pteW e.pte) && meets a n (pteAddr e.pte) (pteFrame (sizeLevel e.size) e.pte)) ||
  (pteOvf m.pte != 0 && others.any fun e => pteOvf e.pte != 0 && s.slotAt e == s.slotAt m)

/-- Asks the devices that track the units of a range of addresses to drop them, and says whether every acknowledgement is there (29 R310). -/
def State.invalidateUnits (s : State) (hit : Tracker → Bool) : State × Bool :=
  let ts := s.gal.trackers.filter hit
  if ts.isEmpty then (s, true)
  else
    let fresh := ts.filter fun t => t.pendingAcks.isEmpty
    let s1 := fresh.foldl (fun s t =>
      let c := s.ctx t.ctx
      let devs := (if t.all then List.range s.gal.devices else t.devs).filter fun d => d != s.gal.me && !s.gal.lost.contains d
      let tags := (List.range devs.length).map (s.nextId + ·)
      let s0 : State := { s with nextId := s.nextId + devs.length, gal := { s.gal with
        trackers := (s.gal.trackers.map fun x => if x == t then { x with devs := [], all := false, pendingAcks := tags } else x).filter fun x => x.pendingAcks != [] || x.devs != [] || x.all } }
      (devs.zip tags).foldl (fun s d => s.sendPkt t.ctx { src := s.gal.me, dst := d.1, djob := c.djob, tag := d.2, kind := .inval t.unit }) s0) s
    (s1, !(s1.gal.trackers.any hit))

/-- A tracked unit lies in a range of addresses of an ASID. -/
def State.unitIn (s : State) (asid base n : Nat) (t : Tracker) : Bool :=
  let c := s.ctx t.ctx
  let a := c.expb + 65536 * t.unit
  tagAsid c.asid a == asid && meets a 65536 base n

/-- Writes one page-table entry: translation entries of its range, and of every page that the tables now map otherwise, go, and the reverse map follows (25 R262, R264). -/
def State.writePte (s : State) (ctx asid base level pa : Nat) (p : W64) : State :=
  let n := levelSpan level
  let s1 : State := { s with hbm := mwriteL hbmSide s.hbm pa (bytesOf 8 p.toNat) }
  let rev := s1.reverse ctx
  { s1 with tlb := s.tlb.filter fun e => !(e.asid == asid && meets e.base e.size base n) && rev.any fun r => r.asid == e.asid && r.va == e.page && r.pte == e.pte,
            rev := rev }

/-- The command would map what it may not: an overflow slot without a pool, or, in the reverse map `rev` that it would leave, a new mapping of a frame that it may not map (25 R262, R263, R276). -/
def State.mapBad (s : State) (ctx : Nat) (p : W64) (rev : List RevEntry) : Bool :=
  (pteOvf p != 0 && (s.ctx ctx).pool (pteTier p) == 0) || rev.any fun e => !s.rev.contains e && s.frameBad rev e

/-- The pages that a reverse map `rev` maps no longer, at another frame, or with fewer permissions than now (25 R264). -/
def State.lowered (s : State) (rev : List RevEntry) : List RevEntry :=
  s.rev.filter fun e => !rev.any fun r => r.asid == e.asid && r.va == e.va && r.size == e.size && pteAddr r.pte == pteAddr e.pte && pteTier r.pte == pteTier e.pte &&
    pteC r.pte == pteC e.pte && (!pteW e.pte || pteW r.pte) && (!pteX e.pte || pteX r.pte)

/-- Code of a range of addresses leaves the instruction caches, and every loop buffer is empty (25 R264; 27 R294). -/
def State.dropCode (s : State) (asid base n : Nat) : State :=
  { s with cores := s.cores.map fun c => (c.1, { c.2 with icache := c.2.icache.filter (fun l => !(keyAsid l.1 == asid && meets (keyVa l.1) 128 base n)), loops := [] }) }

/-- Every cached line of the listed pages is written back and invalidated (25 R264). -/
def State.dropPages (s : State) (ctx : Nat) : List RevEntry → MemR Unit
  | [] => .ok (s, ())
  | e :: t =>
    match s.cinvLines ctx true true false ((s.cachedKeys e.asid e.va e.size).filter fun l => keyAsid l == e.asid) with
    | .error er => .error er
    | .ok (s1, _) => (s1.dropCode e.asid e.va e.size).dropPages ctx t

/-- A page that was FULL stays so while no move has ended: only a move clears it (25 R277). -/
def State.keepFull (s : State) (rev : List RevEntry) (asid base : Nat) : State :=
  let full := (rev.find? fun r => r.asid == asid && r.va == base).elim false (·.full)
  { s with rev := s.rev.map fun r => if r.asid == asid && r.va == base then { r with full := full } else r }

/-- The lines of a compressed frame are forgotten, their poison with them: a newly mapped compressed page reads as zero (25 R275). -/
def State.clearComp (s : State) (p : W64) : State :=
  if pteV p && pteLeaf p && pteC p then
    let frame := compKey (pteTier p) (pteAddr p) 0
    { s with comp := s.comp.filter (fun e => e.1 / 512 != frame / 512), memPoison := s.memPoison.filter fun a => !(2 ^ 60 + frame ≤ a && a < 2 ^ 60 + frame + 512) }
  else s

/-- The compressed pages that are newly mapped read as zero (25 R275). -/
def State.clearNew (s : State) (old : List RevEntry) : State :=
  (s.rev.filter fun e => pteC e.pte && !old.any fun r => r.asid == e.asid && r.va == e.va && pteC r.pte && pteAddr r.pte == pteAddr e.pte && pteTier r.pte == pteTier e.pte).foldl
    (fun s e => s.clearComp e.pte) s

/-- The lines of a page as its home reads them from its old frame and sends them to its new one (01 R15; 25 R271; assumption log 15). -/
def State.readPage (s : State) (old new : Xlat) : Nat → State × List (Line × Bool)
  | 0 => (s, [])
  | n + 1 =>
    let r := s.readPage old new n
    let va := old.base + 128 * n
    let h := homeDie va
    let m := s.memLine old va
    let c := r.1.crossAll m.1 m.2 (memRoute old va h false ++ memRoute new va h true)
    (c.1, r.2 ++ [c.2])

/-- Writes the lines of a page to a frame; none where a compressed one cannot take them (25 R271, R275). -/
def State.writePage (s : State) (x : Xlat) : Nat → List (Line × Bool) → Option State
  | _, [] => some s
  | va, m :: t =>
    match s.setMemLine x va m.1 m.2 with
    | none => none
    | some s1 => s1.writePage x (va + 128) t

/-- Copies a page of `n` lines from its old frame to its new one, each line with its sideband and its poison; the two may be one frame (25 R271). -/
def State.copyPage (s : State) (old new : Xlat) (n : Nat) : Option State :=
  let r := s.readPage old new n
  (r.1.clearComp new.pte).writePage new old.base r.2

/-- The pinned lines of a page are written to its frame, each with the value of the die that owns it, and stay pinned; a dirty one that fails its check on the way has a deferred record (01 R15; 15 R178; 25 R271, R278). -/
def State.writePinned (s : State) (x : Xlat) : List Nat → Option State
  | [] => some s
  | k :: t =>
    let h := homeDie (keyVa k)
    let s0 := match s.recall k with | .ok (s1, _) => s1 | .error _ => s
    match s0.llcAt h k with
    | none => s0.writePinned x t
    | some l =>
      let c := s0.crossAll l.data l.poison (memRoute x (keyVa k) h true)
      let s1 := if c.2.2 && !l.poison && l.dirty then c.1.deferred 1 (keyAsid k) (keyVa k) (64 * h) else c.1
      match s1.setMemLine x (keyVa k) c.2.1 c.2.2 with
      | none => none
      | some s2 => (s2.setLlc h k { l with dirty := false }).writePinned x t

/-- Attributes of a move's end step that must not change (25 R271). -/
def moveFields (p : W64) : W64 := p &&& 0x2F

/-- MAP (25 R261 to R264, R271, R275, R276; 29 R310; 31 R344). An end step into a compressed destination that a pinned line's present value does not fit is refused with reason 8 (assumption log 42). -/
def execMap (s : State) : Host.Outcome State Fault Refusal :=
  s.runCmd 3 fun s k c e =>
    let va := cmdField e 8 8
    let level := cmdField e 16 1 % 4
    let p : W64 := BitVec.ofNat 64 (cmdField e 24 8)
    let global := va / 2 ^ 55 % 4 == 1
    let asid := tagAsid c.asid va
    let span := levelSpan level
    let base := va / span * span
    if 2 ^ 56 ≤ va then .refused 5
    else
      match s.walkTo asid va level with
      | none => .refused 5
      | some (pa, old) =>
        let leaf := pteV p && pteLeaf p
        let oldLeaf := pteV old && pteLeaf old
        let rev := (s.writePte k asid base level pa p).rev
        if pteBad level p global || s.mapBad k p rev then .refused 7
        else if oldLeaf && pteMig old && pteMig p && p != old then .refused 7
        else if oldLeaf && pteMig old && !pteMig p then
          if moveFields p != moveFields old || !leaf then .refused 8
          else
            let size := levelSize level
            let x0 : Xlat := ⟨base, size, pteAddr old, old⟩
            let x1 : Xlat := ⟨base, size, pteAddr p, p⟩
            match s.copyPage x0 x1 (size / 128) with
            | none => .refused 8
            | some s1 =>
              let s2 := s1.writePte k asid base level pa p
              let pins := (s2.ctxs.flatMap fun q => q.2.pins).filter fun l => keyAsid l == asid && base ≤ keyVa l && keyVa l < base + size
              match s2.writePinned x1 pins with
              | none => .refused 8
              | some s3 =>
                let landed := fun (key : Nat) => keyAsid key == asid && base ≤ keyVa key && keyVa key < base + size
                .done { s3 with
                  llc := s3.llc.map fun l =>
                    if landed (l.1 % 2 ^ 66) then (l.1, { l.2 with stuck := false, attrs := pteAttrs p }) else l }
        else
          let begins := oldLeaf && leaf && !pteMig old && pteMig p
          let low := s.lowered rev
          if begins && p != old ||| 0x80 then .refused 7
          else if begins || low != [] then
            match s.invalidateUnits (fun t => if begins then s.unitIn asid base span t else low.any fun e => s.unitIn e.asid e.va e.size t) with
            | (s1, false) => .waits s1
            | (s1, true) =>
              if begins then
                let s2 := s1.writePte k asid base level pa p
                let s3 : State := { s2.keepFull s1.rev asid base with
                  groups := s2.groups.map fun g => (g.1, { g.2 with resv := g.2.resv.filter fun l => !(keyAsid l.2 == asid && base ≤ keyVa l.2 && keyVa l.2 < base + span) }) }
                .done s3
              else
                match s1.dropPages k low with
                | .error _ => .waits s1
                | .ok (s2, _) => .done (((s2.writePte k asid base level pa p).keepFull s2.rev asid base).clearNew s2.rev)
          else .done (((s.writePte k asid base level pa p).keepFull s.rev asid base).clearNew s.rev)

/-! ### REPLAY, BUDGET, GPARAM, ARM, OVFPOOL (31 R325) -/

/-- REPLAY: releases the agent of a record with RETRY or FAIL; an unknown SEQ does nothing (25 R270). -/
def execReplay (s : State) : Host.Outcome State Fault Refusal :=
  s.runCmd 4 fun s k c e =>
    let seq := cmdField e 8 4
    let act := cmdField e 12 4
    if 1 < act then .refused 4
    else
      match c.open_.find? (·.1 == seq) with
      | none => .done s
      | some r => .done (s.setCtx k { c with open_ := c.open_.filter (· != r), released := c.released ++ [(r.2, act == 1)] })

/-- BUDGET: takes effect at the next period (31 R326). -/
def execBudget (s : State) : Host.Outcome State Fault Refusal :=
  s.runCmd 5 fun s k c e =>
    let p := cmdField e 8 8
    if p < 1 || 1024 < p then .refused 4
    else .done (s.setCtx k { c.inPeriod s.cycle with budgetNext := some { period := p, hbm := cmdField e 16 4, copy := cmdField e 20 4, gal := cmdField e 24 4, cxl := cmdField e 28 4 } })

/-- GPARAM: the Gallery parameters; a change of the export window first invalidates every unit of it (29 R307, R310, R313; 31 R344). -/
def execGparam (s : State) : Host.Outcome State Fault Refusal :=
  s.runCmd 6 fun s k c e =>
    let expb := cmdField e 16 8
    let expsz := cmdField e 24 4
    let gbhome := cmdField e 32 4
    let nrmdev := cmdField e 36 4
    let buddy := cmdField e 40 4
    if 2 ^ 56 ≤ expb || expb % 65536 != 0 || 2 ^ 28 < expsz || s.gal.devices ≤ gbhome || nrmdev < 1 || 4096 < nrmdev ||
       (buddy != 0xFFFF && (s.gal.devices ≤ buddy || buddy == s.gal.me)) then .refused 4
    else
      let (s1, clear) := if expb != c.expb || expsz != c.expsz then s.invalidateUnits (fun t => t.ctx == k) else (s, true)
      if !clear then .waits s1
      else .done (s1.setCtx k { s1.ctx k with djob := BitVec.ofNat 32 (cmdField e 8 4), expb := expb, expsz := expsz, gwait := cmdField e 28 4 % 32,
                                              gbhome := gbhome, nrmdev := nrmdev, buddy := buddy, broken := false })

/-- ARM: reads the launch record and PRED of a TCB; with PRED 0 the gate opens at once (31 R319, R320). -/
def execArm (s : State) : Host.Outcome State Fault Refusal :=
  s.runCmd 7 fun s k c e =>
    let a := cmdField e 8 8
    if a % 128 != 0 then .refused 4
    else if 2 ^ 56 ≤ a then .refused 5
    else
      let r := s.devReq k a
      match s.homeLine r with
      | .error .wait => .waits s
      | .error _ => .refused 5
      | .ok (s1, l) =>
        if !l.attrs.w then .refused 5
        else if s.tasks.any fun p => s.tcbKey p.2 == r.key && !p.2.done && !p.2.refused then .refused 6
        else if s1.pageFull r.asid a then .waits s
        else
          let gate := tcbPred l.data == 0
          let (n, s2) := s1.fresh
          let t : Task := { ctx := k, tcb := a, lrec := BitVec.ofNat 512 (lineNat l.data 0 64), launchId := BitVec.ofNat 32 (lineNat l.data 0x48 4), gate := gate, gateAt := n }
          let s3 := s2.homeWrite r l (byteMask 0x44 2) (lineSet l.data 0x44 2 (if gate then 1 else 0)) 0 false
          .done { s3 with tasks := tset (s3.tasks.filter fun p => s.tcbKey p.2 != r.key) n t, ctxs := tset s3.ctxs k (tgetD s3.ctxs k c) }

/-- OVFPOOL: the bases of the context's overflow pools (25 R276). -/
def execOvfpool (s : State) : Host.Outcome State Fault Refusal :=
  s.runCmd 8 fun s k c e =>
    let h := cmdField e 8 8
    let x := cmdField e 16 8
    let used := fun (tier : Bool) => s.rev.any fun r => r.ctx == k && pteC r.pte && pteOvf r.pte != 0 && pteTier r.pte == tier
    if h % 16384 != 0 || x % 16384 != 0 then .refused 4
    else if (h != c.ovfHbm && used false) || (x != c.ovfCxl && used true) then .refused 6
    else .done (s.setCtx k { c with ovfHbm := h, ovfCxl := x })

/-! ### Host accesses to device memory and to the host's own (31 R317, R318, R323, R343) -/

/-- A mapping of a frame of a tier that holds an address: the one of the lowest ASID, then of the lowest VA (31 R318). -/
def State.mappingIn (s : State) (tier : Bool) (pa : Nat) : Option RevEntry :=
  let l := s.rev.filter fun e => pteTier e.pte == tier && !pteC e.pte && pteAddr e.pte ≤ pa && pa < pteAddr e.pte + e.size
  l.foldl (fun a e => match a with
    | none => some e
    | some b => if e.asid < b.asid || (e.asid == b.asid && e.va < b.va) then some e else some b) none

/-- The mapping of a frame of HBM. -/
def State.mappingOf (s : State) (pa : Nat) : Option RevEntry := s.mappingIn false pa

/-- An address lies in the frame or the overflow slot of a compressed page. -/
def State.inCompressed (s : State) (pa : Nat) : Bool :=
  s.rev.any fun e => pteC e.pte && !pteTier e.pte &&
    (meets pa 1 (pteAddr e.pte) (pteFrame 0 e.pte) || (pteOvf e.pte != 0 && meets pa 1 ((s.ctx e.ctx).ovfHbm + 16384 * pteOvf e.pte) 16384))

/-- The operation may write. -/
def hostWrites : HostOp → Bool
  | .write _ | .fetchAdd _ _ | .swap _ _ | .cas _ _ _ => true
  | _ => false
/-- The operation returns what it read. -/
def hostReads : HostOp → Bool
  | .write _ => false
  | _ => true

/-- The new value that a host operation gives the bytes that it names; none where it writes nothing. -/
def hostNew (op : HostOp) (old n : Nat) : Option Nat :=
  match op with
  | .write d => some (ofBytes (d.take n))
  | .fetchAdd _ x => some ((old + x) % 2 ^ (8 * n))
  | .swap _ x => some (x % 2 ^ (8 * n))
  | .cas _ c x => if old = c % 2 ^ (8 * n) then some (x % 2 ^ (8 * n)) else none
  | _ => none

/-- Bytes that an operation names from offset `j` of a line that ends at offset `top`. -/
def hostBytes (op : HostOp) (j top : Nat) : Nat :=
  match op with
  | .read n | .fetchAdd n _ | .swap n _ | .cas n _ _ => min n (top - j)
  | .hold => top - j
  | .write d => min d.length (top - j)
  | .own _ | .ownRead _ | .register _ | .rings _ _ _ => 0

/-- The host sees what it read. -/
def State.hostSees (s : State) (n x : Nat) : State := { s with plat := { s.plat with hostData := bytesOf n x } }

/-- The host sees `n` bytes from offset `j` of a line that has crossed the host port of the die that sent it (01 R15). -/
def State.hostGets (s : State) (die j n : Nat) (l : Line) (poison : Bool) : State :=
  let c := s.crossOne (portBoundary die) die l poison
  c.1.hostSees n (lineNat c.2.1 j n)

/-- A host access to `n` bytes from offset `j` of the line of HBM at `pa`, sideband bytes from offset 128 on: at the home of a mapping, whether or not the host holds the line, or in HBM; not performed for compressed pages. A write without W is dropped, and an atomic then only reads (assumption log 50). Its data cross the host port of the die that performs it (01 R15; 31 R318, R343). -/
def State.hostAccess (s : State) (pa j : Nat) (op : HostOp) (n : Nat) : Option State :=
  let dropped : State := (if hostReads op then s.hostSees n (2 ^ (8 * n) - 1) else s).softError (homeDie pa)
  let hold (s : State) : State := match op with | .hold => { s with plat := { s.plat with hostOwn := ninsert s.plat.hostOwn (pa / 128) } } | _ => s
  if s.inCompressed pa then some dropped
  else
    match s.mappingOf pa with
    | none =>
      let d := physDie pa
      let l := physRead hbmSide s.hbm pa
      let old := lineNat l j n
      let s1 := hold (if hostReads op then s.hostGets d j n l (s.memPoison.contains (pa / 128 * 128)) else s)
      match hostNew op old n with
      | none => some s1
      | some x =>
        let m := byteMask j n
        let (s2, data, p) := s1.crossOne (portBoundary d) d (lineSet 0 j n x) false
        let bad := p || (s2.memPoison.contains (pa / 128 * 128) && m != fullMask)
        some { s2 with hbm := physWrite hbmSide s2.hbm pa m data, memPoison := markPoison s2.memPoison (pa / 128 * 128) bad }
    | some e =>
      let va := e.va + (pa - pteAddr e.pte)
      let r : Req := ⟨noCore, e.ctx, e.asid, va⟩
      let d := homeDie va
      let refused := hostWrites op && !pteW e.pte
      if refused && !hostReads op then some dropped
      else
        match s.homeLineFor true r with
        | .error _ => none
        | .ok (s1, l) =>
          let old := lineNat l.data j n
          let s2 := hold (if hostReads op then s1.hostGets d j n l.data l.poison else s1)
          match hostNew op old n with
          | none => some s2
          | some x =>
            if refused then some (s2.softError (homeDie pa))
            else if s2.pageFull e.asid va then none
            else
              let (s3, data, p) := s2.crossOne (portBoundary d) d (lineSet 0 j n x) false
              some (s3.homeWrite r l (byteMask j n) data 0 p)

/-- The CXL physical address of a host address that a host-memory range of the tier covers (31 R317; assumption log 45). -/
def rangeAddr : List CxlRange → Nat → Nat → Option Nat
  | [], _, _ => none
  | r :: t, below, a =>
    match r.host with
    | some b => if b ≤ a && a < b + rangeFrames r then some (below + (a - b)) else rangeAddr t (below + rangeFrames r) a
    | none => rangeAddr t (below + rangeFrames r) a

/-- The request for the line of a mapped page that holds a host address; the device may hold that line in its LLC through CXL.cache (15 R157, 31 R317). -/
def State.cacheReq (s : State) (a : Nat) : Option Req :=
  match rangeAddr s.plat.ranges 0 a with
  | none => none
  | some pa => (s.mappingIn true pa).map fun e => ⟨noCore, e.ctx, e.asid, e.va + (pa - pteAddr e.pte)⟩

/-- The host reads `n` bytes of its own memory: where the device may hold a line, what its home holds, over the host port of that die (01 R15; 15 R157; 31 R317). The first argument bounds the number of pieces. -/
def State.ownBytes (s : State) (a : Nat) : Nat → Nat → MemR (List Byte)
  | _, 0 => .ok (s, [])
  | 0, _ => .ok (s, [])
  | f + 1, n + 1 =>
    match s.cacheReq a with
    | none => (s.ownBytes (a + 1) f n).map fun x => (x.1, mread noSide s.host a :: x.2)
    | some r =>
      match s.homeLine r with
      | .error e => .error e
      | .ok (s1, l) =>
        let h := homeDie r.va
        let k := min (n + 1) (128 - r.va % 128)
        let c := s1.crossOne (portBoundary h) h l.data l.poison
        (c.1.ownBytes (a + k) f (n + 1 - k)).map fun x => (x.1, (List.range k).map (fun i => lineByte c.2.1 (r.va % 128 + i)) ++ x.2)

/-- The host writes bytes of its own memory, those of a line that the device may hold at its home, over the host port of that die (01 R15; 15 R157; 31 R317). A write to the fields of a fault-log header that are read-only lands in those bytes, and the device's own counts stay as they are (assumption log 41). The first argument bounds the number of pieces. -/
def State.ownWrite (s : State) : Nat → Nat → List Byte → MemR Unit
  | _, _, [] => .ok (s, ())
  | 0, _, _ => .ok (s, ())
  | f + 1, a, b :: t =>
    match s.cacheReq a with
    | none => ({ s with host := mwrite noSide s.host a b } : State).ownWrite f (a + 1) t
    | some r =>
      match s.homeLine r with
      | .error e => .error e
      | .ok (s1, l) =>
        let h := homeDie r.va
        let j := r.va % 128
        let k := min (t.length + 1) (128 - j)
        let c := s1.crossOne (portBoundary h) h (lineSet 0 j k (ofBytes ((b :: t).take k))) false
        (c.1.homeWrite r l (byteMask j k) c.2.1 0 c.2.2).ownWrite f (a + k) ((b :: t).drop k)

/-- A BAR0 register of port 0 as the host reads it: CRWP is write-only and reads as zero, as every other offset does (00 R4; 31 R323). -/
def CmdRing.reg (r : CmdRing) (off : Nat) : W64 :=
  match off with
  | 0x000 => r.base
  | 0x008 => BitVec.ofNat 64 (r.k + r.en.toNat * 2 ^ 31)
  | 0x018 => r.rp.setWidth 64
  | 0x020 => BitVec.ofNat 64 (r.overrun.toNat + 2 * r.busy.toNat)
  | _ => 0

/-- The driver gives the ring words of a kernel (21 R228; assumption log 8). -/
def State.giveRings (s : State) (ctx entry : Nat) (words : List W64) : State :=
  { s with kernelRings := (s.kernelRings.filter fun r => !(r.1 == ctx && r.2.1 == entry)) ++ words.zipIdx.map fun w => (ctx, entry, w.2, w.1) }

/-- HOST_MEM_ACCESS: a host access to an address of HBM or to its own memory, a read of a BAR0 register, or the ring words of a kernel (21 R228; 31 R317, R318, R323). An address that is no HBM, or lies in the reserved area, is backed by nothing that the host reaches (25 R262, R263). -/
def execHostMemAccess (pa : Nat) (op : HostOp) (s : State) : Host.Outcome State Fault Refusal :=
  if !s.portsUp then .next s else
  match op with
  | .own d => .next (match s.ownWrite d.length pa d with | .ok (s1, _) => s1.ringCheck | .error _ => s)
  | .ownRead n => .next (match s.ownBytes pa n n with | .ok (s1, l) => { s1 with plat := { s1.plat with hostData := l } } | .error _ => s)
  | .register off => .next (s.hostSees 8 (s.ring.reg off).toNat)
  | .rings ctx entry words => .next (s.giveRings ctx entry words)
  | _ =>
    if Config.reservedBase ≤ pa then .fault .unbackedAddress
    else .next ((s.hostAccess pa (pa % 128) op (hostBytes op (pa % 128) 128)).getD s)

/-- SIDEBAND_WINDOW_ACCESS: a host access to the window above the data range (31 R343). -/
def execSidebandWindowAccess (pa : Nat) (op : HostOp) (s : State) : Host.Outcome State Fault Refusal :=
  let a := (pa - 2 ^ 40) / 8 * 128
  let j := 128 + (pa - 2 ^ 40) % 8
  if !s.portsUp then .next s else
  match op with
  | .own _ | .ownRead _ | .register _ | .rings _ _ _ | .hold => .next s
  | _ =>
    if pa < 2 ^ 40 || Config.reservedBase ≤ a then .fault .unbackedAddress
    else .next ((s.hostAccess a j op (hostBytes op j 136)).getD s)

/-- SNOOP_RESPONSE: the host gives up the line of HBM that a back-invalidation snoop asked for, and writes back the bytes from its first on that it has modified (31 R318, R320). A write-back that must wait is answered later. -/
def execSnoopResponse (x : SnoopAnswer) (s : State) : Host.Outcome State Fault Refusal :=
  let free (s : State) : State := { s with plat := { s.plat with hostOwn := s.plat.hostOwn.filter (· != x.pa / 128) } }
  if x.data = [] || !s.plat.hostOwn.contains (x.pa / 128) || !s.portsUp then .next (free s)
  else
    match s.hostAccess (x.pa / 128 * 128) 0 (.write x.data) (hostBytes (.write x.data) 0 128) with
    | some s1 => .next (free s1)
    | none => .next s

/-! ### Budgets and heat (25 R273; 31 R326) -/

/-- BUDGET_PERIOD for context `s.who`: at a cycle that is a multiple of 1,400 P a period begins, with every count at 0 and the budgets of the last BUDGET (31 R326). What has fallen due is applied here or before the next use of a count. -/
def execBudgetPeriod (s : State) : Host.Outcome State Fault Refusal :=
  match tget s.ctxs s.who with
  | none => .next s
  | some c => .next (if c.inPeriod s.cycle = c then s else s.setCtx s.who (c.inPeriod s.cycle))

/-- HEAT_DECAY: at each cycle that is a multiple of 2^DECAY every count of the context is halved, and a count of 0 empties its entry (25 R273). What has fallen due is applied for every context at once, here or before the next sample or read of a count. -/
def execHeatDecay (s : State) : Host.Outcome State Fault Refusal :=
  .next (if s.ctxs.any fun c => decaysDue c.2 s.cycle != 0 then s.decayed else s)

end Sys2Proof.Machine
end

