-- ==== Sys2Proof/Machine/Platform.lean ====
section
/-! DEFINITION. Sampling, soft errors and the management plane (01_organisation.md R13, R15; 05 R49; 33_debug_platform.md R332 to R334, R336 to R340). -/

namespace Sys2Proof.Machine

/-! ### Samples (33 R332 to R334) -/

/-- The word that a group would issue next; none at a clause boundary. -/
def Group.nextInstr (g : Group) : Option Instr :=
  match g.clause with
  | none => none
  | some c => match c.words[c.idx]? with
    | none => none
    | some w => match decodeWord w with | .ok i => some i | .error _ => none

/-- The counter that an instruction joins is at its maximum (05 R53; 33 R334). -/
def counterFull (g : Group) : Instr → Bool
  | .vld _ | .vldx _ | .vlds _ | .sld _ | .vatom _ | .vfatom _ | .vatoms _ | .satom _ | .ldrsv _ | .stcnd _ | .lpin _ | .spjoin _ | .presq _ => g.ctrFull .load
  | .vst _ | .vstx _ | .vsts _ | .sst _ | .vred _ | .lunpin _ => g.ctrFull .store
  | .tlds _ | .tsts _ | .clds _ | .csts _ | .tmov _ => 15 ≤ g.moves.length
  | .tcopy _ | .tcopys _ | .stash _ => 15 ≤ g.copies.length
  | _ => false

/-- The token of an engine operation (19 R204). -/
def engineToken : Instr → Option Nat
  | .tcopy f | .tcopys f | .stash f | .gcopy f | .gflush f | .gsig f => some f.tok.toNat
  | _ => none

def isRingOp : Instr → Bool
  | .rpush _ | .rrel _ => true
  | _ => false
def isFence : Instr → Bool
  | .fence _ | .drain _ => true
  | _ => false
def isSysWait : Instr → Bool
  | .ctxsv _ | .ctxld _ | .icinv | .tlbinv _ | .cinv _ | .heatrd _ | .qpost _ | .spleave | .lpin _ => true
  | _ => false
def isStackOp : Instr → Bool
  | .brd _ | .join | .exit _ | .call _ | .ret => true
  | _ => false

/-- What a group reads or writes for its own word waits for its context's budget: the line is not at its home, and the tier's budget is used up (31 R326; 33 R334). -/
def State.budgetHeld (s : State) (g : Group) : Bool :=
  let r := s.reqOf g g.fetchVa
  let c := (s.ctxOf g).inPeriod s.cycle
  g.fetchSince.isSome && (s.llcAt (homeDie r.va) r.key).isNone &&
  (match s.pageOf r.asid r.va with
   | some x => if pteTier x.pte then overBudget c.useCxl c.budget.cxl else overBudget c.useHbm c.budget.hbm
   | none => false)

/-- The stall reason of a group in the current cycle: the first condition of the table, in code order, that kept it from issuing; 1 where it was ready (33 R334; assumption log 24). -/
def State.stallOf (s : State) (u : Nat) : Nat :=
  let g := s.group u
  let t := s.teamOf g
  let k := s.coreOf g
  let next (p : Instr → Bool) : Bool := (g.nextInstr).elim false p
  let w : FW := if g.clause.isNone && g.wait == .none then (match s.fetchClause g with | .clause _ h _ => g.allWaits h | _ => noWait) else noWait
  let mine := (s.core k).arrayQ.head? == some u
  let conds : List (Nat × Bool) :=
    [(3, !(w.wld == 63 || g.loads ≤ w.wld.toNat)), (4, !(w.wst == 63 || g.stores ≤ w.wst.toNat)), (5, !(w.wcp == 15 || s.copiesFor g ≤ w.wcp.toNat)),
     (6, !(w.wtl == 15 || g.moves.length ≤ w.wtl.toNat)), (7, !((List.range 8).all fun n => !w.tokw.getLsbD n || s.tokenFor g u n)),
     (8, next (counterFull g)),
     (9, next fun i => (engineToken i).isSome && (s.core k).held != some u && 16 ≤ s.usedSlots k),
     (10, next fun i => match engineToken i with | some n => (g.tok n).count == 15 | none => false),
     (11, match g.wait with | .bar _ _ | .barCarry _ _ => !s.gateOpen g | _ => next fun i => (match i with | .bar _ | .barrive _ => true | _ => false) && g.unperformed),
     (12, match g.wait with | .rwait _ _ _ _ => true | _ => false),
     (13, next fun i => isRingOp i && 4 ≤ g.ringOps.length),
     (14, match g.wait with | .gbar _ _ => !s.gateOpen g | _ => false),
     (15, match g.wait with | .nrmrd _ _ => !s.gateOpen g | _ => false),
     (16, match g.wait with | .mirror _ _ _ _ _ => !s.gateOpen g | _ => false),
     (17, next fun i => (match i with | .nrmadd _ => true | _ => false) && 2 ≤ (s.ctxOf g).norms.length),
     (18, match g.wait with | .absent _ => true | _ => false),
     (19, g.faultParked || (match g.wait with | .fault | .fetchFault _ _ | .spillFault _ | .opFault _ => s.parkOf g == .blocked | _ => false)),
     (20, g.wait == .product && mine), (21, g.wait == .product && !mine),
     (22, g.acqHeld || next fun i => isFence i && g.pend != []),
     (23, next fun i => isSysWait i && (g.unperformed || g.fetchSince.isSome)),
     (25, g.clause.isNone && g.fetchSince.isSome && (match s.fetchClause g with | .stop .wait _ => true | _ => false)),
     (26, s.cycle < g.mayIssue), (27, !g.active), (28, (s.plat.p1.contains (dieOf k) && s.cycle % 4 == 3) || (s.budgetHeld g && (next isStackOp || (g.wait matches .record _ _)))),
     (29, g.wait == .regroup), (30, t.stopped.contains g.gid || (t.save != .running && g.mode != .sysHandler) || (g.wait matches .parked | .tretResume _)),
     (31, next fun i => isStackOp i && g.fetchSince.isSome)]
  match conds.find? (·.2) with
  | some p => p.1
  | none => 1

/-- The place of a group in the rotation of its scheduler: order of team placement, then gid (33 R332). -/
def State.rotation (s : State) (u : Nat) : Nat := (s.teamOf (s.group u)).placed * 32 + (s.group u).gid + 1

/-- The group that scheduler `k` of a core samples next (33 R332). -/
def State.sampled (s : State) (core k : Nat) : Option Nat :=
  let l := (s.residents core k).filter fun u => (s.group u).status == .live
  let last := tgetD (s.core core).sampRot k 0
  match firstBy s.rotation (l.filter fun u => last < s.rotation u) with
  | some u => some u
  | none => firstBy s.rotation l

/-- Scheduler `k` of a core samples its next group, at most once in a cycle that is a multiple of the interval: whether the group has issued in this cycle, or why not; a group of a context that does not own SAMPCTL yields zeros (33 R332, R333). -/
def State.sample (s : State) (core k : Nat) : State :=
  let c := s.core core
  if !sampEn c.samp || 4 ≤ k || s.cycle % sampInterval c.samp != 0 || tget c.sampAt k == some s.cycle then s
  else
    match s.sampled core k with
    | none => s
    | some u =>
      let g := s.group u
      let own := (s.teamOf g).ctx = c.sampOwner
      let pc := match g.clause with | some cl => wordPc g cl | none => g.pc
      let s1 := s.setCore core { c with sampRot := tset c.sampRot k (s.rotation u), sampAt := tset c.sampAt k s.cycle }
      s1.writeSample core (recordLo 0 k g.issued.toNat (if g.issued then 0 else s.stallOf u) (if own then pc.toNat / 8 else 0))
        (recordHi s.cycle core 0 (if own then g.gid else 0) (if own then g.engseq.toNat else 0))

/-- PC_SAMPLE: scheduler `k` of a core takes its sample of this cycle, and issues nothing more in it (33 R332; assumption log 24). -/
def execPcSample (core k : Nat) (s : State) : Host.Outcome State Fault Refusal := .next (s.sample core k)

/-- Every scheduler whose core samples takes its sample of the cycle that ends, where it has not yet (33 R332). -/
def State.sampleAll (s : State) : State :=
  (tkeys s.cores).foldl (fun s core => if sampEn (s.core core).samp then (List.range 4).foldl (fun s k => s.sample core k) s else s) s

/-! ### Soft errors (05 R49; 17 R342; 25 R278; 33 R340) -/

/-- The die of a group's core. -/
def State.groupDie (s : State) (u : Nat) : Nat := dieOf (s.coreOf (s.group u))

/-- An uncorrectable error in a register that a group holds is counted and poisons it. -/
def State.hitRegister (s : State) (u : Nat) (ok : Bool) (g : Group) : State :=
  if ok && (s.group u).status == .live then (s.softError (s.groupDie u)).setGroup u g else s

/-- An uncorrectable error in a dirty line of an LLC, found as the line is written back, to its home or to memory: the line is poisoned and its context is charged, once (25 R278). -/
def State.llcError (s : State) (die : Nat) (key : Nat) (l : LlcLine) : State :=
  let va := keyVa key
  let s1 := ((s.softError die).setLlc die key { l with poison := true }).deferred 1 (keyAsid key) va (64 * die)
  if die != homeDie va then (match s1.recall key with | .ok (s2, _) => s2 | .error _ => s1)
  else match s1.cleanHome ⟨64 * die, s1.ctxOfKey 0 key, keyAsid key, va⟩ with | .ok (s2, _) => s2 | .error _ => s1

/-- SOFT_ERROR: a detected soft error is counted; an uncorrectable one poisons its unit, and in a dirty line that is written back it leaves a deferred record. An error of a link waits at its boundary for the next line that crosses it (01 R15; 25 R278; 33 R340). -/
def execSoftError (site : SoftSite) (s : State) : Host.Outcome State Fault Refusal :=
  match site with
  | .corrected die => .next (if die < 4 then s.softError die else s)
  | .vector u n l =>
    let g := s.group u
    .next (s.hitRegister u (n < g.nv && l < 32) { g with vp := tset g.vp n (g.rvp n ||| (1#32 <<< l)) })
  | .scaleByte u n b =>
    let g := s.group u
    .next (s.hitRegister u (n < g.nx && b < 8) { g with xp := tset g.xp n (g.rxp n ||| (1#8 <<< b)) })
  | .scalar u n => .next (s.hitRegister u (n < 128) ((s.group u).poisonS n))
  | .tile u n => .next (s.hitRegister u (n < 16) ((s.group u).markTile n true))
  | .acc u n => .next (s.hitRegister u (n < 8) ((s.group u).markAcc n true))
  | .spad k w =>
    let t := s.team k
    .next (if t.live && 4 * w < s.spadSize k then (s.softError (dieOf t.core)).setTeam k { t with spadPoison := ninsert t.spadPoison w } else s)
  | .l1 core asid va =>
    let key := lineKey asid va.toNat
    match s.l1At core key with
    | none => .next s
    | some l =>
      if l.dirty == 0 then .next s
      else
        let s1 := ((s.softError (dieOf core)).setL1 core key { l with poison := true }).deferred 1 asid va.toNat core
        .next (match s1.writeBack core (s.ctxOfKey 0 key) key with | .ok (s2, _) => s2 | .error _ => s1)
  | .llc die asid va =>
    let key := lineKey asid va.toNat
    match s.llcAt die key with
    | none => .next s
    | some l => .next (if l.dirty then s.llcError die key l else s)
  | .crossing b flips => .next (if b < 8 then { s with noise := tset s.noise b (tgetD s.noise b [] ++ [flips]) } else s)

/-! ### The management plane (01 R13; 33 R336 to R339) -/

/-- GATE_HOLD: the management plane holds all launch gates, or releases them once bring-up is over (01 R13; 33 R336). -/
def execGateHold (held : Bool) (s : State) : Host.Outcome State Fault Refusal :=
  .next (if held || s.plat.step = 7 then { s with plat := { s.plat with gates := held } } else s)

/-- A measurement register extended with data (33 R338). -/
def mrExtended (old : BitVec 384) (data : List Byte) : BitVec 384 := sha384 (digestBytes old ++ digestBytes (sha384 data))

/-- Extends measurement register `n` (33 R338). -/
def State.extendMr (s : State) (n : Nat) (data : List Byte) : State :=
  { s with plat := { s.plat with mr := tset s.plat.mr n (mrExtended (tgetD s.plat.mr n 0) data) } }

/-- The module as 48 V finds it: everything of the device at its reset value; the host's and the CXL expanders' memories are not the device's. -/
def State.powered (s : State) : State :=
  { State.reset with host := s.host, cxl := s.cxl, agenda := s.agenda, who := s.who, free := s.free, nextId := s.nextId, kernelRings := s.kernelRings }

/-- The CXL ranges that the device accepts: up to 16, whose frames make up at most 3 TiB (25 R266, 31 R317). -/
def acceptRanges (l : List CxlRange) : List CxlRange :=
  (l.take 16).foldl (fun a r => if ((a ++ [r]).map rangeFrames).foldl (· + ·) 0 ≤ 3 * 2 ^ 40 then a ++ [r] else a) []

/-- The numbers of the configuration that step 6 of bring-up measures: the domain, the calendar and the CXL ranges (33 R336; assumption log 5). -/
def configNumbers (p : PowerUp) : List Nat :=
  [p.devices, p.me, p.stepNs, p.epoch] ++ p.caltab.flatMap (fun e => [e.1, e.2.toNat]) ++ (acceptRanges p.ranges).flatMap fun r => [r.size] ++ r.host.toList

/-- POWER_ON: bring-up, step by step; a failed verification stops it with the ports untrained and the gates closed; step 6 measures the configuration and makes the ephemeral session key (29 R296 to R298; 31 R317; 33 R336, R339). The last step awaits the host. -/
def execPowerOn (p : PowerUp) (s : State) : Host.Outcome State Fault Refusal :=
  if s.plat.power && s.plat.step != 1 then .next s
  else
    let s1 := s.powered
    if !p.imageOk then .next { s1 with plat := { s1.plat with step := 2 } }
    else
      let s2 := s1.extendMr 0 (Config.bootImage 0)
      if !p.dieOk then .next { s2 with plat := { s2.plat with step := 4 } }
      else
        let s3 := ((s2.extendMr 1 (Config.bootImage 1)).extendMr 2 (Config.bootImage 2)).extendMr 3 (Config.configImage (configNumbers p))
        .next { s3 with
          free := s3.free + 1,
          plat := { s3.plat with step := 6, eph := some s3.free, ranges := acceptRanges p.ranges },
          gal := { s3.gal with devices := min 4096 (max 1 p.devices), me := p.me, stepNs := if p.stepNs = 1024 || p.stepNs = 4096 then p.stepNs else 2048,
                               epoch := p.epoch, timeNs := p.nowNs, markAt := s3.cycle,
                               caltab := p.caltab.foldl (fun t e => tset t e.1 (e.2 &&& 0x8FFF)) [] } }

/-- P1_ENTER of a die at its hottest sensor's temperature in degrees Celsius and the module's power in watts averaged over 1 ms (33 R337). -/
def execP1Enter (die temp watts : Nat) (s : State) : Host.Outcome State Fault Refusal :=
  .next (if die < 4 && (100 ≤ temp || 4800 < watts) then { s with plat := { s.plat with p1 := ninsert s.plat.p1 die } } else s)

/-- P1_EXIT of a die (33 R337). -/
def execP1Exit (die temp watts : Nat) (s : State) : Host.Outcome State Fault Refusal :=
  .next (if temp < 95 && watts < 4600 then { s with plat := { s.plat with p1 := s.plat.p1.filter (· != die) } } else s)

/-- THERMAL_SHUTDOWN at a temperature: from 110 °C Leryn removes power; every context is lost (33 R337). -/
def execThermalShutdown (temp : Nat) (s : State) : Host.Outcome State Fault Refusal :=
  .next (if temp < 110 then s else { s.powered with plat := { State.reset.plat with power := false, step := 0 } })

/-- POWER_STATE_SELECT: P0, or P2 or P3 while no team is resident; the reference is counted on at the new clock (33 R337). -/
def execPowerStateSelect (p : Nat) (s : State) : Host.Outcome State Fault Refusal :=
  if p = 0 || ((p = 2 || p = 3) && !s.teams.any (·.2.live)) then
    .next { s with plat := { s.plat with pstate := p },
                   gal := { s.gal with timeNs := s.gal.nsAt s.cycle, markAt := s.cycle, slow := p = 2 } }
  else .next s

/-- ATTESTATION_REPORT for a host nonce, signed with a nonce that is a free value (33 R338). -/
def execAttestationReport (nonce : BitVec 384) (s : State) : Host.Outcome State Fault Refusal :=
  if s.plat.step < 6 then .next s
  else
    let mrs := (List.range 8).map fun n => tgetD s.plat.mr n 0
    let key := s.boundKey
    let sig := ecdsa (Config.attestKey % (curveN - 1) + 1) (privateKey s.free) (sha384 (digestBytes nonce ++ mrs.flatMap digestBytes ++ Config.serial ++ key))
    .next { s with free := s.free + 1, plat := { s.plat with report := some ⟨nonce, mrs, Config.serial, key, sig⟩ } }

/-- MR_EXTEND: a host request extends MR4 to MR7 (33 R338). -/
def execMrExtend (n : Nat) (data : List Byte) (s : State) : Host.Outcome State Fault Refusal :=
  .next (if 4 ≤ n && n ≤ 7 && 5 ≤ s.plat.step then s.extendMr n data else s)

end Sys2Proof.Machine
end

