-- ==== Sys2Proof/Machine/Agenda.lean ====
section
/-! DEFINITION. Which agent moves next: the head of the agenda, or, where it is empty, an internal event that can happen, or a cycle in which a scheduler issues (assumption log 3, 4). -/

namespace Sys2Proof.Machine

/-- What a step runs. -/
inductive Move where
  /-- The step is this state. -/
  | stay (s : State)
  /-- The step is an instruction or an event at this state. -/
  | run (i : Instr) (s : State)

/-- Cycles pass in which nothing is sampled: the cycle count, which stands while the core clock is stopped (33 R337), no group having issued in the new cycle, and since when each pending group has been ready (03 R28). -/
def State.elapse (s : State) (n : Nat) : State :=
  { s with cycle := if s.plat.power && s.plat.pstate != 3 then s.cycle + n else s.cycle,
           groups := s.groups.map fun p =>
             let g := if n = 0 || !p.2.issued then p.2 else { p.2 with issued := false }
             (p.1, if !p.2.active && p.2.status == .live then
                     { g with readySince := if s.ready p.1 then some (p.2.readySince.getD s.cycle) else none }
                   else g) }

/-- Cycles pass one by one, the samples of each being taken as it ends (33 R332). -/
def State.passEach (s : State) : Nat → State
  | 0 => s
  | n + 1 => (s.sampleAll.elapse 1).passEach n

/-- Time passes: cycle by cycle where some core samples. -/
def State.pass (s : State) (n : Nat) : State := if s.cores.any fun c => sampEn c.2.samp then s.passEach n else s.elapse n

/-- The next word of a group whose clause is under way: a comparator that hits comes before every check (33 R330); a word that is no instruction kills the group (09 R101). -/
def State.wordMove (s : State) (u : Nat) : Move :=
  let g := s.group u
  match g.clause with
  | none => .stay s
  | some c =>
    match c.words[c.idx]? with
    | none => .stay s
    | some w =>
      let go (s : State) : Move :=
        match decodeWord w with
        | .ok i => .run i { s with who := u }
        | .error _ => .stay (s.kill u causeIllegal (wordPc g c))
      match s.hits u with
      | [] => go s
      | n :: _ =>
        if sampTrc (s.core (s.coreOf g)).samp then
          let s1 := s.traceRecord u n
          go (s1.setGroup u { s1.group u with bpSkip := true })
        else .stay (s.trap u causeBreakpoint (BitVec.ofNat 32 n) (wordPc g c) ⟨g.pc, true, c.idx, c.words.length⟩)

/-- What is due at a scheduler before it issues anything: a ready pending group enters room in the active set (03 R25), a group in a long-latency wait swaps with one (R27), a forced swap falls at its victim's boundary (R28), a path is switched (R33). -/
def State.schedDue (s : State) (core k : Nat) : Option (Nat × Instr) :=
  let a := s.actives core k
  match s.oldestPending core k with
  | some p =>
    if a.length < 8 then some (p, .pendingEnter)
    else match a.find? s.swapsOut with
      | some u => some (u, .clauseBegin)
      | none =>
        match (s.pendings core k).find? fun q => (s.swapDue core k q).isSome with
        | some q => some (q, .forcedSwap)
        | none => (a.find? fun u => s.atBoundary u && s.switchNow u).map fun u => (u, .pathSwitch)
  | none => (a.find? fun u => s.atBoundary u && s.switchNow u).map fun u => (u, .pathSwitch)

/-- A scheduler of a core moves: what is due there, or the group that it chooses begins its clause or issues its next word (03 R26). A scheduler that has sampled in this cycle issues nothing more in it (33 R332; assumption log 24). -/
def State.issueMove (s : State) (core k : Nat) : Move :=
  if tget (s.core core).sampAt k == some s.cycle then .stay s
  else match s.schedDue core k with
  | some (u, i) => .run i { s with who := u }
  | none =>
    match s.chosen core k with
    | none => .stay s
    | some u => if (s.group u).clause.isSome then (s.runs u).wordMove u else .run .clauseBegin { s with who := u }

/-- The schedulers that can move: those of a die in P1 issue in 3 of every 4 cycles (33 R337). -/
def State.movers (s : State) : List (Nat × Nat) :=
  ((tkeys s.cores).filter fun k => !(s.plat.p1.contains (dieOf k) && s.cycle % 4 == 3)).flatMap fun k => ((List.range 4).filter fun q => (s.chosen k q).isSome).map fun q => (k, q)

/-- What a group's outstanding operations may do (09 R88; 17 R197, R202; 19 R205; 21 R230, R231; 23 R255). -/
def groupEvents (u : Nat) (g : Group) : List (Nat × Instr) :=
  (g.pend.flatMap fun p =>
    ((List.range (if p.kind == .loadX then 9 else max 1 p.nregs)).map fun r => (u, Instr.loadDataReturn p.id r 0xFFFFFFFF)) ++
    [(u, .storePerformed p.id 0xFFFFFFFF), (u, .homeAtomic p.id 0xFFFFFFFF), (u, .accessViolation p.id), (u, .laneFault p.id), (u, .migrateWaitTimeout p.id)]) ++
  (g.moves.map fun m => (u, Instr.tileMoveComplete m.id none)) ++
  [(u, .ringOpEffect), (u, .rwaitRelease), (u, .absentLineReissue), (u, .recordReadComplete), (u, .matrixChunkComplete), (u, .groupRetire), (u, .preemptPoint), (u, .migrateWaitTimeout 0)]

/-- The scheduling events of a group (03 R25 to R28, R33). -/
def State.schedEvents (s : State) (u : Nat) (g : Group) : List (Nat × Instr) :=
  (if g.active then [] else [(u, Instr.pendingEnter), (u, .forcedSwap)]) ++
  (if g.switchDue then [(u, .pathSwitch)] else []) ++
  (if s.swapsOut u || (s.gateOpen g && (g.wait matches .barCarry _ _)) then [(u, .clauseBegin)] else [])

/-- The events of the engines, teams, tasks, contexts, cores, the host interface and Gallery. -/
def State.deviceEvents (s : State) : List (Nat × Instr) :=
  (s.ops.flatMap fun o => [(o.1, Instr.copyWriteLand), (o.1, .engineOpFault), (o.1, .engineOpComplete), (o.1, .migrateWaitTimeout o.1)]) ++
  (s.teams.flatMap fun t => [(t.1, Instr.regroupExchange), (t.1, .teamSave []), (t.1, .teamLeaveCore), (t.1, .resumeRestore)]) ++
  (s.tasks.map fun t => (t.1, Instr.gridEnd)) ++
  (s.ctxs.flatMap fun c => [(c.1, Instr.faultRecordEnqueue), (c.1, .normDeposit false), (c.1, .budgetPeriod), (c.1, .heatDecay)]) ++
  ((List.range s.gal.serve.length).flatMap fun n =>
    [(n, Instr.remoteRequest), (n, .remoteTranslationRequest), (n, .moved), (n, .remoteInvalidate), (n, .wcbAck), (n, .gbarArrival), (n, .gbarCompletion),
     (n, .normTotalReceive), (n, .normDeposit true), (n, .mirroredWrite), (n, .mirrorAck)]) ++
  (s.cores.flatMap fun c =>
    [(c.1, Instr.engineSlotGrant), (c.1, .wcbAgeExpiry)]) ++
  (if s.ring.en || s.ring.busy then [Instr.ctxCreate, .ctxDestroy, .map, .replay, .budget, .gparam, .arm, .ovfpool].map fun i => (0, i) else []) ++
  (if s.gal.devices = 1 then [] else (0, Instr.galleryStep) :: s.gal.held.map fun h => (0, Instr.gcmResend ⟨h.frame.src, h.frame.dst, h.frame.session, h.frame.counter⟩)) ++
  (if s.tasks = [] then [] else [(0, .teamPlacement)])

/-- Evictions that make room: of any line of a full L1, and of any line of a full set of an LLC slice (15 R158, R178; assumption log 37). -/
def State.evictions (s : State) : List (Nat × Instr) :=
  (s.cores.flatMap fun c => if c.2.l1.length < l1Lines then [] else
    c.2.l1.map fun p => (c.1, Instr.l1WriteBack (keyAsid p.1) (BitVec.ofNat 57 (keyVa p.1)) true)) ++
  (s.llc.filterMap fun p =>
    let key := p.1 % 2 ^ 66
    let die := sliceDie (p.1 / 2 ^ 66)
    if s.llcFull die key then some (0, Instr.homeRequest { core := 64 * die, asid := keyAsid key, va := BitVec.ofNat 57 (keyVa key), kind := .evict }) else none)

/-- The events that the machine itself may bring about, in the order in which an empty agenda tries them. -/
def State.candidates (s : State) : List (Nat × Instr) :=
  (s.groups.flatMap fun p => if p.2.status == .live then groupEvents p.1 p.2 ++ s.schedEvents p.1 p.2
    else if (s.team p.2.team).live then groupEvents p.1 p.2 else []) ++ s.deviceEvents ++ s.evictions

/-- The next move. `can` says whether an event changes the state. -/
def State.nextMove (can : Nat × Instr → Bool) (s : State) : Move :=
  match s.agenda with
  | .event who i :: rest => .run i { s with agenda := rest, who := who }
  | .issue core k :: rest => State.issueMove { s with agenda := rest } core k
  | .tick n :: rest => .stay (State.pass { s with agenda := rest } n)
  | [] =>
    match s.candidates.find? can with
    | some (who, i) => .run i { s with who := who }
    | none =>
      let s1 := s.pass 1
      let m := s1.movers
      match m[s1.cycle % m.length]? with
      | some (core, k) => s1.issueMove core k
      | none => .stay s1

/-- The role and class that may issue an instruction, for the group that `withFetchWord` sets up. -/
def roleFor (i : Info) : Role := if i.vector then .vector else if i.feed then .feed else .matrix

/-- The state with a running team whose one group stands at the first word of a clause that holds just `w` (assumption log 2). -/
def State.placeWord (s : State) (w : Nat) (i : Info) : State :=
  let g : Group :=
    { status := .live, team := 0, gid := 0, role := roleFor i, nv := 256, nx := 256, ns := 128, na := 8,
      s := [(1, 0)], clause := some { hdr := { cnt := 0, cls := i.cls.getD .vec, wait := noWait, yld := false }, words := [BitVec.ofNat 64 w], idx := 0 },
      mode := if i.priv then .sysHandler else .user, frameS := if i.priv then some {} else none, active := true }
  { s with groups := tset s.groups 0 g,
           teams := tset s.teams 0 { live := true, nvec := 1, groups := [(0, 0)] },
           cores := tset s.cores 0 { (s.core 0) with running := [(0, 0)], sampAt := [] },
           ctxs := tset s.ctxs 0 { (s.ctx 0) with asid := 1 },
           agenda := .issue 0 0 :: s.agenda }

end Sys2Proof.Machine
end

