-- ==== Sys2Proof/Machine/Dispatch.lean ====
section
/-! DEFINITION. One arm per constructor of Instr: each calls the meaning of its instruction or event. -/

namespace Sys2Proof.Machine

def exec (i : Instr) (s : State) : Host.Outcome State Fault Refusal :=
  match i with
  | .smov f => Sys2Proof.Machine.execSmov f s
  | .smovi f => Sys2Proof.Machine.execSmovi f s
  | .sadd f => Sys2Proof.Machine.execSadd f s
  | .saddImm f => Sys2Proof.Machine.execSaddImm f s
  | .ssub f => Sys2Proof.Machine.execSsub f s
  | .ssubImm f => Sys2Proof.Machine.execSsubImm f s
  | .smul f => Sys2Proof.Machine.execSmul f s
  | .smulImm f => Sys2Proof.Machine.execSmulImm f s
  | .smulhi f => Sys2Proof.Machine.execSmulhi f s
  | .sand f => Sys2Proof.Machine.execSand f s
  | .sandImm f => Sys2Proof.Machine.execSandImm f s
  | .sor f => Sys2Proof.Machine.execSor f s
  | .sorImm f => Sys2Proof.Machine.execSorImm f s
  | .sxor f => Sys2Proof.Machine.execSxor f s
  | .sxorImm f => Sys2Proof.Machine.execSxorImm f s
  | .sshl f => Sys2Proof.Machine.execSshl f s
  | .sshlImm f => Sys2Proof.Machine.execSshlImm f s
  | .sshr f => Sys2Proof.Machine.execSshr f s
  | .sshrImm f => Sys2Proof.Machine.execSshrImm f s
  | .ssar f => Sys2Proof.Machine.execSsar f s
  | .ssarImm f => Sys2Proof.Machine.execSsarImm f s
  | .smin f => Sys2Proof.Machine.execSmin f s
  | .sminImm f => Sys2Proof.Machine.execSminImm f s
  | .smax f => Sys2Proof.Machine.execSmax f s
  | .smaxImm f => Sys2Proof.Machine.execSmaxImm f s
  | .scmp f => Sys2Proof.Machine.execScmp f s
  | .scmpImm f => Sys2Proof.Machine.execScmpImm f s
  | .ssel f => Sys2Proof.Machine.execSsel f s
  | .spopc f => Sys2Proof.Machine.execSpopc f s
  | .sclz f => Sys2Proof.Machine.execSclz f s
  | .sbfx f => Sys2Proof.Machine.execSbfx f s
  | .sget f => Sys2Proof.Machine.execSget f s
  | .bra f => Sys2Proof.Machine.execBra f s
  | .brd f => Sys2Proof.Machine.execBrd f s
  | .bri f => Sys2Proof.Machine.execBri f s
  | .call f => Sys2Proof.Machine.execCall f s
  | .wait f => Sys2Proof.Machine.execWait f s
  | .bar f => Sys2Proof.Machine.execBar f s
  | .barrive f => Sys2Proof.Machine.execBarrive f s
  | .exit f => Sys2Proof.Machine.execExit f s
  | .regroup f => Sys2Proof.Machine.execRegroup f s
  | .trap f => Sys2Proof.Machine.execTrap f s
  | .vadd f => Sys2Proof.Machine.execVadd f s
  | .vaddImm f => Sys2Proof.Machine.execVaddImm f s
  | .vsub f => Sys2Proof.Machine.execVsub f s
  | .vsubImm f => Sys2Proof.Machine.execVsubImm f s
  | .vmul f => Sys2Proof.Machine.execVmul f s
  | .vmulImm f => Sys2Proof.Machine.execVmulImm f s
  | .vmad f => Sys2Proof.Machine.execVmad f s
  | .vmin f => Sys2Proof.Machine.execVmin f s
  | .vminImm f => Sys2Proof.Machine.execVminImm f s
  | .vmax f => Sys2Proof.Machine.execVmax f s
  | .vmaxImm f => Sys2Proof.Machine.execVmaxImm f s
  | .vabs f => Sys2Proof.Machine.execVabs f s
  | .vand f => Sys2Proof.Machine.execVand f s
  | .vandImm f => Sys2Proof.Machine.execVandImm f s
  | .vor f => Sys2Proof.Machine.execVor f s
  | .vorImm f => Sys2Proof.Machine.execVorImm f s
  | .vxor f => Sys2Proof.Machine.execVxor f s
  | .vxorImm f => Sys2Proof.Machine.execVxorImm f s
  | .vnot f => Sys2Proof.Machine.execVnot f s
  | .vbfn3 f => Sys2Proof.Machine.execVbfn3 f s
  | .vshl f => Sys2Proof.Machine.execVshl f s
  | .vshlImm f => Sys2Proof.Machine.execVshlImm f s
  | .vshr f => Sys2Proof.Machine.execVshr f s
  | .vshrImm f => Sys2Proof.Machine.execVshrImm f s
  | .vsar f => Sys2Proof.Machine.execVsar f s
  | .vsarImm f => Sys2Proof.Machine.execVsarImm f s
  | .vbfx f => Sys2Proof.Machine.execVbfx f s
  | .vbfi f => Sys2Proof.Machine.execVbfi f s
  | .vpopc f => Sys2Proof.Machine.execVpopc f s
  | .vclz f => Sys2Proof.Machine.execVclz f s
  | .vfadd f => Sys2Proof.Machine.execVfadd f s
  | .vfaddImm f => Sys2Proof.Machine.execVfaddImm f s
  | .vfsub f => Sys2Proof.Machine.execVfsub f s
  | .vfsubImm f => Sys2Proof.Machine.execVfsubImm f s
  | .vfmul f => Sys2Proof.Machine.execVfmul f s
  | .vfmulImm f => Sys2Proof.Machine.execVfmulImm f s
  | .vfma f => Sys2Proof.Machine.execVfma f s
  | .vfmin f => Sys2Proof.Machine.execVfmin f s
  | .vfminImm f => Sys2Proof.Machine.execVfminImm f s
  | .vfmax f => Sys2Proof.Machine.execVfmax f s
  | .vfmaxImm f => Sys2Proof.Machine.execVfmaxImm f s
  | .vfrnd f => Sys2Proof.Machine.execVfrnd f s
  | .vfrcp f => Sys2Proof.Machine.execVfrcp f s
  | .vfrsq f => Sys2Proof.Machine.execVfrsq f s
  | .vfsqrt f => Sys2Proof.Machine.execVfsqrt f s
  | .vfexp2 f => Sys2Proof.Machine.execVfexp2 f s
  | .vflog2 f => Sys2Proof.Machine.execVflog2 f s
  | .vftrig f => Sys2Proof.Machine.execVftrig f s
  | .vftanh f => Sys2Proof.Machine.execVftanh f s
  | .vcmp f => Sys2Proof.Machine.execVcmp f s
  | .vcmpImm f => Sys2Proof.Machine.execVcmpImm f s
  | .vfcmp f => Sys2Proof.Machine.execVfcmp f s
  | .vfcmpImm f => Sys2Proof.Machine.execVfcmpImm f s
  | .vsel f => Sys2Proof.Machine.execVsel f s
  | .vcvt f => Sys2Proof.Machine.execVcvt f s
  | .vpack f => Sys2Proof.Machine.execVpack f s
  | .vunpack f => Sys2Proof.Machine.execVunpack f s
  | .vrq f => Sys2Proof.Machine.execVrq f s
  | .vmov f => Sys2Proof.Machine.execVmov f s
  | .vmovi f => Sys2Proof.Machine.execVmovi f s
  | .vbcast f => Sys2Proof.Machine.execVbcast f s
  | .vlane f => Sys2Proof.Machine.execVlane f s
  | .vshfl f => Sys2Proof.Machine.execVshfl f s
  | .vvote f => Sys2Proof.Machine.execVvote f s
  | .vmatch f => Sys2Proof.Machine.execVmatch f s
  | .vscan f => Sys2Proof.Machine.execVscan f s
  | .vreduce f => Sys2Proof.Machine.execVreduce f s
  | .vrand f => Sys2Proof.Machine.execVrand f s
  | .xmov f => Sys2Proof.Machine.execXmov f s
  | .xset f => Sys2Proof.Machine.execXset f s
  | .xmaxe f => Sys2Proof.Machine.execXmaxe f s
  | .vld f => Sys2Proof.Machine.execVld f s
  | .vst f => Sys2Proof.Machine.execVst f s
  | .vlds f => Sys2Proof.Machine.execVlds f s
  | .vsts f => Sys2Proof.Machine.execVsts f s
  | .sld f => Sys2Proof.Machine.execSld f s
  | .sst f => Sys2Proof.Machine.execSst f s
  | .vldx f => Sys2Proof.Machine.execVldx f s
  | .vstx f => Sys2Proof.Machine.execVstx f s
  | .vatom f => Sys2Proof.Machine.execVatom f s
  | .vfatom f => Sys2Proof.Machine.execVfatom f s
  | .vatoms f => Sys2Proof.Machine.execVatoms f s
  | .satom f => Sys2Proof.Machine.execSatom f s
  | .vred f => Sys2Proof.Machine.execVred f s
  | .ldrsv f => Sys2Proof.Machine.execLdrsv f s
  | .stcnd f => Sys2Proof.Machine.execStcnd f s
  | .fence f => Sys2Proof.Machine.execFence f s
  | .pref f => Sys2Proof.Machine.execPref f s
  | .lpin f => Sys2Proof.Machine.execLpin f s
  | .lunpin f => Sys2Proof.Machine.execLunpin f s
  | .drain f => Sys2Proof.Machine.execDrain f s
  | .presq f => Sys2Proof.Machine.execPresq f s
  | .stash f => Sys2Proof.Machine.execStash f s
  | .spjoin f => Sys2Proof.Machine.execSpjoin f s
  | .tshape f => Sys2Proof.Machine.execTshape f s
  | .tscl f => Sys2Proof.Machine.execTscl f s
  | .tzero f => Sys2Proof.Machine.execTzero f s
  | .tlds f => Sys2Proof.Machine.execTlds f s
  | .tsts f => Sys2Proof.Machine.execTsts f s
  | .tmov f => Sys2Proof.Machine.execTmov f s
  | .mma f => Sys2Proof.Machine.execMma f s
  | .mmas f => Sys2Proof.Machine.execMmas f s
  | .mmad f => Sys2Proof.Machine.execMmad f s
  | .mmaf f => Sys2Proof.Machine.execMmaf f s
  | .mmai f => Sys2Proof.Machine.execMmai f s
  | .czero f => Sys2Proof.Machine.execCzero f s
  | .clds f => Sys2Proof.Machine.execClds f s
  | .csts f => Sys2Proof.Machine.execCsts f s
  | .crq f => Sys2Proof.Machine.execCrq f s
  | .ctov f => Sys2Proof.Machine.execCtov f s
  | .vtoc f => Sys2Proof.Machine.execVtoc f s
  | .cscale f => Sys2Proof.Machine.execCscale f s
  | .tcopy f => Sys2Proof.Machine.execTcopy f s
  | .tcopys f => Sys2Proof.Machine.execTcopys f s
  | .tcqry f => Sys2Proof.Machine.execTcqry f s
  | .tokclr f => Sys2Proof.Machine.execTokclr f s
  | .rpush f => Sys2Proof.Machine.execRpush f s
  | .rpop f => Sys2Proof.Machine.execRpop f s
  | .rwait f => Sys2Proof.Machine.execRwait f s
  | .rrel f => Sys2Proof.Machine.execRrel f s
  | .gcopy f => Sys2Proof.Machine.execGcopy f s
  | .gflush f => Sys2Proof.Machine.execGflush f s
  | .gsig f => Sys2Proof.Machine.execGsig f s
  | .gbar f => Sys2Proof.Machine.execGbar f s
  | .gslot f => Sys2Proof.Machine.execGslot f s
  | .nrmadd f => Sys2Proof.Machine.execNrmadd f s
  | .nrmrd f => Sys2Proof.Machine.execNrmrd f s
  | .mirror f => Sys2Proof.Machine.execMirror f s
  | .srd f => Sys2Proof.Machine.execSrd f s
  | .swr f => Sys2Proof.Machine.execSwr f s
  | .tret f => Sys2Proof.Machine.execTret f s
  | .ctxsv f => Sys2Proof.Machine.execCtxsv f s
  | .ctxld f => Sys2Proof.Machine.execCtxld f s
  | .tlbinv f => Sys2Proof.Machine.execTlbinv f s
  | .cinv f => Sys2Proof.Machine.execCinv f s
  | .heatrd f => Sys2Proof.Machine.execHeatrd f s
  | .dbgrd f => Sys2Proof.Machine.execDbgrd f s
  | .dbgwr f => Sys2Proof.Machine.execDbgwr f s
  | .qpost f => Sys2Proof.Machine.execQpost f s
  | .loadDataReturn op reg lanes => Sys2Proof.Machine.execLoadDataReturn op reg lanes s
  | .storePerformed op lanes => Sys2Proof.Machine.execStorePerformed op lanes s
  | .tileMoveComplete op units => Sys2Proof.Machine.execTileMoveComplete op units s
  | .laneFault op => Sys2Proof.Machine.execLaneFault op s
  | .accessViolation op => Sys2Proof.Machine.execAccessViolation op s
  | .teamSave park => Sys2Proof.Machine.execTeamSave park s
  | .releasePull asid va => Sys2Proof.Machine.execReleasePull asid va s
  | .pullAck asid va => Sys2Proof.Machine.execPullAck asid va s
  | .homeRequest r => Sys2Proof.Machine.execHomeRequest r s
  | .directoryInvalidate asid va => Sys2Proof.Machine.execDirectoryInvalidate asid va s
  | .l1WriteBack asid va evict => Sys2Proof.Machine.execL1WriteBack asid va evict s
  | .homeAtomic op lanes => Sys2Proof.Machine.execHomeAtomic op lanes s
  | .migrateWaitTimeout op => Sys2Proof.Machine.execMigrateWaitTimeout op s
  | .normDeposit answer => Sys2Proof.Machine.execNormDeposit answer s
  | .timingMark n ok => Sys2Proof.Machine.execTimingMark n ok s
  | .alignmentLoss exceeded => Sys2Proof.Machine.execAlignmentLoss exceeded s
  | .deviceLost dev => Sys2Proof.Machine.execDeviceLost dev s
  | .frameReceive f => Sys2Proof.Machine.execFrameReceive f s
  | .endToEndAck id => Sys2Proof.Machine.execEndToEndAck id s
  | .gcmResend id => Sys2Proof.Machine.execGcmResend id s
  | .sessionEstablish peer number key => Sys2Proof.Machine.execSessionEstablish peer number key s
  | .hostMemAccess pa op => Sys2Proof.Machine.execHostMemAccess pa op s
  | .sidebandWindowAccess pa op => Sys2Proof.Machine.execSidebandWindowAccess pa op s
  | .snoopResponse x => Sys2Proof.Machine.execSnoopResponse x s
  | .crwpDoorbell wp => Sys2Proof.Machine.execCrwpDoorbell wp s
  | .crEnable v => Sys2Proof.Machine.execCrEnable v s
  | .registerWrite off v => Sys2Proof.Machine.execRegisterWrite off v s
  | .heatctlWrite f => Sys2Proof.Machine.execHeatctlWrite f s
  | .barstWrite f => Sys2Proof.Machine.execBarstWrite f s
  | .ringstWrite f => Sys2Proof.Machine.execRingstWrite f s
  | .pcbrkWrite f => Sys2Proof.Machine.execPcbrkWrite f s
  | .sampctlWrite f => Sys2Proof.Machine.execSampctlWrite f s
  | .normboxWrite f => Sys2Proof.Machine.execNormboxWrite f s
  | .pcSample core k => Sys2Proof.Machine.execPcSample core k s
  | .gateHold held => Sys2Proof.Machine.execGateHold held s
  | .powerOn p => Sys2Proof.Machine.execPowerOn p s
  | .p1Enter die temp watts => Sys2Proof.Machine.execP1Enter die temp watts s
  | .p1Exit die temp watts => Sys2Proof.Machine.execP1Exit die temp watts s
  | .thermalShutdown temp => Sys2Proof.Machine.execThermalShutdown temp s
  | .powerStateSelect p => Sys2Proof.Machine.execPowerStateSelect p s
  | .attestationReport nonce => Sys2Proof.Machine.execAttestationReport nonce s
  | .mrExtend n data => Sys2Proof.Machine.execMrExtend n data s
  | .softError site => Sys2Proof.Machine.execSoftError site s
  | .nop => Sys2Proof.Machine.execNop s
  | .ret => Sys2Proof.Machine.execRet s
  | .join => Sys2Proof.Machine.execJoin s
  | .widen => Sys2Proof.Machine.execWiden s
  | .narrow => Sys2Proof.Machine.execNarrow s
  | .yield => Sys2Proof.Machine.execYield s
  | .spleave => Sys2Proof.Machine.execSpleave s
  | .errclr => Sys2Proof.Machine.execErrclr s
  | .icinv => Sys2Proof.Machine.execIcinv s
  | .clauseBegin => Sys2Proof.Machine.execClauseBegin s
  | .pendingEnter => Sys2Proof.Machine.execPendingEnter s
  | .forcedSwap => Sys2Proof.Machine.execForcedSwap s
  | .pathSwitch => Sys2Proof.Machine.execPathSwitch s
  | .faultRecordEnqueue => Sys2Proof.Machine.execFaultRecordEnqueue s
  | .absentLineReissue => Sys2Proof.Machine.execAbsentLineReissue s
  | .regroupExchange => Sys2Proof.Machine.execRegroupExchange s
  | .groupRetire => Sys2Proof.Machine.execGroupRetire s
  | .gridEnd => Sys2Proof.Machine.execGridEnd s
  | .teamPlacement => Sys2Proof.Machine.execTeamPlacement s
  | .preemptPoint => Sys2Proof.Machine.execPreemptPoint s
  | .teamLeaveCore => Sys2Proof.Machine.execTeamLeaveCore s
  | .resumeRestore => Sys2Proof.Machine.execResumeRestore s
  | .wcbAgeExpiry => Sys2Proof.Machine.execWcbAgeExpiry s
  | .wcbAck => Sys2Proof.Machine.execWcbAck s
  | .remoteRequest => Sys2Proof.Machine.execRemoteRequest s
  | .remoteTranslationRequest => Sys2Proof.Machine.execRemoteTranslationRequest s
  | .moved => Sys2Proof.Machine.execMoved s
  | .remoteInvalidate => Sys2Proof.Machine.execRemoteInvalidate s
  | .engineSlotGrant => Sys2Proof.Machine.execEngineSlotGrant s
  | .recordReadComplete => Sys2Proof.Machine.execRecordReadComplete s
  | .copyWriteLand => Sys2Proof.Machine.execCopyWriteLand s
  | .engineOpFault => Sys2Proof.Machine.execEngineOpFault s
  | .engineOpComplete => Sys2Proof.Machine.execEngineOpComplete s
  | .ringOpEffect => Sys2Proof.Machine.execRingOpEffect s
  | .rwaitRelease => Sys2Proof.Machine.execRwaitRelease s
  | .matrixChunkComplete => Sys2Proof.Machine.execMatrixChunkComplete s
  | .normTotalReceive => Sys2Proof.Machine.execNormTotalReceive s
  | .gbarArrival => Sys2Proof.Machine.execGbarArrival s
  | .gbarCompletion => Sys2Proof.Machine.execGbarCompletion s
  | .mirroredWrite => Sys2Proof.Machine.execMirroredWrite s
  | .mirrorAck => Sys2Proof.Machine.execMirrorAck s
  | .galleryStep => Sys2Proof.Machine.execGalleryStep s
  | .ctxCreate => Sys2Proof.Machine.execCtxCreate s
  | .ctxDestroy => Sys2Proof.Machine.execCtxDestroy s
  | .map => Sys2Proof.Machine.execMap s
  | .replay => Sys2Proof.Machine.execReplay s
  | .budget => Sys2Proof.Machine.execBudget s
  | .gparam => Sys2Proof.Machine.execGparam s
  | .arm => Sys2Proof.Machine.execArm s
  | .ovfpool => Sys2Proof.Machine.execOvfpool s
  | .budgetPeriod => Sys2Proof.Machine.execBudgetPeriod s
  | .heatDecay => Sys2Proof.Machine.execHeatDecay s

end Sys2Proof.Machine
end

