-- ==== Sys2Proof/Machine/Step.lean ====
section
/-! DEFINITION. The step of the machine, and the state in which the next step runs a given instruction. -/

namespace Sys2Proof.Machine

/-- An event changes the state. -/
def canRun (s : State) (p : Nat × Instr) : Bool :=
  match exec p.2 { s with who := p.1 } with
  | .next t => t != { s with who := p.1 }
  | _ => true

/-- One step: the next move, an instruction or event through `exec`. -/
def step (s : State) : Host.Outcome State Fault Refusal :=
  match s.nextMove (canRun s) with
  | .stay t => .next t
  | .run i t => exec i t

/-- `s` with the instruction word `w` placed where the next step issues (assumption log 2). -/
def State.withFetchWord (s : State) (nbits w : Nat) : State :=
  match decodeTableWord nbits w with
  | some i => s.placeWord w (Instr.info i)
  | none => s.placeWord w {}

end Sys2Proof.Machine
end

