-- ==== Sys2Proof/Safety.lean ====
section
/-! DEFINITION. What counts as a safe step and a safe state, and the other terms that the claims use. -/

namespace Sys2Proof.Machine

/-- The step neither faults nor is refused. -/
def Safe (s : State) : Prop := ∃ t, step s = .next t

/-- The canonical form as a predicate. -/
abbrev Memory.wf (side : Nat) (m : Memory) : Bool := memWf side m

/-- Every memory of the machine has the canonical form. -/
def State.memOk (s : State) : Bool :=
  Memory.wf hbmSide s.hbm && Memory.wf cxlSide s.cxl && Memory.wf noSide s.host && s.teams.all fun p => Memory.wf noSide p.2.spad

/-- The group `s.who` stands at a word of its clause `c` and may try to issue it: it lives, and neither an acquire of its own nor a park at the word holds it (09 R82, R89; 15 R166; 17 R202; 25 R270). -/
structure AtWord (s : State) (c : Clause) : Prop where
  live   : s.cur.status = .live
  clause : s.cur.clause = some c
  held   : s.cur.acqHeld = false
  free   : s.parkOf s.cur = .free

/-- Some unit that the word's own description says it reads, beyond the registers of its fields in ACTIVE, is poisoned (13 R136; 17 R187; 21 R223; 23 R241). -/
def ownPoisoned (i : Instr) (s : State) (g : Group) : Bool :=
  match i with
  | .vldx f => lowestPoison (Instr.info (.vldx f)) g
  | .vstx f => vstxPoison f (Instr.info (.vstx f)) g
  | .presq f => lowestPoison (Instr.info (.presq f)) g
  | .vshfl f => shflPoison (Instr.info (.vshfl f)) f s g
  | .vpack f => packPoison (Instr.info (.vpack f)) f (packCount f.mod) f.vd.toNat s g
  | .vunpack f => packPoison (Instr.info (.vunpack f)) f (packCount f.ty) f.va.toNat s g
  | .vrq f => blockPoison (Instr.info (.vrq f)) (packCount f.mod) s g
  | .xmaxe f => blockPoison (Instr.info (.xmaxe f)) (packCount f.mod) s g
  | .tcopy f => leaderPoison (Instr.info (.tcopy f)) g
  | .tcopys f => leaderPoison (Instr.info (.tcopys f)) g
  | .stash f => leaderPoison (Instr.info (.stash f)) g
  | .gcopy f => leaderPoison (Instr.info (.gcopy f)) g
  | .regroup f => g.rvp f.va.toNat &&& ~~~g.exited != 0
  | .tsts f => g.mode != .sysHandler && g.tilePoison f.vd.toNat
  | .csts f => g.mode != .sysHandler && g.accPoison f.vd.toNat
  | .tmov f => tmovPoison f s g
  | .ctov f => g.accPoison f.va.toNat
  | .vtoc f => (regSpan f.va.toNat (4 * (f.vc.toNat + 1))).any fun k => g.rvp k != 0
  | .cscale f => g.accPoison f.vd.toNat
  | .crq f => g.accPoison f.va.toNat
  | .mma f => matPoison g [opA f, opBt f] [f.cd.toNat]
  | .mmaf f => matPoison g [opA f, opBt f] [f.cd.toNat]
  | .mmai f => matPoison g [opA f, opBt f] [f.cd.toNat]
  | .mmas f => matPoison g [opA f, opBt f, ⟨f.tg.toNat, false⟩] [f.cd.toNat]
  | .mmad f => matPoison g [opA f, opBt f, opG f] [f.cd.toNat, f.ce.toNat]
  | _ => false

/-- The word `i` passes the checks of R101 at the group `s.who`, and nothing that it reads is poisoned (05 R49, 13 R136). -/
structure Issues (i : Instr) (s : State) (c : Clause) : Prop where
  at_    : AtWord s c
  checks : checkWord i.info s.cur c = none
  clean  : readsPoison i.info s.cur = false
  own    : ownPoisoned i s s.cur = false

/-- ACTIVE of the word `i` at the group `s.who` (00 R5). -/
def State.activeOf (s : State) (i : Instr) : Lanes := s.cur.active' i.info.pred

/-- The state after a word whose whole effect is to make `g` of the issuing group: the group has gone on to its next word, or to the next clause (09 R82, R89). -/
def State.past (s : State) (c : Clause) (g : Group) : State := advance (s.setCur g) s.who c

/-- Where a trap of the word under way resumes: at the word (27 R282). -/
def resumeHere (g : Group) (c : Clause) : ResumeAt := ⟨g.pc, true, c.idx, c.words.length⟩

/-- The state after a word whose whole effect is to make `g` of the issuing group and to send it to the clause header `pc` (11 R114). -/
def State.went (s : State) (c : Clause) (g : Group) (pc : VA) : State := s.setCur (g.endClause c pc)

/-- The state where a word has not issued and its group tries again, as `g` (09 R89). -/
def State.stays (s : State) (g : Group) : State := s.setCur { g with pathCount := s.cur.pathCount, issued := s.cur.issued || g.product.isSome }

/-- The group after an unpredicated scalar word that writes `v`: the word acts once, when some lane of the path is left (03 R34, 11 R111). -/
def State.scalarOut (s : State) (sd : BitVec 7) (v : W32) : Group :=
  if s.cur.mask = 0 then s.cur.issuing else s.cur.issuing.ws sd.toNat v

/-- The group after a word that acts once, when ACTIVE is non-empty (13 R133). -/
def State.onceOut (s : State) (i : Instr) (g : Group) : Group := if s.activeOf i = 0 then s.cur.issuing else g

/-- The group after a word that writes `r l` to each lane `l` of ACTIVE of a vector register (13 R133). -/
def State.vecOut (s : State) (i : Instr) (vd : BitVec 8) (r : Nat → W32) : Group :=
  s.onceOut i (s.cur.issuing.wv vd.toNat (s.activeOf i) r)

/-- The state after a word that joined a counter: the operation, with its operands captured at issue, is the newest of the group's outstanding ones (05 R53, 09 R87). -/
def State.queued (s : State) (c : Clause) (p : PendOp) (act : Lanes) (lanes : List LaneAcc) : State :=
  { s with nextId := s.nextId + 1 }.past c { s.cur.issuing with
    pend := s.cur.pend ++ [{ p with id := s.nextId, pc := wordPc s.cur c, mode := s.cur.mode, mask := act, lanes := lanes }] }

/-- The bytes and the registers of an access width (17 R185). -/
def formBytes (m : BitVec 4) : Nat :=
  if m.toNat % 8 < 2 then 1 else if m.toNat % 8 < 4 then 2 else if m.toNat % 8 = 4 then 4 else if m.toNat % 8 = 5 then 8 else 16
def formRegs (m : BitVec 4) : Nat := if m.toNat % 8 = 5 then 2 else if m.toNat % 8 = 6 then 4 else 1

/-- What a global memory word asks for: the operation, whether the Gallery remote window may be named, the alignment, the addresses checked at issue with their lanes, and the accesses captured (17 R181 to R195). -/
structure GlobalForm where
  op     : PendOp
  remote : Bool
  align  : Nat
  heads  : List (Nat × W64)
  lanes  : List LaneAcc

/-- The global memory words (17 R181, R182, R185 to R192, R195). -/
def globalForm (s : State) (i : Instr) : Option GlobalForm :=
  let g := s.cur
  let act := lanesOf (s.activeOf i)
  let off := fun (f : FM) (n : Nat) => (BitVec.ofInt 64 (f.off.extractLsb' 0 n).toInt : W64)
  let va := fun (f : FM) (n l : Nat) =>
    (if f.sb = 0 then g.rl (f.va.toNat + 1) l ++ g.rl f.va.toNat l
     else (g.rs (f.sb.toNat + 1) ++ g.rs f.sb.toNat) + BitVec.ofInt 64 (g.rl f.va.toNat l).toInt) + off f n
  let sa := fun (f : FM) (n : Nat) => (if f.sb = 0 then (0 : W64) else g.rs (f.sb.toNat + 1) ++ g.rs f.sb.toNat) + off f n
  let pair := fun (n : BitVec 7) => (g.rs (n.toNat + 1) ++ g.rs n.toNat : W64)
  let op := fun (f : FM) (c : Ctr) (k : AccKind) => ({ id := 0, ctr := c, kind := k, bytes := formBytes f.mod, signed := f.mod.toNat % 8 = 1 || f.mod.toNat % 8 = 3, dest := f.vd.toNat,
                                                       nregs := formRegs f.mod, scope := f.sco.toNat, colour := f.col.toNat } : PendOp)
  let wide := fun (m : BitVec 4) => m.toNat = 10 || m.toNat = 11 || m.toNat = 12
  let reads := fun (m : BitVec 4) => if m.toNat = 12 then 4 else if m.toNat = 9 || wide m then 2 else 1
  let atom := fun (f : FM) (c : Ctr) (fl ret : Bool) => ({ id := 0, ctr := c, kind := .atomic fl ret f.mod.toNat, bytes := if wide f.mod && !fl then 8 else 4, dest := f.vd.toNat,
                                                           nregs := if wide f.mod && !fl then 2 else 1, scope := f.sco.toNat, colour := f.col.toNat,
                                                           acq := f.off.getLsbD 13, rel := f.off.getLsbD 14 } : PendOp)
  let vdata := fun (d n l : Nat) => (List.range n).map fun k => g.rl (d + k) l
  let sdata := fun (d n : Nat) => (List.range n).map fun k => g.rs (d + k)
  let perLane := fun (a : Nat → W64) (data : Nat → List W32) (p : PendOp) (remote : Bool) (align : Nat) =>
    some (⟨p, remote, align, act.map fun l => (l, a l), act.map fun l => { lane := l, addr := (a l).toNat, data := data l }⟩ : GlobalForm)
  let once := fun (a : W64) (data : List W32) (p : PendOp) (remote : Bool) (align : Nat) =>
    some (⟨{ p with scalar := true }, remote, align, [(0, a)], [{ lane := 0, addr := a.toNat, data := data }]⟩ : GlobalForm)
  let line := fun (f : FM) (data : Nat → List W32) (side : List W32) (p : PendOp) =>
    let a := va f 15 (lowest (s.activeOf i))
    some (⟨p, true, 128, [(lowest (s.activeOf i), a)],
      act.map (fun l => ({ lane := l, addr := a.toNat + 4 * l, data := data l } : LaneAcc)) ++ [{ lane := 32, addr := a.toNat, data := side }]⟩ : GlobalForm)
  match i with
  | .vld f => perLane (va f 15) (fun _ => []) { op f .load .load with acq := f.mod.getLsbD 3 } true (formBytes f.mod)
  | .vst f => perLane (va f 15) (vdata f.vd.toNat (formRegs f.mod)) { op f .store .store with rel := f.mod.getLsbD 3 } true (formBytes f.mod)
  | .sld f => once (sa f 15) [] { op f .load .load with acq := f.mod.getLsbD 3 } true (formBytes f.mod)
  | .sst f => once (sa f 15) (sdata f.vd.toNat (formRegs f.mod)) { op f .store .store with rel := f.mod.getLsbD 3 } true (formBytes f.mod)
  | .vldx f => line f (fun _ => []) [] { op f .load .loadX with bytes := 4, signed := false, nregs := 1 }
  | .vstx f => line f (vdata f.vd.toNat 1) [(g.rx f.vd.toNat).extractLsb' 0 32, (g.rx f.vd.toNat).extractLsb' 32 32] { op f .store .storeX with bytes := 4 }
  | .vatom f => perLane (va f 13) (vdata f.vd.toNat (reads f.mod)) (atom f .load false true) true (if wide f.mod then 8 else 4)
  | .vfatom f => perLane (va f 13) (vdata f.vd.toNat 1) (atom f .load true true) true 4
  | .satom f => once (sa f 13) (sdata f.vd.toNat (reads f.mod)) (atom f .load false true) true (if wide f.mod then 8 else 4)
  | .vred f => perLane (va f 13) (vdata f.vd.toNat (reads f.mod)) (atom f .store false false) true (if wide f.mod then 8 else 4)
  | .ldrsv f => perLane (va f 15) (fun _ => []) { op f .load .ldrsv with acq := f.mod.getLsbD 3 } false (formBytes f.mod)
  | .stcnd f => perLane (va f 15) (vdata f.vd.toNat (formRegs f.mod)) { op f .load .stcnd with rel := f.mod.getLsbD 3, dest := f.vd.toNat + formRegs f.mod, nregs := 1 } false (formBytes f.mod)
  | .lpin f => once (pair f.sa) [] { id := 0, ctr := .load, kind := .lpin, dest := f.sd.toNat } false 1
  | .lunpin f => once (pair f.sa) [] { id := 0, ctr := .store, kind := .lunpin } false 1
  | _ => none

/-- A global address that R201 stops with PROTECTION: bits [63:57] set, or in the Gallery remote window where the form refuses it or names no device of the domain (17 R182, R183). -/
def GlobalForm.refuses (m : GlobalForm) (s : State) (a : W64) : Bool :=
  decide (2 ^ 57 ≤ a.toNat) || (a.getLsbD 56 && (!m.remote || decide (s.gal.devices ≤ (a.extractLsb' 44 12).toNat)))

/-- The scratchpad words VLDS, VSTS and VATOMS: the operation, and each active lane with its address and its operand words (17 R184, R186, R191). -/
def spadForm (s : State) (i : Instr) : Option (PendOp × List (Nat × W32 × List W32)) :=
  let g := s.cur
  let make := fun (f : FM) (p : PendOp) (n : Nat) =>
    some ({ p with bytes := p.bytes, dest := f.vd.toNat, scope := f.sco.toNat, colour := 0, spad := true },
      (lanesOf (s.activeOf i)).map fun l =>
        (l, (if f.sb = 0 then (0 : W32) else g.rs f.sb.toNat) + g.rl f.va.toNat l + BitVec.ofInt 32 f.off.toInt, (List.range n).map fun k => g.rl (f.vd.toNat + k) l))
  let wide := fun (m : BitVec 4) => m.toNat = 10 || m.toNat = 11 || m.toNat = 12
  match i with
  | .vlds f => make f { id := 0, ctr := .load, kind := .load, bytes := formBytes f.mod, signed := f.mod.toNat % 8 = 1 || f.mod.toNat % 8 = 3,
                        nregs := formRegs f.mod, acq := f.mod.getLsbD 3 } 0
  | .vsts f => make f { id := 0, ctr := .store, kind := .store, bytes := formBytes f.mod, signed := f.mod.toNat % 8 = 1 || f.mod.toNat % 8 = 3,
                        nregs := formRegs f.mod, rel := f.mod.getLsbD 3 } (formRegs f.mod)
  | .vatoms f => make f { id := 0, ctr := .load, kind := .atomic false true f.mod.toNat, bytes := if wide f.mod then 8 else 4, nregs := if wide f.mod then 2 else 1 }
                   (if f.mod.toNat = 12 then 4 else if f.mod.toNat = 9 || wide f.mod then 2 else 1)
  | _ => none

/-- The state of a group that parks at its word with `w`: the word has not issued, and a ready pending group may take its place in the active set (03 R27). -/
def State.parks (s : State) (w : GWait) : State :=
  let t := (s.setCur { s.cur.issuing with wait := w }).swapOut s.who
  t.setGroup s.who { t.group s.who with pathCount := s.cur.pathCount, issued := s.cur.issued || (t.group s.who).product.isSome }

/-- Instructions whose own description names an illegal use beyond the checks of the word (09 R101, check 11). -/
def ownIllegal : Instr → Bool
  | .brd _ | .bri _ | .call _ | .ret | .join | .widen | .narrow | .exit _ | .regroup _ | .tshape _ | .tscl _ | .tlds _ | .tsts _
  | .clds _ | .csts _ | .tmov _ | .mma _ | .mmas _ | .mmad _ | .mmaf _ | .mmai _ | .crq _ | .ctov _ | .vtoc _ | .gcopy _ | .rpush _ | .rpop _
  | .rwait _ | .rrel _ | .tret _ | .heatrd _ | .dbgrd _ | .dbgwr _ => true
  | _ => false

/-- The group `s.who` has gone on past its word: it stands at the next word of the clause `c`, or, after the last, at a clause boundary, alive, in the same mode, and it has entered no handler (09 R82, R89). -/
def GoneOn (s t : State) (c : Clause) : Prop :=
  t.who = s.who ∧ t.cur.status = .live ∧ t.cur.mode = s.cur.mode ∧ t.cur.frameU = s.cur.frameU ∧ t.cur.frameS = s.cur.frameS ∧
  ((c.idx + 1 < c.words.length ∧ t.cur.clause = some { c with idx := c.idx + 1 }) ∨ (c.words.length ≤ c.idx + 1 ∧ t.cur.clause = none))

/-- The word completes: exec answers a next state in which its group has gone on past it. -/
def Completes (i : Instr) (s : State) (c : Clause) : Prop := ∃ t, exec i s = .next t ∧ GoneOn s t c

/-- The home of a line can make an access at once: its LLC slice holds the line, writable, of a page that is not mirrored and not FULL, and neither another copy, nor a recorded release, nor the host stands in the way (15 R160, R165; 25 R264, R277; 29 R313; 31 R318). -/
structure State.AtHome (s : State) (r : Req) (l : LlcLine) : Prop where
  held  : s.llcAt (homeDie r.va) r.key = some l
  alone : s.dirAt r.key = {}
  l1    : s.l1At r.core r.key = none
  w     : l.attrs.w = true
  m     : l.attrs.m = false
  full  : s.pageFull r.asid r.va = false
  host  : s.plat.hostOwn = []

/-- The group has nothing outstanding, and its core nothing to write back and nothing to send (15 R158, R174). -/
structure Quiet (s : State) : Prop where
  pend  : s.cur.pend = []
  moves : s.cur.moves = []
  clean : ∀ p ∈ (s.core (s.coreOf s.cur)).l1, p.2.dirty = 0
  sent  : (s.core (s.coreOf s.cur)).wcb = []

/-- A slot of the engine is free for the group: nobody waits for one, none is granted, and not all 16 are held (19 R204). -/
structure SlotFree (s : State) : Prop where
  queue : (s.core (s.coreOf s.cur)).slotQ = []
  held  : (s.core (s.coreOf s.cur)).held = none
  free  : (s.setCur s.cur.issuing).usedSlots (s.coreOf s.cur) < 16

/-- A 64-bit operand in a pair of scalar registers (05 R48). -/
def pairAt (g : Group) (n : BitVec 7) : Nat := (g.rs (n.toNat + 1) ++ g.rs n.toNat : W64).toNat

/-- The counter `k` of the group has room for one more operation (05 R53). -/
def roomIn (s : State) (k : Ctr) : Prop := s.cur.pend.countP (fun q => q.ctr == k) < 63

/-- The global memory word may be performed: every address that it checks may be named and is aligned, and its counter has room (17 R181, R182, R201). -/
def GlobalReady (s : State) (i : Instr) : Prop :=
  ∃ m, globalForm s i = some m ∧ (∀ p ∈ m.heads, m.refuses s p.2 = false ∧ p.2.toNat % m.align = 0) ∧ roomIn s m.op.ctr

/-- The scratchpad word may be performed: every lane's address is mapped, aligned and on present lines, and its counter has room (17 R184, R186, R197, R201). -/
def SpadReady (s : State) (i : Instr) : Prop :=
  ∃ p ls, spadForm s i = some (p, ls) ∧ roomIn s p.ctr ∧ ∀ x ∈ ls, x.2.1.toNat % p.bytes = 0 ∧
    ∃ t o, s.spadMap s.cur.team x.2.1.toNat = .at t o ∧ o + p.bytes ≤ 2 ^ 32 ∧ o / 128 ∉ (s.team t).absent ∧ (o + p.bytes - 1) / 128 ∉ (s.team t).absent

/-- The scratchpad units of a move lie in the team's own scratchpad, whose lines are all present, and the move counter has room (17 R197; 23 R246, R248). -/
def MoveReady (s : State) (base : W32) (units : List (Nat × Nat)) : Prop :=
  (s.team s.cur.team).absent = [] ∧ s.cur.moves.length < 15 ∧ base.toNat % 4 = 0 ∧ ∀ x ∈ units, x.2 + 4 ≤ s.spadSize s.cur.team

/-- The stage that a ring word names by its ticket exists (21 R228). -/
def StageReady (s : State) (f : FE) : Prop :=
  let r := tgetD (s.teamOf s.cur).rings f.rid.toNat {}
  r.en = true ∧ ((s.cur.rs f.sx.toNat).extractLsb' 0 4).toNat ≤ r.nst.toNat

/-- The 32 lines of a handler's block are at homes on the group's own die, and no access of the group to them is open (27 R287). -/
def BlockNear (s : State) (f : FY) (ls : Nat → LlcLine) : Prop :=
  pairAt s.cur f.sa < 2 ^ 56 ∧ pairAt s.cur f.sa % 4096 = 0 ∧ s.cur.pend = [] ∧
  ∀ k, k < 32 → let r := s.reqOf s.cur (pairAt s.cur f.sa + 128 * k); s.AtHome r (ls k) ∧ r.die = homeDie r.va ∧ (ls k).poison = false

/-- When a word that passes its checks completes at once (its own description's conditions for it, by form): what it names exists, its operands are legal, nothing that it waits for is open, and what it needs of its core is free. The copy words and the matrix products complete by an event that follows, and control words go elsewhere: they are not named here. -/
def WordReady (s : State) : Instr → Prop
  | .smov _ | .smovi _ | .sadd _ | .saddImm _ | .ssub _ | .ssubImm _ | .smul _ | .smulImm _ | .smulhi _ | .sand _ | .sandImm _ | .sor _ | .sorImm _
  | .sxor _ | .sxorImm _ | .sshl _ | .sshlImm _ | .sshr _ | .sshrImm _ | .ssar _ | .ssarImm _ | .smin _ | .sminImm _ | .smax _ | .smaxImm _
  | .scmp _ | .scmpImm _ | .ssel _ | .spopc _ | .sclz _ | .sbfx _ | .sget _ | .wait _ | .nop | .yield
  | .vadd _ | .vaddImm _ | .vsub _ | .vsubImm _ | .vmul _ | .vmulImm _ | .vmad _ | .vmin _ | .vminImm _ | .vmax _ | .vmaxImm _ | .vabs _
  | .vand _ | .vandImm _ | .vor _ | .vorImm _ | .vxor _ | .vxorImm _ | .vnot _ | .vbfn3 _ | .vshl _ | .vshlImm _ | .vshr _ | .vshrImm _ | .vsar _ | .vsarImm _
  | .vbfx _ | .vbfi _ | .vpopc _ | .vclz _
  | .vfadd _ | .vfaddImm _ | .vfsub _ | .vfsubImm _ | .vfmul _ | .vfmulImm _ | .vfma _ | .vfmin _ | .vfminImm _ | .vfmax _ | .vfmaxImm _
  | .vfrnd _ | .vfrcp _ | .vfrsq _ | .vfsqrt _ | .vfexp2 _ | .vflog2 _ | .vftrig _ | .vftanh _ | .vcmp _ | .vcmpImm _ | .vfcmp _ | .vfcmpImm _
  | .vsel _ | .vcvt _ | .vrq _ | .vmov _ | .vmovi _ | .vbcast _ | .vlane _ | .vshfl _ | .vvote _ | .vmatch _ | .vscan _ | .vreduce _ | .vrand _
  | .xmov _ | .xset _ | .xmaxe _ | .pref _ | .tzero _ | .czero _ | .cscale _ | .tcqry _ | .tokclr _ | .gslot _ | .nrmrd _
  | .srd _ | .swr _ | .heatctlWrite _ | .ringstWrite _ | .pcbrkWrite _ | .sampctlWrite _ => True
  | .vpack _ | .vunpack _ => s.cur.gctl.getLsbD 0 = false
  | .widen => s.cur.widen = none
  | .narrow => s.cur.widen ≠ none
  | .join => s.cur.widen = none ∧ s.cur.stack.length ≤ 1
  | .vld f => GlobalReady s (.vld f)
  | .vst f => GlobalReady s (.vst f)
  | .sld f => GlobalReady s (.sld f)
  | .sst f => GlobalReady s (.sst f)
  | .vldx f => GlobalReady s (.vldx f)
  | .vstx f => GlobalReady s (.vstx f)
  | .vatom f => GlobalReady s (.vatom f)
  | .vfatom f => GlobalReady s (.vfatom f)
  | .satom f => GlobalReady s (.satom f)
  | .vred f => GlobalReady s (.vred f)
  | .ldrsv f => GlobalReady s (.ldrsv f)
  | .stcnd f => GlobalReady s (.stcnd f)
  | .lpin f => GlobalReady s (.lpin f)
  | .lunpin f => GlobalReady s (.lunpin f)
  | .vlds f => SpadReady s (.vlds f)
  | .vsts f => SpadReady s (.vsts f)
  | .vatoms f => SpadReady s (.vatoms f)
  | .presq f =>
    let a := ((if f.sb = 0 then (0 : W32) else s.cur.rs f.sb.toNat) + s.cur.rl f.va.toNat (lowest (s.activeOf (.presq f))) + BitVec.ofInt 32 f.off.toInt).toNat
    a % 128 = 0 ∧ a + 4096 ≤ s.spadSize s.cur.team ∧ roomIn s .load
  | .spjoin f => roomIn s .load ∧ tget (s.ctxOf s.cur).joinAt (s.cur.rs f.sa.toNat).toNat = none
  | .spleave => (s.teamOf s.cur).share = none
  | .fence _ | .drain _ | .icinv | .gbar _ => Quiet s
  | .mirror _ => Quiet s ∧ (s.ctxOf s.cur).broken = false
  | .tshape f => f.mod = 0 → shapeLegal (s.cur.rs f.vb.toNat) = true
  | .tscl f =>
    let w := (s.cur.tile f.vd.toNat).shape
    shpOn w = true ∧ shpMx w = true ∧ f.vc.toNat < 128 ∧ (s.cur.rs f.vb.toNat).toNat + f.vc.toNat < shpEntries w
  | .tlds f | .tsts f =>
    let w := (s.cur.tile f.vd.toNat).shape
    let base := (if f.sb = 0 then (0 : W32) else s.cur.rs f.sb.toNat) + BitVec.ofInt 32 f.off.toInt
    let pitch := (s.cur.rs f.va.toNat).toNat
    shpOn w = true ∧ shpRB w ≤ pitch ∧ pitch % 4 = 0 ∧ (f.mod.getLsbD 0 = true → pitch % 128 = 0 ∧ base.toNat % 128 = 0) ∧
      MoveReady s base (tileUnits w (f.mod.getLsbD 0) base.toNat pitch (s.cur.rs (f.va.toNat + 1)).toNat)
  | .clds f | .csts f =>
    let base := (if f.sb = 0 then (0 : W32) else s.cur.rs f.sb.toNat) + BitVec.ofInt 32 f.off.toInt
    let pitch := (s.cur.rs f.va.toNat).toNat
    let region := s.cur.rs (f.va.toNat + 1)
    let rows := (region.extractLsb' 0 7).toNat + 1
    let cols := (region.extractLsb' 8 7).toNat + 1
    (region.extractLsb' 16 7).toNat + rows ≤ 128 ∧ 4 * cols ≤ pitch ∧ pitch % 4 = 0 ∧ region.getLsbD 7 = false ∧ region.getLsbD 15 = false ∧ region.extractLsb' 23 9 = 0 ∧
      MoveReady s base ((List.range rows).flatMap fun r => (List.range cols).map fun k => (0, (base.toNat + r * pitch + 4 * k) % 2 ^ 32))
  | .tmov f =>
    let w := (s.cur.tile f.va.toNat).shape
    shpOn w = true ∧ f.vc.toNat < 128 ∧ (s.cur.rs f.vb.toNat).toNat + f.vc.toNat < shpRows w ∧ (shpMx w = true → f.vd.toNat + f.vc.toNat < s.cur.nx) ∧ s.cur.moves.length < 15
  | .crq f =>
    let w := (s.cur.tile f.vd.toNat).shape
    let q := (s.cur.rs f.vb.toNat).toNat
    (f.mod.getLsbD 0 = true → q + (if f.ty.toNat = 15 then 2 * (f.vc.toNat + 1) else f.vc.toNat + 1) ≤ 128) ∧
    (f.mod.getLsbD 0 = false → shpOn w = true ∧ shpFmt w = f.ty ∧ shpCmp w = false ∧ shpSq w = false ∧ shpCols w ≤ 128 ∧ q + shpRows w ≤ 128)
  | .ctov f => (s.cur.rs f.vb.toNat).toNat + f.vc.toNat < 128
  | .vtoc f => (s.cur.rs f.vb.toNat).toNat + f.vc.toNat < 128
  | .rpush f | .rrel f => StageReady s f ∧ s.cur.ringOps.length < 4
  | .rpop f => (tgetD (s.teamOf s.cur).rings f.rid.toNat {}).en = true ∧ (tgetD (s.teamOf s.cur).rings f.rid.toNat {}).popAt = []
  | .rwait f => StageReady s f
  | .gcopy f =>
    let l := lowest (s.activeOf (.gcopy f))
    let src := pairAt s.cur f.sr
    let dst := (s.cur.rl (f.vc.toNat + 1) l).toNat * 2 ^ 32 + (s.cur.rl f.vc.toNat l).toNat
    src / 2 ^ 56 % 2 ≠ dst / 2 ^ 56 % 2 ∧ s.badGlobal true src = false ∧ s.badGlobal true dst = false ∧ src % 16 = 0 ∧ dst % 16 = 0 ∧ (s.cur.rl (f.vc.toNat + 2) l).toNat % 16 = 0 ∧
      (f.mod.getLsbD 3 = true → s.badGlobal true (pairAt s.cur f.sx) = false ∧ pairAt s.cur f.sx % 8 = 0) ∧ (s.cur.tok f.tok.toNat).count ≠ 15 ∧ SlotFree s
  | .gsig f => s.badGlobal true (pairAt s.cur f.sr) = false ∧ pairAt s.cur f.sr % 8 = 0 ∧ (s.cur.tok f.tok.toNat).count ≠ 15 ∧ SlotFree s
  | .gflush f => (s.cur.tok f.tok.toNat).count ≠ 15 ∧ SlotFree s
  | .nrmadd _ => (∃ q ∈ (s.ctxOf s.cur).norms, q.closed = false) ∨ (s.ctxOf s.cur).norms.length < 2
  | .barstWrite _ => (s.teamOf s.cur).barDone = []
  | .normboxWrite _ => (s.ctxOf s.cur).normAt ≠ some s.cycle
  | .errclr => (s.ctxOf s.cur).errAt ≠ some s.cycle
  | .tlbinv f => f.mod = 0 → pairAt s.cur f.sa < 2 ^ 56
  | .cinv f => pairAt s.cur f.sa < 2 ^ 56 ∧ (∀ p ∈ s.cores, ∀ q ∈ p.2.l1, q.2.dirty = 0) ∧ (∀ p ∈ s.llc, p.2.dirty = false) ∧ ∀ p ∈ s.dir, p.2.rel = []
  | .ctxsv f => ∃ ls, BlockNear s f ls
  | .ctxld f => ∃ ls, BlockNear s f ls ∧ s.blockOk s.cur (BitVec.ofNat 32768 ((List.range 32).map fun k => lineNat (ls k).data 0 128 * 2 ^ (1024 * k)).sum) = true
  | .heatrd f =>
    let a := pairAt s.cur f.sa
    let n := (s.cur.rs (f.sa.toNat + 3)).toNat
    n ≤ 4096 ∧ (s.cur.rs (f.sa.toNat + 2)).toNat + n ≤ 524288 ∧ a + 16 * n ≤ 2 ^ 56 ∧ a % 16 = 0 ∧ s.cur.pend = [] ∧
      ∀ k, k < n → ∃ l, let r := s.reqOf s.cur (a + 16 * k); s.AtHome r l ∧ r.die = homeDie r.va
  | .dbgrd f => debugBad false f s s.cur = false
  | .dbgwr f => debugBad true f s s.cur = false
  | .qpost f =>
    let a := pairAt s.cur f.sa
    Quiet s ∧ a < 2 ^ 56 ∧ a % 128 = 0 ∧ ∃ l, s.AtHome (s.reqOf s.cur (a + 0x40)) l ∧ l.poison = false
  | _ => False

/-- An event of the machine `n` times, one after another. -/
def again (i : Instr) : Nat → State → Host.Outcome State Fault Refusal
  | 0, s => .next s
  | n + 1, s => match exec i s with
    | .next t => again i n t
    | o => o

end Sys2Proof.Machine
end

