-- ==== Sys2Proof/Certificates/Slice0/Obligations.lean ====
section
/-! DEFINITION. The statements for the provers. The rules named are those of the manual's files under spec/. -/

section

open Sys2Proof Sys2Proof.Machine

/-- O1. The encoding tables lose nothing: every word instruction whose must-be-zero fields are zero is read back from its own encoding (R91, R92, R99). -/
def Obligations.DecodeOfEncode : Prop :=
  ∀ i : Instr, i.isEncodable = true → decodeWord (encode i) = .ok i

/-- O2. A word has one meaning: what the decoder accepts is encodable, and its encoding is that word (R90, R91, R99). -/
def Obligations.EncodeOfDecode : Prop :=
  ∀ (w : W64) (i : Instr), decodeWord w = .ok i → i.isEncodable = true ∧ encode i = w

/-- O3. The opcode bytes that R99 reserves, 0x00 and 0xF0 to 0xFF among them, are refused as reserved, whatever the rest of the word; every other opcode byte is assigned. A clause header is read back from its word, whatever its fields (R83). -/
def Obligations.HeadersAndReserved : Prop :=
  (
  ∀ w : W64, decodeWord w = .error .reservedOpcode ↔
    ((w.toNat / 2 ^ 56) ∈ [0x00] ++ (List.range 11).map (0x25 + ·) ++ (List.range 27).map (0x65 + ·) ++ (List.range 8).map (0x98 + ·) ++
      (List.range 14).map (0xB2 + ·) ++ (List.range 16).map (0xD0 + ·) ++ (List.range 19).map (0xED + ·))
  ) ∧ (
  ∀ h : Header, decodeHeader (encodeHeader h) = some h
  )

/-- O4. Words written out from the manual's worked encodings are the instructions that it says (R91, R181). -/
def Obligations.WorkedEncodings : Prop :=
  decodeWord 0x8040001021001000 = .ok (.vld ⟨4, 0, false, 1, 2, 8, 0x40, 0, 0⟩) ∧
  decodeWord 0x81D0C040A100000B = .ok (.vst ⟨0xD, 6, false, 4, 10, 8, 0, 1, 3⟩) ∧
  decodeWord 0x8CE000706100000B = .ok (.vred ⟨14, 0, false, 7, 6, 8, 0, 1, 3⟩) ∧
  decodeWord 0x8A00005030000001 = .ok (.vatoms ⟨0, 0, false, 5, 3, 0, 0, 0, 1⟩) ∧
  decodeWord 0x8F20002000000003 = .ok (.fence ⟨2, 0, false, 2, 0, 0, 0, 0, 3⟩) ∧
  decodeWord 0x9101210000000000 = .ok (.lpin ⟨0, 9, 4, 0, 0, 0⟩) ∧
  decodeWord 0x9502810CB0000000 = .ok (.stash ⟨0, 20, 8, 3, 22, 0⟩)

/-- O5. A step runs the decoded instruction: where the head of the agenda lets a scheduler issue that has not sampled in this cycle (assumption log 24), nothing else is due there (assumption log 50), that scheduler has chosen a group whose clause is under way, and no armed comparator hits (33 R330), the step is `exec` of the instruction that the decoder reads from the group's next word, at that group; a word that is no instruction kills the group with ILLEGAL (09 R101). What is due before that, and the begin of a clause, is the step instead. `runs` only notes that the scheduler issues this group, and ends the runs of the others (03 R26). An event at the head of the agenda is `exec` of that event. The agenda is the model's (assumption log 3). A comparator's hit (R330): comparator n hits a group's next word where it is armed, it holds PC[55:3] of the word, the scheduler's bit is set, it names every gid or this one, the group's context is its owner, and the group is in no system handler and not at the first word after a BREAKPOINT entry; a write counts from the cycle after it (`brkNow`). The lowest that hits then comes before every check: the step is the BREAKPOINT trap with TARG its number and the word as the place of the trap, or, under SAMPCTL.TRC, the trace record and the word as it would run. -/
def Obligations.StepRunsDecoded : Prop :=
  (
  (∀ (s s1 s2 : State) (core k u : Nat) (rest : List Turn),
    s.agenda = .issue core k :: rest → s1 = { s with agenda := rest } → tget (s1.core core).sampAt k ≠ some s1.cycle → s1.schedDue core k = none → s1.chosen core k = some u → s2 = s1.runs u →
    (∀ (c : Clause) (w : W64), (s1.group u).clause = some c → c.words[c.idx]? = some w → s2.hits u = [] →
      (∀ i, decodeWord w = .ok i → step s = exec i { s2 with who := u }) ∧
      (∀ e, decodeWord w = .error e → step s = .next (s2.kill u causeIllegal (wordPc (s1.group u) c)))) ∧
    ((s1.group u).clause = none → step s = exec .clauseBegin { s1 with who := u })) ∧
  (∀ (s s1 : State) (core k u : Nat) (i : Instr) (rest : List Turn),
    s.agenda = .issue core k :: rest → s1 = { s with agenda := rest } → tget (s1.core core).sampAt k ≠ some s1.cycle → s1.schedDue core k = some (u, i) → step s = exec i { s1 with who := u }) ∧
  (∀ (s : State) (u : Nat), (s.runs u).group u = s.group u ∧ (∀ v, ∃ n, (s.runs u).group v = { s.group v with streak := n }) ∧
    (∀ j, ∃ r, (s.runs u).core j = { s.core j with running := r }) ∧ s.runs u = { s with groups := (s.runs u).groups, cores := (s.runs u).cores }) ∧
  (∀ (s : State) (who : Nat) (i : Instr) (rest : List Turn),
    s.agenda = .event who i :: rest → step s = exec i { s with agenda := rest, who := who })
  ) ∧ (
  (∀ (s : State) (u n : Nat) (c : Clause), (s.group u).clause = some c →
    let g := s.group u
    let core := s.coreOf g
    let b := (s.brkNow core n).1
    (n ∈ s.hits u ↔ n < 8 ∧ g.mode ≠ .sysHandler ∧ g.bpSkip = false ∧ b.getLsbD 63 = true ∧ b.extractLsb' 0 53 = (wordPc g c).extractLsb' 3 53 ∧
      b.getLsbD (59 + g.gid % 4) = true ∧ (b.getLsbD 58 = true ∨ (b.extractLsb' 53 5).toNat = g.gid) ∧ (s.brkNow core n).2 = some (s.teamOf g).ctx) ∧
    (∀ old at_, tget (s.core core).brkOld n = some (old, at_) → at_ = s.cycle → s.brkNow core n = old) ∧
    ((∀ old at_, tget (s.core core).brkOld n = some (old, at_) → at_ ≠ s.cycle) →
      s.brkNow core n = (tgetD (s.core core).brk n 0, tget (s.core core).brkOwner n))) ∧
  (∀ (s s1 s2 : State) (core k u n : Nat) (rest : List Turn) (c : Clause) (w : W64),
    s.agenda = .issue core k :: rest → s1 = { s with agenda := rest } → tget (s1.core core).sampAt k ≠ some s1.cycle → s1.schedDue core k = none →
    s1.chosen core k = some u → s2 = s1.runs u → (s2.group u).clause = some c → c.words[c.idx]? = some w → n ∈ s2.hits u → (∀ m ∈ s2.hits u, n ≤ m) →
    let g := s2.group u
    (sampTrc (s2.core (s2.coreOf g)).samp = false →
      step s = .next (s2.trap u causeBreakpoint (BitVec.ofNat 32 n) (wordPc g c) ⟨g.pc, true, c.idx, c.words.length⟩)) ∧
    (sampTrc (s2.core (s2.coreOf g)).samp = true → ∀ i s3, decodeWord w = .ok i →
      s3 = s2.writeSample (s2.coreOf g) (n * 2 ^ 61 + g.gid % 4 * 2 ^ 59 + 2 ^ 58 + (wordPc g c).toNat / 8 % 2 ^ 53)
        (s2.cycle % 2 ^ 16 * 2 ^ 48 + s2.coreOf g * 2 ^ 40 + 2 ^ 39 + g.gid * 2 ^ 32 + g.engseq.toNat % 2 ^ 32) →
      step s = exec i { (s3.setGroup u { s3.group u with bpSkip := true }) with who := u }))
  )

/-- O6. No instruction and no event is refused. The one fault is a host access to an address that nothing backs (assumption log 19): an access to HBM in or above the reserved area (R262; assumption log 11), or one through the sideband window to an address below it or to the sidebands of that area (R343). Every other `exec` answers a next state, be it that of an event whose precondition does not hold (assumption log 19). -/
def Obligations.ExecAnswers : Prop :=
  ∀ (i : Instr) (s : State),
    (∃ t, exec i s = .next t) ∨
    (exec i s = .fault .unbackedAddress ∧ ∃ pa op, (i = .hostMemAccess pa op ∧ Config.reservedBase ≤ pa) ∨
      (i = .sidebandWindowAccess pa op ∧ (pa < 2 ^ 40 ∨ Config.reservedBase ≤ (pa - 2 ^ 40) / 8 * 128)))

/-- O7. Every step keeps the canonical form of every memory: device memory with its sidebands, the CXL tier, host memory and every team's scratchpad hold their addresses strictly rising, and list no byte that an unlisted address reads as. -/
def Obligations.StepKeepsMemory : Prop :=
  ∀ s t : State, s.memOk = true → step s = .next t → t.memOk = true

/-- O8. Right after reset every memory has the canonical form and is empty, so that every byte reads 0 and every sideband byte 0x7F (31 R343; assumption log 1), power is on and bring-up has not begun (assumption log 2), the launch gates are held, and no context, team or task exists. -/
def Obligations.ResetState : Prop :=
  State.reset.memOk = true ∧ (∀ a, a < 2 ^ 40 → mread hbmSide State.reset.hbm a = 0) ∧
  (∀ a, 2 ^ 40 ≤ a → mread hbmSide State.reset.hbm a = 0x7F) ∧ State.reset.plat.gates = true ∧ State.reset.plat.step = 1 ∧
  State.reset.ctxs = [] ∧ State.reset.teams = [] ∧ State.reset.tasks = [] ∧ State.reset.groups = []

/-- O9. Every instruction word is checked before it changes any state: where a check of R101 fails, the group is killed with the cause of the first that fails, whatever the word would have done. The order of the checks (R101): an ILLEGAL class, place or role precedes PRIVILEGE, and PRIVILEGE precedes a register beyond the allocation, a reserved value, the mask rule of matrix instructions and an illegal use. -/
def Obligations.FailedChecks : Prop :=
  (
  ∀ (i : Instr) (s : State) (c : Clause) (cause : Nat), i.info.isWord = true → AtWord s c →
    checkWord i.info s.cur c = some cause → exec i s = .next (s.kill s.who cause (wordPc s.cur c))
  ) ∧ (
  ∀ (i : Info) (g : Group) (c : Clause), i.isWord = true → i.mbz = true →
    ((i.cls ≠ none ∧ i.cls ≠ some c.hdr.cls) → checkWord i g c = some 0x01) ∧
    ((i.cls = none ∨ i.cls = some c.hdr.cls) → ((i.pos = .last ∧ c.idx + 1 ≠ c.words.length) ∨ (i.pos = .first ∧ c.idx ≠ 0)) →
      checkWord i g c = some 0x01) ∧
    ((i.cls = none ∨ i.cls = some c.hdr.cls) → (i.pos = .last → c.idx + 1 = c.words.length) → (i.pos = .first → c.idx = 0) →
      (g.mode ≠ .sysHandler → roleOk i g.role = false → checkWord i g c = some 0x01) ∧
      (g.mode ≠ .sysHandler → roleOk i g.role = true → i.priv = true → checkWord i g c = some 0x02) ∧
      ((g.mode = .sysHandler ∨ (roleOk i g.role = true ∧ i.priv = false)) →
        ((regsOk i g = false ∨ i.sysOk = false ∨ i.valid = false ∨ (i.mtxFam = true ∧ g.full = false ∧ g.widen = none) ∨ i.legal = false) →
          checkWord i g c = some 0x01) ∧
        ((regsOk i g = true ∧ i.sysOk = true ∧ i.valid = true ∧ (i.mtxFam = true → g.full = true ∨ g.widen ≠ none) ∧ i.legal = true) →
          checkWord i g c = none)))
  )

/-- O10. What a kill does (R102, R38, R58): the group issues no more, its reservations are cleared, loads, TLDS, CLDS and TMOV that are outstanding are discarded while stores, atomics, TSTS and CSTS stay to be performed, it counts as gone at every team barrier, and every other group is as before. ERRSTAT and ERRPC (R58): the first event fills them, VALID with team, count 1, gid, cause and PC; a later event changes COUNT alone, which stops at 0xFFFF; of several events in one cycle the first is that of the lowest core, then team, then gid. -/
def Obligations.KillAndError : Prop :=
  (
  ∀ (s : State) (u cause : Nat) (pc : VA),
    ((s.kill u cause pc).group u).status = .killed ∧ ((s.kill u cause pc).group u).clause = none ∧
    ((s.kill u cause pc).group u).resv = [] ∧
    (∀ p ∈ (s.group u).pend, (p ∈ ((s.kill u cause pc).group u).pend ↔
      (p.kind = .store ∨ p.kind = .storeX ∨ (∃ a b n, p.kind = .atomic a b n) ∨ p.kind = .stcnd ∨ p.kind = .lunpin))) ∧
    (∀ m ∈ (s.group u).moves, (m ∈ ((s.kill u cause pc).group u).moves ↔ (m.kind = .tsts ∨ m.kind = .csts))) ∧
    (∀ v, v ≠ u → (s.kill u cause pc).group v = s.group v) ∧
    (∀ n, n < 16 → ∃ b, tget ((s.kill u cause pc).team (s.group u).team).bars n = some b ∧ (s.group u).gid ∈ b.gone ∧ (s.group u).gid ∉ b.arr) ∧
    ((s.kill u cause pc).ctx (s.team (s.group u).team).ctx).errstat =
      (((s.ctx (s.team (s.group u).team).ctx).recordAt s.cycle (s.team (s.group u).team).core (s.team (s.group u).team).linear (s.group u).gid cause pc.toNat)).errstat
  ) ∧ (
  ∀ (c : Ctx) (team gid cause pc : Nat), team < 2 ^ 31 → gid < 32 → cause < 256 → pc < 2 ^ 57 →
    (c.errstat.getLsbD 63 = false →
      let d := c.recordErr team gid cause pc
      d.errstat.getLsbD 63 = true ∧ (d.errstat.extractLsb' 32 31).toNat = team ∧ (d.errstat.extractLsb' 16 16).toNat = 1 ∧
      (d.errstat.extractLsb' 8 5).toNat = gid ∧ (d.errstat.extractLsb' 0 8).toNat = cause ∧ d.errpc.toNat = pc) ∧
    (c.errstat.getLsbD 63 = true →
      let d := c.recordErr team gid cause pc
      d.errpc = c.errpc ∧ (∀ k, k < 64 → (k < 16 ∨ 32 ≤ k) → d.errstat.getLsbD k = c.errstat.getLsbD k) ∧
      (d.errstat.extractLsb' 16 16).toNat = min 0xFFFF ((c.errstat.extractLsb' 16 16).toNat + 1)) ∧
    (∀ cycle core,
      let d := c.recordErr team gid cause pc
      let r := c.recordAt cycle core team gid cause pc
      (c.errstat.getLsbD 63 = false → r.errstat = d.errstat ∧ r.errpc = d.errpc ∧ r.errFirst = some (cycle, core, team, gid)) ∧
      (∀ n k t j, c.errstat.getLsbD 63 = true → c.errFirst = some (n, k, t, j) →
        let before := core < k ∨ (core = k ∧ (team < t ∨ (team = t ∧ gid < j)))
        ((n ≠ cycle ∨ ¬ before) → r.errstat = d.errstat ∧ r.errpc = d.errpc ∧ r.errFirst = c.errFirst) ∧
        (n = cycle → before → (r.errstat.extractLsb' 32 31).toNat = team ∧ (r.errstat.extractLsb' 8 5).toNat = gid ∧ (r.errstat.extractLsb' 0 8).toNat = cause ∧
          r.errpc.toNat = pc ∧ r.errstat.getLsbD 63 = true ∧ (r.errstat.extractLsb' 16 16).toNat = min 0xFFFF ((c.errstat.extractLsb' 16 16).toNat + 1) ∧
          r.errFirst = some (cycle, core, team, gid))))
  )

/-- O11. A word that passes its checks but reads a poisoned unit traps with POISON before it changes any state, TARG 0, and resumes at itself (R49, R101, R136). The instructions whose own description adds an illegal use (`ownIllegal`) are left to FailedChecks and their own statements. TRAP raises SOFTWARE with IMM32 as its argument after itself: the group resumes at the word after it, or at the next clause where it ends its clause (R131). With no lane on the path it does nothing. -/
def Obligations.PoisonAndSoftware : Prop :=
  (
  ∀ (i : Instr) (s : State) (c : Clause), i.info.isWord = true → ownIllegal i = false → AtWord s c →
    checkWord i.info s.cur c = none → (readsPoison i.info s.cur || ownPoisoned i s s.cur) = true →
    exec i s = .next (s.trap s.who 0x06 0 (wordPc s.cur c) (resumeHere s.cur c))
  ) ∧ (
  ∀ (f : FSI) (s : State) (c : Clause), Issues (.trap f) s c →
    (s.cur.mask ≠ 0 → exec (.trap f) s = .next ((s.setCur s.cur.issuing).trap s.who 0x09 f.imm (wordPc s.cur c)
      (if c.idx + 1 < c.words.length then ⟨s.cur.pc, true, c.idx + 1, c.words.length⟩ else ⟨nextHeader s.cur c, false, 0, c.words.length⟩))) ∧
    (s.cur.mask = 0 → exec (.trap f) s = .next (s.past c s.cur.issuing))
  )

/-- O12. A user-level trap in user mode enters the context's user handler, where one is installed (R280, R281, R282, R285): user-handler mode, the handler's entry, every non-exited lane, the bank written as the table says, GSTAT's cause and TARG, the resume point and the WIDEN state in the frame; the group's own registers and its divergence stack are as before. BREAKPOINT and PREEMPT enter the system handler from user and from user-handler mode, over a user frame, which is kept (R280, R281, R284); s124 and s125 hold the group's save base (R291). A trap that no handler takes kills the group with its cause (R281, R284): ILLEGAL and PRIVILEGE always; a user-level cause where no user handler is installed; any cause but BREAKPOINT and PREEMPT in user-handler mode; any cause in system-handler mode. -/
def Obligations.TrapEntry : Prop :=
  (
  ∀ (s : State) (u cause : Nat) (targ : W32) (pc : VA) (r : ResumeAt),
    (s.group u).mode = .user → cause ∈ [0x03, 0x04, 0x05, 0x06, 0x07, 0x09, 0x0B] → (s.ctxOf (s.group u)).userEntry ≠ 0 →
    let g := s.group u
    let t := (s.trap u cause targ pc r).group u
    t.mode = .userHandler ∧ t.pc = BitVec.ofNat 57 (s.ctxOf g).userEntry ∧ t.clause = none ∧ t.widen = none ∧ t.mask = ~~~g.exited ∧
    t.stack = g.stack ∧ t.cause = cause ∧ t.targ = targ ∧
    t.rs 120 = BitVec.ofNat 32 pc.toNat ∧ t.rs 121 = BitVec.ofNat 32 (pc.toNat / 2 ^ 32) ∧ t.rs 122 = targ ∧ t.rs 123 = BitVec.ofNat 32 cause ∧
    (∀ k, 124 ≤ k → k < 128 → t.rs k = 0) ∧ (∀ k, 120 ≤ k → k < 128 → t.sPoison k = false) ∧
    (∀ k, k < 120 → t.rs k = g.rs k) ∧ t.s = g.s ∧ t.v = g.v ∧ t.x = g.x ∧ t.tiles = g.tiles ∧ t.accs = g.accs ∧ t.frameS = g.frameS ∧
    (∃ f, t.frameU = some f ∧ f.pc = r.pc ∧ f.inside = r.inside ∧ f.idx = r.idx ∧ f.widen = g.widen ∧ f.pathCount = g.pathCount ∧
      f.depth = g.stack.length ∧ f.mode = .user ∧ f.waits = (if r.inside then noWait else g.waits) ∧ (r.inside = false → t.waits = noWait)) ∧
    (∀ v, v ≠ u → (s.trap u cause targ pc r).group v = s.group v) ∧ (s.trap u cause targ pc r).ctxs = s.ctxs
  ) ∧ (
  ∀ (s : State) (u cause : Nat) (targ : W32) (pc : VA) (r : ResumeAt),
    (s.group u).mode ≠ .sysHandler → cause ∈ [0x08, 0x0A] →
    let g := s.group u
    let c := s.ctxOf g
    let base := c.saveb + (33 * (s.teamOf g).linear + g.gid) * (c.savesz * 4096)
    let t := (s.trap u cause targ pc r).group u
    t.mode = .sysHandler ∧ t.pc = BitVec.ofNat 57 c.sysEntry ∧ t.clause = none ∧ t.widen = none ∧ t.mask = ~~~g.exited ∧ t.stack = g.stack ∧
    t.cause = cause ∧ t.targ = targ ∧
    t.rs 120 = BitVec.ofNat 32 pc.toNat ∧ t.rs 121 = BitVec.ofNat 32 (pc.toNat / 2 ^ 32) ∧ t.rs 122 = targ ∧ t.rs 123 = BitVec.ofNat 32 cause ∧
    t.rs 124 = BitVec.ofNat 32 base ∧ t.rs 125 = BitVec.ofNat 32 (base / 2 ^ 32) ∧ t.rs 126 = 0 ∧ t.rs 127 = 0 ∧
    t.frameU = g.frameU ∧ t.bankU = g.bankU ∧ t.s = g.s ∧ t.v = g.v ∧
    (∃ f, t.frameS = some f ∧ f.pc = r.pc ∧ f.inside = r.inside ∧ f.idx = r.idx ∧ f.widen = g.widen ∧ f.pathCount = g.pathCount ∧
      f.depth = g.stack.length ∧ f.mode = g.mode ∧ f.cause = cause)
  ) ∧ (
  ∀ (s : State) (u cause : Nat) (targ : W32) (pc : VA) (r : ResumeAt),
    (cause = 0x01 ∨ cause = 0x02 ∨ (s.group u).mode = .sysHandler ∨
      ((s.group u).mode = .userHandler ∧ cause ≠ 0x08 ∧ cause ≠ 0x0A) ∨
      ((s.group u).mode = .user ∧ cause ≠ 0x08 ∧ cause ≠ 0x0A ∧ (s.ctxOf (s.group u)).userEntry = 0)) →
    s.trap u cause targ pc r = s.kill u cause pc
  )

/-- O13. TRET from a handler that is not the resume handler restores mode, WIDEN state and path count from the frame, and the waits where the resume point is a boundary; it goes on at the resume point, or with `.skip` after the trapping word; the frame is given up and the divergence stack is as before. `.park` after the save of a pre-empted group holds the group there, and TRET from the resume handler holds it until its team is restored (R283, R289, R290). -/
def Obligations.TretEffect : Prop :=
  ∀ (f : FY) (s : State) (c : Clause) (fr : Frame), Issues (.tret f) s c → s.cur.frame = some fr → tretBad f s s.cur = false → s.cur.mask ≠ 0 →
    ∃ t, exec (.tret f) s = .next t ∧
      (fr.resume = false → f.mod ≠ 2 →
        t.cur.mode = fr.mode ∧ t.cur.widen = fr.widen ∧ t.cur.pathCount = fr.pathCount ∧ t.cur.stack = s.cur.stack ∧ t.cur.clause = none ∧
        t.cur.s = s.cur.s ∧ t.cur.v = s.cur.v ∧
        (s.cur.mode = .userHandler → t.cur.frameU = none ∧ t.cur.frameS = s.cur.frameS) ∧ (s.cur.mode = .sysHandler → t.cur.frameS = none ∧ t.cur.frameU = s.cur.frameU) ∧
        (fr.inside = false → t.cur.pc = fr.pc ∧ t.cur.resume = none ∧ t.cur.waits = fr.waits) ∧
        (fr.inside = true → f.mod = 0 → t.cur.pc = fr.pc ∧ t.cur.resume = some fr.idx) ∧
        (fr.inside = true → f.mod = 1 → fr.cause ≠ 0x09 →
          (fr.endsClause = false → t.cur.pc = fr.pc ∧ t.cur.resume = some (fr.idx + 1)) ∧
          (fr.endsClause = true → t.cur.pc = fr.pc + BitVec.ofNat 57 (8 * (fr.hdrWords + 1)) ∧ t.cur.resume = none))) ∧
      (fr.resume = false → f.mod = 2 → t = s.setCur { s.cur.issuing with wait := .parked, clause := none }) ∧
      (fr.resume = true → t = s.setCur { s.cur.issuing with wait := .tretResume (f.mod == 1), clause := none })

/-- O14. The scalar data operations (R111): each word reads its operands, and once for the group, when some lane of the path is left, writes the value of the table to s[SD] (a write to s0 is discarded); nothing else of the machine changes but that the group goes on to its next word. The conditions of SCMP (R112): the eight of the table, over MOD[2:0]. -/
def Obligations.ScalarOperations : Prop :=
  (
  ∀ (s : State) (c : Clause),
    let r := fun (n : BitVec 7) => s.cur.rs n.toNat
    let out := fun (sd : BitVec 7) (v : W32) => (Host.Outcome.next (s.past c (s.scalarOut sd v)) : Host.Outcome State Fault Refusal)
    let smin := fun (m : BitVec 4) (a b : W32) => if m.getLsbD 0 then (if b.toNat < a.toNat then b else a) else (if b.toInt < a.toInt then b else a)
    let smax := fun (m : BitVec 4) (a b : W32) => if m.getLsbD 0 then (if a.toNat < b.toNat then b else a) else (if a.toInt < b.toInt then b else a)
    let shl := fun (a b : W32) => if b.toNat < 32 then BitVec.ofNat 32 (a.toNat * 2 ^ b.toNat) else (0 : W32)
    let shr := fun (a b : W32) => if b.toNat < 32 then BitVec.ofNat 32 (a.toNat / 2 ^ b.toNat) else (0 : W32)
    let sar := fun (a b : W32) => if b.toNat < 32 then a.sshiftRight b.toNat else if a.getLsbD 31 then (0xFFFFFFFF : W32) else 0
    let cmp := fun (m : BitVec 4) (a b : W32) => if scmpHolds m.toNat a b then (0xFFFFFFFF : W32) else 0
    (∀ f, Issues (.smov f) s c → exec (.smov f) s = out f.sd (r f.sa)) ∧
    (∀ f, Issues (.smovi f) s c → exec (.smovi f) s = out f.sd f.imm) ∧
    (∀ f, Issues (.sadd f) s c → exec (.sadd f) s = out f.sd (r f.sa + r f.sb)) ∧
    (∀ f, Issues (.saddImm f) s c → exec (.saddImm f) s = out f.sd (r f.sa + f.imm)) ∧
    (∀ f, Issues (.ssub f) s c → exec (.ssub f) s = out f.sd (r f.sa - r f.sb)) ∧
    (∀ f, Issues (.ssubImm f) s c → exec (.ssubImm f) s = out f.sd (r f.sa - f.imm)) ∧
    (∀ f, Issues (.smul f) s c → exec (.smul f) s = out f.sd (r f.sa * r f.sb)) ∧
    (∀ f, Issues (.smulImm f) s c → exec (.smulImm f) s = out f.sd (r f.sa * f.imm)) ∧
    (∀ f, Issues (.smulhi f) s c → exec (.smulhi f) s = out f.sd
      (if f.mod.getLsbD 0 then BitVec.ofNat 32 ((r f.sa).toNat * (r f.sb).toNat / 2 ^ 32) else BitVec.ofInt 32 ((r f.sa).toInt * (r f.sb).toInt / 2 ^ 32))) ∧
    (∀ f, Issues (.sand f) s c → exec (.sand f) s = out f.sd (r f.sa &&& r f.sb)) ∧
    (∀ f, Issues (.sandImm f) s c → exec (.sandImm f) s = out f.sd (r f.sa &&& f.imm)) ∧
    (∀ f, Issues (.sor f) s c → exec (.sor f) s = out f.sd (r f.sa ||| r f.sb)) ∧
    (∀ f, Issues (.sorImm f) s c → exec (.sorImm f) s = out f.sd (r f.sa ||| f.imm)) ∧
    (∀ f, Issues (.sxor f) s c → exec (.sxor f) s = out f.sd (r f.sa ^^^ r f.sb)) ∧
    (∀ f, Issues (.sxorImm f) s c → exec (.sxorImm f) s = out f.sd (r f.sa ^^^ f.imm)) ∧
    (∀ f, Issues (.sshl f) s c → exec (.sshl f) s = out f.sd (shl (r f.sa) (r f.sb))) ∧
    (∀ f, Issues (.sshlImm f) s c → exec (.sshlImm f) s = out f.sd (shl (r f.sa) f.imm)) ∧
    (∀ f, Issues (.sshr f) s c → exec (.sshr f) s = out f.sd (shr (r f.sa) (r f.sb))) ∧
    (∀ f, Issues (.sshrImm f) s c → exec (.sshrImm f) s = out f.sd (shr (r f.sa) f.imm)) ∧
    (∀ f, Issues (.ssar f) s c → exec (.ssar f) s = out f.sd (sar (r f.sa) (r f.sb))) ∧
    (∀ f, Issues (.ssarImm f) s c → exec (.ssarImm f) s = out f.sd (sar (r f.sa) f.imm)) ∧
    (∀ f, Issues (.smin f) s c → exec (.smin f) s = out f.sd (smin f.mod (r f.sa) (r f.sb))) ∧
    (∀ f, Issues (.sminImm f) s c → exec (.sminImm f) s = out f.sd (smin f.mod (r f.sa) f.imm)) ∧
    (∀ f, Issues (.smax f) s c → exec (.smax f) s = out f.sd (smax f.mod (r f.sa) (r f.sb))) ∧
    (∀ f, Issues (.smaxImm f) s c → exec (.smaxImm f) s = out f.sd (smax f.mod (r f.sa) f.imm)) ∧
    (∀ f, Issues (.scmp f) s c → exec (.scmp f) s = out f.sd (cmp f.mod (r f.sa) (r f.sb))) ∧
    (∀ f, Issues (.scmpImm f) s c → exec (.scmpImm f) s = out f.sd (cmp f.mod (r f.sa) f.imm)) ∧
    (∀ f, Issues (.ssel f) s c → exec (.ssel f) s = out f.sd ((r f.sa &&& r f.sc) ||| (r f.sb &&& ~~~(r f.sc)))) ∧
    (∀ f, Issues (.spopc f) s c → exec (.spopc f) s = out f.sd (BitVec.ofNat 32 ((List.range 32).countP fun k => (r f.sa).getLsbD k))) ∧
    (∀ f, Issues (.sclz f) s c → ∃ n, n ≤ 32 ∧ exec (.sclz f) s = out f.sd (BitVec.ofNat 32 n) ∧
      (∀ k, k < n → (r f.sa).getLsbD (31 - k) = false) ∧ (n < 32 → (r f.sa).getLsbD (31 - n) = true)) ∧
    (∀ f, Issues (.sbfx f) s c → exec (.sbfx f) s = out f.sd
      (let p := (r f.sb).toNat
       let w := min (r f.sc).toNat (32 - p)
       let x := (r f.sa).toNat / 2 ^ p % 2 ^ w
       if (r f.sc).toNat = 0 ∨ 32 ≤ p then 0
       else if f.mod.getLsbD 0 && x.testBit (w - 1) then BitVec.ofNat 32 (x + (2 ^ 32 - 2 ^ w)) else BitVec.ofNat 32 x))
  ) ∧ (
  ∀ (m : BitVec 4) (a b : W32),
    (m.toNat % 8 = 0 → (scmpHolds m.toNat a b = true ↔ a = b)) ∧ (m.toNat % 8 = 1 → (scmpHolds m.toNat a b = true ↔ a ≠ b)) ∧
    (m.toNat % 8 = 2 → (scmpHolds m.toNat a b = true ↔ a.toInt < b.toInt)) ∧ (m.toNat % 8 = 3 → (scmpHolds m.toNat a b = true ↔ a.toInt ≥ b.toInt)) ∧
    (m.toNat % 8 = 4 → (scmpHolds m.toNat a b = true ↔ a.toNat < b.toNat)) ∧ (m.toNat % 8 = 5 → (scmpHolds m.toNat a b = true ↔ a.toNat ≥ b.toNat)) ∧
    (m.toNat % 8 = 6 → (scmpHolds m.toNat a b = true ↔ a.toInt > b.toInt)) ∧ (m.toNat % 8 = 7 → (scmpHolds m.toNat a b = true ↔ a.toNat > b.toNat))
  )

/-- O15. SGET (R113, R54): the value of each selector is written to s[SD] when some lane of the path is left. Scalar registers (R48, R49, R280): s0 reads all ones and a write to it is discarded; in a handler mode s120 to s127 are the bank of that mode; writing a register changes no other register and clears its poison. -/
def Obligations.ScalarReadsAndWrites : Prop :=
  (
  ∀ (f : FSI) (s : State) (c : Clause), Issues (.sget f) s c →
    let g := s.cur
    let t := s.teamOf g
    ∃ v, exec (.sget f) s = .next (s.past c (s.scalarOut f.sd v)) ∧
      (f.imm = 0 → g.mask ≠ 0 → v.toNat < 32 ∧ g.mask.getLsbD v.toNat = true ∧ ∀ k, k < v.toNat → g.mask.getLsbD k = false) ∧
      (f.imm = 1 → g.mask ≠ 0 → ∃ k, k < 32 ∧ g.mask.getLsbD k = true ∧ (∀ j, j < k → g.mask.getLsbD j = false) ∧ v = lane g.tids k) ∧
      (f.imm = 2 → v = BitVec.ofNat 32 g.gid) ∧ (f.imm = 3 → v = BitVec.ofNat 32 t.linear) ∧
      (f.imm = 4 → ∀ n, n = ((s.lrecOf g).extractLsb' 0xA0 32).toNat * ((s.lrecOf g).extractLsb' 0xC0 32).toNat * ((s.lrecOf g).extractLsb' 0xE0 32).toNat →
        v = BitVec.ofNat 32 (if n = 2 ^ 31 then 2 ^ 31 - 1 else n)) ∧
      (f.imm = 9 → v = BitVec.ofNat 32 (t.groups.countP fun p => (s.group p.2).status == .live)) ∧
      (f.imm = 5 → v = BitVec.ofNat 32 t.x) ∧ (f.imm = 6 → v = BitVec.ofNat 32 t.y) ∧ (f.imm = 7 → v = BitVec.ofNat 32 t.z) ∧
      (f.imm = 8 → v = (match g.role with | .vector => 0 | .feed => 1 | .matrix => 2)) ∧
      (f.imm = 10 → v = g.key) ∧ (f.imm = 11 → v = g.engseq.setWidth 32) ∧ (f.imm = 12 → v = BitVec.ofNat 32 s.cycle)
  ) ∧ (
  ∀ (g : Group) (n : Nat) (x : W32), n < 128 →
    g.rs 0 = 0xFFFFFFFF ∧ g.ws 0 x = g ∧ g.sPoison 0 = false ∧
    (n ≠ 0 → (g.ws n x).rs n = x ∧ (g.ws n x).sPoison n = false) ∧
    (∀ m, m < 128 → m ≠ n → (g.ws n x).rs m = g.rs m ∧ (g.ws n x).sPoison m = g.sPoison m) ∧
    (g.ws n x).v = g.v ∧ (g.ws n x).vp = g.vp ∧ (g.ws n x).x = g.x ∧ (g.ws n x).xp = g.xp ∧ (g.ws n x).mode = g.mode ∧ (g.ws n x).mask = g.mask ∧
    (120 ≤ n → g.mode = .user → (g.ws n x).bankU = g.bankU ∧ (g.ws n x).bankS = g.bankS) ∧
    (120 ≤ n → g.mode = .userHandler → (g.ws n x).s = g.s ∧ (g.ws n x).bankS = g.bankS) ∧
    (120 ≤ n → g.mode = .sysHandler → (g.ws n x).s = g.s ∧ (g.ws n x).bankU = g.bankU)
  )

/-- O16. NOP, WAIT, YIELD, WIDEN and NARROW (R85, R113, R123, R124, R125): what each changes of its group, whatever ACTIVE holds; a second WIDEN and a NARROW without a bracket are illegal uses (R35). Inside a bracket every non-exited lane is active; NARROW gives the path back the mask of its stack entry, and lanes that have exited take no part (R35, R36, R123). -/
def Obligations.ControlAndBrackets : Prop :=
  (
  ∀ (s : State) (c : Clause), let g := s.cur.issuing
    (Issues .nop s c → exec .nop s = .next (s.past c g)) ∧
    (∀ f, Issues (.wait f) s c → ∃ w : FW, exec (.wait f) s = .next (s.past c { g with waits := w }) ∧
      w.wld.toNat = min s.cur.waits.wld.toNat f.wld.toNat ∧ w.wst.toNat = min s.cur.waits.wst.toNat f.wst.toNat ∧
      w.wcp.toNat = min s.cur.waits.wcp.toNat f.wcp.toNat ∧ w.wtl.toNat = min s.cur.waits.wtl.toNat f.wtl.toNat ∧ w.tokw = s.cur.waits.tokw ||| f.tokw) ∧
    (Issues .yield s c → ∃ t, exec .yield s = .next t ∧ t.cur.age = s.nextId ∧ t.cur.clause = none ∧ t.cur.streak = 0 ∧ t.cur.pc = nextHeader s.cur c ∧
      t.cur.active = s.cur.active ∧ (∀ n, t.cur.rs n = s.cur.rs n) ∧ t.cur.v = s.cur.v ∧ t.cur.stack = s.cur.stack) ∧
    (Issues .widen s c → s.cur.widen = none → exec .widen s = .next (s.past c { g with widen := some s.cur.mask })) ∧
    (Issues .widen s c → s.cur.widen ≠ none → exec .widen s = .next (s.kill s.who 0x01 (wordPc s.cur c))) ∧
    (Issues .narrow s c → s.cur.widen ≠ none → exec .narrow s = .next (s.past c { g with widen := none })) ∧
    (Issues .narrow s c → s.cur.widen = none → exec .narrow s = .next (s.kill s.who 0x01 (wordPc s.cur c)))
  ) ∧ (
  ∀ (g : Group) (m : Lanes), ({ g with widen := some m } : Group).mask = ~~~g.exited ∧ ({ g with widen := some m } : Group).full = true ∧
    (g.mode = .user → ({ g with widen := none } : Group).mask = g.top.mask &&& ~~~g.exited) ∧ g.mask &&& g.exited = 0
  )

/-- O17. BRA moves the whole path to its target where the condition holds in some lane of it, else to the next clause (R114, R115); BRI moves it to the address in the pair, or traps where it stands, with PROTECTION before MISALIGN and TARG 0 for both (R117; that order and that TARG are assumption log 50's), and is illegal in a bracket. The divergence stack is unchanged. BRD splits the path (R29, R114, R116): with an empty side the path moves as one; else the top entry waits at the reconvergence address, the taken lanes wait at the target, and the lanes that fall through go on first. A push beyond 32 + SPILLN entries kills; entries beyond the 32 on chip are written to the spill area first (R32). JOIN at the reconvergence address of the top entry pops it, and the path below goes on at its own PC under its own mask; anywhere else it does nothing (R30, R121). Stated for stacks on chip. -/
def Obligations.BranchesAndJoins : Prop :=
  (
  ∀ (s : State) (c : Clause), s.cur.clause = some c →
    (∀ f, Issues (.bra f) s c →
      exec (.bra f) s = .next (s.went c s.cur.issuing
        (if ∃ l, l < 32 ∧ s.cur.mask.getLsbD l = true ∧ ((s.cur.rs f.prs.toNat).getLsbD l ^^ f.pneg) = true
         then s.cur.pc + BitVec.ofInt 57 (8 * f.tgt.toInt) else nextHeader s.cur c))) ∧
    (∀ f, Issues (.bri f) s c →
      let hi := (s.cur.rs f.sb.toNat).toNat
      let lo := (s.cur.rs f.sa.toNat).toNat
      (s.cur.widen ≠ none → exec (.bri f) s = .next (s.kill s.who 0x01 (wordPc s.cur c))) ∧
      (s.cur.widen = none → 2 ^ 25 ≤ hi → exec (.bri f) s = .next (s.trap s.who 0x04 0 (wordPc s.cur c) (resumeHere s.cur c))) ∧
      (s.cur.widen = none → hi < 2 ^ 25 → lo % 8 ≠ 0 → exec (.bri f) s = .next (s.trap s.who 0x03 0 (wordPc s.cur c) (resumeHere s.cur c))) ∧
      (s.cur.widen = none → hi < 2 ^ 25 → lo % 8 = 0 → exec (.bri f) s = .next (s.went c s.cur.issuing (BitVec.ofNat 57 (hi * 2 ^ 32 + lo)))))
  ) ∧ (
  ∀ (f : FB) (s : State) (c : Clause), Issues (.brd f) s c → s.cur.widen = none →
    let g := s.cur.issuing
    let l := s.cur.mask
    let cond := if f.pneg then ~~~(s.cur.rs f.prs.toNat) else s.cur.rs f.prs.toNat
    let tgt : VA := s.cur.pc + BitVec.ofInt 57 (8 * f.tgt.toInt)
    let rcv : W64 := (s.cur.pc + BitVec.ofInt 57 (8 * f.rcv.toInt)).setWidth 64
    let here := { s.cur.top with pc := rcv }
    let taken : StackEntry := { pc := tgt.setWidth 64, mask := l &&& cond, rcv := rcv }
    let fall : StackEntry := { pc := (nextHeader s.cur c).setWidth 64, mask := l &&& ~~~(l &&& cond), rcv := rcv }
    let stack := fall :: taken :: here :: s.cur.stack.drop 1
    let d := (s.cur.stack.drop 1).length
    (l &&& cond = 0 → exec (.brd f) s = .next (s.went c g (nextHeader s.cur c))) ∧
    (l &&& cond ≠ 0 → l &&& ~~~cond = 0 → exec (.brd f) s = .next (s.went c g tgt)) ∧
    (l &&& cond ≠ 0 → l &&& ~~~cond ≠ 0 →
      (d + 3 ≤ 32 → exec (.brd f) s = .next (s.went c { g with stack := stack, pathCount := 0 } (nextHeader s.cur c))) ∧
      (32 + lrecSpillN (s.lrecOf s.cur) < d + 3 → exec (.brd f) s = .next (s.kill s.who 0x01 (wordPc s.cur c))) ∧
      (d + 3 ≤ 32 + lrecSpillN (s.lrecOf s.cur) → ∀ s1, (s.setCur g).spillWrites g [(d, here), (d + 1, taken), (d + 2, fall)] = .ok (s1, ()) →
        s1.cur.status = .live → s1.who = s.who →
        exec (.brd f) s = .next (s1.setCur (({ s1.cur with stack := stack, pathCount := 0 } : Group).endClause c (nextHeader s.cur c)))))
  ) ∧ (
  ∀ (s : State) (c : Clause), Issues .join s c → s.cur.widen = none →
    ((s.cur.top.rcv ≠ s.cur.pc.setWidth 64 ∨ s.cur.stack.length ≤ 1) → exec .join s = .next (s.past c s.cur.issuing)) ∧
    (∀ e below rest, s.cur.stack = e :: below :: rest → e.rcv = s.cur.pc.setWidth 64 → rest.length < 32 →
      exec .join s = .next (s.went c { s.cur.issuing with stack := below :: rest, pathCount := 0 } (below.pc.setWidth 57)))
  )

/-- O18. CALL waits at the next clause and goes on at the target under a frame entry with the path's lanes (R119). Stated for stacks on chip; a push beyond 32 + SPILLN entries kills (R32). RET takes the path's lanes out of every entry down to the highest frame entry, pops those that become empty, and goes on at the new top; without a frame entry it kills with ILLEGAL (R120). Stated for stacks on chip, whose base is no frame entry. EXIT removes the lanes whose condition holds (R31, R128): their reservations are cleared, they leave every entry of the stack, entries other than the base that become empty are popped, and the path goes on, or the next one runs, or no lane is left and the group waits to retire. With none it has no effect. Stated for stacks on chip. -/
def Obligations.CallsAndExits : Prop :=
  (
  ∀ (f : FB) (s : State) (c : Clause), Issues (.call f) s c → s.cur.widen = none →
    let here := { s.cur.top with pc := (nextHeader s.cur c).setWidth 64 }
    let frame : StackEntry := { pc := 0, mask := s.cur.mask, rcv := 3 }
    ((s.cur.stack.drop 1).length + 2 ≤ 32 → exec (.call f) s =
      .next (s.went c { s.cur.issuing with stack := frame :: here :: s.cur.stack.drop 1, pathCount := 0 } (s.cur.pc + BitVec.ofInt 57 (8 * f.tgt.toInt)))) ∧
    (32 + lrecSpillN (s.lrecOf s.cur) < (s.cur.stack.drop 1).length + 2 → exec (.call f) s = .next (s.kill s.who 0x01 (wordPc s.cur c)))
  ) ∧ (
  ∀ (s : State) (c : Clause), Issues .ret s c → s.cur.widen = none →
    ((∀ e ∈ s.cur.stack, e.rcv ≠ 3) → exec .ret s = .next (s.kill s.who 0x01 (wordPc s.cur c))) ∧
    (∀ up frame rest, s.cur.stack = up ++ frame :: rest → rest ≠ [] → (∀ e ∈ up, e.rcv ≠ 3) → frame.rcv = 3 → s.cur.stack.length ≤ 32 →
      let kept := ((up ++ [frame]).map fun e => { e with mask := e.mask &&& ~~~s.cur.mask }).filter fun e => e.mask != 0
      exec .ret s = .next (s.went c { s.cur.issuing with stack := kept ++ rest, pathCount := 0 } (((kept ++ rest).headD {}).pc.setWidth 57)))
  ) ∧ (
  ∀ (f : FB) (s : State) (c : Clause), Issues (.exit f) s c → s.cur.widen = none → s.cur.stack.length ≤ 32 →
    let x := s.cur.mask &&& (if f.pneg then ~~~(s.cur.rs f.prs.toNat) else s.cur.rs f.prs.toNat)
    let less := fun (e : StackEntry) => { e with mask := e.mask &&& ~~~x }
    (x = 0 → exec (.exit f) s = .next (s.past c s.cur.issuing)) ∧
    (x ≠ 0 → ∀ rest base, s.cur.stack = rest ++ [base] →
      ∃ t, exec (.exit f) s = .next t ∧ t.cur.exited = s.cur.exited ||| x ∧ t.cur.resv = s.cur.resv.filter (fun p => !x.getLsbD p.1) ∧
        (s.cur.exited ||| x ≠ 0xFFFFFFFF → s.cur.mask &&& ~~~x ≠ 0 →
          t.cur.stack = ((rest.map less).filter fun e => e.mask != 0) ++ [less base] ∧
          (c.idx + 1 < c.words.length → t.cur.clause = some { c with idx := c.idx + 1 } ∧ t.cur.pc = s.cur.pc) ∧
          (c.idx + 1 = c.words.length → t.cur.clause = none ∧ t.cur.pc = nextHeader s.cur c)) ∧
        (s.cur.exited ||| x ≠ 0xFFFFFFFF → s.cur.mask &&& ~~~x = 0 → ∀ top rest', rest = top :: rest' →
          t.cur.stack = ((rest'.map less).filter fun e => e.mask != 0) ++ [less base] ∧ t.cur.clause = none ∧
          t.cur.pc = ((t.cur.stack.headD {}).pc.setWidth 57)) ∧
        (s.cur.exited ||| x = 0xFFFFFFFF → t.cur.clause = none ∧ t.cur.status = .live))
  )

/-- O19. One arrival at a team barrier (R37): a first arrival in a phase is counted, and the phase completes when arrivals and gone groups reach E, whereupon carried arrivals count in the next phase; an arrival of a group that has arrived is carried; a group that already carries one has no further arrival. BAR and BARRIVE (R37, R126, R127): once every earlier access and tile move of the group is performed, the arrival is counted at barrier MOD; after BAR the group waits for its phase, after BARRIVE it goes on, unless it carries an arrival already: then it waits in its clause for the phase to complete. Before that they do not issue, nor in the cycle in which a write of E has completed the phase, since arrivals of that cycle come first (R60; the waiting at the word is the model's choice, assumption logs 16 and 36); with no lane on the path they do nothing. -/
def Obligations.TeamBarriers : Prop :=
  (
  ∀ (b : Barrier) (gid : Nat),
    (gid ∉ b.arr → b.arr.length + 1 + b.gone.length < b.e →
      b.arrive gid = some ({ b with arr := ninsert b.arr gid }, b.phases + 1)) ∧
    (gid ∉ b.arr → b.e ≤ b.arr.length + 1 + b.gone.length → b.carried = [] →
      b.arrive gid = some ({ b with arr := [], phases := b.phases + 1 }, b.phases + 1)) ∧
    (gid ∉ b.arr → b.e ≤ b.arr.length + 1 + b.gone.length → b.carried ≠ [] → b.carried.length + b.gone.length < b.e →
      b.arrive gid = some ({ b with arr := b.carried, carried := [], phases := b.phases + 1 }, b.phases + 1)) ∧
    (gid ∈ b.arr → gid ∉ b.carried → b.arr.length + b.gone.length < b.e →
      b.arrive gid = some ({ b with carried := ninsert b.carried gid }, b.phases + 2)) ∧
    (gid ∈ b.arr → gid ∈ b.carried → b.arrive gid = none)
  ) ∧ (
  ∀ (f : FS) (s : State) (c : Clause),
    let g := s.cur
    let t := s.teamOf g
    let n := f.mod.toNat
    let held := s.stays { g with wait := .none }
    let after := tget t.barDone n = some (s.cycle, true)
    let noted := fun (b : Barrier) => if (t.bar n).phases = b.phases then t.barDone else tset t.barDone n (s.cycle, false)
    (Issues (.bar f) s c →
      (g.mask = 0 → exec (.bar f) s = .next (s.past c g.issuing)) ∧
      (g.mask ≠ 0 → g.unperformed = true → g.faultParked = false → exec (.bar f) s = .next held) ∧
      (g.mask ≠ 0 → g.unperformed = false → after → exec (.bar f) s = .next held) ∧
      (g.mask ≠ 0 → g.unperformed = false → ¬ after → ∀ b u, (t.bar n).arrive g.gid = some (b, u) →
        exec (.bar f) s = .next ((s.setTeam g.team { t with bars := tset t.bars n b, barDone := noted b }).past c { g.issuing with wait := .bar n u })) ∧
      (g.mask ≠ 0 → g.unperformed = false → ¬ after → (t.bar n).arrive g.gid = none →
        exec (.bar f) s = .next (s.past c { g.issuing with wait := .barCarry n ((t.bar n).phases + 1) }))) ∧
    (Issues (.barrive f) s c →
      (g.mask = 0 → exec (.barrive f) s = .next (s.past c g.issuing)) ∧
      (g.mask ≠ 0 → g.unperformed = true → g.faultParked = false → exec (.barrive f) s = .next held) ∧
      (g.mask ≠ 0 → g.unperformed = false → after → exec (.barrive f) s = .next held) ∧
      (g.mask ≠ 0 → g.unperformed = false → ¬ after → ∀ b u, (t.bar n).arrive g.gid = some (b, u) →
        exec (.barrive f) s = .next ((s.setTeam g.team { t with bars := tset t.bars n b, barDone := noted b }).past c g.issuing)) ∧
      (g.mask ≠ 0 → g.unperformed = false → ¬ after → (t.bar n).arrive g.gid = none →
        exec (.barrive f) s = .next (s.stays { g with wait := .barCarry n ((t.bar n).phases + 1) })))
  )

/-- O20. A per-lane write (R133, R49): lanes of the set receive their value and lose their poison, every other lane of the register and every other vector register keep value and poison; all else of the group is as before: the scalar and scale registers with their poison, tiles, accumulators, flags, stack, mode and PC among it. -/
def Obligations.LaneWrites : Prop :=
  ∀ (g : Group) (n : Nat) (m : Lanes) (x : Nat → W32) (k l : Nat), l < 32 →
    (g.wv n m x).rl k l = (if k = n ∧ m.getLsbD l = true then x l else g.rl k l) ∧
    ((g.wv n m x).rvp k).getLsbD l = (if k = n ∧ m.getLsbD l = true then false else (g.rvp k).getLsbD l) ∧
    (∀ j, (g.wv n m x).rs j = g.rs j ∧ (g.wv n m x).rx j = g.rx j ∧ (g.wv n m x).rxp j = g.rxp j ∧ (g.wv n m x).sPoison j = g.sPoison j ∧
      (g.wv n m x).tile j = g.tile j ∧ (g.wv n m x).tilePoison j = g.tilePoison j ∧ (g.wv n m x).accPoison j = g.accPoison j) ∧
    (g.wv n m x).mask = g.mask ∧ g.wv n m x = { g with v := (g.wv n m x).v, vp := (g.wv n m x).vp }

/-- O21. The integer and packed vector words (R134, R135, R138): each lane of ACTIVE of v[VD] receives, element by element, the operation on the exact values of the elements of VA, of VB, a scalar register or the immediate, and of VC, clamped under SAT and else wrapped to the element. The untyped vector words (R137, R138, R144, R152): each lane of ACTIVE of v[VD] receives the operation on whole lanes; VBFI merges into its destination. What an integer word puts in each element (R134, R138): element q of the result is the low w bits of the exact result, or of that result clamped to the range of TY. Shifts of one element (R138): left and logical right give 0 from the width on, arithmetic right the copies of the sign; the distance is read as unsigned. -/
def Obligations.IntegerVector : Prop :=
  (
  ∀ (s : State) (c : Clause),
    let b := fun (f : FV) (l : Nat) => if f.bs then s.cur.rs f.vb.toNat else s.cur.rl f.vb.toNat l
    let d := fun (f : FV) (l : Nat) => if f.cs then s.cur.rs f.vc.toNat else s.cur.rl f.vc.toNat l
    let vv := fun (i : Instr) (f : FV) (op : Int → Int → Int → Int) => (Host.Outcome.next (s.past c (s.vecOut i f.vd fun l =>
      intLane f.ty f.sat op (s.cur.rl f.va.toNat l) (b f l) (d f l))) : Host.Outcome State Fault Refusal)
    let vi := fun (i : Instr) (f : FVI) (op : Int → Int → Int) => (Host.Outcome.next (s.past c (s.vecOut i f.vd fun l =>
      intLane f.ty false (fun x y _ => op x y) (s.cur.rl f.va.toNat l) (immLane f.ty f.imm) 0)) : Host.Outcome State Fault Refusal)
    (∀ f, Issues (.vadd f) s c → exec (.vadd f) s = vv (.vadd f) f (fun x y _ => x + y)) ∧
    (∀ f, Issues (.vaddImm f) s c → exec (.vaddImm f) s = vi (.vaddImm f) f (fun x y => x + y)) ∧
    (∀ f, Issues (.vsub f) s c → exec (.vsub f) s = vv (.vsub f) f (fun x y _ => x - y)) ∧
    (∀ f, Issues (.vsubImm f) s c → exec (.vsubImm f) s = vi (.vsubImm f) f (fun x y => x - y)) ∧
    (∀ f, Issues (.vmul f) s c → exec (.vmul f) s = vv (.vmul f) f (fun x y _ => if f.mod.getLsbD 0 then x * y / 2 ^ tyBits f.ty else x * y)) ∧
    (∀ f, Issues (.vmulImm f) s c → exec (.vmulImm f) s = vi (.vmulImm f) f (fun x y => if f.mod.getLsbD 0 then x * y / 2 ^ tyBits f.ty else x * y)) ∧
    (∀ f, Issues (.vmad f) s c → exec (.vmad f) s = vv (.vmad f) f (fun x y z => x * y + z)) ∧
    (∀ f, Issues (.vmin f) s c → exec (.vmin f) s = vv (.vmin f) f (fun x y _ => if y < x then y else x)) ∧
    (∀ f, Issues (.vminImm f) s c → exec (.vminImm f) s = vi (.vminImm f) f (fun x y => if y < x then y else x)) ∧
    (∀ f, Issues (.vmax f) s c → exec (.vmax f) s = vv (.vmax f) f (fun x y _ => if x < y then y else x)) ∧
    (∀ f, Issues (.vmaxImm f) s c → exec (.vmaxImm f) s = vi (.vmaxImm f) f (fun x y => if x < y then y else x)) ∧
    (∀ f, Issues (.vabs f) s c → exec (.vabs f) s = vv (.vabs f) f (fun x _ _ => if x < 0 then -x else x)) ∧
    (∀ f, Issues (.vshl f) s c → exec (.vshl f) s = vv (.vshl f) f (fun x y _ => shlOp f.ty x y)) ∧
    (∀ f, Issues (.vshlImm f) s c → exec (.vshlImm f) s = vi (.vshlImm f) f (fun x y => shlOp f.ty x y)) ∧
    (∀ f, Issues (.vshr f) s c → exec (.vshr f) s = vv (.vshr f) f (fun x y _ => shrOp f.ty x y)) ∧
    (∀ f, Issues (.vshrImm f) s c → exec (.vshrImm f) s = vi (.vshrImm f) f (fun x y => shrOp f.ty x y)) ∧
    (∀ f, Issues (.vsar f) s c → exec (.vsar f) s = vv (.vsar f) f (fun x y _ => sarOp f.ty x y)) ∧
    (∀ f, Issues (.vsarImm f) s c → exec (.vsarImm f) s = vi (.vsarImm f) f (fun x y => sarOp f.ty x y))
  ) ∧ (
  ∀ (s : State) (c : Clause),
    let a := fun (f : FV) (l : Nat) => s.cur.rl f.va.toNat l
    let b := fun (f : FV) (l : Nat) => if f.bs then s.cur.rs f.vb.toNat else s.cur.rl f.vb.toNat l
    let d := fun (f : FV) (l : Nat) => if f.cs then s.cur.rs f.vc.toNat else s.cur.rl f.vc.toNat l
    let out := fun (i : Instr) (vd : BitVec 8) (r : Nat → W32) => (Host.Outcome.next (s.past c (s.vecOut i vd r)) : Host.Outcome State Fault Refusal)
    let imm := fun (f : FVI) => f.imm.signExtend 32
    let field := fun (sx : Bool) (x y z : W32) =>
      let w := min z.toNat (32 - y.toNat)
      let v := x.toNat / 2 ^ y.toNat % 2 ^ w
      if z.toNat = 0 ∨ 32 ≤ y.toNat then (0 : W32) else if sx && v.testBit (w - 1) then BitVec.ofNat 32 (v + (2 ^ 32 - 2 ^ w)) else BitVec.ofNat 32 v
    (∀ f, Issues (.vand f) s c → exec (.vand f) s = out (.vand f) f.vd fun l => a f l &&& b f l) ∧
    (∀ f, Issues (.vandImm f) s c → exec (.vandImm f) s = out (.vandImm f) f.vd fun l => s.cur.rl f.va.toNat l &&& imm f) ∧
    (∀ f, Issues (.vor f) s c → exec (.vor f) s = out (.vor f) f.vd fun l => a f l ||| b f l) ∧
    (∀ f, Issues (.vorImm f) s c → exec (.vorImm f) s = out (.vorImm f) f.vd fun l => s.cur.rl f.va.toNat l ||| imm f) ∧
    (∀ f, Issues (.vxor f) s c → exec (.vxor f) s = out (.vxor f) f.vd fun l => a f l ^^^ b f l) ∧
    (∀ f, Issues (.vxorImm f) s c → exec (.vxorImm f) s = out (.vxorImm f) f.vd fun l => s.cur.rl f.va.toNat l ^^^ imm f) ∧
    (∀ f, Issues (.vnot f) s c → exec (.vnot f) s = out (.vnot f) f.vd fun l => ~~~(a f l)) ∧
    (∀ f, Issues (.vbfx f) s c → exec (.vbfx f) s = out (.vbfx f) f.vd fun l => field (f.mod.getLsbD 0) (a f l) (b f l) (d f l)) ∧
    (∀ f, Issues (.vpopc f) s c → exec (.vpopc f) s = out (.vpopc f) f.vd fun l => BitVec.ofNat 32 ((List.range 32).countP fun k => (a f l).getLsbD k)) ∧
    (∀ f, Issues (.vclz f) s c → exec (.vclz f) s = out (.vclz f) f.vd fun l => BitVec.ofNat 32 (clz32 (a f l))) ∧
    (∀ f, Issues (.vmov f) s c → exec (.vmov f) s = out (.vmov f) f.vd fun l => if f.bs then s.cur.rs f.vb.toNat else a f l) ∧
    (∀ f, Issues (.vbfn3 f) s c → ∃ r : Nat → W32, exec (.vbfn3 f) s = out (.vbfn3 f) f.vd r ∧
      ∀ l, l < 32 → ∀ k, k < 32 → (r l).getLsbD k = (if (d f l).getLsbD k then f.ty else f.mod).getLsbD (2 * ((a f l).getLsbD k).toNat + ((b f l).getLsbD k).toNat)) ∧
    (∀ f, Issues (.vbfi f) s c → ∃ r : Nat → W32, exec (.vbfi f) s = out (.vbfi f) f.vd r ∧
      ∀ l, l < 32 → ∀ k, k < 32 → (r l).getLsbD k =
        (let p := (b f l).toNat
         let n := min (d f l).toNat (32 - p)
         if p ≤ k ∧ k < p + n then (a f l).getLsbD (k - p) else (s.cur.rl f.vd.toNat l).getLsbD k)) ∧
    (∀ f, Issues (.vsel f) s c → exec (.vsel f) s = out (.vsel f) f.vd fun l =>
      if f.cs then (if (s.cur.rs f.vc.toNat).getLsbD l then a f l else b f l)
      else (a f l &&& s.cur.rl f.vc.toNat l) ||| (b f l &&& ~~~(s.cur.rl f.vc.toNat l)))
  ) ∧ (
  ∀ (ty : BitVec 4) (sat : Bool) (op : Int → Int → Int → Int) (a b c : W32) (q : Nat), ty.toNat ∈ [0, 1, 2, 4, 5, 6] → q < 32 / tyBits ty →
    let w := tyBits ty
    let lo : Int := if ty.toNat < 4 then -(2 ^ (w - 1)) else 0
    let hi : Int := if ty.toNat < 4 then 2 ^ (w - 1) - 1 else 2 ^ w - 1
    let e := fun (x : W32) => if ty.toNat < 4 then (x.extractLsb' (w * q) w).toInt else ((x.extractLsb' (w * q) w).toNat : Int)
    let r := op (e a) (e b) (e c)
    (intLane ty sat op a b c).extractLsb' (w * q) w = BitVec.ofInt w (if sat then (if r < lo then lo else if hi < r then hi else r) else r)
  ) ∧ (
  ∀ (ty : BitVec 4) (a b : Int), ty.toNat ∈ [0, 1, 2, 4, 5, 6] →
    let w := tyBits ty
    let n := (BitVec.ofInt w b).toNat
    let x := BitVec.ofInt w a
    BitVec.ofInt w (shlOp ty a b) = (if n < w then x <<< n else 0) ∧
    BitVec.ofInt w (shrOp ty a b) = (if n < w then x >>> n else 0) ∧
    BitVec.ofInt w (sarOp ty a b) = x.sshiftRight (min n (w - 1))
  )

/-- O22. The floating vector words (R135, R139, R140, R141): each element of each lane of ACTIVE of v[VD] receives the operation on the encodings of TY under RM and FTZ; the immediate is the FP32 value of R93. What the floating operations compute, for f32, f16 and bf16 (R66, R67, R140, R141): of finite operands the exact sum, difference, product or fused product and sum, rounded once, an exact zero sum with the sign of IEEE 754; the results of infinities and NaNs; the smaller and the larger operand, −0 below +0, and the other one beside a NaN; an integral value in each mode; the special results of the table; and 1/x, √x and 1/√x as quotients and roots to 64 bits and more, with the remark whether they are exact, rounded once. VCMP and VFCMP (R142, R143): bit l of s[VD] becomes 1 or 0 for each lane of ACTIVE as the condition holds, every other bit keeps its value, and a write to s0 is discarded. The conditions of VCMP compare signed or unsigned as TY says; VFCMP compares FP32 values: a NaN is unordered with everything, a denormal reads as zero under FTZ, −0 equals +0, and else the sign and the magnitude order them. -/
def Obligations.FloatingVector : Prop :=
  (
  ∀ (s : State) (c : Clause),
    let z := s.cur.gctl.getLsbD 1
    let b := fun (f : FV) (l : Nat) => if f.bs then s.cur.rs f.vb.toNat else s.cur.rl f.vb.toNat l
    let d := fun (f : FV) (l : Nat) => if f.cs then s.cur.rs f.vc.toNat else s.cur.rl f.vc.toNat l
    let out := fun (i : Instr) (f : FV) (op : Fmt → RMode → Nat → Nat → Nat → Nat) => (Host.Outcome.next (s.past c (s.vecOut i f.vd fun l =>
      fpLane f.ty (op (fmtOf f.ty) (rmOf f.rm)) (s.cur.rl f.va.toNat l) (b f l) (d f l))) : Host.Outcome State Fault Refusal)
    let imm := fun (i : Instr) (f : FVI) (op : Fmt → Nat → Nat → Nat) => (Host.Outcome.next (s.past c (s.vecOut i f.vd fun l =>
      fpLane f.ty (fun x y _ => op (fmtOf f.ty) x y) (s.cur.rl f.va.toNat l) (fpImmLane f.ty f.imm) 0)) : Host.Outcome State Fault Refusal)
    (∀ f, Issues (.vfadd f) s c → exec (.vfadd f) s = out (.vfadd f) f (fun m r x y _ => m.add z r x y)) ∧
    (∀ f, Issues (.vfaddImm f) s c → exec (.vfaddImm f) s = imm (.vfaddImm f) f (fun m x y => m.add z .rne x y)) ∧
    (∀ f, Issues (.vfsub f) s c → exec (.vfsub f) s = out (.vfsub f) f (fun m r x y _ => m.sub z r x y)) ∧
    (∀ f, Issues (.vfsubImm f) s c → exec (.vfsubImm f) s = imm (.vfsubImm f) f (fun m x y => m.sub z .rne x y)) ∧
    (∀ f, Issues (.vfmul f) s c → exec (.vfmul f) s = out (.vfmul f) f (fun m r x y _ => m.mul z r x y)) ∧
    (∀ f, Issues (.vfmulImm f) s c → exec (.vfmulImm f) s = imm (.vfmulImm f) f (fun m x y => m.mul z .rne x y)) ∧
    (∀ f, Issues (.vfma f) s c → exec (.vfma f) s = out (.vfma f) f (fun m r x y w => m.fma z r x y w)) ∧
    (∀ f, Issues (.vfmin f) s c → exec (.vfmin f) s = out (.vfmin f) f (fun m _ x y _ => m.minmax z false x y)) ∧
    (∀ f, Issues (.vfminImm f) s c → exec (.vfminImm f) s = imm (.vfminImm f) f (fun m x y => m.minmax z false x y)) ∧
    (∀ f, Issues (.vfmax f) s c → exec (.vfmax f) s = out (.vfmax f) f (fun m _ x y _ => m.minmax z true x y)) ∧
    (∀ f, Issues (.vfmaxImm f) s c → exec (.vfmaxImm f) s = imm (.vfmaxImm f) f (fun m x y => m.minmax z true x y)) ∧
    (∀ f, Issues (.vfrnd f) s c → exec (.vfrnd f) s = out (.vfrnd f) f (fun m r x _ _ => m.rnd z r x)) ∧
    (∀ f, Issues (.vfrcp f) s c → exec (.vfrcp f) s = out (.vfrcp f) f (fun m r x _ _ => m.trans z r .rcp x)) ∧
    (∀ f, Issues (.vfrsq f) s c → exec (.vfrsq f) s = out (.vfrsq f) f (fun m r x _ _ => m.trans z r .rsq x)) ∧
    (∀ f, Issues (.vfsqrt f) s c → exec (.vfsqrt f) s = out (.vfsqrt f) f (fun m r x _ _ => m.trans z r .sqrt x)) ∧
    (∀ f, Issues (.vfexp2 f) s c → exec (.vfexp2 f) s = out (.vfexp2 f) f (fun m r x _ _ => m.trans z r .exp2 x)) ∧
    (∀ f, Issues (.vflog2 f) s c → exec (.vflog2 f) s = out (.vflog2 f) f (fun m r x _ _ => m.trans z r .log2 x)) ∧
    (∀ f, Issues (.vftrig f) s c → exec (.vftrig f) s = out (.vftrig f) f (fun m r x _ _ => m.trans z r (if f.mod.getLsbD 0 then .cos else .sin) x)) ∧
    (∀ f, Issues (.vftanh f) s c → exec (.vftanh f) s = out (.vftanh f) f (fun m r x _ _ => m.trans z r .tanh x))
  ) ∧ (
  ∀ (ty : BitVec 4) (z : Bool) (r : RMode) (a b c : Nat), 8 ≤ ty.toNat → ty.toNat ≤ 10 →
    let f := fmtOf ty
    let fa := f.flush z a
    let fb := f.flush z b
    let x := f.decode fa
    let y := f.decode fb
    let w := f.decode (f.flush z c)
    let once := fun (neg : Bool) (m : Nat) (e : Int) => f.flush z (cvt (.fin neg m e) f r false).1
    let inf := fun (neg : Bool) => f.signed neg f.infEnc
    let zero := fun (neg : Bool) => f.signed neg 0
    let nan := f.nanEnc
    let sum := fun (n1 : Bool) (m1 : Nat) (e1 : Int) (n2 : Bool) (m2 : Nat) (e2 : Int) =>
      ((if n1 then -1 else 1 : Int) * (m1 * 2 ^ (e1 - min e1 e2).toNat : Nat) + (if n2 then -1 else 1 : Int) * (m2 * 2 ^ (e2 - min e1 e2).toNat : Nat) : Int)
    let added := fun (n1 : Bool) (m1 : Nat) (e1 : Int) (n2 : Bool) (m2 : Nat) (e2 : Int) (res : Nat) =>
      let d := sum n1 m1 e1 n2 m2 e2
      (d ≠ 0 → res = once (decide (d < 0)) d.natAbs (min e1 e2)) ∧ (d = 0 → n1 = n2 → res = zero n1) ∧ (d = 0 → n1 ≠ n2 → res = zero (r == .rdn))
    let tr := f.trans z r
    (∀ n1 m1 e1 n2 m2 e2, x = .fin n1 m1 e1 → y = .fin n2 m2 e2 →
      added n1 m1 e1 n2 m2 e2 (f.add z r a b) ∧ added n1 m1 e1 (!n2) m2 e2 (f.sub z r a b) ∧ f.mul z r a b = once (n1 != n2) (m1 * m2) (e1 + e2) ∧
      (∀ n3 m3 e3, w = .fin n3 m3 e3 → added (n1 != n2) (m1 * m2) (e1 + e2) n3 m3 e3 (f.fma z r a b c)) ∧
      (let d := sum n1 m1 e1 (!n2) m2 e2
       a < 2 ^ f.bits → b < 2 ^ f.bits →
       (d < 0 → f.minmax z false a b = fa ∧ f.minmax z true a b = fb) ∧
       (0 < d ∨ (d = 0 ∧ m1 ≠ 0) → f.minmax z false a b = fb ∧ f.minmax z true a b = fa) ∧
       (m1 = 0 → m2 = 0 → f.minmax z false a b = zero (n1 || n2) ∧ f.minmax z true a b = zero (n1 && n2)))) ∧
    (x = .nan ∨ y = .nan → f.add z r a b = nan ∧ f.sub z r a b = nan ∧ f.mul z r a b = nan ∧ f.fma z r a b c = nan) ∧
    (w = .nan → f.fma z r a b c = nan) ∧
    (∀ mx, a < 2 ^ f.bits → b < 2 ^ f.bits → (x = .nan → y = .nan → f.minmax z mx a b = nan) ∧ (x = .nan → y ≠ .nan → f.minmax z mx a b = fb) ∧
      (x ≠ .nan → y = .nan → f.minmax z mx a b = fa)) ∧
    (∀ p n m e, x = .inf p → y = .fin n m e → f.add z r a b = inf p ∧ f.sub z r a b = inf p ∧ f.mul z r a b = (if m = 0 then nan else inf (p != n))) ∧
    (∀ p n m e, x = .fin n m e → y = .inf p → f.add z r a b = inf p ∧ f.sub z r a b = inf (!p) ∧ f.mul z r a b = (if m = 0 then nan else inf (n != p))) ∧
    (∀ p q, x = .inf p → y = .inf q → f.add z r a b = (if p = q then inf p else nan) ∧ f.sub z r a b = (if p = q then nan else inf p) ∧ f.mul z r a b = inf (p != q)) ∧
    (∀ p q n m e, (x = .inf p ∧ (y = .inf q ∨ (y = .fin q m e ∧ m ≠ 0))) ∨ (y = .inf q ∧ x = .fin p m e ∧ m ≠ 0) →
      ((∃ k h, w = .fin n k h) → f.fma z r a b c = inf (p != q)) ∧ (w = .inf n → f.fma z r a b c = if n = (p != q) then inf n else nan)) ∧
    (∀ p n m e, (x = .inf p ∧ y = .fin n m e) ∨ (y = .inf p ∧ x = .fin n m e) → m = 0 → f.fma z r a b c = nan) ∧
    (∀ p n1 m1 e1 n2 m2 e2, x = .fin n1 m1 e1 → y = .fin n2 m2 e2 → w = .inf p → f.fma z r a b c = inf p) ∧
    (∀ p, a < 2 ^ f.bits → b < 2 ^ f.bits →
      (x = .inf p → y ≠ .nan → f.minmax z (!p) a b = inf p ∧ f.minmax z p a b = fb) ∧ (y = .inf p → x ≠ .nan → f.minmax z (!p) a b = inf p ∧ f.minmax z p a b = fa)) ∧
    (∀ n m e, x = .fin n m e → a < 2 ^ f.bits →
      (0 ≤ e → f.rnd z r a = fa) ∧
      (e < 0 → let d := 2 ^ (-e).toNat
        ∃ k : Nat, f.rnd z r a = once n k 0 ∧ (r = .rtz → k = m / d) ∧ (r = .rdn → k = if n then (m + d - 1) / d else m / d) ∧
          (r = .rup → k = if n then m / d else (m + d - 1) / d) ∧
          (r = .rne → 2 * (k * d) ≤ 2 * m + d ∧ 2 * m ≤ 2 * (k * d) + d ∧ (2 * m = 2 * (k * d) + d ∨ 2 * m + d = 2 * (k * d) → k % 2 = 0)))) ∧
    (∀ n, x = .inf n → f.rnd z r a = inf n ∧ tr .rcp a = zero n ∧ tr .sin a = nan ∧ tr .cos a = nan ∧ tr .tanh a = once n 1 0 ∧
      (n = false → tr .rsq a = zero false ∧ tr .sqrt a = inf false ∧ tr .exp2 a = inf false ∧ tr .log2 a = inf false) ∧
      (n = true → tr .rsq a = nan ∧ tr .sqrt a = nan ∧ tr .exp2 a = zero false ∧ tr .log2 a = nan)) ∧
    (x = .nan → f.rnd z r a = nan ∧ ∀ t, tr t a = nan) ∧
    (∀ n e, x = .fin n 0 e → tr .rcp a = inf n ∧ tr .rsq a = inf n ∧ tr .sqrt a = zero n ∧ tr .exp2 a = once false 1 0 ∧ tr .log2 a = inf true ∧
      tr .sin a = zero n ∧ tr .cos a = once false 1 0 ∧ tr .tanh a = zero n) ∧
    (∀ m e, x = .fin true m e → m ≠ 0 → tr .rsq a = nan ∧ tr .sqrt a = nan ∧ tr .log2 a = nan) ∧
    (∀ (k : Nat) e, x = .fin false (2 ^ k) e → tr .log2 a = once (decide (e + k < 0)) (e + k).natAbs 0) ∧
    (∀ n m e, x = .fin n m e → m ≠ 0 → (0 ≤ e ∨ m % 2 ^ (-e).toNat = 0) → tr .sin a = zero n) ∧
    (∀ n m e, x = .fin n m e → e < 0 → 2 * m % 2 ^ (-e).toNat = 0 → 2 * m / 2 ^ (-e).toNat % 2 = 1 → tr .cos a = zero false) ∧
    (let rounded := fun (t : Trans) (neg : Bool) (q : Nat) (h : Int) (exact : Prop) =>
       ∃ sticky : Bool, tr t a = f.flush z (f.finish r false neg q h sticky).1 ∧ (sticky = false ↔ exact) ∧ 2 ^ 64 ≤ q
     (∀ n m e, x = .fin n m e → m ≠ 0 → ∃ (q k : Nat), rounded .rcp n q (-e - (k : Int)) (q * m = 2 ^ k) ∧ q * m ≤ 2 ^ k ∧ 2 ^ k < (q + 1) * m) ∧
     (∀ m e, x = .fin false m e → m ≠ 0 → ∃ (q : Nat) (h : Int) (d : Nat), rounded .sqrt false q h (q * q = m * 2 ^ d) ∧ e - 2 * h = (d : Int) ∧ q * q ≤ m * 2 ^ d ∧ m * 2 ^ d < (q + 1) * (q + 1)) ∧
     (∀ m e, x = .fin false m e → m ≠ 0 → ∃ (q : Nat) (h : Int) (d : Nat), rounded .rsq false q h (q * q * m = 2 ^ d) ∧ - e - 2 * h = (d : Int) ∧ q * q * m ≤ 2 ^ d ∧ 2 ^ d < (q + 1) * (q + 1) * m))
  ) ∧ (
  ∀ (s : State) (c : Clause),
    let b := fun (f : FV) (l : Nat) => if f.bs then s.cur.rs f.vb.toNat else s.cur.rl f.vb.toNat l
    let cond := fun (m : BitVec 4) (ty : BitVec 4) (x y : W32) =>
      let p : Int := if ty.toNat < 4 then x.toInt else x.toNat
      let q : Int := if ty.toNat < 4 then y.toInt else y.toNat
      (m.toNat % 8 = 0 ∧ p = q) ∨ (m.toNat % 8 = 1 ∧ p ≠ q) ∨ (m.toNat % 8 = 2 ∧ p < q) ∨ (m.toNat % 8 = 3 ∧ p ≥ q) ∨ (m.toNat % 8 = 4 ∧ p ≤ q) ∨ (m.toNat % 8 = 5 ∧ p > q)
    let fcond := fun (m : BitVec 4) (x y : W32) =>
      let mag := fun (w : W32) => let n := (w.extractLsb' 0 31).toNat; if s.cur.gctl.getLsbD 1 = true ∧ n < 2 ^ 23 then 0 else n
      let p : Int := if x.getLsbD 31 then -(mag x : Int) else mag x
      let q : Int := if y.getLsbD 31 then -(mag y : Int) else mag y
      let un := 0x7F800000 < mag x ∨ 0x7F800000 < mag y
      (m.toNat % 8 = 0 ∧ ¬ un ∧ p = q) ∨ (m.toNat % 8 = 1 ∧ (un ∨ p ≠ q)) ∨ (m.toNat % 8 = 2 ∧ ¬ un ∧ p < q) ∨ (m.toNat % 8 = 3 ∧ ¬ un ∧ p ≥ q) ∨
      (m.toNat % 8 = 4 ∧ ¬ un ∧ p ≤ q) ∨ (m.toNat % 8 = 5 ∧ ¬ un ∧ p > q) ∨ (m.toNat % 8 = 6 ∧ un) ∨ (m.toNat % 8 = 7 ∧ ¬ un)
    let merged := fun (i : Instr) (vd : BitVec 8) (h : Nat → Prop) => ∃ m : W32, exec i s = .next (s.past c (s.onceOut i (s.cur.issuing.ws vd.toNat m))) ∧
      ∀ l, l < 32 → ((s.activeOf i).getLsbD l = false → m.getLsbD l = (s.cur.rs vd.toNat).getLsbD l) ∧ ((s.activeOf i).getLsbD l = true → (m.getLsbD l = true ↔ h l))
    (∀ f, Issues (.vcmp f) s c → merged (.vcmp f) f.vd fun l => cond f.mod f.ty (s.cur.rl f.va.toNat l) (b f l)) ∧
    (∀ f, Issues (.vcmpImm f) s c → merged (.vcmpImm f) f.vd fun l => cond f.mod f.ty (s.cur.rl f.va.toNat l) (f.imm.signExtend 32)) ∧
    (∀ f, Issues (.vfcmp f) s c → merged (.vfcmp f) f.vd fun l => fcond f.mod (s.cur.rl f.va.toNat l) (b f l)) ∧
    (∀ f, Issues (.vfcmpImm f) s c → merged (.vfcmpImm f) f.vd fun l => fcond f.mod (s.cur.rl f.va.toNat l) (f.imm ++ (0 : Byte)))
  )

/-- O23. The lane operations (R151 to R153, R156): VMOVI, VBCAST, VLANE, VSHFL and VRAND write each lane of ACTIVE as their tables say; VRAND advances the call counter whatever ACTIVE holds (R81, R133). VSCAN and VREDUCE (R155): the fold over the lanes of ACTIVE in ascending order, one step a lane; a single lane gives its value unchanged; the inclusive scan of the highest active lane is the reduction. The types are i32 and n32, or f32 for `.fadd`; what each step computes, and the value of an empty fold, which the first lane of an exclusive scan receives, are those of the table. -/
def Obligations.LanesAndScans : Prop :=
  (
  ∀ (s : State) (c : Clause),
    let out := fun (i : Instr) (vd : BitVec 8) (r : Nat → W32) => (Host.Outcome.next (s.past c (s.vecOut i vd r)) : Host.Outcome State Fault Refusal)
    let gtid := fun (l : Nat) => BitVec.ofNat 32 (1024 * (s.teamOf s.cur).linear) + lane s.cur.tids l
    (∀ f, Issues (.vmovi f) s c → exec (.vmovi f) s = out (.vmovi f) f.vd fun _ => if f.ty.toNat < 8 then immLane f.ty f.imm else
      packElems (tyBits f.ty) fun q => (fmtOf f.ty).flush s.cur.ftz (elem (fpImmLane f.ty f.imm) (tyBits f.ty) q)) ∧
    (∀ f, Issues (.vbcast f) s c → ∀ k, k < 32 → (s.activeOf (.vbcast f)).getLsbD k = true → (∀ j, j < k → (s.activeOf (.vbcast f)).getLsbD j = false) →
      exec (.vbcast f) s = out (.vbcast f) f.vd fun _ => s.cur.rl f.va.toNat k) ∧
    (∀ f, Issues (.vbcast f) s c → s.activeOf (.vbcast f) = 0 → exec (.vbcast f) s = .next (s.past c s.cur.issuing)) ∧
    (∀ f, Issues (.vlane f) s c → exec (.vlane f) s = out (.vlane f) f.vd fun l =>
      if f.mod = 0 then BitVec.ofNat 32 l else if f.mod = 1 then lane s.cur.tids l else if f.mod = 2 then gtid l
      else if f.mod = 3 then BitVec.ofNat 32 (2 ^ l - 1) else s.activeOf (.vlane f)) ∧
    (∀ f, Issues (.vshfl f) s c →  exec (.vshfl f) s = out (.vshfl f) f.vd fun l =>
      let size := 32 / 2 ^ (f.mod.toNat / 4)
      let base := l / size * size
      let d := (if f.bs then s.cur.rs f.vb.toNat else s.cur.rl f.vb.toNat l).toNat
      let src : Int := if f.mod.toNat % 4 = 0 then base + d % size else if f.mod.toNat % 4 = 1 then (l : Int) - d else if f.mod.toNat % 4 = 2 then l + d else ((l ^^^ d : Nat) : Int)
      if src < base ∨ (base : Int) + size ≤ src then s.cur.rl f.va.toNat l
      else if s.cur.exited.getLsbD src.toNat then 0 else s.cur.rl f.va.toNat src.toNat) ∧
    (∀ f, Issues (.vrand f) s c → exec (.vrand f) s = .next (s.past c
      (if s.activeOf (.vrand f) = 0 then { s.cur.issuing with calls := s.cur.calls + 1 }
       else { s.cur.issuing.wv f.vd.toNat (s.activeOf (.vrand f)) (fun l =>
                let r := randWord (s.cur.seed.getD (s.ctxOf s.cur).rngseed) (gtid l) s.cur.calls (s.task (s.teamOf s.cur).task).launchId 0
                if f.mod = 0 then r else BitVec.ofNat 32 (cvt (.fin false (r.toNat / 256) (-24)) fmtF32 .rne false).1) with calls := s.cur.calls + 1 })))
  ) ∧ (
  ∀ (s : State) (c : Clause),
    (∀ f, Issues (.vscan f) s c → exec (.vscan f) s = .next (s.past c (s.vecOut (.vscan f) f.vd fun l =>
      foldLanes f (s.cur.gctl.getLsbD 1) (((List.range 32).filter fun m => (s.activeOf (.vscan f)).getLsbD m && (if f.mod.getLsbD 3 then decide (m < l) else decide (m ≤ l))).map
        (s.cur.rl f.va.toNat))))) ∧
    (∀ f, Issues (.vreduce f) s c → exec (.vreduce f) s = .next (s.past c (s.onceOut (.vreduce f) (s.cur.issuing.ws f.vd.toNat
      (foldLanes f (s.cur.gctl.getLsbD 1) (((List.range 32).filter fun m => (s.activeOf (.vreduce f)).getLsbD m).map (s.cur.rl f.va.toNat))))))) ∧
    (∀ (f : FV) (z : Bool) (x y : W32) (l : List W32), foldLanes f z [x] = x ∧ foldLanes f z (x :: l ++ [y]) = foldStep f z (foldLanes f z (x :: l)) y) ∧
    (∀ (f : FV) (z : Bool) (x y : W32),
      (f.mod.toNat % 8 = 0 → f.sat = false → (f.ty = 2 ∨ f.ty = 6) → foldStep f z x y = x + y) ∧
      (f.mod.toNat % 8 = 3 → foldStep f z x y = x &&& y) ∧ (f.mod.toNat % 8 = 4 → foldStep f z x y = x ||| y) ∧ (f.mod.toNat % 8 = 5 → foldStep f z x y = x ^^^ y) ∧
      (f.mod.toNat % 8 = 1 → f.ty = 2 → foldStep f z x y = if y.toInt < x.toInt then y else x) ∧ (f.mod.toNat % 8 = 2 → f.ty = 2 → foldStep f z x y = if x.toInt < y.toInt then y else x) ∧
      (f.mod.toNat % 8 = 1 → f.ty = 6 → foldStep f z x y = if y.toNat < x.toNat then y else x) ∧ (f.mod.toNat % 8 = 2 → f.ty = 6 → foldStep f z x y = if x.toNat < y.toNat then y else x) ∧
      (f.mod.toNat % 8 = 0 → f.sat = true → f.ty = 2 → foldStep f z x y = BitVec.ofInt 32 (max (-(2 ^ 31)) (min (2 ^ 31 - 1) (x.toInt + y.toInt)))) ∧
      (f.mod.toNat % 8 = 0 → f.sat = true → f.ty = 6 → foldStep f z x y = BitVec.ofNat 32 (min (2 ^ 32 - 1) (x.toNat + y.toNat))) ∧
      (f.mod.toNat % 8 = 6 → foldStep f z x y = BitVec.ofNat 32 (fmtF32.add z (rmOf f.rm) x.toNat y.toNat))) ∧
    (∀ (f : FV) (z : Bool),
      (f.mod.toNat % 8 ∈ [0, 4, 5] → foldLanes f z [] = 0) ∧ (f.mod.toNat % 8 = 3 → foldLanes f z [] = 0xFFFFFFFF) ∧ (f.mod.toNat % 8 = 6 → foldLanes f z [] = 0x80000000) ∧
      (f.mod.toNat % 8 = 1 → (f.ty = 2 → foldLanes f z [] = 0x7FFFFFFF) ∧ (f.ty = 6 → foldLanes f z [] = 0xFFFFFFFF)) ∧
      (f.mod.toNat % 8 = 2 → (f.ty = 2 → foldLanes f z [] = 0x80000000) ∧ (f.ty = 6 → foldLanes f z [] = 0))) ∧
    (∀ f : FV, Issues (.vscan f) s c ∨ Issues (.vreduce f) s c →
      (f.mod.toNat % 8 = 6 ∧ f.ty = 8) ∨ (f.mod.toNat % 8 < 6 ∧ (f.ty = 2 ∨ f.ty = 6)))
  )

/-- O24. VVOTE writes s[VD] from the predicate v[VA][l] ≠ 0 over ACTIVE, and VMATCH each lane's mask of peers (R154). -/
def Obligations.VotesAndMatches : Prop :=
  ∀ (s : State) (c : Clause),
    (∀ f, Issues (.vvote f) s c →
      let act := s.activeOf (.vvote f)
      let x := fun (l : Nat) => s.cur.rl f.va.toNat l
      ∃ r : W32, exec (.vvote f) s = .next (s.past c (s.onceOut (.vvote f) (s.cur.issuing.ws f.vd.toNat r))) ∧
        (f.mod = 0 → ∀ l, l < 32 → (r.getLsbD l = true ↔ act.getLsbD l = true ∧ x l ≠ 0)) ∧
        (f.mod = 1 → ((∀ l, l < 32 → act.getLsbD l = true → x l ≠ 0) → r = 0xFFFFFFFF) ∧ ((∃ l, l < 32 ∧ act.getLsbD l = true ∧ x l = 0) → r = 0)) ∧
        (f.mod = 2 → ((∃ l, l < 32 ∧ act.getLsbD l = true ∧ x l ≠ 0) → r = 0xFFFFFFFF) ∧ ((∀ l, l < 32 → act.getLsbD l = true → x l = 0) → r = 0)) ∧
        (f.mod = 3 → ((∀ l k, l < 32 → k < 32 → act.getLsbD l = true → act.getLsbD k = true → x l = x k) → r = 0xFFFFFFFF) ∧
          ((∃ l k, l < 32 ∧ k < 32 ∧ act.getLsbD l = true ∧ act.getLsbD k = true ∧ x l ≠ x k) → r = 0))) ∧
    (∀ f, Issues (.vmatch f) s c →
      let act := s.activeOf (.vmatch f)
      let w := tyBits f.ty
      ∃ r : Nat → W32, exec (.vmatch f) s = .next (s.past c (s.vecOut (.vmatch f) f.vd r)) ∧
        ∀ l m, l < 32 → m < 32 → ((r l).getLsbD m = true ↔
          act.getLsbD m = true ∧ (s.cur.rl f.va.toNat m).toNat % 2 ^ w = (s.cur.rl f.va.toNat l).toNat % 2 ^ w))

/-- O25. The conversions VCVT, VPACK and VUNPACK (R145 to R148, R70, R71, R81): each lane of ACTIVE receives the converted value or elements, saturation sets XSTAT.SAT, a consumed NaN scale sets XSTAT.NANS or, under SCALETRAP, traps with SCALE_NAN; an SR-mode word advances the call counter, with ACTIVE empty too. VRQ and XMAXE (R149): every block with a lane in ACTIVE is requantised whole, from all of its lanes, an exited one counting as +0; VRQ writes the elements of all its lanes and both write its scale byte, with 0x7F in the bytes from n on; VRQ sets SAT and RANGE as its blocks do, XMAXE RANGE alone. With ACTIVE empty only the call counter of an SR-mode word moves. What a block becomes is R78's: 0xFF and zeros where a value is not finite, 0x7F and zeros where all are zero, else each value scaled by the block's exponent and converted, with SAT where one saturates; the exponent of the floor rule, clamped to −127 to 127, sets RANGE where it was clamped. XMOV and XSET act once, when ACTIVE is non-empty (R150): a scale register, a scalar pair, or the bytes that the mask names, and nothing else. -/
def Obligations.ConversionsAndBlocks : Prop :=
  (
  ∀ (s : State) (c : Clause),
    let g := s.cur
    let z := g.gctl.getLsbD 1
    let calls := fun (f : FV) => if f.vc.getLsbD 0 then g.calls + 1 else g.calls
    (∀ f, Issues (.vcvt f) s c →
      let act := s.activeOf (.vcvt f)
      let r := fun (l : Nat) => vcvtValue f.ty f.mod z (s.cvtMode g f l 0) (f.vc.getLsbD 1) (g.rl f.va.toNat l)
      exec (.vcvt f) s = .next (s.past c
        (if act = 0 then { g.issuing with calls := calls f }
         else { g.issuing.wv f.vd.toNat act (fun l => (r l).1) with
                xstat := g.xstat ||| (if (lanesOf act).any (fun l => (r l).2) then 4 else 0), calls := calls f }))) ∧
    (∀ f, Issues (.vpack f) s c → 
      let act := s.activeOf (.vpack f)
      let n := packCount f.mod
      let d := fmtOf f.mod
      let sc := fun (l : Nat) => (xbyte (g.rx f.vd.toNat) (n * l / 32)).toNat
      let nan := f.vc.getLsbD 3 && (List.range 32).any fun l => act.getLsbD l && sc l == 0xFF
      (act = 0 → exec (.vpack f) s = .next (s.past c { g.issuing with calls := calls f })) ∧
      (act ≠ 0 → nan = true → g.gctl.getLsbD 0 = true → exec (.vpack f) s = .next (s.trap s.who 0x05 0 (wordPc g c) (resumeHere g c))) ∧
      let y := fun (l q : Nat) =>
        let x := fmtF32.input z (g.rl (f.va.toNat + q) l).toNat
        cvt (if f.vc.getLsbD 3 then scaleNum x (127 - (sc l : Int)) else x) d (s.cvtMode g f l q) (f.vc.getLsbD 1)
      (act ≠ 0 → (nan = false ∨ g.gctl.getLsbD 0 = false) → ∃ (v : Nat → W32) (sat : Bool),
        exec (.vpack f) s = .next (s.past c { g.issuing.wv f.vd.toNat act v with
          xstat := g.xstat ||| ((if sat then 4 else 0) ||| (if nan then 1 else 0)), calls := calls f }) ∧
        (sat = true ↔ ∃ l q, l < 32 ∧ act.getLsbD l = true ∧ q < n ∧ ¬ (f.vc.getLsbD 3 = true ∧ sc l = 0xFF) ∧ (y l q).2 = true) ∧
        ∀ l q, l < 32 → act.getLsbD l = true → q < n →
          let e := if f.vc.getLsbD 3 && sc l == 0xFF then (if d.hasNan then d.nanEnc else 0) else d.flush z (y l q).1
          ((v l).extractLsb' (32 / n * q) (32 / n)).toNat = e % 2 ^ (32 / n))) ∧
    (∀ f, Issues (.vunpack f) s c → 
      let act := s.activeOf (.vunpack f)
      let n := packCount f.ty
      let d := fmtOf f.ty
      let sc := fun (l : Nat) => (xbyte (g.rx f.va.toNat) (n * l / 32)).toNat
      let nan := f.vc.getLsbD 3 && (List.range 32).any fun l => act.getLsbD l && sc l == 0xFF
      let y := fun (q l : Nat) =>
        let e := d.input z (((g.rl f.va.toNat l).extractLsb' (32 / n * q) (32 / n)).toNat % 2 ^ d.bits)
        if f.vc.getLsbD 3 && sc l == 0xFF then fmtF32.nanEnc
        else fmtF32.flush z (cvt (if f.vc.getLsbD 3 then scaleNum e ((sc l : Int) - 127) else e) fmtF32 (rmOf f.rm) false).1
      (act = 0 → exec (.vunpack f) s = .next (s.past c g.issuing)) ∧
      (act ≠ 0 → nan = true → g.gctl.getLsbD 0 = true → exec (.vunpack f) s = .next (s.trap s.who 0x05 0 (wordPc g c) (resumeHere g c))) ∧
      (act ≠ 0 → (nan = false ∨ g.gctl.getLsbD 0 = false) →
        exec (.vunpack f) s = .next (s.past c
          (((List.range n).foldl (fun h q => h.wv (f.vd.toNat + q) act fun l => BitVec.ofNat 32 (y q l)) g.issuing).flag (if nan then 1 else 0)))))
  ) ∧ (
  ∀ (s : State) (c : Clause),
    let g := s.cur
    let req := fun (f : FV) (j : Nat) =>
      let n := packCount f.mod
      requantise ((List.range 32).map fun k => if g.exited.getLsbD ((32 * j + k) / n) then .fin false 0 0
          else fmtF32.decode (g.rl (f.va.toNat + (32 * j + k) % n) ((32 * j + k) / n)).toNat) (fmtOf f.mod)
        (fun k => if f.vc.getLsbD 0 then .sr (randWord (g.seed.getD (s.ctxOf g).rngseed) (BitVec.ofNat 32 (1024 * (s.teamOf g).linear) + lane g.tids ((32 * j + k) / n))
            g.calls (s.task (s.teamOf g).task).launchId ((32 * j + k) % n)).toNat else .rne) (f.vc.getLsbD 2)
    let done := fun (f : FV) (act : Lanes) => (List.range (packCount f.mod)).filter fun j => (List.range 32).any fun l => act.getLsbD l && packCount f.mod * l / 32 == j
    (∀ f, Issues (.vrq f) s c → 
      let act := s.activeOf (.vrq f)
      let n := packCount f.mod
      let r := req f
      (act = 0 → exec (.vrq f) s = .next (s.past c { g.issuing with calls := if f.vc.getLsbD 0 then g.calls + 1 else g.calls })) ∧
      (act ≠ 0 → ∃ t, exec (.vrq f) s = .next t ∧
        (∀ l, l < 32 →
          ((∃ k, k < 32 ∧ act.getLsbD k = true ∧ n * k / 32 = n * l / 32) → ∀ q, q < n →
            ((t.cur.rl f.vd.toNat l).extractLsb' (32 / n * q) (32 / n)).toNat = (((r (n * l / 32)).elems[n * l + q - 32 * (n * l / 32)]?).getD 0) % 2 ^ (32 / n)) ∧
          ((∀ k, k < 32 → act.getLsbD k = true → n * k / 32 ≠ n * l / 32) → t.cur.rl f.vd.toNat l = g.rl f.vd.toNat l)) ∧
        (∀ j, j < n → (∃ k, k < 32 ∧ act.getLsbD k = true ∧ n * k / 32 = j) → xbyte (t.cur.rx f.vd.toNat) j = BitVec.ofNat 8 (r j).scale) ∧
        (∀ j, j < n → (∀ k, k < 32 → act.getLsbD k = true → n * k / 32 ≠ j) → xbyte (t.cur.rx f.vd.toNat) j = xbyte (g.rx f.vd.toNat) j) ∧
        (∀ j, n ≤ j → j < 8 → xbyte (t.cur.rx f.vd.toNat) j = 0x7F) ∧
        t.cur.xstat = g.xstat ||| ((if (done f act).any fun j => (r j).sat then 4 else 0) ||| (if (done f act).any fun j => (r j).range then 2 else 0)) ∧
        t.cur.calls = (if f.vc.getLsbD 0 then g.calls + 1 else g.calls))) ∧
    (∀ f, Issues (.xmaxe f) s c → 
      let act := s.activeOf (.xmaxe f)
      let n := packCount f.mod
      let r := req f
      (act = 0 → exec (.xmaxe f) s = .next (s.past c g.issuing)) ∧
      (act ≠ 0 → ∃ t, exec (.xmaxe f) s = .next t ∧ t.cur.v = g.v ∧
        (∀ j, j < n → (∃ k, k < 32 ∧ act.getLsbD k = true ∧ n * k / 32 = j) → xbyte (t.cur.rx f.vd.toNat) j = BitVec.ofNat 8 (r j).scale) ∧
        (∀ j, j < n → (∀ k, k < 32 → act.getLsbD k = true → n * k / 32 ≠ j) → xbyte (t.cur.rx f.vd.toNat) j = xbyte (g.rx f.vd.toNat) j) ∧
        (∀ j, n ≤ j → j < 8 → xbyte (t.cur.rx f.vd.toNat) j = 0x7F) ∧
        t.cur.xstat = g.xstat ||| (if (done f act).any fun j => (r j).range then 2 else 0) ∧ t.cur.calls = g.calls)) ∧
    (∀ (xs : List FNum) (d : Fmt) (mode : Nat → RMode) (ceil : Bool),
      let r := requantise xs d mode ceil
      let y := fun (k : Nat) (x : FNum) => cvt (scaleNum x (127 - (r.scale : Int))) d (mode k) false
      ((∃ x ∈ xs, ∀ n m e, x ≠ .fin n m e) → r = ⟨0xFF, xs.map fun _ => 0, false, false⟩) ∧
      ((∀ x ∈ xs, ∃ n m e, x = .fin n m e) → (amaxOf xs).1 = 0 → r = ⟨0x7F, xs.map fun _ => 0, false, false⟩) ∧
      ((∀ x ∈ xs, ∃ n m e, x = .fin n m e) → (amaxOf xs).1 ≠ 0 →
        (∀ k x, xs[k]? = some x → r.elems[k]? = some (y k x).1) ∧ (r.sat = true ↔ ∃ k x, xs[k]? = some x ∧ (y k x).2 = true) ∧
        (ceil = false → let e : Int := (amaxOf xs).2 + bitLen (amaxOf xs).1 - 1 - d.emax
          (r.scale : Int) - 127 = max (-127) (min 127 e) ∧ (r.range = true ↔ e < -127 ∨ 127 < e))))
  ) ∧ (
  ∀ (s : State) (c : Clause),
    (∀ f, Issues (.xmov f) s c → exec (.xmov f) s = .next (s.past c (s.onceOut (.xmov f)
      (if f.mod = 0 then s.cur.issuing.wx f.vd.toNat (s.cur.rx f.va.toNat)
       else if f.mod = 1 then (s.cur.issuing.ws f.vd.toNat ((s.cur.rx f.va.toNat).extractLsb' 0 32)).ws (f.vd.toNat + 1) ((s.cur.rx f.va.toNat).extractLsb' 32 32)
       else s.cur.issuing.wx f.vd.toNat (s.cur.rs (f.va.toNat + 1) ++ s.cur.rs f.va.toNat))))) ∧
    (∀ f, Issues (.xset f) s c → ∃ g, exec (.xset f) s = .next (s.past c (s.onceOut (.xset f) g)) ∧
      (∀ j, j < 8 → xbyte (g.rx f.vd.toNat) j = (if (s.cur.rs f.vc.toNat).getLsbD j then (s.cur.rs f.vb.toNat).extractLsb' 0 8 else xbyte (s.cur.rx f.vd.toNat) j)) ∧
      (∀ n, n ≠ f.vd.toNat → g.rx n = s.cur.rx n) ∧ (∀ n, g.rs n = s.cur.rs n) ∧ g.v = s.cur.v ∧ g.xstat = s.cur.xstat)
  )

/-- O26. Decoding and rounding (R61, R64, R68): a finite encoding of any format is the result of converting its own value, in every mode, with no saturation; round to nearest moves a magnitude by at most half the spacing, and a tie to an even multiple; towards zero truncates. The exponent of requantise under the ceiling rule is the smallest integer at which the block's largest magnitude, rounded to the format, does not exceed the largest finite value (R78); the value that the model takes for the largest magnitude is one of the block, and none exceeds it. -/
def Obligations.RoundingAndExponents : Prop :=
  (
  (∀ (ty : BitVec 4) (x : Nat) (mode : RMode) (infok neg : Bool) (m : Nat) (e : Int), 8 ≤ ty.toNat → x < 2 ^ (fmtOf ty).bits →
    (fmtOf ty).decode x = .fin neg m e → cvt ((fmtOf ty).decode x) (fmtOf ty) mode infok = (x, false)) ∧
  (∀ (ty : BitVec 4) (neg : Bool) (m : Nat) (e : Int), 8 ≤ ty.toNat → 0 < m →
    let n := ((fmtOf ty).round .rne neg m e false).1
    let q := ((fmtOf ty).round .rne neg m e false).2
    (q ≤ e → n = m * 2 ^ (e - q).toNat) ∧
    (e < q → let d := (q - e).toNat
      2 * (n * 2 ^ d) ≤ 2 * m + 2 ^ d ∧ 2 * m ≤ 2 * (n * 2 ^ d) + 2 ^ d ∧ (2 * m % 2 ^ (d + 1) = 2 ^ d → n % 2 = 0) ∧
      ((fmtOf ty).round .rtz neg m e false).1 = m / 2 ^ d ∧ ((fmtOf ty).round .rtz neg m e false).2 = q))
  ) ∧ (
  ∀ (xs : List FNum) (ty : BitVec 4) (mode : Nat → RMode), 11 ≤ ty.toNat → (∀ x ∈ xs, ∃ n m e, x = .fin n m e) → (amaxOf xs).1 ≠ 0 →
    let f := fmtOf ty
    let a := amaxOf xs
    let e : Int := ((requantise xs f mode true).scale : Int) - 127
    let fits := fun (k : Int) => let y := f.round .rne false a.1 (a.2 - k) false; f.scaled y.1 y.2 ≤ f.maxScaled
    (-127 < e → e < 127 → fits e ∧ ∀ k, k < e → ¬ fits k) ∧ -127 ≤ e ∧ e ≤ 127 ∧
    (∃ n, .fin n a.1 a.2 ∈ xs) ∧ (∀ n m k, FNum.fin n m k ∈ xs → m * 2 ^ (k - min k a.2).toNat ≤ a.1 * 2 ^ (a.2 - min k a.2).toNat)
  )

/-- O27. The global memory words VLD, VST, SLD, SST, VLDX, VSTX, VATOM, VFATOM, SATOM, VRED, LDRSV, STCND, LPIN and LUNPIN at issue (R181, R182, R183, R185, R187, R188, R195, R201): with ACTIVE empty nothing is accessed; addresses that may not be named trap with PROTECTION, then misaligned ones with MISALIGN, each with the mask of its lanes, or 0 for an access made once for the group; a full counter stalls; else the operation joins its counter with its operands captured. -/
def Obligations.GlobalWords : Prop :=
  ∀ (i : Instr) (s : State) (c : Clause) (m : GlobalForm), globalForm s i = some m → Issues i s c →
    let bad := m.heads.filter fun p => m.refuses s p.2
    let off := m.heads.filter fun p => p.2.toNat % m.align != 0
    let targ := fun (l : List (Nat × W64)) => if m.op.groupLevel then (0 : W32) else laneSet (l.map (·.1))
    let full := decide (63 ≤ s.cur.pend.countP fun q => q.ctr == m.op.ctr)
    (s.activeOf i = 0 → exec i s = .next (s.past c s.cur.issuing)) ∧
    (s.activeOf i ≠ 0 → bad ≠ [] → exec i s = .next (s.trap s.who 0x04 (targ bad) (wordPc s.cur c) (resumeHere s.cur c))) ∧
    (s.activeOf i ≠ 0 → bad = [] → off ≠ [] → exec i s = .next (s.trap s.who 0x03 (targ off) (wordPc s.cur c) (resumeHere s.cur c))) ∧
    (s.activeOf i ≠ 0 → bad = [] → off = [] → full = true → exec i s = .next (s.stays { s.cur with wait := .none })) ∧
    (s.activeOf i ≠ 0 → bad = [] → off = [] → full = false → exec i s = .next (s.queued c m.op (s.activeOf i) m.lanes))

/-- O28. The scratchpad words VLDS, VSTS and VATOMS at issue (R184, R186, R191, R197, R201): with ACTIVE empty nothing is accessed; lanes whose address leads nowhere trap with PROTECTION, then lanes in a revoked window with SHARE_REVOKED, then misaligned ones with MISALIGN; a lane that touches an absent line parks the group there; a full counter stalls; else the operation joins its counter with its operands and locations captured. The scratchpad address map (R184, R198): an address below the team's own size is its own; the window of 2 MiB at 2^31 for each of the eight slots is the scratchpad of the member at that slot of the team's sharing group, while the team shares and the slot has a member, and is revoked otherwise; nothing else is mapped. PRESQ, SPJOIN and SPLEAVE (R197, R198, R199). PRESQ traps with PROTECTION, SHARE_REVOKED or MISALIGN where its address may not be used or its 32 lines leave the scratchpad, else returns the mask of present lines and makes the change that MOD names. SPJOIN returns the lowest free slot and joins, or a refusal: 0x80000003 for a team that shares already, 0x80000001 for a full group, 0x80000002 for a core that has a member (their order: assumption log 18); of the requests of one cycle for a key one that comes after a later place, by core and then by group, waits for the next cycle (the model's choice, assumption log 50). SPLEAVE unmaps the team's slot at once, and is over, with the team's own windows revoked, when every access to its scratchpad is performed. -/
def Obligations.ScratchpadWords : Prop :=
  (
  ∀ (i : Instr) (s : State) (c : Clause) (p : PendOp) (ls : List (Nat × W32 × List W32)), spadForm s i = some (p, ls) → Issues i s c →
    let mapped := fun (x : Nat × W32 × List W32) => s.spadMap s.cur.team x.2.1.toNat
    let none_ := ls.filter fun x => mapped x == .nothing
    let gone := ls.filter fun x => mapped x == .revoked
    let off := ls.filter fun x => x.2.1.toNat % p.bytes != 0
    let loc := fun (x : Nat × W32 × List W32) => match mapped x with | .at t o => t * 2 ^ 32 + o | _ => 0
    let lines := ls.flatMap fun x => [(loc x / 2 ^ 32, loc x % 2 ^ 32 / 128), (loc x / 2 ^ 32, (loc x % 2 ^ 32 + p.bytes - 1) / 128)]
    let absent := lines.filter fun l => (s.team l.1).absent.contains l.2
    let full := decide (63 ≤ s.cur.pend.countP fun q => q.ctr == p.ctr)
    let targ := fun (l : List (Nat × W32 × List W32)) => laneSet (l.map (·.1))
    (s.activeOf i = 0 → exec i s = .next (s.past c s.cur.issuing)) ∧
    (s.activeOf i ≠ 0 → none_ ≠ [] → exec i s = .next (s.trap s.who 0x04 (targ none_) (wordPc s.cur c) (resumeHere s.cur c))) ∧
    (s.activeOf i ≠ 0 → none_ = [] → gone ≠ [] → exec i s = .next (s.trap s.who 0x07 (targ gone) (wordPc s.cur c) (resumeHere s.cur c))) ∧
    (s.activeOf i ≠ 0 → none_ = [] → gone = [] → off ≠ [] → exec i s = .next (s.trap s.who 0x03 (targ off) (wordPc s.cur c) (resumeHere s.cur c))) ∧
    (s.activeOf i ≠ 0 → none_ = [] → gone = [] → off = [] → absent ≠ [] → exec i s = .next (s.parks (.absent absent))) ∧
    (s.activeOf i ≠ 0 → none_ = [] → gone = [] → off = [] → absent = [] → full = true → exec i s = .next (s.stays { s.cur with wait := .none })) ∧
    (s.activeOf i ≠ 0 → none_ = [] → gone = [] → off = [] → absent = [] → full = false →
      exec i s = .next (s.queued c p (s.activeOf i) (ls.map fun x => { lane := x.1, addr := loc x, data := x.2.2 })))
  ) ∧ (
  ∀ (s : State) (t a : Nat),
    (a < s.spadSize t → s.spadMap t a = .at t a) ∧
    (s.spadSize t ≤ a → (a < 2 ^ 31 ∨ 2 ^ 31 + 2 ^ 24 ≤ a) → s.spadMap t a = .nothing) ∧
    (∀ k o, k < 8 → o < 2 ^ 21 → a = 2 ^ 31 + 2 ^ 21 * k + o →
      ((s.team t).share = none → s.spadMap t a = .revoked) ∧
      (∀ key own, (s.team t).share = some (key, own) →
        (tget (tgetD (s.ctx (s.team t).ctx).shares key []) k = none → s.spadMap t a = .revoked) ∧
        (∀ m, tget (tgetD (s.ctx (s.team t).ctx).shares key []) k = some m →
          s.spadMap t a = (if o < s.spadSize m then .at m o else .nothing))))
  ) ∧ (
  ∀ (s : State) (c : Clause),
    let g := s.cur
    let t := s.teamOf g
    let full := decide (63 ≤ g.pend.countP fun q => q.ctr == .load)
    let trap := fun (cause : Nat) => (Host.Outcome.next (s.trap s.who cause 0 (wordPc g c) (resumeHere g c)) : Host.Outcome State Fault Refusal)
    let held := s.stays { g with wait := .none }
    (∀ f, Issues (.presq f) s c →
      let l := lowest (s.activeOf (.presq f))
      let a := ((if f.sb = 0 then (0 : W32) else g.rs f.sb.toNat) + g.rl f.va.toNat l + BitVec.ofInt 32 f.off.toInt).toNat
      (s.activeOf (.presq f) = 0 → exec (.presq f) s = .next (s.past c g.issuing)) ∧
      (s.activeOf (.presq f) ≠ 0 →
        (s.spadMap g.team a = .nothing → exec (.presq f) s = trap 0x04) ∧
        (s.spadMap g.team a = .revoked → exec (.presq f) s = trap (if 2 ^ 21 < a % 2 ^ 21 + 4096 then 0x04 else 0x07)) ∧
        (∀ m o, s.spadMap g.team a = .at m o → m < 2 ^ 32 → o < 2 ^ 32 →
          let mask := laneSet ((List.range 32).filter fun k => !(s.team m).absent.contains (o / 128 + k))
          let lines := (List.range 32).map fun k => o / 128 + k
          let absent := if f.mod = 1 then lines.foldl ninsert (s.team m).absent
                        else if f.mod = 2 then (s.team m).absent.filter (fun x => !lines.contains x) else (s.team m).absent
          (s.spadSize m < o + 4096 → exec (.presq f) s = trap 0x04) ∧
          (a % 128 ≠ 0 → o + 4096 ≤ s.spadSize m → exec (.presq f) s = trap 0x03) ∧
          (a % 128 = 0 → o + 4096 ≤ s.spadSize m → full = true → exec (.presq f) s = .next held) ∧
          (a % 128 = 0 → o + 4096 ≤ s.spadSize m → full = false →
            exec (.presq f) s = .next ((s.setTeam m { s.team m with absent := absent }).queued c
              { id := 0, ctr := .load, kind := .presq mask, scalar := true, spad := true, dest := f.vd.toNat } (s.activeOf (.presq f))
              [{ lane := 0, addr := m * 2 ^ 32 + o, val := [mask], pois := [false], performed := true }]))))) ∧
    (∀ f, Issues (.spjoin f) s c →
      let key := (g.rs f.sa.toNat).toNat
      let x := s.ctx t.ctx
      let m := tgetD x.shares key []
      let place := t.core * 32 + g.gid
      let came := { x with joinAt := tset x.joinAt key (s.cycle, place) }
      let late := ∃ p, tget x.joinAt key = some (s.cycle, p) ∧ place < p
      let answer := fun (s1 : State) (st : W32) => (Host.Outcome.next (s1.queued c
        { id := 0, ctr := .load, kind := .spjoin st, scalar := true, spad := true, dest := f.sd.toNat } 0xFFFFFFFF
        [{ lane := 0, addr := 0, val := [st], pois := [false], performed := true }]) : Host.Outcome State Fault Refusal)
      (s.activeOf (.spjoin f) = 0 → exec (.spjoin f) s = .next (s.past c g.issuing)) ∧
      (s.activeOf (.spjoin f) ≠ 0 → full = true ∨ late → exec (.spjoin f) s = .next held) ∧
      (s.activeOf (.spjoin f) ≠ 0 → full = false → ¬ late →
        (t.share ≠ none → exec (.spjoin f) s = answer (s.setCtx t.ctx came) 0x80000003) ∧
        (t.share = none → (∀ k, k < 8 → tget m k ≠ none) → exec (.spjoin f) s = answer (s.setCtx t.ctx came) 0x80000001) ∧
        (t.share = none → ∀ k, k < 8 → tget m k = none → (∀ j, j < k → tget m j ≠ none) →
          ((∃ p ∈ m, (s.team p.2).core = t.core) → exec (.spjoin f) s = answer (s.setCtx t.ctx came) 0x80000002) ∧
          ((∀ p ∈ m, (s.team p.2).core ≠ t.core) → exec (.spjoin f) s = answer
            ((s.setCtx t.ctx { came with shares := tset x.shares key (tset m k g.team) }).setTeam g.team { t with share := some (key, k) }) (BitVec.ofNat 32 k))))) ∧
    (Issues .spleave s c →
      (s.activeOf .spleave = 0 ∨ t.share = none → exec .spleave s = .next (s.past c g.issuing)) ∧
      (s.activeOf .spleave ≠ 0 → ∀ key k, t.share = some (key, k) →
        let x := s.ctx t.ctx
        let m := tgetD x.shares key []
        let s1 := if tget m k = some g.team then s.setCtx t.ctx { x with shares := tset x.shares key (tdel m k) } else s
        ((s.setCur g.issuing).spadBusy g.team = false → exec .spleave s = .next ((s1.setTeam g.team { t with share := none }).past c g.issuing)) ∧
        ((s.setCur g.issuing).spadBusy g.team = true → g.faultParked = false → exec .spleave s = .next (s1.stays { g with wait := .none }))))
  )

/-- O29. FENCE, DRAIN, PREF, TLBINV, CINV and ICINV (R164, R166, R193, R194, R265, R294): with ACTIVE empty they do nothing; a fence waits for all of the group's scratchpad accesses, its release for the writes of its colours and at group and team scope for every access of them, and its acquire, unless it names no colour, for the group's loads of whatever colour (assumption log 39), then it makes its release and its acquire and goes on; DRAIN writes back, drains and invalidates as MOD says; PREF moves lines and never stops; TLBINV drops entries of the slices; CINV writes back and discards the lines of an extent; ICINV releases, and no instruction cache of the device keeps code of the context and no loop buffer keeps any. What a core's L1 guarantees (R158, R162, R166): after a store at group or team scope a load of that core at group or team scope in the same colour returns the stored bytes, and elsewhere the bytes of the copy that the core had, if an access of that colour had filled, read or written it; after an acquire of a context and colours the core holds no line of them. -/
def Obligations.CacheWords : Prop :=
  (
  ∀ (s : State) (c : Clause),
    let g := s.cur
    let t := s.teamOf g
    let asid := (s.ctx t.ctx).asid
    let s0 := s.setCur g.issuing
    let held := s.stays { g with wait := .none }
    let stalled := fun (x : State) => x.setGroup s.who { x.group s.who with pathCount := g.pathCount, issued := g.issued || (x.group s.who).product.isSome }
    (∀ f, Issues (.fence f) s c →
      let cols := f.vd
      let rel := f.mod.getLsbD 1
      let acq := f.mod.getLsbD 0
      let waits := g.spadOpen = true ∨ (rel = true ∧ releaseOpen g.pend g.moves f.sco.toNat cols = true) ∨ (acq = true ∧ cols ≠ 0 ∧ readsOpen g.pend = true)
      (s.activeOf (.fence f) = 0 → exec (.fence f) s = .next (s.past c g.issuing)) ∧
      (s.activeOf (.fence f) ≠ 0 → waits → g.faultParked = false → exec (.fence f) s = .next held) ∧
      (s.activeOf (.fence f) ≠ 0 → ¬ waits → f.sco.toNat ≤ 1 → exec (.fence f) s = .next (s.past c g.issuing)) ∧
      (s.activeOf (.fence f) ≠ 0 → ¬ waits → ∀ s1 s2,
        (if rel then s0.releaseAt g.issuing f.sco.toNat cols else .ok (s0, true)) = .ok (s1, true) →
        (if acq then s1.acquireAt g.issuing f.sco.toNat cols else .ok (s1, ())) = .ok (s2, ()) →
        exec (.fence f) s = .next (advance s2 s.who c))) ∧
    (∀ f, Issues (.drain f) s c →
      (s.activeOf (.drain f) = 0 → exec (.drain f) s = .next (s.past c g.issuing)) ∧
      (s.activeOf (.drain f) ≠ 0 → ∀ s1, s0.flushL1 t.core t.ctx asid f.vd = .ok (s1, ()) →
        let mine := fun (e : WcbEntry) => e.ctx == t.ctx && f.vd.getLsbD e.colour
        let s2 := if f.mod.getLsbD 0 then s1.wcbSendAll t.core mine else s1
        let open_ := f.mod.getLsbD 0 = true ∧ ∃ e ∈ (s2.core t.core).wcb, mine e = true
        (open_ → s2.cur.faultParked = false → exec (.drain f) s = .next (stalled s2)) ∧
        (¬ open_ → f.mod.getLsbD 1 = false → exec (.drain f) s = .next (advance s2 s.who c)) ∧
        (¬ open_ → f.mod.getLsbD 1 = true → ∀ s3, s2.acquireL1 t.core t.ctx (s2.ctx t.ctx).asid f.vd = .ok (s3, ()) →
          exec (.drain f) s = .next (advance s3 s.who c)))) ∧
    (∀ f, Issues (.pref f) s c →
      (s.activeOf (.pref f) = 0 → exec (.pref f) s = .next (s.past c g.issuing)) ∧
      exec (.pref f) s = .next (advance ((lanesOf (s.activeOf (.pref f))).foldl
        (fun x l => x.prefLane g.issuing f.sco.toNat f.col.toNat (f.mod == 1) (gaddr f 15 g l).toNat) s0) s.who c)) ∧
    (∀ f, Issues (.tlbinv f) s c →
      let va := (g.rs (f.sa.toNat + 1) ++ g.rs f.sa.toNat : W64).toNat
      (s.activeOf (.tlbinv f) = 0 → exec (.tlbinv f) s = .next (s.past c g.issuing)) ∧
      (s.activeOf (.tlbinv f) ≠ 0 → f.mod = 0 → 2 ^ 56 ≤ va → exec (.tlbinv f) s = .next (s.trap s.who 0x04 0 (wordPc g c) (resumeHere g c))) ∧
      (s.activeOf (.tlbinv f) ≠ 0 → (f.mod = 0 → va < 2 ^ 56) → ∃ l, exec (.tlbinv f) s = .next ({ s with tlb := l }.past c g.issuing) ∧
        (∀ e ∈ l, e ∈ s.tlb) ∧
        (f.mod = 0 → (∀ e ∈ l, (e.asid = asid ∨ e.asid = 0) → ¬ (e.page ≤ va ∧ va < e.page + e.psize)) ∧
          (∀ e ∈ s.tlb, e.asid ≠ asid → e.asid ≠ 0 → e ∈ l)) ∧
        (f.mod = 1 → ∀ e ∈ s.tlb, (e ∈ l ↔ e.asid ≠ (g.rs f.sa.toNat).toNat % 2 ^ 16)) ∧
        (f.mod = 2 → l = []))) ∧
    (∀ f, Issues (.cinv f) s c →
      let va := (g.rs (f.sa.toNat + 1) ++ g.rs f.sa.toNat : W64).toNat
      let size := if f.mod.toNat / 4 = 0 then 128 else if f.mod.toNat / 4 = 1 then 2 ^ 16 else 2 ^ 21
      let done := s0.cinvLines t.ctx (f.mod.getLsbD 0) (f.mod.getLsbD 1) true (s0.cachedKeys asid (va / size * size) size)
      (s.activeOf (.cinv f) = 0 → exec (.cinv f) s = .next (s.past c g.issuing)) ∧
      (s.activeOf (.cinv f) ≠ 0 → 2 ^ 56 ≤ va → exec (.cinv f) s = .next (s.trap s.who 0x04 0 (wordPc g c) (resumeHere g c))) ∧
      (s.activeOf (.cinv f) ≠ 0 → va < 2 ^ 56 → ∀ s1, done = .ok (s1, ()) → exec (.cinv f) s = .next (advance s1 s.who c)) ∧
      (s.activeOf (.cinv f) ≠ 0 → va < 2 ^ 56 → ∀ e, done = .error e → g.faultParked = false → exec (.cinv f) s = .next held)) ∧
    (Issues .icinv s c →
      (s.activeOf .icinv = 0 → exec .icinv s = .next (s.past c g.issuing)) ∧
      (s.activeOf .icinv ≠ 0 → writesOpen g.pend 0xFF = true ∨ g.spadOpen = true → g.faultParked = false → exec .icinv s = .next held) ∧
      (s.activeOf .icinv ≠ 0 → writesOpen g.pend 0xFF = false → g.spadOpen = false → ∀ s1, s0.releaseAt g.issuing 3 0xFF = .ok (s1, true) →
        ∃ l : Tbl Core, exec .icinv s = .next (advance { s1 with cores := l } s.who c) ∧ l.map (·.1) = s1.cores.map (·.1) ∧
          (∀ p ∈ l, p.2.loops = [] ∧ ∀ x ∈ p.2.icache, x.1 / 2 ^ 50 ≠ (s1.ctxOf g.issuing).asid ∧ x.1 / 2 ^ 50 ≠ 0)))
  ) ∧ (
  (∀ (s t : State) (r : Req) (scope colour scope' : Nat) (mask : LineMask) (data : Line), scope ≤ 1 → scope' ≤ 1 →
    s.storeLine r scope colour mask data = .ok (t, ()) →
    ∃ u l p, t.loadLine r scope' colour = .ok (u, (l, p)) ∧
      (∀ j, j < 136 → mask.getLsbD j = true → lineByte l j = lineByte data j) ∧
      (∀ old j, s.l1At r.core r.key = some old → old.cols.getLsbD colour = true → j < 136 → mask.getLsbD j = false → lineByte l j = lineByte old.data j)) ∧
  (∀ (s t : State) (core ctx asid : Nat) (cols : Byte), s.acquireL1 core ctx asid cols = .ok (t, ()) → t.l1Covered core asid cols = [])
  )

/-- O30. SRD (R55 to R60, R227, R259, R272, R285, R329, R331): once, when ACTIVE is non-empty, s[SD] receives the half that MOD selects of the register's value, field by field as its table gives it; GCTL reads as it was last written, before the clause in which that takes effect (the model's choice, assumption log 50). -/
def Obligations.SystemReads : Prop :=
  ∀ (f : FY) (s : State) (c : Clause), Issues (.srd f) s c →
    let g := s.cur
    let t := s.teamOf g
    let x := s.ctx t.ctx
    let k := s.core t.core
    let r := f.sysreg.toNat
    ∃ v : W64, exec (.srd f) s = .next (s.past c (s.onceOut (.srd f)
        (g.issuing.ws f.sd.toNat (if f.mod.getLsbD 0 then v.extractLsb' 32 32 else v.extractLsb' 0 32)))) ∧
      (r = 0x000 → (v.extractLsb' 16 16).toNat = t.ctx % 2 ^ 16 ∧ (v.extractLsb' 0 16).toNat = x.asid % 2 ^ 16 ∧ v.extractLsb' 32 32 = 0) ∧
      (r = 0x001 → v.extractLsb' 32 32 = g.targ ∧ (v.extractLsb' 24 8).toNat = g.cause % 256 ∧
        (v.extractLsb' 14 2).toNat = (match g.mode with | .user => 0 | .userHandler => 1 | .sysHandler => 2) ∧
        v.getLsbD 13 = (x.userEntry != 0) ∧ v.getLsbD 12 = g.widen.isSome ∧ (v.extractLsb' 0 6).toNat = min g.stack.length 32) ∧
      (r = 0x002 → v = g.xstat.setWidth 64) ∧ (r = 0x003 → v = g.gctlNext.setWidth 64) ∧ (r = 0x004 → v = x.errstat) ∧ (r = 0x005 → v = x.errpc) ∧
      (r = 0x006 → v = g.mprog) ∧ (r = 0x007 → v = g.pathq.setWidth 64) ∧ (r = 0x008 → v = x.rngseed.setWidth 64) ∧ (r = 0x010 → v = g.engseq) ∧
      (∀ n, n < 16 → r = 0x020 + n → (v.extractLsb' 0 6).toNat = (t.bar n).e % 64 ∧ (v.extractLsb' 6 6).toNat = (t.bar n).arr.length % 64 ∧
        (v.extractLsb' 12 1).toNat = (t.bar n).phases % 2 ∧ (v.extractLsb' 13 5).toNat = min (t.bar n).gone.length 31 ∧ v.extractLsb' 18 46 = 0) ∧
      (∀ n, n < 8 → r = 0x030 + n →
        let q := tgetD t.rings n {}
        v.extractLsb' 48 16 = q.fph ∧ v.extractLsb' 32 16 = q.eph ∧ v.getLsbD 23 = q.clap ∧ v.extractLsb' 19 4 = q.cstg ∧ v.getLsbD 18 = q.plap ∧
        v.extractLsb' 14 4 = q.pstg ∧ v.getLsbD 8 = q.en ∧ v.extractLsb' 4 4 = q.reln ∧ v.extractLsb' 0 4 = q.nst) ∧
      (r = 0x040 → v = x.normbox) ∧ (r = 0x041 → v = x.normclip.setWidth 64) ∧ (r = 0x050 → v = BitVec.ofNat 64 x.wcbage) ∧
      (r = 0x060 → v = x.heatctl.setWidth 64) ∧ (∀ n, n < 8 → r = 0x100 + n → v = tgetD k.brk n 0) ∧ (r = 0x110 → v = k.samp)

/-- O31. The writes of system registers and ERRCLR (R3, R33, R55 to R60, R81, R175, R227, R259, R272, R329 to R331): once, when ACTIVE is non-empty, the half that MOD selects is written; reserved bits and read-only registers keep their value, a clamped field takes its limit, flags clear where 1 is written, GCTL takes effect for the next clause, a barrier is evaluated, a ring is reset, a comparator or SAMPCTL takes the writer's context as its owner (the clamp of LOGN as it is written: assumption log 27; in one cycle ERRCLR comes before every event, a write of NORMBOX before a deposit and a write of E after every arrival, so that each waits for the next cycle where it would come in the wrong order: assumption log 16). Decays that fell due under the old DECAY are applied before HEATCTL changes. -/
def Obligations.SystemWrites : Prop :=
  ∀ (s : State) (c : Clause),
    let g := s.cur
    let h := g.issuing
    let t := s.teamOf g
    let x := s.ctx t.ctx
    let k := s.core t.core
    let half := fun (f : FY) (old : W64) => (if f.mod.getLsbD 0 then g.rs f.sa.toNat ++ old.extractLsb' 0 32 else old.extractLsb' 32 32 ++ g.rs f.sa.toNat : W64)
    let v := fun (f : FY) => g.rs f.sa.toNat
    let hi := fun (f : FY) => f.mod.getLsbD 0
    let held := s.stays { g with wait := .none }
    (∀ f, Issues (.swr f) s c →
      let r := f.sysreg.toNat
      (s.activeOf (.swr f) = 0 → exec (.swr f) s = .next (s.past c h)) ∧
      (s.activeOf (.swr f) ≠ 0 →
        (r = 2 → exec (.swr f) s = .next (s.past c (if hi f then h else { h with xstat := g.xstat &&& ~~~((v f).extractLsb' 0 3) }))) ∧
        (r = 3 → exec (.swr f) s = .next (s.past c (if hi f then h else { h with gctlNext := (v f).extractLsb' 0 2 }))) ∧
        (r = 4 ∨ r = 5 → exec (.swr f) s = .next (s.past c h)) ∧
        (r = 6 → exec (.swr f) s = .next (s.past c { h with mprog := half f g.mprog &&& 0x83FFFFFFFFFFFFFF })) ∧
        (r = 7 → exec (.swr f) s = .next (s.past c (if hi f then h else { h with pathq := if (v f).toNat < 16 then 16 else v f }))) ∧
        (r = 8 → exec (.swr f) s = .next ((if hi f then s else s.setCtx t.ctx
          { x with rngseed := v f, rngPrev := if x.rngAt = s.cycle then x.rngPrev else x.rngseed, rngAt := s.cycle }).past c h)) ∧
        (r = 0x10 → exec (.swr f) s = .next (s.past c { h with engseq := half f g.engseq })) ∧
        (r = 0x41 → exec (.swr f) s = .next ((if hi f then s else s.setCtx t.ctx { x with normclip := v f }).past c h)) ∧
        (r = 0x50 → exec (.swr f) s = .next ((if hi f then s else s.setCtx t.ctx { x with wcbage := min 64000 (max 500 ((v f).toNat % 2 ^ 16)) }).past c h)))) ∧
    (∀ f, Issues (.heatctlWrite f) s c → ∃ w : BitVec 10,
      exec (.heatctlWrite f) s = .next ((if s.activeOf (.heatctlWrite f) = 0 then s else
        s.decayed.setCtx t.ctx { s.decayed.ctx t.ctx with heatctl := w, heatN := [] }).past c h) ∧
      (hi f = false → w.extractLsb' 0 4 = (v f).extractLsb' 0 4 ∧ (w.extractLsb' 4 5).toNat = max 16 ((v f).extractLsb' 4 5).toNat ∧ w.getLsbD 9 = (v f).getLsbD 9) ∧
      (hi f = true → 16 ≤ (x.heatctl.extractLsb' 4 5).toNat → w = x.heatctl)) ∧
    (∀ f, Issues (.barstWrite f) s c → ∀ n, n < 16 → f.sysreg.toNat = 0x20 + n →
      let e := min 32 ((v f).toNat % 64)
      let b := { t.bar n with e := e }
      (s.activeOf (.barstWrite f) = 0 ∨ hi f = true → exec (.barstWrite f) s = .next (s.past c h)) ∧
      (s.activeOf (.barstWrite f) ≠ 0 → hi f = false → tget t.barDone n = some (s.cycle, false) → exec (.barstWrite f) s = .next held) ∧
      (s.activeOf (.barstWrite f) ≠ 0 → hi f = false → tget t.barDone n ≠ some (s.cycle, false) → ∃ b',
        exec (.barstWrite f) s = .next ((s.setTeam g.team { t with bars := tset t.bars n b', barDone := if (t.bar n).phases = b'.phases then t.barDone else tset t.barDone n (s.cycle, true) }).past c h) ∧
        b'.e = e ∧ b'.gone = b.gone ∧
        (b.arr.length + b.gone.length < e → b' = b) ∧
        (e ≤ b.arr.length + b.gone.length → b.carried = [] → b' = { b with phases := b.phases + 1, arr := [] }))) ∧
    (∀ f, Issues (.ringstWrite f) s c → ∀ n, n < 8 → f.sysreg.toNat = 0x30 + n →
      let old := tgetD t.rings n {}
      let new : Ring := if hi f then { en := old.en, reln := old.reln, nst := old.nst }
        else { en := (v f).getLsbD 8, reln := (v f).extractLsb' 4 4, nst := (v f).extractLsb' 0 4 }
      exec (.ringstWrite f) s = .next ((if s.activeOf (.ringstWrite f) = 0 then s else s.setTeam g.team { t with rings := tset t.rings n new }).past c h)) ∧
    (∀ f, Issues (.pcbrkWrite f) s c → ∀ n, n < 8 → f.sysreg.toNat = 0x100 + n →
      exec (.pcbrkWrite f) s = .next ((if s.activeOf (.pcbrkWrite f) = 0 then s else s.setCore t.core { k with
        brk := tset k.brk n (half f (tgetD k.brk n 0)), brkOld := tset k.brkOld n (s.brkNow t.core n, s.cycle), brkOwner := tset k.brkOwner n t.ctx }).past c h)) ∧
    (∀ f, Issues (.sampctlWrite f) s c → ∃ w : W64,
      exec (.sampctlWrite f) s = .next ((if s.activeOf (.sampctlWrite f) = 0 then s else s.setCore t.core { k with samp := w, sampOwner := t.ctx, sampLost := 0 }).past c h) ∧
      w.extractLsb' 46 8 = 0 ∧ (∀ j, j < 58 → (j < 46 ∨ 54 ≤ j) → w.getLsbD j = (half f k.samp).getLsbD j) ∧ w.getLsbD 63 = (half f k.samp).getLsbD 63 ∧
      (w.extractLsb' 58 5).toNat = (let n := ((half f k.samp).extractLsb' 58 5).toNat; if hi f then min 20 (max 6 n) else n)) ∧
    (∀ f, Issues (.normboxWrite f) s c → s.activeOf (.normboxWrite f) ≠ 0 → x.normAt = some s.cycle → exec (.normboxWrite f) s = .next held) ∧
    (∀ f, Issues (.normboxWrite f) s c → (s.activeOf (.normboxWrite f) ≠ 0 → x.normAt ≠ some s.cycle) →
      exec (.normboxWrite f) s = .next ((if s.activeOf (.normboxWrite f) = 0 then s else
        s.setCtx t.ctx { x with normbox := half f x.normbox &&& 0x8000FFFFFFFFFFFF }).past c h)) ∧
    (Issues .errclr s c → s.activeOf .errclr ≠ 0 → x.errAt = some s.cycle → exec .errclr s = .next held) ∧
    (Issues .errclr s c → x.errAt ≠ some s.cycle →
      exec .errclr s = .next ((if s.activeOf .errclr = 0 then s else s.setCtx t.ctx { x with errstat := 0, errpc := 0 }).past c h))

/-- O32. CTXSV, CTXLD, HEATRD, DBGRD, DBGWR and QPOST (R265, R274, R286, R287, R320, R322, R335), each once when ACTIVE is non-empty: CTXSV stores the block taken as the handler was entered (assumption log 28), sealed with its CRC, by device-scope stores in colour 0; CTXLD stages the block that it reads, traps on a poisoned one and kills on a bad one; HEATRD stores the records of one moment and counts those of the context (assumption log 48); DBGRD reads and DBGWR writes a unit of the group that its address names, which must be live, and for a write in system-handler mode; word 6 of the block of another group shows its mode as it is now, elsewhere a group in the system handler shows the block of its entry (assumption logs 28 and 50); QPOST traps with PROTECTION before MISALIGN (the model's order, assumption log 50), releases, then decrements PRED at its home, never below 0, and returns what it was. -/
def Obligations.SystemBlocks : Prop :=
  ∀ (s : State) (c : Clause),
    let g := s.cur
    let h := g.issuing
    let s0 := s.setCur h
    let pair := fun (n : BitVec 7) => (g.rs (n.toNat + 1) ++ g.rs n.toNat : W64).toNat
    let trap := fun (cause : Nat) => (Host.Outcome.next (s.trap s.who cause 0 (wordPc g c) (resumeHere g c)) : Host.Outcome State Fault Refusal)
    let kill := (Host.Outcome.next (s.kill s.who 0x01 (wordPc g c)) : Host.Outcome State Fault Refusal)
    let held := s.stays { g with wait := .none }
    (∀ f, Issues (.ctxsv f) s c →
      let a := pair f.sa
      (s.activeOf (.ctxsv f) = 0 → exec (.ctxsv f) s = .next (s.past c h)) ∧
      (s.activeOf (.ctxsv f) ≠ 0 → 2 ^ 56 ≤ a → exec (.ctxsv f) s = trap 0x04) ∧
      (s.activeOf (.ctxsv f) ≠ 0 → a < 2 ^ 56 → a % 4096 ≠ 0 → exec (.ctxsv f) s = trap 0x03) ∧
      (s.activeOf (.ctxsv f) ≠ 0 → a < 2 ^ 56 → a % 4096 = 0 → h.openAt a 4096 true = false → ∀ fr s1, g.frameS = some fr →
        s0.storeLines h ((List.range 32).map fun k => (a + 128 * k, BitVec.ofNat 1088 ((sealBlock fr.block).toNat / 2 ^ (1024 * k) % 2 ^ 1024), byteMask 0 128)) = .ok s1 →
        exec (.ctxsv f) s = .next (advance (s1.setCur { s1.cur with saved := true }) s.who c))) ∧
    (∀ f, Issues (.ctxld f) s c →
      let a := pair f.sa
      (s.activeOf (.ctxld f) = 0 → exec (.ctxld f) s = .next (s.past c h)) ∧
      (s.activeOf (.ctxld f) ≠ 0 → 2 ^ 56 ≤ a → exec (.ctxld f) s = trap 0x04) ∧
      (s.activeOf (.ctxld f) ≠ 0 → a < 2 ^ 56 → a % 4096 ≠ 0 → exec (.ctxld f) s = trap 0x03) ∧
      (s.activeOf (.ctxld f) ≠ 0 → a < 2 ^ 56 → a % 4096 = 0 → h.openAt a 4096 false = false → ∀ s1 b p, s0.loadLines h a 32 = .ok (s1, b, p) →
        (p = true → exec (.ctxld f) s = trap 0x06) ∧
        (p = false → s1.blockOk h (BitVec.ofNat 32768 b) = false → exec (.ctxld f) s = kill) ∧
        (p = false → s1.blockOk h (BitVec.ofNat 32768 b) = true →
          exec (.ctxld f) s = .next (advance (s1.setCur { s1.cur with staged := some (BitVec.ofNat 32768 b) }) s.who c)))) ∧
    (∀ f, Issues (.heatrd f) s c →
      let a := pair f.sa
      let e0 := (g.rs (f.sa.toNat + 2)).toNat
      let n := (g.rs (f.sa.toNat + 3)).toNat
      (4096 < n ∨ 524288 < e0 + n → exec (.heatrd f) s = kill) ∧
      (n ≤ 4096 → e0 + n ≤ 524288 →
        (s.activeOf (.heatrd f) = 0 ∨ n = 0 → exec (.heatrd f) s = .next (s.past c h)) ∧
        (s.activeOf (.heatrd f) ≠ 0 → n ≠ 0 → s.badGlobal true a = true → exec (.heatrd f) s = trap 0x04) ∧
        (s.activeOf (.heatrd f) ≠ 0 → n ≠ 0 → s.badGlobal true a = false → a % 16 ≠ 0 → exec (.heatrd f) s = trap 0x03) ∧
        (s.activeOf (.heatrd f) ≠ 0 → n ≠ 0 → s.badGlobal true a = false → a % 16 = 0 → h.openAt a (16 * n) true = false →
          let recs := (List.range n).map fun k => (a + 16 * k, s0.decayed.heatRecord (s.teamOf g).ctx (e0 + k))
          ∀ s1 s2, s0.heatReady h (recs.map (·.1)) = (s1, true) → s1.decayed.heatStores h [] (recs.map fun r => (r.1, r.2.1)) = .all s2 [] →
            exec (.heatrd f) s = .next (advance (s2.setCur (s2.cur.ws f.sd.toNat (BitVec.ofNat 32 (recs.countP (·.2.2))))) s.who c)))) ∧
    (∀ ctx e, s.heatRecord ctx e = match tget s.heat e with
      | some x => if x.ctx = ctx then (x.region * 2 ^ 21 + x.count % 2 ^ 16 * 2 ^ 64, true) else (2 ^ 64 - 1 + x.count % 2 ^ 16 * 2 ^ 64, false)
      | none => (2 ^ 64 - 1, false)) ∧
    (∀ f, Issues (.dbgrd f) s c →
      let a := g.rs f.sa.toNat
      let cls := (a.extractLsb' 24 3).toNat
      let n := (a.extractLsb' 0 24).toNat
      (4 ≤ cls ∨ (cls = 3 ∧ 1024 ≤ n) → exec (.dbgrd f) s = kill) ∧
      (s.activeOf (.dbgrd f) = 0 → debugBad false f s g = false → exec (.dbgrd f) s = .next (s.past c h)) ∧
      (s.activeOf (.dbgrd f) ≠ 0 → debugBad false f s g = false →
        (s.debugTarget g a = none → exec (.dbgrd f) s = .next (s.past c (h.ws f.sd.toNat 0))) ∧
        (∀ u, s.debugTarget g a = some u → let t := s.group u
          (cls = 0 → n = 0 → exec (.dbgrd f) s = .next (s.past c (h.ws f.sd.toNat 0xFFFFFFFF))) ∧
          (cls = 0 → n ≠ 0 → exec (.dbgrd f) s = .next (s.past c (h.ws f.sd.toNat (tgetD t.s n 0)))) ∧
          (cls = 1 → exec (.dbgrd f) s = .next (s.past c (h.ws f.sd.toNat (t.rl (n / 32) (n % 32))))) ∧
          (cls = 2 → exec (.dbgrd f) s = .next (s.past c (h.ws f.sd.toNat (if n % 2 = 0 then (t.rx (n / 2)).extractLsb' 0 32 else (t.rx (n / 2)).extractLsb' 32 32)))) ∧
          (cls = 3 → n = 6 → u ≠ s.who → ∃ v : W32, exec (.dbgrd f) s = .next (s.past c (h.ws f.sd.toNat v)) ∧
            (v.extractLsb' 14 2).toNat = (match t.mode with | .user => 0 | .userHandler => 1 | .sysHandler => 2) ∧
            (v.extractLsb' 24 8).toNat = t.cause % 256 ∧ v.getLsbD 12 = t.widen.isSome ∧ (v.extractLsb' 0 6).toNat = min t.stack.length 32) ∧
          (cls = 3 → (n ≠ 6 ∨ u = s.who) → ∀ fr, t.mode = .sysHandler → t.frameS = some fr →
            exec (.dbgrd f) s = .next (s.past c (h.ws f.sd.toNat (BitVec.ofNat 32 ((sealBlock fr.block).toNat / 2 ^ (32 * n)))))))) ) ∧
    (∀ f, Issues (.dbgwr f) s c →
      let a := g.rs f.sa.toNat
      let cls := (a.extractLsb' 24 3).toNat
      let n := (a.extractLsb' 0 24).toNat
      let x := g.rs f.sd.toNat
      (3 ≤ cls → exec (.dbgwr f) s = kill) ∧
      (debugBad true f s g = false → (s.activeOf (.dbgwr f) = 0 ∨ s.debugTarget g a = none) → exec (.dbgwr f) s = .next (s.past c h)) ∧
      (s.activeOf (.dbgwr f) ≠ 0 → debugBad true f s g = false → ∀ u, s.debugTarget g a = some u →
        ((s.group u).mode ≠ .sysHandler → exec (.dbgwr f) s = .next (s.past c h)) ∧
        ((s.group u).mode = .sysHandler → ∃ t, exec (.dbgwr f) s = .next (advance { s0 with groups := t } s.who c) ∧
          (∀ w, w ≠ u → tget t w = tget s0.groups w) ∧ ∃ y, tget t u = some y ∧
          (cls = 0 → n ≠ 0 → tgetD y.s n 0 = x ∧ (∀ m, m ≠ n → tgetD y.s m 0 = tgetD (s.group u).s m 0) ∧ y.v = (s.group u).v ∧ y.x = (s.group u).x) ∧
          (cls = 0 → n = 0 → y = s0.group u) ∧
          (cls = 1 → y.rl (n / 32) (n % 32) = x ∧ (y.rvp (n / 32)).getLsbD (n % 32) = false ∧ y.s = (s.group u).s ∧ y.x = (s.group u).x) ∧
          (cls = 2 → (y.rx (n / 2)).extractLsb' (32 * (n % 2)) 32 = x ∧ y.s = (s.group u).s ∧ y.v = (s.group u).v)))) ∧
    (∀ f, Issues (.qpost f) s c →
      let a := pair f.sa
      (s.activeOf (.qpost f) = 0 → exec (.qpost f) s = .next (s.past c h)) ∧
      (s.activeOf (.qpost f) ≠ 0 → 2 ^ 56 ≤ a → exec (.qpost f) s = trap 0x04) ∧
      (s.activeOf (.qpost f) ≠ 0 → a < 2 ^ 56 → a % 128 ≠ 0 → exec (.qpost f) s = trap 0x03) ∧
      (s.activeOf (.qpost f) ≠ 0 → a < 2 ^ 56 → a % 128 = 0 → (writesOpen g.pend 0xFF = true ∨ g.spadOpen = true) → g.faultParked = false → exec (.qpost f) s = .next held) ∧
      (s.activeOf (.qpost f) ≠ 0 → a < 2 ^ 56 → a % 128 = 0 → writesOpen g.pend 0xFF = false → g.spadOpen = false →
        ∀ s1 s2 l, s0.releaseAt h 3 0xFF = .ok (s1, true) →
          let r := s1.reqOf h (a + 0x40)
          s1.homeLine r = .ok (s2, l) → l.attrs.w = true → s2.pageFull r.asid r.va = false →
          let old := lineNat l.data 0x40 4
          (l.poison = false → old = 0 → exec (.qpost f) s = .next (advance (s2.setCur (s2.cur.ws f.sd.toNat 0)) s.who c)) ∧
          (l.poison = false → old ≠ 0 →
            let s3 := s2.homeWrite r l (byteMask 0x40 4) (lineSet l.data 0x40 4 (old - 1)) 0 false
            exec (.qpost f) s = .next (advance (s3.setCur (s3.cur.ws f.sd.toNat (BitVec.ofNat 32 old))) s.who c)) ∧
          (l.poison = true → f.sd ≠ 0 → ∃ x n, exec (.qpost f) s =
            .next (advance ({ s2 with free := n }.setCur ((s2.cur.ws f.sd.toNat x).poisonS f.sd.toNat)) s.who c))))

/-- O33. TSHAPE, TSHAPE.rd, TZERO, TSCL, CZERO and CSCALE (R244, R245, R258): what each writes of a tile, its scale column, an accumulator or a scalar register, and its illegal uses; every other tile, accumulator and register is as before. CTOV and VTOC move n accumulator rows to or from four vector registers a row, bit for bit (R250); CRQ requantises accumulator rows block by block (R78, R80), 32 columns a block, in its tile form into the whole of a tile with its scale column, in its vector form into register pairs with their scale bytes, and sets SAT and RANGE as its blocks do (R257); rows beyond 127, and a tile that does not suit, are illegal uses. -/
def Obligations.TileAndAccumulatorWords : Prop :=
  (
  ∀ (s : State) (c : Clause),
    let g := s.cur
    let h := g.issuing
    let kill := (Host.Outcome.next (s.kill s.who 0x01 (wordPc g c)) : Host.Outcome State Fault Refusal)
    let clear := fun (n : Nat) (w : W32) (k : Group) => k = { h with tiles := k.tiles, tp := k.tp } ∧
      (k.tile n).shape = w ∧ (k.tile n).elems = 0 ∧ (∀ e b, e < 128 → b < 8 → (k.tile n).entry e b = 0x7F) ∧ k.tp.getLsbD n = false ∧
      ∀ m, m ≠ n → k.tile m = g.tile m ∧ k.tp.getLsbD m = g.tp.getLsbD m
    (∀ f, Issues (.tshape f) s c →
      (f.mod = 0 → shapeLegal (g.rs f.vb.toNat) = false → exec (.tshape f) s = kill) ∧
      (f.mod = 0 → shapeLegal (g.rs f.vb.toNat) = true → ∃ k, exec (.tshape f) s = .next (s.past c k) ∧ clear f.vd.toNat (g.rs f.vb.toNat) k) ∧
      (f.mod ≠ 0 → exec (.tshape f) s = .next (s.past c (h.ws f.vb.toNat (g.tile f.vd.toNat).shape)))) ∧
    (∀ f, Issues (.tzero f) s c → ∃ k, exec (.tzero f) s = .next (s.past c k) ∧ clear f.ta.toNat (g.tile f.ta.toNat).shape k) ∧
    (∀ f, Issues (.tscl f) s c →
      let n := f.vc.toNat + 1
      let q := (g.rs f.vb.toNat).toNat
      let w := (g.tile f.vd.toNat).shape
      let legal := shpOn w = true ∧ shpMx w = true ∧ n ≤ 128 ∧ q + n ≤ shpEntries w
      (¬ legal → exec (.tscl f) s = kill) ∧
      (legal → ∃ t, exec (.tscl f) s = .next (s.past c { h with tiles := tset g.tiles f.vd.toNat t }) ∧
        t.shape = w ∧ t.elems = (g.tile f.vd.toNat).elems ∧
        (∀ k b, k < n → b < 8 → t.entry (q + k) b = (g.rx (f.va.toNat + k)).extractLsb' (8 * b) 8) ∧
        (∀ e b, (e < q ∨ q + n ≤ e) → e < 128 → b < 8 → t.entry e b = (g.tile f.vd.toNat).entry e b))) ∧
    (∀ f, Issues (.czero f) s c → ∃ k, exec (.czero f) s = .next (s.past c k) ∧ k = { h with accs := k.accs, cp := k.cp } ∧
      (let zeroed := fun (n : Nat) => n = f.cd.toNat ∨ (f.mod = 1 ∧ n = f.ce.toNat)
       ∀ n, (zeroed n → k.acc n = 0 ∧ k.cp.getLsbD n = false) ∧ (¬ zeroed n → k.acc n = g.acc n ∧ k.cp.getLsbD n = g.cp.getLsbD n))) ∧
    (∀ f, Issues (.cscale f) s c → ∃ a, exec (.cscale f) s = .next (s.past c { h with accs := tset g.accs f.vd.toNat a }) ∧
      ∀ i j, i < 128 → j < 128 → accWord a i j =
        BitVec.ofNat 32 (fmtF32.mul false (rmOf f.rm) (accWord (g.acc f.vd.toNat) i j).toNat (g.rs f.vb.toNat).toNat))
  ) ∧ (
  ∀ (s : State) (c : Clause),
    let g := s.cur
    let h := g.issuing
    let kill := (Host.Outcome.next (s.kill s.who 0x01 (wordPc g c)) : Host.Outcome State Fault Refusal)
    let blk := fun (f : FV) (r b : Nat) =>
      requantise ((List.range 32).map fun j => fmtF32.decode (accWord (g.acc f.va.toNat) r (32 * b + j)).toNat) (fmtOf f.ty)
        (fun j => if f.mod.getLsbD 2 then .sr (randWord (g.seed.getD (s.ctxOf g).rngseed) (BitVec.ofNat 32 (1024 * (s.teamOf g).linear) + lane g.tids (r % 32))
            g.calls (s.task (s.teamOf g).task).launchId (128 * (r / 32) + 32 * b + j)).toNat else .rne) (f.mod.getLsbD 1)
    let flags := fun (l : List ReqR) => ((if l.any (·.sat) then 4 else 0) ||| (if l.any (·.range) then 2 else 0) : BitVec 3)
    (∀ f, Issues (.ctov f) s c →
      let n := f.vc.toNat + 1
      let r := (g.rs f.vb.toNat).toNat
      (128 < r + n → exec (.ctov f) s = kill) ∧
      (r + n ≤ 128 → ∃ k, exec (.ctov f) s = .next (s.past c k) ∧ k = { h with v := k.v, vp := k.vp } ∧
        (∀ q b l, q < n → b < 4 → l < 32 → k.rl (f.vd.toNat + 4 * q + b) l = accWord (g.acc f.va.toNat) (r + q) (32 * b + l)) ∧
        (∀ m, (m < f.vd.toNat ∨ f.vd.toNat + 4 * n ≤ m) → k.rv m = g.rv m))) ∧
    (∀ f, Issues (.vtoc f) s c →
      let n := f.vc.toNat + 1
      let r := (g.rs f.vb.toNat).toNat
      (128 < r + n → exec (.vtoc f) s = kill) ∧
      (r + n ≤ 128 → ∃ k, exec (.vtoc f) s = .next (s.past c k) ∧ k = { h with accs := k.accs, cp := k.cp } ∧
        (∀ q b l, q < n → b < 4 → l < 32 → accWord (k.acc f.vd.toNat) (r + q) (32 * b + l) = g.rl (f.va.toNat + 4 * q + b) l) ∧
        (∀ i j, (i < r ∨ r + n ≤ i) → i < 128 → j < 128 → accWord (k.acc f.vd.toNat) i j = accWord (g.acc f.vd.toNat) i j) ∧
        (∀ m, m ≠ f.vd.toNat → k.acc m = g.acc m ∧ k.cp.getLsbD m = g.cp.getLsbD m) ∧
        k.cp.getLsbD f.vd.toNat = (if n = 128 then false else g.cp.getLsbD f.vd.toNat))) ∧
    (∀ f, Issues (.crq f) s c →
      let n := f.vc.toNat + 1
      let q := (g.rs f.vb.toNat).toNat
      let four := f.ty.toNat = 15
      let w := (g.tile f.vd.toNat).shape
      (f.mod.getLsbD 0 = true → 128 < q + (if four then 2 * n else n) → exec (.crq f) s = kill) ∧
      (f.mod.getLsbD 0 = true → q + (if four then 2 * n else n) ≤ 128 → ∃ k, exec (.crq f) s = .next (s.past c k) ∧
        k = { h with v := k.v, vp := k.vp, x := k.x, xp := k.xp, xstat := k.xstat, calls := if f.mod.getLsbD 2 then g.calls + 1 else g.calls } ∧
        (¬ four → ∀ p e, p < n → e < 128 → (k.rv (f.vd.toNat + p)).extractLsb' (8 * e) 8 =
          BitVec.ofNat 8 (((blk f (q + p) (e / 32)).elems[e % 32]?).getD 0)) ∧
        (¬ four → ∀ p b, p < n → b < 8 → (k.rx (f.vd.toNat + p)).extractLsb' (8 * b) 8 =
          (if b < 4 then BitVec.ofNat 8 (blk f (q + p) b).scale else 0x7F)) ∧
        (four → ∀ p e, p < n → e < 256 → (k.rv (f.vd.toNat + p)).extractLsb' (4 * e) 4 =
          BitVec.ofNat 4 (((blk f (q + 2 * p + e / 128) (e / 32 % 4)).elems[e % 32]?).getD 0)) ∧
        (four → ∀ p b, p < n → b < 8 → (k.rx (f.vd.toNat + p)).extractLsb' (8 * b) 8 =
          BitVec.ofNat 8 (blk f (q + 2 * p + b / 4) (b % 4)).scale) ∧
        (∀ m, (m < f.vd.toNat ∨ f.vd.toNat + n ≤ m) → k.rv m = g.rv m ∧ k.rx m = g.rx m) ∧
        k.xstat = g.xstat ||| flags ((List.range (if four then 2 * n else n)).flatMap fun i => (List.range 4).map fun b => blk f (q + i) b)) ∧
      (f.mod.getLsbD 0 = false →
        (shpOn w = false ∨ shpFmt w ≠ f.ty ∨ shpCmp w = true ∨ shpSq w = true ∨ 128 < shpCols w ∨ 128 < q + shpRows w) → exec (.crq f) s = kill) ∧
      (f.mod.getLsbD 0 = false → shpOn w = true → shpFmt w = f.ty → shpCmp w = false → shpSq w = false → shpCols w ≤ 128 → q + shpRows w ≤ 128 →
        ∃ k, exec (.crq f) s = .next (s.past c k) ∧
          k = { h with tiles := k.tiles, tp := k.tp, xstat := k.xstat, calls := if f.mod.getLsbD 2 then g.calls + 1 else g.calls } ∧
          (∀ m, m ≠ f.vd.toNat → k.tile m = g.tile m ∧ k.tp.getLsbD m = g.tp.getLsbD m) ∧
          (let t := k.tile f.vd.toNat
           t.shape = w ∧ k.tp.getLsbD f.vd.toNat = false ∧
           (shapeLegal w = true →
             (∀ i j, i < shpRows w → j < shpCols w → t.elem i j = (((blk f (q + i) (j / 32)).elems[j % 32]?).getD 0) % 2 ^ shpValBits w) ∧
             (∀ i b, i < shpRows w → b < 8 → t.entry i b = (if b < shpCols w / 32 then BitVec.ofNat 8 (blk f (q + i) b).scale else 0x7F)))) ∧
          k.xstat = g.xstat ||| flags ((List.range (shpRows w)).flatMap fun i => (List.range (shpCols w / 32)).map fun b => blk f (q + i) b)))
  )

/-- O34. TLDS, TSTS, CLDS, CSTS and TMOV at issue (R246 to R249): an illegal shape, pitch or region kills; addresses, each taken modulo 2^32 (the model's choice, assumption log 50), that lead nowhere trap with PROTECTION, then revoked ones with SHARE_REVOKED, then a misaligned base with MISALIGN; an absent line parks the group; a full tile counter stalls; else the move joins the tile counter with its operands captured. TILE_MOVE_COMPLETE for units of a move, and for the rest (R52, R53, R88, R241, R246 to R249, R342), where no earlier access to the same bytes is open and, for a move that fills a tile or an accumulator, no product of the group is under way (assumption log 50). One unit: of a store, it puts its 4-byte word or its scale byte at its scratchpad location, clears the poison of a whole word, and leaves every other byte of every scratchpad; of a load, it takes the word there into the tile or the accumulator, or, from unit 2048 on, the byte there into the scale column, and poisons the destination where a word it read is poisoned; of TMOV, it moves one word between a tile row and a lane, or, from unit 8192 on, one scale byte between the row's entry and the scale register (0x7F past the last block). FP6 containers hold zero in bits [7:6]. Several units, listed or the rest, land as one unit of them and then the others; and once none is left, the move is done: a load's tile is poisoned where it met poison and clean otherwise, an accumulator is poisoned, or clean if all of its words were written, a tile that TMOV wrote whole is clean, and the finished moves leave the counter in issue order. -/
def Obligations.TileMoves : Prop :=
  (
  ∀ (i : Instr) (s : State) (c : Clause), Issues i s c →
    let g := s.cur
    let h := g.issuing
    let stay := (Host.Outcome.next (s.stays { g with wait := .none }) : Host.Outcome State Fault Refusal)
    let kill := (Host.Outcome.next (s.kill s.who 0x01 (wordPc g c)) : Host.Outcome State Fault Refusal)
    let trap := fun (cause : Nat) => (Host.Outcome.next (s.trap s.who cause 0 (wordPc g c) (resumeHere g c)) : Host.Outcome State Fault Refusal)
    let base := fun (f : FM) => (if f.sb = 0 then (0 : W32) else g.rs f.sb.toNat) + BitVec.ofInt 32 f.off.toInt
    let joined := fun (m : TileMove) => (Host.Outcome.next ({ s with nextId := s.nextId + 1 }.past c { h with moves := g.moves ++ [{ m with id := s.nextId }] }) :
      Host.Outcome State Fault Refusal)
    let moved := fun (f : FM) (m : TileMove) (units : List (Nat × Nat)) =>
      let bytes := fun (k : Nat) => if (m.kind = .tlds ∨ m.kind = .tsts) ∧ 2048 ≤ k then 1 else 4
      let maps := units.flatMap fun x => [s.spadMap g.team x.2, s.spadMap g.team ((x.2 + bytes x.1 - 1) % 2 ^ 32)]
      let loc := fun (a : Nat) => match s.spadMap g.team a with | .at t o => t * 2 ^ 32 + o | _ => 0
      let absent := (units.flatMap fun x => [(loc x.2 / 2 ^ 32, loc x.2 % 2 ^ 32 / 128), (loc x.2 / 2 ^ 32, (loc x.2 % 2 ^ 32 + bytes x.1 - 1) / 128)]).filter
        fun l => (s.team l.1).absent.contains l.2
      (SpadAt.nothing ∈ maps → exec i s = trap 0x04) ∧
      (SpadAt.nothing ∉ maps → SpadAt.revoked ∈ maps → exec i s = trap 0x07) ∧
      (SpadAt.nothing ∉ maps → SpadAt.revoked ∉ maps → (base f).toNat % 4 ≠ 0 → exec i s = trap 0x03) ∧
      (SpadAt.nothing ∉ maps → SpadAt.revoked ∉ maps → (base f).toNat % 4 = 0 →
        (absent ≠ [] → exec i s = .next (s.parks (.absent absent.eraseDups))) ∧
        (absent = [] → 15 ≤ g.moves.length → exec i s = stay) ∧
        (absent = [] → g.moves.length < 15 → exec i s = joined { m with locs := units.map fun x => (x.1, loc x.2) }))
    let tile := fun (f : FM) => g.tile f.vd.toNat
    let tileOk := fun (f : FM) => shpOn (tile f).shape = true ∧ shpRB (tile f).shape ≤ (g.rs f.va.toNat).toNat ∧ (g.rs f.va.toNat).toNat % 4 = 0 ∧
      (f.mod.getLsbD 0 = true → (g.rs f.va.toNat).toNat % 128 = 0 ∧ (base f).toNat % 128 = 0)
    let tileUnits_ := fun (f : FM) => tileUnits (tile f).shape (f.mod.getLsbD 0) (base f).toNat (g.rs f.va.toNat).toNat (g.rs (f.va.toNat + 1)).toNat
    let region := fun (f : FM) => g.rs (f.va.toNat + 1)
    let rows := fun (f : FM) => ((region f).extractLsb' 0 7).toNat + 1
    let cols := fun (f : FM) => ((region f).extractLsb' 8 7).toNat + 1
    let row0 := fun (f : FM) => ((region f).extractLsb' 16 7).toNat
    let accOk := fun (f : FM) => row0 f + rows f ≤ 128 ∧ 4 * cols f ≤ (g.rs f.va.toNat).toNat ∧ (g.rs f.va.toNat).toNat % 4 = 0 ∧
      (region f).getLsbD 7 = false ∧ (region f).getLsbD 15 = false ∧ (region f).extractLsb' 23 9 = 0
    let accUnits_ := fun (f : FM) => (List.range (rows f)).flatMap fun r => (List.range (cols f)).map fun k =>
      (128 * (row0 f + r) + k, ((base f).toNat + r * (g.rs f.va.toNat).toNat + 4 * k) % 2 ^ 32)
    (∀ f, i = .tlds f → (¬ tileOk f → exec i s = kill) ∧ (tileOk f → moved f { id := 0, kind := .tlds, dest := f.vd.toNat, shape := (tile f).shape } (tileUnits_ f))) ∧
    (∀ f, i = .tsts f → (¬ tileOk f → exec i s = kill) ∧ (tileOk f →
      moved f { id := 0, kind := .tsts, dest := f.vd.toNat, shape := (tile f).shape, elems := (tile f).elems, scol := (tile f).scol } (tileUnits_ f))) ∧
    (∀ f, i = .clds f → (¬ accOk f → exec i s = kill) ∧ (accOk f → moved f { id := 0, kind := .clds, dest := f.vd.toNat } (accUnits_ f))) ∧
    (∀ f, i = .csts f → (¬ accOk f → exec i s = kill) ∧ (accOk f → moved f { id := 0, kind := .csts, dest := f.vd.toNat, acc := g.acc f.vd.toNat } (accUnits_ f))) ∧
    (∀ f, i = .tmov f →
      let t := g.tile f.va.toNat
      let n := f.vc.toNat + 1
      let legal := shpOn t.shape = true ∧ n ≤ 128 ∧ (g.rs f.vb.toNat).toNat + n ≤ shpRows t.shape ∧ (shpMx t.shape = true → f.vd.toNat + n ≤ g.nx)
      (¬ legal → exec i s = kill) ∧ (legal → 15 ≤ g.moves.length → exec i s = stay) ∧
      (legal → g.moves.length < 15 → exec i s = joined
        { id := 0, kind := if f.mod = 0 then .tmovIn else .tmovOut, dest := if f.mod = 0 then f.va.toNat else f.vd.toNat, shape := t.shape,
          row0 := (g.rs f.vb.toNat).toNat, rows := n, elems := t.elems, scol := t.scol,
          regs := if f.mod = 0 then (List.range n).map fun j => (g.rv (f.vd.toNat + j), g.rx (f.vd.toNat + j)) else [] }))
  ) ∧ (
  ∀ (s : State) (op : Nat) (m : TileMove), s.memOk = true → s.cur.moves.find? (fun q => q.id == op) = some m → m.done = false → s.cur.moveHeld m = false →
    (m.kind = .tlds ∨ m.kind = .clds ∨ m.kind = .tmovIn → s.cur.product = none) →
    let g := s.cur
    let fp6 : Bool := shpFmt m.shape == 13 || shpFmt m.shape == 14
    let spad := fun (x : State) (t a : Nat) => mread noSide (x.team t).spad a
    let left := m.units.filter fun k => !m.landed.contains k
    (∀ k, k ∈ left → ∃ t, exec (.tileMoveComplete op (some [k])) s = .next t ∧
      let loc := ((m.locs.find? (·.1 == k)).map (·.2)).getD 0
      let o := loc % 2 ^ 32
      let n := if (m.kind = .tlds ∨ m.kind = .tsts) ∧ 2048 ≤ k then 1 else 4
      let poisoned := ∃ j, j < (o % 4 + n + 3) / 4 ∧ o / 4 + j ∈ (s.team (loc / 2 ^ 32)).spadPoison
      let byte := fun (b : Nat) => spad s (loc / 2 ^ 32) (o + b)
      (m.kind = .tsts ∨ m.kind = .csts → t.cur.tiles = g.tiles ∧ t.cur.accs = g.accs ∧ t.cur.v = g.v ∧ t.cur.x = g.x ∧
        (n = 4 → o % 4 = 0 → o / 4 ∉ (t.team (loc / 2 ^ 32)).spadPoison) ∧
        ∀ u a, spad t u a = (if u = loc / 2 ^ 32 ∧ o ≤ a ∧ a < o + n then
          (if m.kind = .csts then m.acc.extractLsb' (32 * k + 8 * (a - o)) 8
           else if n = 1 then m.scol.extractLsb' (8 * (k - 2048)) 8
           else m.elems.extractLsb' (32 * k + 8 * (a - o)) 8 &&& if fp6 then 0x3F else 0xFF)
          else spad s u a)) ∧
      (m.kind = .tlds → t.teams = s.teams ∧ t.cur.v = g.v ∧ t.cur.x = g.x ∧ t.cur.accs = g.accs ∧
        (m.dest < 16 → (t.cur.tilePoison m.dest = true ↔ (g.tilePoison m.dest = true ∨ poisoned))) ∧
        (∀ e, e ≠ m.dest → t.cur.tile e = g.tile e) ∧ (t.cur.tile m.dest).shape = (g.tile m.dest).shape ∧
        (k < 2048 → (t.cur.tile m.dest).scol = (g.tile m.dest).scol ∧
          (∀ b, b < 4 → (t.cur.tile m.dest).elems.extractLsb' (32 * k + 8 * b) 8 = byte b &&& if fp6 then 0x3F else 0xFF) ∧
          ∀ j, j < 65536 → (j < 32 * k ∨ 32 * k + 32 ≤ j) → (t.cur.tile m.dest).elems.getLsbD j = (g.tile m.dest).elems.getLsbD j) ∧
        (2048 ≤ k → k < 3072 → (t.cur.tile m.dest).elems = (g.tile m.dest).elems ∧
          (t.cur.tile m.dest).scol.extractLsb' (8 * (k - 2048)) 8 = byte 0 ∧
          ∀ j, j < 8192 → (j < 8 * (k - 2048) ∨ 8 * (k - 2048) + 8 ≤ j) → (t.cur.tile m.dest).scol.getLsbD j = (g.tile m.dest).scol.getLsbD j)) ∧
      (m.kind = .clds → k < 16384 → t.teams = s.teams ∧ t.cur.v = g.v ∧ t.cur.x = g.x ∧ t.cur.tiles = g.tiles ∧
        (m.dest < 8 → (t.cur.accPoison m.dest = true ↔ (g.accPoison m.dest = true ∨ poisoned))) ∧
        (∀ e, e ≠ m.dest → t.cur.acc e = g.acc e) ∧ (∀ b, b < 4 → (t.cur.acc m.dest).extractLsb' (32 * k + 8 * b) 8 = byte b) ∧
        ∀ j, j < 524288 → (j < 32 * k ∨ 32 * k + 32 ≤ j) → (t.cur.acc m.dest).getLsbD j = (g.acc m.dest).getLsbD j) ∧
      (m.kind = .tmovIn → t.teams = s.teams ∧ t.cur.v = g.v ∧ t.cur.x = g.x ∧ t.cur.accs = g.accs ∧ t.cur.tp = g.tp ∧
        (∀ e, e ≠ m.dest → t.cur.tile e = g.tile e) ∧ (t.cur.tile m.dest).shape = (g.tile m.dest).shape ∧
        (k < 8192 → ∀ v x, m.regs[k / 32]? = some (v, x) →
          let p := 8 * shpRB m.shape * (m.row0 + k / 32) + 32 * (k % 32)
          p + 32 ≤ 65536 → (t.cur.tile m.dest).scol = (g.tile m.dest).scol ∧
          (t.cur.tile m.dest).elems.extractLsb' p 32 = v.extractLsb' (32 * (k % 32)) 32 &&& (if fp6 then 0x3F3F3F3F else 0xFFFFFFFF) ∧
          ∀ j, j < 65536 → (j < p ∨ p + 32 ≤ j) → (t.cur.tile m.dest).elems.getLsbD j = (g.tile m.dest).elems.getLsbD j) ∧
        (8192 ≤ k → ∀ v x, m.regs[(k - 8192) / 8]? = some (v, x) →
          let p := 64 * (m.row0 + (k - 8192) / 8) + 8 * (k % 8)
          p + 8 ≤ 8192 → (t.cur.tile m.dest).elems = (g.tile m.dest).elems ∧
          (t.cur.tile m.dest).scol.extractLsb' p 8 = x.extractLsb' (8 * (k % 8)) 8 ∧
          ∀ j, j < 8192 → (j < p ∨ p + 8 ≤ j) → (t.cur.tile m.dest).scol.getLsbD j = (g.tile m.dest).scol.getLsbD j)) ∧
      (m.kind = .tmovOut → t.teams = s.teams ∧ t.cur.tiles = g.tiles ∧ t.cur.accs = g.accs ∧
        (k < 8192 → t.cur.x = g.x ∧ t.cur.rl (m.dest + k / 32) (k % 32) =
            (if 32 * (k % 32) < 8 * shpRB m.shape then m.elems.extractLsb' (8 * shpRB m.shape * (m.row0 + k / 32) + 32 * (k % 32)) 32 else 0) ∧
          (t.cur.rvp (m.dest + k / 32)).getLsbD (k % 32) = false ∧
          ∀ r l, l < 32 → (r ≠ m.dest + k / 32 ∨ l ≠ k % 32) → t.cur.rl r l = g.rl r l) ∧
        (8192 ≤ k →
          let r := m.dest + (k - 8192) / 8
          let q := m.row0 + (k - 8192) / 8
          t.cur.v = g.v ∧ (t.cur.rx r).extractLsb' (8 * (k % 8)) 8 =
            (if k % 8 < shpBlocks m.shape then m.scol.extractLsb' (64 * (if shpSq m.shape then q / 32 else q) + 8 * (k % 8)) 8 else 0x7F) ∧
          (t.cur.rxp r).getLsbD (k % 8) = false ∧
          ∀ y b, b < 8 → (y ≠ r ∨ b ≠ k % 8) → (t.cur.rx y).extractLsb' (8 * b) 8 = (g.rx y).extractLsb' (8 * b) 8)) ∧
      ∃ bad : Bool, t.cur.moves.find? (fun q => q.id == op) = some { m with landed := m.landed ++ left.filter (· == k), bad := bad } ∧
        (bad = true ↔ (m.bad = true ∨ ((m.kind = .tlds ∨ m.kind = .clds) ∧ poisoned)))) ∧
    (∀ l k rest, left.filter (fun j => l.contains j) = k :: rest → k ∉ rest →
      ∃ s1, exec (.tileMoveComplete op (some [k])) s = .next s1 ∧ exec (.tileMoveComplete op (some l)) s = exec (.tileMoveComplete op (some rest)) s1) ∧
    (∀ k rest, left = k :: rest → k ∉ rest →
      ∃ s1, exec (.tileMoveComplete op (some [k])) s = .next s1 ∧ exec (.tileMoveComplete op none) s = exec (.tileMoveComplete op none) s1) ∧
    (left = [] → ∃ t, exec (.tileMoveComplete op none) s = .next t ∧ t.teams = s.teams ∧ t.cur.tiles = g.tiles ∧ t.cur.accs = g.accs ∧ t.cur.v = g.v ∧ t.cur.x = g.x ∧
      t.cur.moves = (g.moves.map fun q => if q.id = op then { m with done := true } else q).dropWhile (·.done) ∧
      (m.kind = .tlds → m.dest < 16 → t.cur.tilePoison m.dest = m.bad) ∧
      (m.kind = .clds → m.dest < 8 → t.cur.accPoison m.dest = (m.bad || g.accPoison m.dest && m.locs.length != 16384)) ∧
      (m.kind = .tmovIn → m.dest < 16 → t.cur.tilePoison m.dest =
        (g.tilePoison m.dest && !(decide (m.rows = shpRows m.shape) && !(shpMx m.shape && shpSq m.shape)))))
  )

/-- O35. MMA, MMAS, MMAD, MMAF and MMAI at issue (R251 to R255, R59): unsuitable operands kill; a NaN scale among those consumed traps with SCALE_NAN under GCTL.SCALETRAP; else the word clears MPROG.VALID, starts at the chunk that MPROG named for it, or at chunk 0, and its group waits in the queue of its core's array; with no chunk left it is over. MATRIX_CHUNK_COMPLETE for the group at the head of its core's array queue (R76, R77, R251 to R255): chunk q of the product is added to the accumulator words that the product covers, every other word is as before, a NaN scale among those that the chunk consumes of either operand sets XSTAT.NANS, for MMA, MMAS and both halves of MMAD, and no other flag changes; the group joins the queue again for its next chunk, or after the last goes on to its next word. -/
def Obligations.MatrixProducts : Prop :=
  (
  ∀ (i : Instr) (s : State) (c : Clause), Issues i s c →
    let g := s.cur
    let h := g.issuing
    let k := s.teamOf g |>.core
    let kill := (Host.Outcome.next (s.kill s.who 0x01 (wordPc g c)) : Host.Outcome State Fault Refusal)
    let starts := fun (chunks : Nat) (nan : Bool) =>
      let h1 := { h with mprog := putBits g.mprog 63 (0#1) }
      let named := g.mprog.getLsbD 63 && (g.mprog.extractLsb' 0 54).toNat == (wordPc g c).toNat / 8
      let first := if named then min (g.mprog.extractLsb' 54 4).toNat chunks else 0
      (g.gctl.getLsbD 0 = true → nan = true → exec i s = .next (s.trap s.who 0x05 0 (wordPc g c) (resumeHere g c))) ∧
      (g.gctl.getLsbD 0 = false ∨ nan = false →
        (chunks ≤ first → exec i s = .next (s.past c h1)) ∧
        (first < chunks → exec i s = .next ((s.setCore k { s.core k with arrayQ := (s.core k).arrayQ.filter (· != s.who) ++ [s.who] }).stays
          { h1 with wait := .product, product := some ⟨i, first, chunks⟩ })))
    let a := fun (f : FX) => (⟨f.ta.toNat, f.mod.getLsbD 0⟩ : MatOp)
    let b := fun (f : FX) => (⟨f.tb.toNat, f.mod.getLsbD 1⟩ : MatOp)
    let x := fun (f : FX) => (⟨f.tg.toNat, f.mod.getLsbD 2⟩ : MatOp)
    let nan := fun (o : MatOp) (n : Nat) => decide (∃ r, r < o.rows g ∧ ∃ q, q < n ∧ o.scale g r q = 0xFF)
    (∀ f, i = .mma f → (mmaBad f (mxCode f.fa) (mxCode f.fb) 32 g = true → exec i s = kill) ∧
      (mmaBad f (mxCode f.fa) (mxCode f.fb) 32 g = false → starts ((a f).cols g / 32) (nan (a f) ((a f).cols g / 32) || nan (b f) ((a f).cols g / 32)))) ∧
    (∀ f, i = .mmas f → (mmasBad f g = true → exec i s = kill) ∧
      (mmasBad f g = false → starts (2 * (a f).cols g / 32) (nan (a f) (2 * (a f).cols g / 32) || nan (b f) (2 * (a f).cols g / 32)))) ∧
    (∀ f, i = .mmad f → (mmadBad f g = true → exec i s = kill) ∧
      (mmadBad f g = false → starts ((a f).cols g / 32 + (a f).rows g / 32)
        (nan (a f) ((a f).cols g / 32) || nan (b f) ((a f).cols g / 32) || nan (x f) ((x f).cols g / 32)))) ∧
    (∀ f, i = .mmaf f → (mmaBad f (halfCode f.fa) (halfCode f.fb) 16 g = true → exec i s = kill) ∧
      (mmaBad f (halfCode f.fa) (halfCode f.fb) 16 g = false → starts ((a f).cols g / 16) false)) ∧
    (∀ f, i = .mmai f → (mmaBad f (intCode f.fa) (intCode f.fb) 32 g = true → exec i s = kill) ∧
      (mmaBad f (intCode f.fa) (intCode f.fb) 32 g = false → starts ((a f).cols g / 32) false))
  ) ∧ (
  ∀ (s : State) (c : Clause) (p : Product) (rest : List Nat), s.cur.status = .live → s.cur.clause = some c → s.cur.product = some p →
    let g := s.cur
    let k := s.core (s.coreOf g)
    let q := p.next
    (k.arrayQ.filter fun v => (s.group v).product.isSome) = s.who :: rest →
    ∃ t, exec .matrixChunkComplete s = .next t ∧
      (t.core (s.coreOf g)).arrayQ = rest ++ (if q + 1 < p.chunks then [s.who] else []) ∧
      (q + 1 < p.chunks → t.cur.product = some { p with next := q + 1 } ∧ t.cur.clause = some c ∧ t.cur.wait = g.wait) ∧
      (p.chunks ≤ q + 1 → t.cur.product = none ∧ t.cur.wait = .none ∧
        (c.idx + 1 < c.words.length → t.cur.clause = some { c with idx := c.idx + 1 } ∧ t.cur.pc = g.pc) ∧
        (c.words.length ≤ c.idx + 1 → t.cur.clause = none ∧ t.cur.pc = nextHeader g c)) ∧
      t.cur.v = g.v ∧ t.cur.s = g.s ∧ t.cur.tiles = g.tiles ∧ t.cur.cp = g.cp ∧
      (let word := fun (x : State) (n i j : Nat) => accWord (x.cur.acc n) i j
       let only := fun (cd m n : Nat) (v : Nat → Nat → W32 → W32) =>
         (∀ i j, i < 128 → j < 128 → word t cd i j = (if i < m ∧ j < n then v i j (word s cd i j) else word s cd i j)) ∧
         (∀ o, o ≠ cd → t.cur.acc o = g.acc o)
       let a := fun (f : FX) => (⟨f.ta.toNat, f.mod.getLsbD 0⟩ : MatOp)
       let b := fun (f : FX) => (⟨f.tb.toNat, f.mod.getLsbD 1⟩ : MatOp)
       let x := fun (f : FX) => (⟨f.tg.toNat, f.mod.getLsbD 2⟩ : MatOp)
       let num := fun (o : MatOp) (i e : Nat) => (fmtOf (shpFmt (o.shape g))).decode (o.elem g i e)
       let nans := fun (o : MatOp) (m : Nat) => decide (∃ i, i < m ∧ o.scale g i q = 0xFF)
       let flagged := fun (nan : Bool) => t.cur.xstat = g.xstat ||| (if nan then 1 else 0)
       (∀ f, p.instr = .mma f →
         only f.cd.toNat ((a f).rows g) ((b f).rows g) (fun i j w => accAdd w (mxValue ((a f).scale g i q) ((b f).scale g j q)
           ((List.range 32).map fun e => num (a f) i (32 * q + e)) ((List.range 32).map fun e => num (b f) j (32 * q + e)))) ∧
         flagged (nans (a f) ((a f).rows g) || nans (b f) ((b f).rows g))) ∧
       (∀ f, p.instr = .mmas f →
         only f.cd.toNat ((a f).rows g) ((b f).rows g) (fun i j w => accAdd w (mxValue ((a f).scale g i q) ((b f).scale g j q)
           ((List.range 32).map fun e => sparseElem (a f) ⟨f.tg.toNat, false⟩ g i (32 * q + e)) ((List.range 32).map fun e => num (b f) j (32 * q + e)))) ∧
         flagged (nans (a f) ((a f).rows g) || nans (b f) ((b f).rows g))) ∧
       (∀ f, p.instr = .mmad f →
         let n := (a f).cols g
         (q < n / 32 → only f.cd.toNat ((a f).rows g) ((b f).rows g) (fun i j w => accAdd w (mxValue ((a f).scale g i q) ((b f).scale g j q)
           ((List.range 32).map fun e => num (a f) i (32 * q + e)) ((List.range 32).map fun e => num (b f) j (32 * q + e)))) ∧
           flagged (nans (a f) ((a f).rows g) || nans (b f) ((b f).rows g))) ∧
         (n / 32 ≤ q →
           let r := q - n / 32
           only f.ce.toNat ((b f).rows g) n (fun i j w => accAdd w (mxValue ((x f).scale g (32 * r) (i / 32)) ((a f).scale g (32 * r) (j / 32))
             ((List.range 32).map fun e => num (x f) (32 * r + e) i) ((List.range 32).map fun e => num (a f) (32 * r + e) j))) ∧
           flagged (decide (∃ w, w < (b f).rows g / 32 ∧ (x f).scale g (32 * r) w = 0xFF) || decide (∃ w, w < n / 32 ∧ (a f).scale g (32 * r) w = 0xFF)))) ∧
       (∀ f, p.instr = .mmaf f →
         only f.cd.toNat ((a f).rows g) ((b f).rows g) (fun i j w => accAdd w (blockValue
           ((List.range 16).map fun e => num (a f) i (16 * q + e)) ((List.range 16).map fun e => num (b f) j (16 * q + e)) 0)) ∧ flagged false) ∧
       (∀ f, p.instr = .mmai f →
         only f.cd.toNat ((a f).rows g) ((b f).rows g) (fun i j w => w + BitVec.ofInt 32
           (((List.range 32).map fun e => elemInt (f.fa == 0) 8 ((a f).elem g i (32 * q + e)) * elemInt (f.fb == 0) 8 ((b f).elem g j (32 * q + e))).foldl (· + ·) 0)) ∧ flagged false))
  )

/-- O36. TCOPY, TCOPYS and STASH (R200, R204, R205, R216, R223, R224): a record address beyond 2^56 traps with PROTECTION, a misaligned one with MISALIGN; a full copy counter or token stalls; an issuer takes a slot, or waits in the queue, longest waiter first. RECORD_READ_COMPLETE reads the layout record once the group has no open store to it: a poisoned one traps, a refused one kills or traps, and an accepted one issues the operation: ENGSEQ advances and is captured, the token counts it, it joins the copy counter, and a load makes the lines that it lands in absent. Where an operation finds its elements (R206 to R208, R210 to R213): the plain and stash layouts, whose inside positions have the address BASE plus the strides and whose MX elements sit in lines or packed spans; window mode, which fills positions beside the image and zeroes channels outside; sparse mode, whose tile holds a bitmap and the values of its set bits; the rows of the scratchpad, turned under TRN and swizzled under SWZ; the scale area; and the transposed layout of a stash. The conversion of elements (R209, R71, R78): the bits of a same-format element; CVT between wide formats; CVT under the tile scale, or REQ of the block, from wide to MX; CVT of the scaled value from MX to wide, NaN with XSTAT.NANS where the scale is 0xFF; zeros and fills converted as values; and the scale of a same-format block, 0x7F where nothing of it came from memory. Reading an element (R207, R210, R212, R73, R74): a zero or a fill reads nothing, and counts where it is out of bounds; a wide or integer element is read as its bytes; an MX element is read from its line, or from two lines of a packed span, with the scale byte of its block; a sparse one reads its bitmap up to its bit, and where the bit is set the value whose rank is the number of set bits below; a read is made at group scope in the operation's colour, and beyond 2^56 it is a violation. TCQRY writes the completion record of the operation that named the token last (R217, R225): 1 and 0 where none has, 0 while it is in flight, 2 while it is parked, 3 or 4 from its cancellation on; TOKCLR clears the signalled bit and nothing else (R226). -/
def Obligations.CopiesAndTokens : Prop :=
  (
  ∀ (s : State) (c : Clause),
    let g := s.cur
    let h := g.issuing
    let s0 := s.setCur h
    let k := s.coreOf g
    let issues := fun (i : Instr) (f : FE) (kind : Nat) => Issues i s c →
      let a := (g.rs (f.sr.toNat + 1) ++ g.rs f.sr.toNat : W64).toNat
      let core := s.core k
      let queue := core.slotQ.filter fun p => s0.atWord p.1
      let full := 15 ≤ g.copies.length ∨ (g.tok f.tok.toNat).count = 15
      let ok := s.activeOf i ≠ 0 ∧ a < 2 ^ 56 ∧ a % 64 = 0
      (s.activeOf i = 0 → exec i s = .next (s.past c h)) ∧
      (s.activeOf i ≠ 0 → 2 ^ 56 ≤ a → exec i s = .next (s.trap s.who 0x04 0 (wordPc g c) (resumeHere g c))) ∧
      (s.activeOf i ≠ 0 → a < 2 ^ 56 → a % 64 ≠ 0 → exec i s = .next (s.trap s.who 0x03 0 (wordPc g c) (resumeHere g c))) ∧
      (ok → full → exec i s = .next (s.stays { g with wait := .none })) ∧
      (ok → ¬ full → core.held = some s.who →
        exec i s = .next ((s.setCore k { core with held := none }).stays { h with wait := .record kind f })) ∧
      (ok → ¬ full → core.held ≠ some s.who → queue = [] → s0.usedSlots k < 16 →
        exec i s = .next ((s.setCore k { core with slotQ := [] }).stays { h with wait := .record kind f })) ∧
      (ok → ¬ full → core.held ≠ some s.who → (queue ≠ [] ∨ 16 ≤ s0.usedSlots k) → (∀ p ∈ queue, p.1 ≠ s.who) →
        exec i s = .next ((s.setCore k { core with slotQ := slotInsert (fun v => (s0.group v).gid % 4) s.who s.cycle queue }).stays { g with wait := .none }))
    (∀ f, issues (.tcopy f) f 0) ∧ (∀ f, issues (.tcopys f) f 1) ∧ (∀ f, issues (.stash f) f 2) ∧
    (∀ kind f s1 line poison, g.status = .live → g.clause = some c → g.wait = .record kind f →
      let a := (g.rs (f.sr.toNat + 1) ++ g.rs f.sr.toNat : W64).toNat
      g.recordOpen a = [] →
      s.loadLine (s.reqOf g a) 0 0 = .ok (s1, (line, poison)) →
      let lrec := BitVec.ofNat 512 (lineNat line (a % 128) 64)
      let check := (layOf lrec).check (copyKind kind) (coordsOf (layOf lrec) g f) (g.rs f.sx.toNat).toNat (s1.spadSize g.team)
      (poison = true → exec .recordReadComplete s = .next (s1.trap s.who 0x06 0 (wordPc g c) (resumeHere g c))) ∧
      (poison = false → check = some 0x01 → exec .recordReadComplete s = .next (s1.kill s.who 0x01 (wordPc g c))) ∧
      (∀ cause, poison = false → check = some cause → cause ≠ 0x01 →
        exec .recordReadComplete s = .next (s1.trap s.who cause 0 (wordPc g c) (resumeHere g c))) ∧
      (poison = false → check = none → s1.who = s.who → ∃ t, exec .recordReadComplete s = .next (advance t s.who c) ∧
        t.cur.engseq = s1.cur.engseq + 1 ∧ (t.cur.tok f.tok.toNat).count = (s1.cur.tok f.tok.toNat).count + 1 ∧ (t.cur.tok f.tok.toNat).sig = false ∧
        t.cur.copies = s1.cur.copies ++ [⟨s1.nextId, false⟩] ∧ t.cur.wait = .none ∧ t.cur.v = s1.cur.v ∧ t.cur.s = s1.cur.s ∧
        (∃ o, tget t.ops s1.nextId = some o ∧ o.token = f.tok.toNat ∧ o.record = lrec ∧ o.groups = [s.who] ∧ o.engseq = s1.cur.engseq + 1 ∧ o.status = .running ∧
          o.kind = (if kind = 0 then .load else if kind = 1 then .store else .stash)) ∧
        (∀ l, l ∈ (t.team s1.cur.team).absent ↔ l ∈ (s1.team s1.cur.team).absent ∨
          (kind = 0 ∧ l ∈ tkeys ((layOf lrec).landing (s1.cur.rs f.sx.toNat).toNat)))))
  ) ∧ (
  ∀ (l : Lay) (co : List Int) (b : List Nat), l.ndim ≤ 4 → l.mfmt ≤ 17 → l.mfmt ≠ 3 → l.mfmt ≠ 7 →
    let c := fun (n : Nat) => (co[n]?).getD 0
    let p := fun (n : Nat) => (b[n]?).getD 0
    let x := fun (n : Nat) => c n + (p n : Int)
    let inside := ∀ n, n ≤ l.ndim → 0 ≤ x n ∧ x n < (l.e n : Int)
    let row : Int := (l.base : Int) + (if 1 ≤ l.ndim then x 1 * (l.st 1 : Int) else 0) + (if 2 ≤ l.ndim then x 2 * (l.st 2 : Int) else 0) +
      (if 3 ≤ l.ndim then x 3 * (l.st 3 : Int) else 0) + (if 4 ≤ l.ndim then x 4 * (l.st 4 : Int) else 0)
    let w : Nat := if l.mfmt = 0 ∨ l.mfmt = 4 then 1 else if l.mfmt = 2 ∨ l.mfmt = 6 ∨ l.mfmt = 8 then 4 else 2
    let i0 := (x 0).toNat
    let e := if 16 ≤ l.mfmt then 512 else if l.mfmt = 15 then 256 else 128
    let bits := if 16 ≤ l.mfmt ∨ l.mfmt = 13 ∨ l.mfmt = 14 then 6 else if l.mfmt = 15 then 4 else 8
    (l.mode = 0 ∨ l.mode = 3 →
      (inside → l.mfmt ≤ 10 → l.source co b = .mem ⟨((row + (i0 * w : Nat)) % 2 ^ 64).toNat, 0, 0⟩) ∧
      (inside → 11 ≤ l.mfmt → l.source co b =
        .mem ⟨((row + ((if 16 ≤ l.mfmt then 384 else 128) * (i0 / e) : Nat)) % 2 ^ 64).toNat, bits * (i0 % e), i0 % e / 32⟩) ∧
      (¬ inside → l.source co b = .zero true)) ∧
    (l.mode = 2 → l.mfmt ≤ 10 →
      let q := x 1
      let wd : Int := l.e 1
      let ht : Int := l.e 2
      let offs := BitVec.ofInt 32 (c 2)
      let yi := q / wd % ht + (offs.extractLsb' 16 16).toInt - (l.padh : Int)
      let xi := q % wd + (offs.extractLsb' 0 16).toInt - (l.padw : Int)
      let beside := q < 0 ∨ (l.e 3 : Int) * ht * wd ≤ q ∨ yi < 0 ∨ ht ≤ yi ∨ xi < 0 ∨ wd ≤ xi
      (beside → l.source co b = .fill) ∧
      (¬ beside → (x 0 < 0 ∨ (l.e 0 : Int) ≤ x 0) → l.source co b = .zero true) ∧
      (¬ beside → 0 ≤ x 0 → x 0 < (l.e 0 : Int) → l.source co b = .mem
        ⟨(((l.base : Int) + x 0 * (w : Int) + xi * (l.st 1 : Int) + yi * (l.st 2 : Int) + q / (wd * ht) * (l.st 3 : Int)) % 2 ^ 64).toNat, 0, 0⟩)) ∧
    (l.mode = 1 →
      let tile := (((l.base : Int) + (c 1 / (l.s 1 : Int) * ((l.e 0 + l.s 0 - 1) / l.s 0 : Nat) + c 0 / (l.s 0 : Int)) * (l.st 1 : Int)) % 2 ^ 64).toNat
      (inside → l.source co b = .sparse tile (p 1 * l.s 0 + p 0) true) ∧ (¬ inside → l.source co b = .sparse tile (p 1 * l.s 0 + p 0) false)) ∧
    (p 2 < l.s 2 → p 3 < l.s 3 →
      (l.trn = false → p 1 < l.s 1 → l.L = l.s 0 ∧ l.pos (p 1 + l.s 1 * (p 2 + l.s 2 * (p 3 + l.s 3 * p 4))) (p 0) = [p 0, p 1, p 2, p 3, p 4]) ∧
      (l.trn = true → p 0 < l.s 0 → l.L = l.s 1 ∧ l.pos (p 0 + l.s 0 * (p 2 + l.s 2 * (p 3 + l.s 3 * p 4))) (p 1) = [p 0, p 1, p 2, p 3, p 4])) ∧
    (∀ sp i o, (l.swz = false → l.spadByte sp i o = sp + i * (4 * l.pitch) + o) ∧
      (l.swz = true → let u := o / 4
        l.spadByte sp i o = sp + i * (4 * l.pitch) + (4 * (32 * (u / 32) + (u + i) % 32) + o % 4)) ∧
      l.spadScale sp i o = sp + l.scloff + i * (l.L / 32) + o) ∧
    (∀ i j : Nat, l.mfmt ≤ 10 →
      let r := c 0 + (j : Int)
      let q := c 1 + (i : Int)
      let there := 0 ≤ r ∧ r < (l.e 0 : Int) ∧ 0 ≤ q ∧ q < (l.e 1 : Int)
      (there → l.turned co i j = some ((((l.base2 : Int) + q * (w : Int) + r * (l.st 2 : Int)) % 2 ^ 64).toNat, 0)) ∧ (¬ there → l.turned co i j = none))
  ) ∧ (
  ∀ (l : Lay) (src dst : Nat),
    let d := fmtOf (BitVec.ofNat 4 dst)
    let num := fun (x : Nat) => (fmtOf (BitVec.ofNat 4 src)).decode x
    let wide := fun (n : Nat) => n = 8 ∨ n = 9 ∨ n = 10
    let mx := fun (n : Nat) => 11 ≤ n ∧ n ≤ 15
    let sat := fun (b : Bool) => (if b then 4 else 0 : BitVec 3)
    let cvted := fun (e : Elem) (v : FNum) => l.convert src dst e = ((cvt v d .rne false).1, sat (cvt v d .rne false).2, false)
    (∀ x k, src = dst ∨ src < 8 → l.convert src dst (.bits x k) = (x, 0, false)) ∧
    (∀ x k, wide src → wide dst → src ≠ dst → cvted (.bits x k) (num x)) ∧
    (∀ x k, wide src → mx dst → cvted (.bits x k) (scaleNum (num x) (127 - (l.scale : Int)))) ∧
    (∀ x k, mx src → wide dst → k ≠ 0xFF → cvted (.bits x k) (scaleNum (num x) ((k : Int) - 127))) ∧
    (∀ x, mx src → wide dst → l.convert src dst (.bits x 0xFF) = (d.nanEnc, 1, true)) ∧
    (src < 8 → l.fill < 65536 → l.convert src dst .zero = (0, 0, false) ∧ l.convert src dst .fill = (wrapBits (placeBits dst) (BitVec.ofNat 16 l.fill).toInt, 0, false)) ∧
    (8 ≤ src → src ≤ 15 → src = dst ∨ (wide src ∧ wide dst) ∨ (mx src ∧ wide dst) →
      cvted .zero (.fin false 0 0) ∧ cvted .fill (fmtF32.decode (l.fill * 65536))) ∧
    (wide src → mx dst → cvted .zero (scaleNum (.fin false 0 0) (127 - (l.scale : Int))) ∧ cvted .fill (scaleNum (fmtF32.decode (l.fill * 65536)) (127 - (l.scale : Int)))) ∧
    (∀ es : List Elem, es.length = 32 → mx dst →
      (src = dst → (l.convertBlock src dst es).1 = es.map (fun e => (l.convert src dst e).1) ∧
        (∀ x k, es.head? = some (.bits x k) → (l.convertBlock src dst es).2.1 = k) ∧
        ((∀ e ∈ es, e = .zero ∨ e = .fill) → (l.convertBlock src dst es).2.1 = 0x7F)) ∧
      (wide src → l.scm = 2 ∨ l.scm = 3 → (∀ e ∈ es, ∃ x, e = .bits x 0 ∨ e = .zero) →
        let r := requantise (es.map fun e => match e with | .bits x _ => num x | _ => .fin false 0 0) d (fun _ => .rne) (l.scm == 3)
        l.convertBlock src dst es = (r.elems, r.scale, (if r.sat then 4 else 0) ||| (if r.range then 2 else 0))))
  ) ∧ (
  ∀ (s : State) (o : EngOp) (l : Lay) (b : List Nat),
    (∀ va, (2 ^ 56 ≤ va → s.opLine o va = .error .violation) ∧
      (va < 2 ^ 56 → s.opLine o va = s.loadLine ⟨o.core, o.ctx, tagAsid (s.ctx o.ctx).asid va, va⟩ 0 o.colour)) ∧
    (∀ va n, (∀ e, s.opLine o va = .error e → s.opBytes o va n = .error e) ∧
      (∀ s1 y p, s.opLine o va = .ok (s1, (y, p)) → s.opBytes o va n = .ok (s1, (y.toNat / 2 ^ (8 * (va % 128)) % 2 ^ (8 * n), p)))) ∧
    (∀ out, l.source o.coords b = .zero out → s.loadElem o l b = .ok (s, (.zero, false, if out then 1 else 0))) ∧
    (l.source o.coords b = .fill → s.loadElem o l b = .ok (s, (.fill, false, 1))) ∧
    (∀ a, l.source o.coords b = .mem a → l.mfmt ≤ 10 →
      (∀ e, s.opBytes o a.va (fmtBytes l.mfmt) = .error e → s.loadElem o l b = .error e) ∧
      (∀ s1 x p, s.opBytes o a.va (fmtBytes l.mfmt) = .ok (s1, (x, p)) → s.loadElem o l b = .ok (s1, (.bits x 0, p, 0)))) ∧
    (∀ a, l.source o.coords b = .mem a → 11 ≤ l.mfmt → l.mfmt ≤ 17 →
      let n := if l.mfmt = 13 ∨ l.mfmt = 14 ∨ 16 ≤ l.mfmt then 6 else if l.mfmt = 15 then 4 else 8
      let va := a.va + 128 * (a.bit / 1024)
      let lo := a.bit % 1024
      let scaleVa := a.va + 128 * (if 16 ≤ l.mfmt then a.block / 8 else 0)
      ∀ s1 y p, s.opLine o va = .ok (s1, (y, p)) →
        (lo + n ≤ 1024 → ∀ s2 z r, s1.opLine o scaleVa = .ok (s2, (z, r)) →
          s.loadElem o l b = .ok (s2, (.bits (y.extractLsb' lo n).toNat (z.extractLsb' (1024 + 8 * (a.block % 8)) 8).toNat, p || r, 0))) ∧
        (1024 < lo + n → ∀ s2 y2 q s3 z r, s1.opLine o (va + 128) = .ok (s2, (y2, q)) → s2.opLine o scaleVa = .ok (s3, (z, r)) →
          s.loadElem o l b = .ok (s3, (.bits ((y2.extractLsb' 0 1024 ++ y.extractLsb' 0 1024 : BitVec 2048).extractLsb' lo n).toNat
            (z.extractLsb' (1024 + 8 * (a.block % 8)) 8).toNat, p || q || r, 0)))) ∧
    (∀ tile q inside, l.source o.coords b = .sparse tile q inside → ∀ (st : Nat → State) (m : Nat → Nat) (po : Nat → Bool), st 0 = s →
      (∀ k, k ≤ q / 8 → (st k).opBytes o ((tile + k) % 2 ^ 64) 1 = .ok (st (k + 1), (m k, po k))) →
      let set := fun (z : Nat) => (m (z / 8)).testBit (z % 8)
      let poison := (List.range (q / 8 + 1)).any po
      let rank := ((List.range q).filter set).length
      (set q = false → s.loadElem o l b = .ok (st (q / 8 + 1), (.zero, inside && poison, if inside then 0 else 1))) ∧
      (set q = true → ∀ s2 x r, (st (q / 8 + 1)).opBytes o ((tile + (l.s 0 * l.s 1 + 127) / 128 * 16 + rank * fmtBytes l.mfmt) % 2 ^ 64) (fmtBytes l.mfmt) = .ok (s2, (x, r)) →
        s.loadElem o l b = .ok (s2, if inside then (.bits x 0, poison || r, 0) else (.zero, false, 1))))
  ) ∧ (
  ∀ (s : State) (c : Clause),
    let g := s.cur
    (∀ f, Issues (.tcqry f) s c → ∃ st oob, exec (.tcqry f) s = .next (s.past c (s.onceOut (.tcqry f)
        ((g.issuing.ws f.sr.toNat st).ws (f.sr.toNat + 1) oob))) ∧
      (tget g.tokens f.tok.toNat = none → s.op 0 = none → st = 1 ∧ oob = 0) ∧
      (s.op (g.tok f.tok.toNat).last = none → st = (g.tok f.tok.toNat).status.setWidth 32 ∧ oob = (g.tok f.tok.toNat).oob) ∧
      (∀ o, s.op (g.tok f.tok.toNat).last = some o → oob.toNat = min o.oob 0xFFFFFFFF ∧ (o.status = .running → st = 0) ∧ ((∃ r, o.status = .parked r) → st = 2) ∧
        (o.status = .cancelled → st = if o.trap = none then 3 else 4))) ∧
    (∀ f, Issues (.tokclr f) s c → exec (.tokclr f) s = .next (s.past c (s.onceOut (.tokclr f)
      (g.issuing.setTok f.tok.toNat { g.tok f.tok.toNat with sig := false }))))
  )

/-- O37. GCOPY, GSIG, GFLUSH, GSLOT, NRMADD, NRMRD, GBAR and MIRROR (R232 to R239), each once when ACTIVE is non-empty: their checks, what they issue, count, wait for or write. An engine operation that is issued takes its slot as the copy words do. That GSIG's PROTECTION comes before its MISALIGN is the model's choice (assumption log 50), as is that GBAR and MIRROR wait for the group's open scratchpad accesses (assumption log 39). -/
def Obligations.FabricWords : Prop :=
  ∀ (s : State) (c : Clause),
    let g := s.cur
    let h := g.issuing
    let s0 := s.setCur h
    let t := s.teamOf g
    let x := s.ctx t.ctx
    let pair := fun (n : BitVec 7) => (g.rs (n.toNat + 1) ++ g.rs n.toNat : W64).toNat
    let trap := fun (cause : Nat) => (Host.Outcome.next (s.trap s.who cause 0 (wordPc g c) (resumeHere g c)) : Host.Outcome State Fault Refusal)
    let held := s.stays { g with wait := .none }
    let stalled := fun (y : State) => y.setGroup s.who { y.group s.who with pathCount := g.pathCount, issued := g.issued || (y.group s.who).product.isSome }
    let starts := fun (i : Instr) (o : EngOp) =>
      ((g.tok o.token).count = 15 → exec i s = .next held) ∧
      ((g.tok o.token).count ≠ 15 → ∀ s1, s0.claimSlot h = (s1, false) → exec i s = .next (stalled s1)) ∧
      ((g.tok o.token).count ≠ 15 → ∀ s1, s0.claimSlot h = (s1, true) → exec i s = .next (advance (s1.startOp s1.cur false o) s.who c))
    let new := fun (k : EngKind) (tok : BitVec 3) =>
      ({ id := 0, kind := k, core := 0, team := 0, group := 0, groups := [], ctx := 0, token := tok.toNat, pc := 0, engseq := 0 } : EngOp)
    (∀ f, Issues (.gcopy f) s c →
      let i := Instr.gcopy f
      let l := lowest (s.activeOf i)
      let src := pair f.sr
      let dst := (g.rl (f.vc.toNat + 1) l).toNat * 2 ^ 32 + (g.rl f.vc.toNat l).toNat
      let n := (g.rl (f.vc.toNat + 2) l).toNat
      let sig := f.mod.getLsbD 3
      let flag := pair f.sx
      let bad := s.badGlobal true src = true ∨ s.badGlobal true dst = true ∨ (sig = true ∧ s.badGlobal true flag = true)
      let off := src % 16 ≠ 0 ∨ dst % 16 ≠ 0 ∨ n % 16 ≠ 0 ∨ (sig = true ∧ flag % 8 ≠ 0)
      (s.activeOf i = 0 → exec i s = .next (s.past c h)) ∧
      (s.activeOf i ≠ 0 → src / 2 ^ 56 % 2 = dst / 2 ^ 56 % 2 → exec i s = .next (s.kill s.who 0x01 (wordPc g c))) ∧
      (s.activeOf i ≠ 0 → src / 2 ^ 56 % 2 ≠ dst / 2 ^ 56 % 2 → bad → exec i s = trap 0x04) ∧
      (s.activeOf i ≠ 0 → src / 2 ^ 56 % 2 ≠ dst / 2 ^ 56 % 2 → ¬ bad → off → exec i s = trap 0x03) ∧
      (s.activeOf i ≠ 0 → src / 2 ^ 56 % 2 ≠ dst / 2 ^ 56 % 2 → ¬ bad → ¬ off → starts i { new .gcopy f.tok with
        src := src, dst := dst, len := n, flag := if sig then some flag else none, inc := 1, cols := 1#8 <<< (f.mod.toNat % 8), colour := f.mod.toNat % 8 })) ∧
    (∀ f, Issues (.gsig f) s c →
      let i := Instr.gsig f
      let a := pair f.sr
      (s.activeOf i = 0 → exec i s = .next (s.past c h)) ∧
      (s.activeOf i ≠ 0 → s.badGlobal true a = true → exec i s = trap 0x04) ∧
      (s.activeOf i ≠ 0 → s.badGlobal true a = false → a % 8 ≠ 0 → exec i s = trap 0x03) ∧
      (s.activeOf i ≠ 0 → s.badGlobal true a = false → a % 8 = 0 → starts i { new .gsig f.tok with
        flag := some a, inc := g.rs f.sx.toNat, cols := f.rid.setWidth 8, phase := 10 })) ∧
    (∀ f, Issues (.gflush f) s c →
      (s.activeOf (.gflush f) = 0 → exec (.gflush f) s = .next (s.past c h)) ∧
      (s.activeOf (.gflush f) ≠ 0 → starts (.gflush f) { new .gflush f.tok with peer := (g.rs f.sx.toNat).toNat })) ∧
    (∀ f, Issues (.gslot f) s c → ∃ a b, exec (.gslot f) s = .next (s.past c (s.onceOut (.gslot f) ((h.ws f.sr.toNat a).ws (f.sr.toNat + 1) b))) ∧
      let p := (g.rs f.sx.toNat).toNat
      let none_ := s.gal.aligned = false ∨ s.gal.stepAt s.cycle < s.gal.from_ ∨ s.gal.devices ≤ p ∨ p ∈ s.gal.lost
      let step := s.gal.stepAt s.cycle
      let direct := fun (d : Nat) => ∃ q, q < 128 ∧ (let e := tgetD s.gal.caltab (128 * ((step + d) % s.gal.flight) + q) 0
        e.getLsbD 15 = true ∧ (e.extractLsb' 0 12).toNat = p)
      (none_ → a = 0xFFFFFFFF ∧ b = 0xFFFFFFFF) ∧
      (¬ none_ → p = s.gal.me → a = 0 ∧ b = 0) ∧
      (¬ none_ → p ≠ s.gal.me → (∀ d, d < s.gal.flight → ¬ direct d) → a = 0xFFFFFFFF ∧ b = 0xFFFFFFFF) ∧
      (¬ none_ → p ≠ s.gal.me → ∀ d, d < s.gal.flight → direct d → (∀ e, e < d → ¬ direct e) →
        a = BitVec.ofNat 32 d ∧ b = BitVec.ofNat 32 (min (s.gal.lightCycle (step + d) - s.cycle) 0xFFFFFFFF))) ∧
    (∀ f, Issues (.nrmadd f) s c →
      let i := Instr.nrmadd f
      let k := max (g.rs f.sr.toNat).toNat 1
      let core := t.core
      let adds := fun (y : Ctx) (n : Norm) =>
        let n1 := { n with count := n.count + 1, parts := tset n.parts core (tgetD n.parts core [] ++ [g.rs f.sx.toNat]) }
        let s1 := s.setCtx t.ctx { y with norms := (y.norms.filter (·.seq != n.seq)) ++ [n1] }
        (n1.count < n1.want → exec i s = .next (s1.past c { h with norm := some n.seq })) ∧
        (n1.want ≤ n1.count → exec i s = .next (advance ((s1.setCur { h with norm := some n.seq }).normClose t.ctx n1) s.who c))
      (s.activeOf i = 0 → exec i s = .next (s.past c h)) ∧
      (s.activeOf i ≠ 0 → ∀ n, x.norms.find? (fun q => !q.closed) = some n → adds x n) ∧
      (s.activeOf i ≠ 0 → (∀ q ∈ x.norms, q.closed = true) → 2 ≤ x.norms.length → exec i s = .next held) ∧
      (s.activeOf i ≠ 0 → (∀ q ∈ x.norms, q.closed = true) → x.norms.length < 2 →
        adds { x with normSeq := x.normSeq + 1 } { seq := x.normSeq, want := k })) ∧
    (∀ f, Issues (.nrmrd f) s c →
      let i := Instr.nrmrd f
      (s.activeOf i = 0 → exec i s = .next (s.past c h)) ∧
      (s.activeOf i ≠ 0 → ∀ j, g.norm = some j → exec i s = .next (s.past c { h with norm := none, wait := .nrmrd (some j) f.sr.toNat })) ∧
      (s.activeOf i ≠ 0 → g.norm = none → ∀ n rest, x.norms = n :: rest → exec i s = .next (s.past c { h with norm := none, wait := .nrmrd (some n.seq) f.sr.toNat })) ∧
      (s.activeOf i ≠ 0 → g.norm = none → x.norms = [] →
        exec i s = .next (s.past c (({ h with norm := none } : Group).ws f.sr.toNat (if x.normbox.getLsbD 63 then x.normbox.extractLsb' 0 32 else 0x7FC00000))))) ∧
    (∀ f, Issues (.gbar f) s c →
      let i := Instr.gbar f
      (s.activeOf i = 0 → exec i s = .next (s.past c h)) ∧
      (s.activeOf i ≠ 0 → (writesOpen g.pend 0xFF = true ∨ g.spadOpen = true) → g.faultParked = false → exec i s = .next held) ∧
      (s.activeOf i ≠ 0 → writesOpen g.pend 0xFF = false → g.spadOpen = false → ∀ s1, s0.releaseAt h 4 0xFF = .ok (s1, false) → s1.cur.faultParked = false →
        exec i s = .next (stalled s1)) ∧
      (s.activeOf i ≠ 0 → writesOpen g.pend 0xFF = false → g.spadOpen = false → ∀ s1, s0.releaseAt h 4 0xFF = .ok (s1, true) →
        exec i s = .next (advance (s1.gbarArrive s1.cur f.rid.toNat (g.rs f.sx.toNat)) s.who c))) ∧
    (∀ f, Issues (.mirror f) s c →
      let i := Instr.mirror f
      (s.activeOf i = 0 ∨ f.rid = 0 → exec i s = .next (s.past c h)) ∧
      (s.activeOf i ≠ 0 → f.rid ≠ 0 → x.broken = true → exec i s = trap 0x0B) ∧
      (s.activeOf i ≠ 0 → f.rid ≠ 0 → x.broken = false → (writesOpen g.pend f.rid = true ∨ g.spadOpen = true) → g.faultParked = false → exec i s = .next held) ∧
      (s.activeOf i ≠ 0 → f.rid ≠ 0 → x.broken = false → writesOpen g.pend f.rid = false → g.spadOpen = false → ∀ s1, s0.releaseAt h 3 f.rid = .ok (s1, true) →
        let y := s1.ctxOf h
        let open_ := s1.mirrorsOpen (s1.teamOf h).ctx f.rid s1.nextId
        ((y.buddy = 0xFFFF ∨ y.djob = 0) → open_ = false → exec i s = .next (advance s1 s.who c)) ∧
        ((y.buddy ≠ 0xFFFF ∧ y.djob ≠ 0) ∨ open_ = true → exec i s = .next (advance (s1.setCur { s1.cur with
          wait := .mirror f.rid.toNat s1.nextId g.pc c.idx c.words.length }) s.who c))))

/-- O38. Arrivals at a domain barrier and the completion of norm collectives (R236, R237, R259, R260): the first arrival of a phase fixes the count, the phase completes when arrivals reach it, a count of 0 completes on each arrival alone; a deposit advances NORMBOX.SEQ modulo 2^16, sets VALID and stores the multiplier. GBAR_ARRIVAL, GBAR_COMPLETION, NORM_TOTAL_RECEIVE and NORM_DEPOSIT do this on the packets and collectives that wait. -/
def Obligations.BarriersAndNorms : Prop :=
  (∀ (b : GBar) (count dev tag : Nat),
    (b.count = 0 → count ≤ 1 → b.arrive count dev tag = ({ phases := b.phases + 1, want := 0, count := 0, arrivals := [] }, b.arrivals ++ [(dev, tag)])) ∧
    (b.count = 0 → 1 < count → b.arrive count dev tag = ({ b with want := count, count := 1, arrivals := b.arrivals ++ [(dev, tag)] }, [])) ∧
    (b.count ≠ 0 → b.count + 1 < b.want → b.arrive count dev tag = ({ b with count := b.count + 1, arrivals := b.arrivals ++ [(dev, tag)] }, [])) ∧
    (b.count ≠ 0 → b.want ≤ b.count + 1 → b.arrive count dev tag = ({ phases := b.phases + 1, want := 0, count := 0, arrivals := [] }, b.arrivals ++ [(dev, tag)]))) ∧
  (∀ (x : Ctx) (cycle j : Nat) (u : W32),
    let y := x.deposit cycle j u
    y.normbox.getLsbD 63 = true ∧ (y.normbox.extractLsb' 32 16).toNat = ((x.normbox.extractLsb' 32 16).toNat + 1) % 2 ^ 16 ∧
    y.normbox.extractLsb' 0 32 = normMult u x.normclip ∧ tget y.normDone j = some (normMult u x.normclip) ∧
    (∀ n ∈ y.norms, n.seq ≠ j ∧ n ∈ x.norms) ∧ y.normclip = x.normclip) ∧
  (∀ (u : W32), let bad := fmtF32.decode u.toNat = .nan ∨ (∃ m e, fmtF32.decode u.toNat = .fin true m e ∧ m ≠ 0) ∨ fmtF32.decode u.toNat = .inf true
    (bad → normMult u 0x7F800000 = 0x7FC00000) ∧ (¬ bad → normMult u 0x7F800000 = 0x3F800000)) ∧
  (∀ (s : State) (p : Packet), s.served = some p →
    (∀ n count, p.kind = .gbarArrive n count →
      let key := p.djob.toNat * 16 + n
      let r := (tgetD s.gal.gbhome key {}).arrive count.toNat p.src p.tag
      ∃ t, exec .gbarArrival s = .next t ∧ tget t.gal.gbhome key = some r.1 ∧ (∀ m, m ≠ key → tget t.gal.gbhome m = tget s.gal.gbhome m) ∧
        (∀ d ∈ r.2, d.1 ≠ s.gal.me → ∃ o ∈ t.gal.out, o.pkt.dst = d.1 ∧ ∃ tags, o.pkt.kind = .gbarDone n tags ∧ d.2 ∈ tags) ∧
        (r.2 = [] → t.gal.out = s.gal.out) ∧ t.groups = s.groups ∧ t.ctxs = s.ctxs) ∧
    (∀ n tags k x, p.kind = .gbarDone n tags → s.ctxOfJob p.djob = some (k, x) →
      exec .gbarCompletion s = .next (s.took.setCtx k { x with gbarDone := x.gbarDone ++ tags })) ∧
    (∀ j u k x, p.kind = .normReturn j u → s.ctxOfJob p.djob = some (k, x) → exec (.normDeposit true) s = .next (s.took.setCtx k (x.deposit s.cycle j u))) ∧
    (∀ j u k x, p.kind = .normTotal j u → s.ctxOfJob p.djob = some (k, x) →
      let key := p.djob.toNat * 2 ^ 64 + j
      let all := tset (tgetD s.gal.normHome key []) p.src u
      (∀ v, tget s.gal.normTot key = some v → exec .normTotalReceive s =
        .next (s.took.sendPkt k { src := s.gal.me, dst := p.src, djob := p.djob, kind := .normReturn j v })) ∧
      (tget s.gal.normTot key = none → all.length < x.nrmdev → exec .normTotalReceive s =
        .next { s.took with gal := { s.took.gal with normHome := tset s.gal.normHome key all } }) ∧
      (tget s.gal.normTot key = none → x.nrmdev ≤ all.length → ∃ t, exec .normTotalReceive s = .next t ∧
        tget t.gal.normTot key = some (normSum (all.map (·.2.toNat))) ∧ tget t.gal.normHome key = none ∧
        (∀ d ∈ all, d.1 ≠ s.gal.me → ∃ o ∈ t.gal.out, o.pkt.dst = d.1 ∧ o.pkt.kind = .normReturn j (normSum (all.map (·.2.toNat))))))) ∧
  (∀ (s : State) (n : Norm) (rest : List Norm), (s.ctx s.who).norms = n :: rest → n.closed = true → n.sent = false →
    exec (.normDeposit false) s = .next (s.setCtx s.who ((s.ctx s.who).deposit s.cycle n.seq n.total)))

/-- O39. What happens to an engine operation (R172, R204, R217 to R220, R271, R53): ENGINE_SLOT_GRANT gives a free slot to the issuer that has waited longest; COPY_WRITE_LAND makes the next accesses of an operation that is awake and whose fork has passed, keeping since when it waits for a migrating page, and gives a slot to one restored without one (assumption log 50); ENGINE_OP_FAULT parks it on a replayable fault, and cancels it on a violation, or on a release with FAIL while its team is on its core, its trap to follow; ENGINE_OP_COMPLETE takes a finished operation away, completes its token, releases its copy counter and arms its trap; MIGRATE_WAIT_TIMEOUT makes a wait of 65,536 cycles for a migrating page a MIGRATING fault. COPY_WRITE_LAND of a load (R208 to R210, R214, R216 to R219): the elements that share a scratchpad word, or a block of 32, are read one after another, converted and written at their places in the row, every other bit of every scratchpad as before; a poisoned source poisons their words; the scale byte of a block joins those of its scratchpad word, which are written together when the word is full or the load ends; the flags and the out-of-bounds count grow, a NaN scale arms SCALE_NAN where it traps; the operation goes on, and a line in which it writes nothing more becomes present unless another operation still lands there. COPY_WRITE_LAND of a store and of a stash (R209, R210, R213, R214, R219, R73): it waits until the lines of its next elements are present; the elements of one scratchpad word are then converted and written one after another, or the elements of one line or block together. A position outside is dropped and counted. An element of a wide or integer format goes to its bytes alone, in one access of its line at group scope, poisoned where its source is; an MX block goes to its line with its scale in the sideband, 0x7F in the other sideband bytes of a line of 128 elements, and zeros behind FP6 elements. The second pass of a stash writes the source bits at the place in the transposed layout. COPY_WRITE_LAND of a Gallery copy whose group has no earlier remote store in the buffer (R172, R219, R223, R232): piece by piece, the bytes of one line on either side, at most 128, in ascending order. A copy to the window reads its source at group scope and sends the bytes of the piece, with the line's poison, to the device that serves the offset, and goes on once that has answered; a copy from the window asks for the line and, when it has come, stores the bytes at device scope. Lines go with their sidebands where source, destination and length are multiples of 128. -/
def Obligations.EngineEvents : Prop :=
  (
  ∀ (s : State),
    (∀ p rest, (s.core s.who).held.filter s.atWord = none → ((s.core s.who).slotQ.filter fun q => s.atWord q.1) = p :: rest → s.usedSlots s.who < 16 →
      exec .engineSlotGrant s = .next (s.setCore s.who { s.core s.who with held := some p.1, slotQ := rest })) ∧
    (∀ o, s.op s.who = some o → s.opAwake o = true → s.mayProceed o = true →
      let o1 := { o with status := .running }
      let waited := (s.opVas o).findSome? fun va => if s.migrating (s.opReq o va).asid va then some (o.since.getD s.cycle) else none
      (∀ s1 o2, (s.setOp o1).progress o1 = .moved s1 o2 → exec .copyWriteLand s = .next s1) ∧
      ((s.setOp o1).progress o1 = .err .wait → exec .copyWriteLand s = .next (s.setOp { o1 with since := waited }))) ∧
    (∀ o, s.op s.who = some o → o.slot = false →
      let home := (s.team o.team).save = .running ∨ (s.team o.team).save = .preempting
      (home → s.usedSlots o.core < 16 → exec .copyWriteLand s = .next (s.setOp { o with slot := true, status := if o.status == .parked none then .running else o.status })) ∧
      (¬ home ∨ 16 ≤ s.usedSlots o.core → exec .copyWriteLand s = .next (s.setOp o))) ∧
    (∀ o, s.op s.who = some o → o.absentThere = false → o.status = .running → s.forked o = true →
      (∀ cause, s.progress o = .err (.fault cause) → ∃ t n, exec .engineOpFault s = .next t ∧
        (∃ o1, tget t.ops o.id = some o1 ∧ o1.status = .parked (some n) ∧ o1.next = o.next ∧ o1.engseq = o.engseq ∧ o1.since = none) ∧
        t.groups = s.groups ∧ t.hbm = s.hbm ∧ (o.scales = [] → t.teams = s.teams)) ∧
      (s.progress o = .err .violation → ∃ t, exec .engineOpFault s = .next t ∧
        ∃ o1, tget t.ops o.id = some o1 ∧ o1.status = .cancelled ∧ o1.trap = some (0x04, o.engseq.setWidth 32) ∧ o1.landing = [])) ∧
    (∀ o r, s.op s.who = some o → o.absentThere = false → o.status = .parked (some r) → 
      let home := (s.team o.team).save = .running ∨ (s.team o.team).save = .preempting
      (home → (r, true) ∈ (s.ctx o.ctx).released → exec .engineOpFault s = .next (s.cancelOp o (some (0x04, o.engseq.setWidth 32)))) ∧
      (¬ home → exec .engineOpFault s = .next s)) ∧
    (∀ o u, s.op s.who = some o → s.opFinished o = true → s.mayProceed o = true → o.groups = [u] → o.group = u →
      ∃ t, exec .engineOpComplete s = .next t ∧ tget t.ops o.id = none ∧ (∀ v, v ≠ u → t.group v = s.group v) ∧ t.teams = s.teams ∧ t.hbm = s.hbm ∧
        (let g := s.group u
         let y := t.group u
         let n := (g.tok o.token).count
         (y.tok o.token).count = (if n = 0 then 0 else n - 1) ∧
         (y.tok o.token).sig = ((g.tok o.token).sig || decide (n = 0 ∨ n = 1)) ∧
         (y.tok o.token).held = (g.tok o.token).held ||| o.flags ∧
         ((g.tok o.token).last = o.id → (y.tok o.token).status = (if o.trap.isSome then 4 else if o.status = .cancelled then 3 else 1) ∧
           (y.tok o.token).oob.toNat = min o.oob 0xFFFFFFFF) ∧
         ((g.tok o.token).last ≠ o.id → (y.tok o.token).status = (g.tok o.token).status ∧ (y.tok o.token).oob = (g.tok o.token).oob) ∧
         (∀ rest, g.copies = ⟨o.id, false⟩ :: rest → (∀ q ∈ rest, q.op ≠ o.id) → y.copies = rest.dropWhile (·.done)) ∧
         y.armed = (match o.trap with
           | some (cause, targ) => if g.status = .live then g.armed ++ [⟨cause, o.pc, targ⟩] else g.armed
           | none => g.armed) ∧
         y.v = g.v ∧ y.s = g.s ∧ y.xstat = g.xstat)) ∧
    (∀ op o va, s.op op = some o → o.status = .running → (∃ d, o.since = some d ∧ d + 65536 ≤ s.cycle) →
      (s.opVas o).find? (fun a => s.migrating (s.opReq o a).asid a) = some va →
      exec (.migrateWaitTimeout op) s = .next (s.parkOp o 2 va)) ∧
    (∀ op p, s.op op = none → s.cur.pendOp op = some p →
      exec (.migrateWaitTimeout op) s = .next ((s.recordPages s.who p ((p.lanes.filter fun a =>
        a.open && a.fault.isNone && s.waitedLong a.since && s.migrating (tagAsid (s.ctxOf s.cur).asid a.addr) a.addr).map fun a => (a.lane, a.addr, 2))).parkNow s.who))
  ) ∧ (
  ∀ (s : State) (o : EngOp), s.op s.who = some o → o.id = s.who → o.kind = .load → s.opAwake o = true → s.mayProceed o = true →
    let l := layOf o.record
    let c := (s.ctx o.ctx).inPeriod s.cycle
    let src := eltFmt l.mfmt
    let w := placeBits l.sfmt
    let mx := decide (11 ≤ l.sfmt)
    let whole := mx && (src == l.sfmt || decide (2 ≤ l.scm))
    let i := o.next / l.L
    let j := o.next % l.L
    let per := 32 / w
    let n := if whole then 32 else min (per - j % per) (l.L - j)
    let place := fun (k q : Nat) => l.spadByte o.sp i (((j + k) * w + q) / 8)
    let scaleAt := l.spadScale o.sp i (j / 32)
    l.sfmt ≤ 15 → l.sfmt ≠ 3 → l.sfmt ≠ 7 → o.next < l.rows * l.L → (c.budget.copy = 0xFFFFFFFF ∨ c.copyBits / 8 < c.budget.copy * 4096) → s.memOk = true →
    (whole = true → j % 32 = 0) → (∀ k q, k < n → q < w → place k q < 2 ^ 32) →
    (mx = true → scaleAt < 2 ^ 32 ∧ (∀ k q, k < n → q < w → place k q / 4 ≠ scaleAt / 4) ∧ o.scales.length ≤ scaleAt % 4 ∧
      o.scales.map (·.1) = (List.range o.scales.length).map fun k => o.team * 2 ^ 32 + scaleAt - o.scales.length + k) →
    ∀ (st : Nat → State) (xs : Nat → Elem × Bool × Nat), st 0 = s.setOp { o with status := .running } →
    (∀ k, k < n → (st k).loadElem { o with status := .running } l (l.pos i (j + k)) = .ok (st (k + 1), xs k)) →
    let es := (List.range n).map xs
    let poison := es.any (·.2.1)
    let block := l.convertBlock src l.sfmt (es.map (·.1))
    let one := fun (k : Nat) => l.convert src l.sfmt (xs k).1
    let value := fun (k : Nat) => if whole then block.1[k]?.getD 0 else (one k).1
    let nan := !whole && (List.range n).any fun k => (one k).2.2
    let flags := if whole then block.2.2 else (List.range n).foldl (fun a k => a ||| (one k).2.1) 0
    let scale : Option (Byte × Bool) := if whole then some (BitVec.ofNat 8 block.2.1, poison) else if mx && j % 32 == 0 then some (BitVec.ofNat 8 l.scale, false) else none
    let full := scaleAt % 4 = 3 ∨ l.rows * l.L ≤ o.next - j % 32 + 32
    let spad := fun (x : State) (t a z : Nat) => (mread noSide (x.team t).spad a).getLsbD z
    ∃ t o2, exec .copyWriteLand s = .next t ∧ tget t.ops o.id = some o2 ∧
      (∀ k q, k < n → q < w → spad t o.team (place k q) (((j + k) * w + q) % 8) = (value k).testBit q ∧
        (poison = true → place k q / 4 ∈ (t.team o.team).spadPoison) ∧
        (poison = false → w = 32 → place k 0 % 4 = 0 → place k 0 / 4 ∉ (t.team o.team).spadPoison)) ∧
      (∀ u a z, z < 8 → (u ≠ o.team ∨ ((∀ k q, k < n → q < w → a ≠ place k q ∨ z ≠ ((j + k) * w + q) % 8) ∧ (mx = true → a / 4 ≠ scaleAt / 4))) →
        spad t u a z = spad (st n) u a z) ∧
      (∀ x, scale = some x → full →
        (∀ k y, o.scales[k]? = some y → ∀ z, z < 8 → spad t o.team (scaleAt - o.scales.length + k) z = y.2.1.getLsbD z) ∧
        (∀ z, z < 8 → spad t o.team scaleAt z = x.1.getLsbD z) ∧ o2.scales = []) ∧
      (∀ x, scale = some x → ¬ full → o2.scales = o.scales ++ [(o.team * 2 ^ 32 + scaleAt, x.1, x.2)]) ∧
      (scale = none → o2.scales = o.scales) ∧
      o2.next = o.next + n ∧ o2.oob = o.oob + (es.map (·.2.2)).foldl (· + ·) 0 ∧
      o2.flags = o.flags ||| (if nan && o.trapNan then flags &&& 0x6 else flags) ∧
      o2.trap = (if nan && o.trapNan then some (0x05, o.engseq.setWidth 32) else o.trap) ∧ o2.status = .running ∧
      (∀ a, (∀ e ∈ o.landing, e.1 = a → o2.next ≤ e.2) → (a ∈ (t.team o.team).absent ↔ a ∈ ((st n).team o.team).absent)) ∧
      (∀ e ∈ o.landing, e.2 < o2.next → (∀ p ∈ s.ops, p.2.id ≠ o.id → p.2.team = o.team → tget p.2.landing e.1 = none) →
        (st n).ops = (st 0).ops → e.1 ∉ (t.team o.team).absent) ∧
      t.groups = (st n).groups ∧ t.hbm = (st n).hbm ∧ t.host = (st n).host
  ) ∧ (
  ∀ (s : State) (o : EngOp),
    let l := layOf o.record
    let i := o.next / l.L
    let j := o.next % l.L
    let elem := fun (x : State) (i j : Nat) =>
      let w := placeBits l.sfmt
      let b := x.spadRead (o.team * 2 ^ 32 + l.spadByte o.sp i (j * w / 8)) (fmtBytes l.sfmt) / 2 ^ (j * w % 8) % 2 ^ (if l.sfmt = 13 ∨ l.sfmt = 14 then 6 else w)
      Elem.bits b (if 11 ≤ l.sfmt then x.spadRead (o.team * 2 ^ 32 + l.spadScale o.sp i (j / 32)) 1 else 0)
    let poisoned := fun (x : State) (i j : Nat) => x.spadPoisoned (o.team * 2 ^ 32 + l.spadByte o.sp i (j * placeBits l.sfmt / 8)) (fmtBytes l.sfmt) ||
      (decide (11 ≤ l.sfmt) && x.spadPoisoned (o.team * 2 ^ 32 + l.spadScale o.sp i (j / 32)) 1)
    let wrote := fun (va w x : Nat) (poison : Bool) (y : MemR EngOp) (grown : EngOp → Prop) => ∀ st : Nat → State, st 0 = s → va < 2 ^ 56 → va % 128 + w ≤ 128 →
      (∀ k, k < w → ∃ v, (st k).opBytes o (va + k) 1 = .ok (st (k + 1), v)) →
      ∃ data : Line, (∀ k, k < w → data.extractLsb' (8 * (va % 128 + k)) 8 = BitVec.ofNat 8 (x / 256 ^ k)) ∧
        let put := (st w).putLine ((st w).opReq o (va / 128 * 128)) 0 o.colour (byteMask (va % 128) w) data poison
        (∀ e, put = .error e → y = .error e) ∧ (∀ s2 u, put = .ok (s2, u) → ∃ o2, y = .ok (s2.setOp o2, o2) ∧ o2.next = o.next + 1 ∧ o2.id = o.id ∧ o2.oob = o.oob ∧ grown o2)
    l.sfmt ≤ 15 → l.sfmt ≠ 3 → l.sfmt ≠ 7 → l.mfmt ≤ 17 → l.mfmt ≠ 3 → l.mfmt ≠ 7 →
    (s.op s.who = some o → o.id = s.who → o.kind = .store ∨ o.kind = .stash → s.opAwake o = true → s.mayProceed o = true → o.next < l.rows * l.L →
      (let c := (s.ctx o.ctx).inPeriod s.cycle; c.budget.copy = 0xFFFFFFFF ∨ c.copyBits / 8 < c.budget.copy * 4096) →
      let o1 := { o with status := .running }
      let per := 32 / placeBits l.sfmt
      let ps := l.storePieces o.coords o.next
      let there := ∀ p ∈ ps, ∀ q ∈ p.1, s.present (o.team, l.spadByte o.sp q.1 (q.2 * placeBits l.sfmt / 8) / 128) = true ∧
        s.present (o.team, (l.spadByte o.sp q.1 (q.2 * placeBits l.sfmt / 8) + fmtBytes l.sfmt - 1) / 128) = true ∧
        (11 ≤ l.sfmt → s.present (o.team, l.spadScale o.sp q.1 (q.2 / 32) / 128) = true)
      (l.mfmt ≤ 10 → ps = (List.range (min (per - j % per) (l.L - j))).map fun k => ([(i, j + k)], 1)) ∧
      (¬ there → exec .copyWriteLand s = .next s) ∧
      (there → ∀ (st : Nat → State) (os : Nat → EngOp), st 0 = s.setOp o1 → os 0 = o1 →
        (∀ k p, ps[k]? = some p → (st k).storePiece (os k) p = .ok (st (k + 1), os (k + 1))) →
        let t := st ps.length
        let c1 := (t.ctx o.ctx).inPeriod t.cycle
        exec .copyWriteLand s = .next (t.setCtx o.ctx { c1 with copyBits := c1.copyBits + ((os ps.length).moved - o.moved) }))) ∧
    (∀ i j, l.inside (coordsAt o.coords (l.pos i j)) = false → ∃ o2, s.storePiece o ([(i, j)], 1) = .ok (s.setOp o2, o2) ∧
      o2 = { o with next := o.next + 1, oob := o.oob + 1, since := none }) ∧
    (∀ i j, l.mfmt ≤ 10 → l.inside (coordsAt o.coords (l.pos i j)) = true →
      let r := l.convert l.sfmt l.mfmt (elem s i j)
      wrote (l.memAt (coordsAt o.coords (l.pos i j))).va (fmtBytes l.mfmt) r.1 (poisoned s i j) (s.storePiece o ([(i, j)], 1)) fun o2 =>
        o2.flags = o.flags ||| (if o.trapNan then r.2.1 &&& 0x6 else r.2.1) ∧ o2.trap = (if r.2.2 && o.trapNan then some (0x05, o.engseq.setWidth 32) else o.trap)) ∧
    (∀ i j m q, 11 ≤ l.mfmt → l.mfmt ≤ 15 → l.trn = false → q = 1 ∨ q = 4 ∨ q = 8 → m = 32 * q → l.inside (coordsAt o.coords (l.pos i j)) = true →
      let n := if l.mfmt = 13 ∨ l.mfmt = 14 then 6 else if l.mfmt = 15 then 4 else 8
      let es := (List.range m).map fun k => (i, j + k)
      let a := fun (b : Nat) => l.memAt (coordsAt o.coords (l.pos i (j + 32 * b)))
      let va := (a 0).va
      let first := (a 0).block
      (∀ b, b < q → a b = ⟨va, 32 * n * (first + b), first + b⟩) → first + q ≤ (if l.mfmt = 15 then 8 else 4) → va < 2 ^ 56 → va % 128 = 0 →
      let block := fun (b : Nat) => l.convertBlock l.sfmt l.mfmt ((List.range 32).map fun k => elem s i (j + 32 * b + k))
      let mask : LineMask := byteMask (4 * n * first) (4 * n * q) ||| byteMask (128 + first) q ||| (if l.mfmt = 15 then 0 else byteMask 132 4) ||| (if n = 6 then byteMask 96 32 else 0)
      ∃ data : Line,
        (∀ b k z, b < q → k < 32 → z < n → data.getLsbD (n * (32 * (first + b) + k) + z) = ((block b).1[k]?.getD 0).testBit z) ∧
        (∀ b, b < q → data.extractLsb' (8 * (128 + first + b)) 8 = BitVec.ofNat 8 (block b).2.1) ∧
        (l.mfmt ≠ 15 → data.extractLsb' (8 * 132) 32 = 0x7F7F7F7F) ∧ (n = 6 → data.extractLsb' (8 * 96) 256 = 0) ∧
        let put := s.putLine (s.opReq o va) 0 o.colour mask data ((List.range m).any fun k => poisoned s i (j + k))
        (∀ e, put = .error e → s.storePiece o (es, m) = .error e) ∧
        (∀ s2 u, put = .ok (s2, u) → ∃ o2, s.storePiece o (es, m) = .ok (s2.setOp o2, o2) ∧ o2.next = o.next + m ∧ o2.oob = o.oob ∧
          o2.flags = o.flags ||| ((List.range q).foldl (fun f b => f ||| (block b).2.2) 0 &&& (if o.trapNan then 0x6 else 0x7)))) ∧
    (∀ i j va, l.mfmt ≤ 10 → l.mfmt = l.sfmt → l.turned o.coords i j = some (va, 0) → ∀ x, elem s i j = .bits x 0 →
      wrote va (fmtBytes l.mfmt) x (poisoned s i j) (match s.turnRun o l i [j] with | (s2, o2, none) => .ok (s2, o2) | (_, _, some e) => .error e) fun _ => True) ∧
    (∀ i j, l.turned o.coords i j = none → ∃ o2, s.turnRun o l i [j] = (s.setOp o2, o2, none) ∧ o2 = { o with next := o.next + 1, since := none })
  ) ∧ (
  ∀ (s : State) (o : EngOp), s.op s.who = some o → o.id = s.who → o.kind = .gcopy → s.opAwake o = true → s.mayProceed o = true → o.next < o.len →
    (∀ e ∈ (s.core o.core).wcb, ∀ x ∈ e.writers, x.1 = o.group → o.id ≤ x.2.2.2) →
    let o1 := { o with status := .running }
    let s0 := s.setOp o1
    let from_ := o.src + o.next
    let dst := o.dst + o.next
    let n := min (min (o.len - o.next) (128 - o.next % 128)) (min (128 - from_ % 128) (128 - dst % 128))
    let whole := o.src % 128 = 0 ∧ o.dst % 128 = 0 ∧ o.len % 128 = 0
    let carries := fun (line data : Line) (mask : LineMask) => (whole → mask = fullMask ∧ data = line) ∧
      (¬ whole → mask = byteMask (dst % 128) n ∧ ∀ k, k < n → data.extractLsb' (8 * (dst % 128 + k)) 8 = line.extractLsb' (8 * (from_ % 128 + k)) 8)
    let sent := fun (x : State) (d va : Nat) (kind : PktKind) (line : Line) (mask : LineMask) (poison : Bool) =>
      let r := x.remoteSend (dieOf o.core) o.ctx (remotePeer va) d o.colour kind line mask poison
      exec .copyWriteLand s = .next (r.2.setOp { o1 with phase := 1, waits := [r.1] })
    let goesOn := fun (x : State) => exec .copyWriteLand s = .next (x.setOp { o1 with next := o.next + n, phase := 0, got := none, since := none, waits := [] })
    (isRemote o.dst = true → o.phase = 0 ∨ (o.phase = 1 ∧ o.waits = []) → ∀ s1 line p s2 d, s0.opLine o1 from_ = .ok (s1, (line, p)) →
      s1.remoteTry (dieOf o.core) o.ctx (remotePeer dst) (remoteOffset dst) true = (s2, .go d) →
      ∃ data mask, carries line data mask ∧ sent s2 d dst (.write (remoteOffset dst / 128 * 128)) data mask p) ∧
    (isRemote o.dst = true → o.phase = 2 → goesOn s0) ∧
    (isRemote o.dst = false → o.got = none → o.phase = 0 ∨ (o.phase = 1 ∧ o.waits = []) → ∀ s2 d,
      s0.remoteTry (dieOf o.core) o.ctx (remotePeer from_) (remoteOffset from_) false = (s2, .go d) → sent s2 d from_ (.read (remoteOffset from_)) 0 0 false) ∧
    (isRemote o.dst = false → ∀ line p, o.got = some (line, p) → ∃ data mask, carries line data mask ∧
      ∀ s1 u, s0.putLine (s0.opReq o1 dst) 3 o.colour mask data p = .ok (s1, u) → goesOn s1)
  )

/-- O40. Stage rings (R227 to R231): a use of a ring that does not exist, or of a stage above NST, kills; RPUSH and RREL join the group's four deferred operations, a fifth stalls; RPOP returns a ticket and moves the cursor, which wraps past NST with its lap, in ascending gid within a cycle (assumption log 50); RWAIT makes the group wait for the phase bit, and RWAIT_RELEASE ends the wait on what the bit was before the current cycle; RING_OP_EFFECT performs the oldest deferred operation once what it waits for has completed: a push flips the full phase of its stage, the RELN + 1 st release the empty phase. -/
def Obligations.StageRings : Prop :=
  ∀ (s : State) (c : Clause),
    let g := s.cur
    let h := g.issuing
    let t := s.teamOf g
    let ring := fun (n : Nat) => tgetD t.rings n {}
    let kill := (Host.Outcome.next (s.kill s.who 0x01 (wordPc g c)) : Host.Outcome State Fault Refusal)
    let ticket := fun (f : FE) => g.rs f.sx.toNat
    let stage := fun (f : FE) => ((ticket f).extractLsb' 0 4).toNat
    let bad := fun (f : FE) => (ring f.rid.toNat).en = false ∨ (ring f.rid.toNat).nst.toNat < stage f
    let defers := fun (i : Instr) (rel : Bool) (f : FE) (tok : Option Nat) =>
      (bad f → exec i s = kill) ∧
      (¬ bad f → s.activeOf i = 0 → exec i s = .next (s.past c h)) ∧
      (¬ bad f → s.activeOf i ≠ 0 → 4 ≤ g.ringOps.length → exec i s = .next (s.stays { g with wait := .none })) ∧
      (¬ bad f → s.activeOf i ≠ 0 → g.ringOps.length < 4 → ∃ l, exec i s = .next (s.past c { h with ringOps := g.ringOps ++
          [{ rel := rel, ring := f.rid.toNat, stage := stage f, phase := (ticket f).getLsbD 4, tok := tok, waits := l }] }) ∧
        (∀ p ∈ g.pend, p.done = false → p.id ∈ l) ∧ (∀ m ∈ g.moves, m.done = false → m.id ∈ l) ∧
        (∀ k, tok = some k → ∀ e ∈ s.ops, e.2.token = k → e.2.group = s.who → e.2.status ≠ .cancelled → e.1 ∈ l))
    (∀ f, Issues (.rpush f) s c → defers (.rpush f) false f (if f.mod = 1 then some f.tok.toNat else none)) ∧
    (∀ f, Issues (.rrel f) s c → defers (.rrel f) true f none) ∧
    (∀ f, Issues (.rpop f) s c →
      let n := f.rid.toNat
      let r := ring n
      let up := fun (x : BitVec 4) => if r.nst.toNat ≤ x.toNat then (0 : BitVec 4) else x + 1
      let lap := fun (x : BitVec 4) (b : Bool) => if r.nst.toNat ≤ x.toNat then !b else b
      let side := if f.mod = 0 then 1 else 0
      let late := ∃ k, tget r.popAt side = some (s.cycle, k) ∧ g.gid < k
      let out := fun (r1 : Ring) (x : BitVec 4) (b : Bool) => (Host.Outcome.next ((s.setTeam g.team { t with rings := tset t.rings n { r1 with popAt := tset r.popAt side (s.cycle, g.gid) } }).past c
        (h.ws f.sr.toNat (BitVec.ofNat 32 (x.toNat + if b then 16 else 0)))) : Host.Outcome State Fault Refusal)
      (r.en = false → exec (.rpop f) s = kill) ∧
      (r.en = true → s.activeOf (.rpop f) = 0 → exec (.rpop f) s = .next (s.past c h)) ∧
      (r.en = true → s.activeOf (.rpop f) ≠ 0 → late → exec (.rpop f) s = .next (s.stays { g with wait := .none })) ∧
      (r.en = true → s.activeOf (.rpop f) ≠ 0 → ¬ late → f.mod = 0 → exec (.rpop f) s = out { r with pstg := up r.pstg, plap := lap r.pstg r.plap } r.pstg r.plap) ∧
      (r.en = true → s.activeOf (.rpop f) ≠ 0 → ¬ late → f.mod ≠ 0 → exec (.rpop f) s = out { r with cstg := up r.cstg, clap := lap r.cstg r.clap } r.cstg (!r.clap))) ∧
    (∀ f, Issues (.rwait f) s c →
      (bad f → exec (.rwait f) s = kill) ∧
      (¬ bad f → s.activeOf (.rwait f) = 0 → exec (.rwait f) s = .next (s.past c h)) ∧
      (¬ bad f → s.activeOf (.rwait f) ≠ 0 → exec (.rwait f) s = .next (s.past c { h with wait := .rwait f.rid.toNat (stage f) (f.mod == 0) ((ticket f).getLsbD 4) }))) ∧
    (∀ n q full phase, g.wait = .rwait n q full phase → g.status = .live → t.live = true →
      (if (ring n).flipAt = some s.cycle then (if full then (ring n).fph0 else (ring n).eph0) else (if full then (ring n).fph else (ring n).eph)).getLsbD q = phase →
      exec .rwaitRelease s = .next (s.setCur { g with wait := .none })) ∧
    (∀ o rest, g.ringOps = o :: rest → t.live = true → t.save = .running ∨ t.save = .preempting → (∀ n ∈ o.waits, s.ringClear g n = true) →
      let noted := fun (x : Ring) => if x.flipAt = some s.cycle then x else { x with fph0 := x.fph, eph0 := x.eph, flipAt := some s.cycle }
      ∃ r, exec .ringOpEffect s = .next ((s.setTeam g.team { t with rings := tset t.rings o.ring r }).setCur { g with ringOps := rest }) ∧
        (o.rel = false → r = { noted (ring o.ring) with fph := (ring o.ring).fph ^^^ (1#16 <<< o.stage) }) ∧
        (o.rel = true → tgetD (ring o.ring).rels o.stage 0 + 1 ≠ (ring o.ring).reln.toNat + 1 →
          r = { ring o.ring with rels := tset (ring o.ring).rels o.stage (tgetD (ring o.ring).rels o.stage 0 + 1) }) ∧
        (o.rel = true → tgetD (ring o.ring).rels o.stage 0 = (ring o.ring).reln.toNat →
          r = { noted (ring o.ring) with rels := tset (ring o.ring).rels o.stage 0, eph := (ring o.ring).eph ^^^ (1#16 <<< o.stage) }))

/-- O41. What becomes of an outstanding access (R53, R86 to R88, R162, R171, R186, R188 to R191, R197, R202, R264, R267, R268). LOAD_DATA_RETURN writes one unit of the performed lanes that it names, value and poison, and no other lane or register. STORE_PERFORMED performs a scratchpad store whole: where lanes meet, the highest wins, and every other byte of every scratchpad is as before. HOME_ATOMIC performs a lane at the home as one step. LANE_FAULT parks the lanes that meet a replayable fault on records. ACCESS_VIOLATION fails the lanes that may not be performed and arms the trap with their mask. ABSENT_LINE_REISSUE ends a park whose lines are present. FAULT_RECORD_ENQUEUE writes the oldest queued record once the log has room. -/
def Obligations.AccessEvents : Prop :=
  ∀ (s : State), s.memOk = true →
    let g := s.cur
    (∀ op reg lanes p, g.pendOp op = some p → (p.lanes.map (·.lane)).Nodup → (∀ a ∈ p.lanes, a.performed = true) → p.ctr = .load → reg < p.nregs →
      (p.kind = .loadX → reg = 0) →
      ∃ t, exec (.loadDataReturn op reg lanes) s = .next t ∧ t.hbm = s.hbm ∧ t.teams = s.teams ∧
        (let now := fun (a : LaneAcc) => a ∈ p.lanes ∧ a.failed = false ∧ reg ∉ a.delivered ∧ a.lane < 32 ∧ lanes.getLsbD a.lane = true
         (p.scalar = false →
           (∀ a, now a → t.cur.rl (p.dest + reg) a.lane = (a.val[reg]?).getD 0 ∧ (t.cur.rvp (p.dest + reg)).getLsbD a.lane = (a.pois[reg]?).getD false) ∧
           (∀ r l, l < 32 → (r ≠ p.dest + reg ∨ ∀ a, now a → a.lane ≠ l) → t.cur.rl r l = g.rl r l ∧ (t.cur.rvp r).getLsbD l = (g.rvp r).getLsbD l) ∧
           (∀ n, t.cur.rs n = g.rs n)) ∧
         (p.scalar = true → p.mode = g.mode → ∀ a, p.lanes = [a] → now a →
           (0 < p.dest + reg → p.dest + reg < 128 → t.cur.rs (p.dest + reg) = (a.val[reg]?).getD 0 ∧ t.cur.sPoison (p.dest + reg) = (a.pois[reg]?).getD false) ∧
           (∀ n, n < 128 → n ≠ p.dest + reg → t.cur.rs n = g.rs n) ∧ (∀ r l, l < 32 → t.cur.rl r l = g.rl r l)))) ∧
    (∀ op lanes p, g.pendOp op = some p → p.kind = .store → p.spad = true → p.lanes ≠ [] → (p.lanes.map (·.lane)).Nodup →
      (∀ a ∈ p.lanes, s.tryable g p a = true ∧ a.lane < 32 ∧ a.addr % 2 ^ 32 + p.bytes ≤ 2 ^ 32 ∧ s.relGate s.who p a = .ok (s, true)) →
      (∃ a ∈ p.lanes, lanes.getLsbD a.lane = true) →
      ∃ t, exec (.storePerformed op lanes) s = .next t ∧
        (let covers := fun (u x : Nat) (a : LaneAcc) => a.addr / 2 ^ 32 = u ∧ a.addr % 2 ^ 32 ≤ x ∧ x < a.addr % 2 ^ 32 + p.bytes
         let byte := fun (y : State) (u x : Nat) => mread noSide (y.team u).spad x
         (∀ u x, (∀ a ∈ p.lanes, ¬ covers u x a) → byte t u x = byte s u x) ∧
         (∀ u x l1 a l2, p.lanes = l1 ++ a :: l2 → covers u x a → (∀ b ∈ l2, ¬ covers u x b) →
           byte t u x = BitVec.ofNat 8 (wordsNat a.data / 256 ^ (x - a.addr % 2 ^ 32)))) ∧
        t.cur.v = g.v ∧ t.cur.s = g.s ∧ t.hbm = s.hbm) ∧
    (∀ op p a fl ret at_ s1 l, g.pendOp op = some p → p.kind = .atomic fl ret at_ → p.spad = false → a ∈ p.lanes → (p.lanes.map (·.lane)).Nodup → a.lane < 32 →
      s.tryable g p a = true → a.remote p = false → s.relGate s.who p a = .ok (s, true) → lazyRelease p a = false →
      let r := s.reqOf g a.addr
      s.homeLine r = .ok (s1, l) → l.attrs.w = true → s1.pageFull r.asid r.va = false → l.poison = false →
      let old := lineNat l.data (a.addr % 128) p.bytes
      let s2 := s1.homeWrite r l (byteMask (a.addr % 128) p.bytes) (lineSet l.data (a.addr % 128) p.bytes (atomNew fl at_ old a.data)) p.colour false
      exec (.homeAtomic op (1#32 <<< a.lane)) s = .next ((s2.putLane s.who op (a.got (if ret then regWords p.bytes false old else []) false)).finishOp s.who op)) ∧
    (∀ op p, g.pendOp op = some p →
      let bad := p.lanes.filterMap fun a => match (if a.open then s.laneErr s.who p a else none) with | some (.fault k) => some (a.lane, a.addr, k) | _ => none
      exec (.laneFault op) s = .next ((s.recordPages s.who p bad).parkNow s.who)) ∧
    (∀ op p, g.pendOp op = some p → g.status = .live → g.armed = [] → (∀ a ∈ p.lanes, a.remote p = false ∧ a.refused = false ∧ a.fault = none) →
      let bad := p.lanes.filter fun a => a.open && s.laneErr s.who p a == some .violation
      bad ≠ [] → ∃ t, exec (.accessViolation op) s = .next t ∧
        t.cur.armed = [⟨0x04, p.pc, if p.groupLevel then 0 else laneSet ((bad.map (·.lane)).filter (· < 32))⟩] ∧ t.cur.v = g.v ∧ t.cur.s = g.s ∧ t.cur.clause = g.clause) ∧
    (∀ ls, g.wait = .absent ls → (∀ l ∈ ls, l.2 ∉ (s.team l.1).absent) → exec .absentLineReissue s = .next (s.setCur { g with wait := .none })) ∧
    (∀ r rest, (s.ctx s.who).queue = r :: rest → s.logRoom (s.ctx s.who) = true →
      let x := s.ctx s.who
      exec .faultRecordEnqueue s = .next ((s.setCtx s.who { x with queue := rest ++ x.heldRec.take 1, heldRec := x.heldRec.drop 1 }).writeRecord s.who r))

/-- O42. The atomic operations (R189, R190): the new value of each MOD from the old value and the operands, for 4 and for 8 bytes; VFATOM adds FP32 values, takes the lesser or the greater as VFMIN and VFMAX do (statement O22 says what they take), and adds the halves of a word in bf16 or f16, keeping denormals and rounding to nearest. -/
def Obligations.AtomicTable : Prop :=
  ∀ (old b x : W32) (y z : W32) (o64 : W64),
    let new := fun (op : Nat) (l : List W32) => BitVec.ofNat 32 (atomNew false op old.toNat l)
    let new64 := fun (op : Nat) (l : List W32) => BitVec.ofNat 64 (atomNew false op o64.toNat l)
    new 0 [b] = old + b ∧ new 1 [b] = (if b.toInt < old.toInt then b else old) ∧ new 2 [b] = (if old.toInt < b.toInt then b else old) ∧
    new 3 [b] = (if old.toNat ≤ b.toNat then old else b) ∧ new 4 [b] = (if b.toNat ≤ old.toNat then old else b) ∧
    new 5 [b] = old &&& b ∧ new 6 [b] = old ||| b ∧ new 7 [b] = old ^^^ b ∧ new 8 [b] = b ∧ new 9 [b, x] = (if old = b then x else old) ∧
    new64 10 [b, x] = o64 + (x ++ b) ∧ new64 11 [b, x] = x ++ b ∧ new64 12 [b, x, y, z] = (if o64 = x ++ b then z ++ y else o64) ∧
    new 13 [b] = (if b.toNat ≤ old.toNat then 0 else old + 1) ∧ new 14 [b] = BitVec.ofNat 32 (fmtF32.add false .rne old.toNat b.toNat) ∧
    new 15 [b] = BitVec.ofNat 32 ((fmtOf 10).add false .rne (old.toNat % 65536) (b.toNat % 65536) +
      (fmtOf 10).add false .rne (old.toNat / 65536) (b.toNat / 65536) * 65536) ∧
    (let vf := fun (op : Nat) => BitVec.ofNat 32 (atomNew true op old.toNat [b])
     vf 0 = new 14 [b] ∧ vf 1 = BitVec.ofNat 32 (fmtF32.minmax false false old.toNat b.toNat) ∧ vf 2 = BitVec.ofNat 32 (fmtF32.minmax false true old.toNat b.toNat) ∧
     vf 3 = new 15 [b] ∧ vf 4 = BitVec.ofNat 32 ((fmtOf 9).add false .rne (old.toNat % 65536) (b.toNat % 65536) +
       (fmtOf 9).add false .rne (old.toNat / 65536) (b.toNat / 65536) * 65536))

/-- O43. REGROUP (R39, R42, R129): the word is illegal where vK or vB is beyond the budget, with a bracket open, with a deeper stack, or at another PC than the first arriver's; else the group has arrived and waits. REGROUP_EXCHANGE, once every participant has arrived and drained, retires the participants and makes the groups of the packing, with the next gids from 0: their carried registers and tids move with their lanes, the lanes beyond are exited, the scale registers are 0xFF, the flags are those of all, and the rest is copied from the participant with the lowest gid. The packing of REGROUP (R40, R41), for the lanes of at most 32 groups and keys of 8 bits: every lane stands in exactly one new group; groups have 1 to 32 lanes; the lanes of a key that is not merged stand, in their old order, in groups of that key alone; where the groups of the keys fit the capacity nothing is merged; and wherever the lanes fit the capacity at all, so do the groups. -/
def Obligations.RegroupExchange : Prop :=
  (
  ∀ (s : State) (f : FV),
    (∀ c, Issues (.regroup f) s c →
      let g := s.cur
      let t := s.teamOf g
      let bad := g.nv ≤ f.va.toNat ∨ g.nv ≤ f.vc.toNat ∨ g.widen.isSome = true ∨ g.stack.length ≠ 1 ∨ (∃ p, t.regroup = some p ∧ p.1 ≠ wordPc g c)
      (bad → exec (.regroup f) s = .next (s.kill s.who 0x01 (wordPc g c))) ∧
      (¬ bad → exec (.regroup f) s = .next ((s.setTeam g.team { t with regroup := some (wordPc g c, .regroup f), arrived := ninsert t.arrived g.gid }).setCur
        { g with wait := .regroup }))) ∧
    (∀ pc u0 rest,
      let t := s.team s.who
      let ps := u0 :: rest
      let p0 := s.group u0
      let ms := ps.flatMap fun u => (lanesOf (~~~(s.group u).exited)).map fun l =>
        ({ key := ((s.group u).rl f.va.toNat l).toNat % 256, gid := (s.group u).gid, lane := l, uid := u } : Mover)
      let packs := packing (t.slots - t.nfeed - t.nmtx) ms
      t.regroup = some (pc, .regroup f) → s.participants t = ps → s.regroupReady t = true → (∀ u ∈ ps, u < s.nextId) →
      ∃ t', exec .regroupExchange s = .next t' ∧ (∀ u ∈ ps, (t'.group u).status = .retired) ∧
        (∀ v, v < s.nextId → v ∉ ps → t'.group v = s.group v) ∧ t'.hbm = s.hbm ∧ (t'.team s.who).regroup = none ∧
        ∀ k key here, packs[k]? = some (key, here) →
          let y := t'.group (s.nextId + k)
          tget (t'.team s.who).groups k = some (s.nextId + k) ∧ y.status = .live ∧ y.gid = k ∧ y.role = .vector ∧ y.key = key ∧ y.pc = p0.nextPc ∧
          y.rs f.vd.toNat = (if f.vd = 0 then 0xFFFFFFFF else key) ∧ (∀ n, n ≠ f.vd.toNat → n < 120 → y.rs n = p0.rs n) ∧ y.pend = [] ∧ y.moves = [] ∧ y.copies = [] ∧ y.ringOps = [] ∧
          y.stack = [{ mask := laneSet (List.range here.length) }] ∧ y.exited = ~~~ laneSet (List.range here.length) ∧
          y.tokens = p0.tokens ∧ y.pathq = p0.pathq ∧ y.pathCount = 0 ∧ y.calls = p0.calls ∧ y.engseq = p0.engseq ∧ y.gctlNext = p0.gctlNext ∧
          y.widen = none ∧ y.mprog = 0 ∧ (∀ b, y.xstat.getLsbD b = ps.any fun u => (s.group u).xstat.getLsbD b) ∧
          (∀ n, n < p0.nx → y.rx n = 0xFFFFFFFFFFFFFFFF) ∧
          (∀ j m, here[j]? = some m → j < 32 → lane y.tids j = lane (s.group m.uid).tids m.lane ∧
            ∀ r, f.vb.toNat ≤ r → r ≤ f.vc.toNat → r < p0.nv → y.rl r j = (s.group m.uid).rl r m.lane ∧
              (y.rvp r).getLsbD j = ((s.group m.uid).rvp r).getLsbD m.lane))
  ) ∧ (
  ∀ (cap : Nat) (ms : List Mover), (∀ m ∈ ms, m.key < 256) → ms.length ≤ 1024 →
    let packs := packing cap ms
    (packs.flatMap (·.2)).Perm ms ∧
    (∀ p ∈ packs, p.2 ≠ [] ∧ p.2.length ≤ 32 ∧ (p.1 = 0xFFFFFFFF ∨ ∀ m ∈ p.2, p.1 = BitVec.ofNat 32 m.key)) ∧
    (∀ k, k < 256 →
      let own := (packs.filter fun p => p.1 == BitVec.ofNat 32 k).flatMap (·.2)
      own = ms.filter (fun m => m.key == k) ∨ own = []) ∧
    (((List.range 256).map fun k => ((ms.filter fun m => m.key == k).length + 31) / 32).sum ≤ cap → ∀ p ∈ packs, p.1 ≠ 0xFFFFFFFF) ∧
    ((ms.length + 31) / 32 ≤ cap → packs.length ≤ cap)
  )

/-- O44. Every word completes (R82, R89, R101, R133): a word that passes its checks and reads no poison, in a state in which its own description lets it go on at once, issues, and its group goes on past it. The conditions are those of `WordReady`, form by form. -/
def Obligations.WordsComplete : Prop :=
  ∀ (i : Instr) (s : State) (c : Clause), Issues i s c → WordReady s i → Completes i s c

/-- O45. The words that an event completes. TCOPY, TCOPYS and STASH (R204, R205, R224): with room in the counters and a slot free, the word begins to read its layout record, and, where the core's L1 holds the record in colour 0 and no condition refuses it, RECORD_READ_COMPLETE issues the operation and the group goes on past the word. MMA, MMAS, MMAD, MMAF and MMAI (R251 to R255): with suitable operands and no NaN scale that traps, the product starts, and MATRIX_CHUNK_COMPLETE, once for each chunk, completes it where no other product waits for the array; then the group goes on past the word. -/
def Obligations.EventsCompleteWords : Prop :=
  ∀ (s : State) (c : Clause),
    let g := s.cur
    let k := s.coreOf g
    let copies := fun (i : Instr) (f : FE) (kind : Nat) => ∀ l : L1Line, Issues i s c → s.activeOf i ≠ 0 →
      let a := pairAt g f.sr
      let lrec := BitVec.ofNat 512 (lineNat l.data (a % 128) 64)
      a < 2 ^ 56 → a % 64 = 0 → g.copies.length < 15 → (g.tok f.tok.toNat).count < 15 → SlotFree s → g.pend = [] →
      s.l1At k (s.reqOf g a).key = some l → l.cols.getLsbD 0 = true → l.poison = false →
      (layOf lrec).check (copyKind kind) (coordsOf (layOf lrec) g f) (g.rs f.sx.toNat).toNat (s.spadSize g.team) = none →
      ∃ t u, exec i s = .next t ∧ t.cur.wait = .record kind f ∧ exec .recordReadComplete t = .next u ∧ GoneOn s u c ∧ u.cur.engseq = g.engseq + 1 ∧
        u.cur.copies.length = g.copies.length + 1 ∧ (u.cur.tok f.tok.toNat).count = (g.tok f.tok.toNat).count + 1
    let product := fun (i : Instr) (n : Nat) (bad nan : Bool) => Issues i s c → bad = false → (g.gctl.getLsbD 0 = true → nan = false) →
      g.mprog.getLsbD 63 = false → (∀ u ∈ (s.core k).arrayQ, (s.group u).product = none) → g.product = none →
      ∃ t u, exec i s = .next t ∧ again .matrixChunkComplete n t = .next u ∧ GoneOn s u c ∧ u.cur.product = none
    let a := fun (f : FX) => (⟨f.ta.toNat, f.mod.getLsbD 0⟩ : MatOp)
    let b := fun (f : FX) => (⟨f.tb.toNat, f.mod.getLsbD 1⟩ : MatOp)
    let x := fun (f : FX) => (⟨f.tg.toNat, f.mod.getLsbD 2⟩ : MatOp)
    let nan := fun (o : MatOp) (n : Nat) => decide (∃ r, r < o.rows g ∧ ∃ q, q < n ∧ o.scale g r q = 0xFF)
    (∀ f, copies (.tcopy f) f 0) ∧ (∀ f, copies (.tcopys f) f 1) ∧ (∀ f, copies (.stash f) f 2) ∧
    (∀ f, let n := (a f).cols g / 32
      product (.mma f) n (mmaBad f (mxCode f.fa) (mxCode f.fb) 32 g) (nan (a f) n || nan (b f) n)) ∧
    (∀ f, let n := 2 * (a f).cols g / 32
      product (.mmas f) n (mmasBad f g) (nan (a f) n || nan (b f) n)) ∧
    (∀ f, let n := (a f).cols g / 32
      product (.mmad f) (n + (a f).rows g / 32) (mmadBad f g) (nan (a f) n || nan (b f) n || nan (x f) ((x f).cols g / 32))) ∧
    (∀ f, product (.mmaf f) ((a f).cols g / 16) (mmaBad f (halfCode f.fa) (halfCode f.fb) 16 g) false) ∧
    (∀ f, product (.mmai f) ((a f).cols g / 32) (mmaBad f (intCode f.fa) (intCode f.fb) 32 g) false)

/-- O46. Events that move a line complete where the line's home, or the L1 that holds it, can make the access at once (R160, R162, R164, R165, R171, R302, R308, R313, R320, R321): each with its effect. HOME_REQUEST fills the home from memory; L1_WRITE_BACK merges the dirty bytes; RELEASE_PULL of a clean core needs no transfer; HOME_ATOMIC, REMOTE_REQUEST and MIRRORED_WRITE are one step at the home; COPY_WRITE_LAND of a flush drains its entries; ARM reads the TCB; GRID_END writes STATE 3 of a task without successors; TEAM_SAVE writes the scratchpad image and the words of the barriers and rings in the lines of the team area, and every live group enters the system handler with PREEMPT, its frame holding where it stopped and what it waited for; what is kept beside the image is the model's (assumption log 21). -/
def Obligations.HomesComplete : Prop :=
  ∀ (s : State),
    (∀ core asid va q, s.lineReq core asid va = some q → q.die = homeDie q.va → s.llcAt q.die q.key = none → s.dirAt q.key = {} → s.tlb = [] → s.noise = [] →
      ∀ x, s.pageOf q.asid q.va = some x → pteMig x.pte = false → s.llcRoom q.die q.key = true →
        overBudget ((s.ctx q.ctx).inPeriod s.cycle).useHbm ((s.ctx q.ctx).inPeriod s.cycle).budget.hbm = false → overBudget ((s.ctx q.ctx).inPeriod s.cycle).useCxl ((s.ctx q.ctx).inPeriod s.cycle).budget.cxl = false →
        ∃ t, exec (.homeRequest { core := core, asid := asid, va := va, kind := .read }) s = .next t ∧
          t.llcAt q.die q.key = some { data := (s.memLine x (q.va / 128 * 128)).1, poison := (s.memLine x (q.va / 128 * 128)).2, attrs := pteAttrs x.pte } ∧
          t.groups = s.groups ∧ t.hbm = s.hbm) ∧
    (∀ asid va l h evict, let k := lineKey asid va.toNat
      s.l1At s.who k = some l → l.dirty ≠ 0 → dieOf s.who = homeDie (keyVa k) → s.llcAt (homeDie (keyVa k)) k = some h → s.dirAt k = {} → h.attrs.w = true →
      s.plat.hostOwn = [] → s.pageFull (keyAsid k) (keyVa k) = false →
      let r : Req := ⟨s.who, s.ctxOfKey 0 k, keyAsid k, keyVa k⟩
      let t := (s.mergeAt r.die r h l.dirty l.data l.cols l.poison l.byCtxs).setL1 s.who k { l with dirty := 0, byCtxs := [] }
      lineKey (keyAsid k) (keyVa k) = k → exec (.l1WriteBack asid va evict) s = .next (if evict then t.dropL1 s.who k else t)) ∧
    (∀ asid va e, (s.dirAt (lineKey asid va.toNat)).entryOf s.who = some e → (s.core e.core).pulled e = false → (∀ p ∈ (s.core e.core).l1, p.2.dirty = 0) →
      exec (.releasePull asid va) s = .next (s.noteFlush e.core e.ctx e.cols)) ∧
    (∀ op p a fl ret at_ l, let g := s.cur
      let r := s.reqOf g a.addr
      g.pendOp op = some p → p.kind = .atomic fl ret at_ → p.spad = false → p.rel = false → a ∈ p.lanes → (p.lanes.map (·.lane)).Nodup → a.lane < 32 →
      s.tryable g p a = true → a.remote p = false → s.AtHome r l → l.poison = false →
      let old := lineNat l.data (a.addr % 128) p.bytes
      let s2 := s.homeWrite r l (byteMask (a.addr % 128) p.bytes) (lineSet l.data (a.addr % 128) p.bytes (atomNew fl at_ old a.data)) p.colour false
      exec (.homeAtomic op (1#32 <<< a.lane)) s = .next ((s2.putLane s.who op (a.got (if ret then regWords p.bytes false old else []) false)).finishOp s.who op)) ∧
    (∀ p r l, s.gal.serve[s.who]? = some p → s.inOrder p = true → s.serveReq p.djob (packetOffset p) = some r → s.took.AtHome r l →
      (∀ a, p.kind = .read a → exec .remoteRequest s = .next (s.took.reply p .readReply l.data l.poison (homeDie r.va))) ∧
      (∀ a, p.kind = .write a → let c := s.took.cross p.die (homeDie r.va) p.line p.poison
        exec .remoteRequest s = .next ((c.1.homeWrite r l p.mask c.2.1 p.colour c.2.2).reply p .performed 0 false (homeDie r.va)))) ∧
    (∀ p va k c l, s.gal.serve[s.who]? = some p → p.kind = .mirror va → s.inOrder p = true → s.ctxOfJob p.djob = some (k, c) →
      let r : Req := ⟨noCore, k, tagAsid c.asid va, va⟩
      let c := s.took.cross p.die (homeDie va) p.line p.poison
      s.took.AtHome r l → exec .mirroredWrite s = .next ((c.1.homeMerge r l p.mask c.2.1 p.cols c.2.2).reply p .performed 0 false)) ∧
    (∀ o, s.op s.who = some o → o.kind = .gflush → s.opAwake o = true → s.mayProceed o = true →
      exec .copyWriteLand s = .next ((s.setOp { o with status := .running }).opDrain { o with status := .running }).1) ∧
    (∀ e l, s.nextEntry = some e → cmdCode e = 7 → cmdField e 6 2 = 0 → (tget s.ctxs (cmdCtx e)).isSome = true →
      let k := cmdCtx e
      let a := cmdField e 8 8
      let r := s.devReq k a
      a % 128 = 0 → a < 2 ^ 56 → s.AtHome r l → (∀ p ∈ s.tasks, s.tcbKey p.2 = r.key → p.2.done = true ∨ p.2.refused = true) →
      ∃ (t : State) (n : Nat), exec .arm s = .next (t.endCmd 0) ∧ (t.task n).ctx = k ∧ (t.task n).tcb = a ∧ (t.task n).lrec.toNat = lineNat l.data 0 64 ∧
        (t.task n).gate = decide (lineNat l.data 0x40 4 = 0)) ∧
    (∀ l, let k := s.who
      let tk := s.task k
      let r := s.devReq tk.ctx (tk.tcb + 0x44)
      s.gridOver k = true → (∀ p ∈ s.cores, (∀ q ∈ p.2.l1, q.2.dirty = 0) ∧ p.2.wcb = []) → tk.tcb % 128 = 0 → tk.tcb < 2 ^ 55 → s.AtHome r l → l.poison = false → lineNat l.data 0x4C 2 = 0 → (∀ p ∈ s.groups, p.2.resv = []) →
      ∃ t m, exec .gridEnd s = .next t ∧ (t.task k).done = true ∧ t.llcAt (homeDie r.va) r.key = some m ∧ lineNat m.data 0x44 2 = 3 ∧ t.groups = s.groups) ∧
    (∀ park, let k := s.who
      let t := s.team k
      let lines := s.spadSize k / 128
      s.saveReady k park = true → t.share = none → (∀ p ∈ s.ops, p.2.team ≠ k) →
      let at_ := fun (n : Nat) => s.devReq t.ctx (teamArea (s.ctx t.ctx) t.linear + 128 * n)
      let words := teamWords ((List.range 16).map fun n => (t.bar n).word) ((List.range 8).map fun n => (t.ring n).word)
      let live := (s.membersOf k).filter fun p => p.2.status == .live
      teamArea (s.ctx t.ctx) t.linear % 128 = 0 → teamArea (s.ctx t.ctx) t.linear + 128 * (lines + 2) ≤ 2 ^ 56 →
      (∀ n, n < lines + 2 → (∃ l, s.AtHome (at_ n) l) ∧ ∀ p ∈ s.tasks, s.tcbKey p.2 ≠ (at_ n).key) →
      (tkeys s.groups).Nodup → (∀ p ∈ live, p.2.mode ≠ .sysHandler) →
      ∃ y, exec (.teamSave park) s = .next y ∧ (y.team k).save = .saving ∧ (y.team k).absent = [] ∧ (y.team k).stopped = [] ∧ (y.team k).keptAbsent = t.absent ∧
        (∀ n, n < lines + 2 → ∃ m, y.llcAt (homeDie (at_ n).va) (at_ n).key = some m ∧ m.dirty = true ∧ ∀ b, b < 128 →
          m.data.extractLsb' (8 * b) 8 = if n < lines then mread noSide t.spad (128 * n + b) else BitVec.ofNat 8 (words / 256 ^ (128 * (n - lines) + b))) ∧
        ∀ u g, (u, g) ∈ live → let h := y.group u
          h.mode = .sysHandler ∧ h.cause = 0x0A ∧ h.pc = BitVec.ofNat 57 (s.ctx t.ctx).sysEntry ∧ h.clause = none ∧ h.wait = .none ∧ h.resv = [] ∧ h.v = g.v ∧ h.s = g.s ∧ h.stack = g.stack ∧
          ∃ f, h.frameS = some f ∧ f.pc = g.pc ∧ f.mode = g.mode ∧ f.wait = g.wait)

/-- O47. CLAUSE_BEGIN at a clause boundary where no path switch is due and the group does not leave the active set (R82, R84, R85, R56, R122, R264, R282): an armed trap is taken first; a bad header kills; a fetch from the remote window, or from a page without X, traps with PROTECTION, the latter with its record; a poisoned line traps with POISON (assumption log 35); a page fault parks the group at its header on a record; and the group whose turn it is, once the combined waits are met, observes the named tokens and has the clause under way with no waits left, or goes on inside it at the word that a handler returned to. -/
def Obligations.ClauseBegins : Prop :=
  ∀ (s : State),
    let g := s.cur
    let at_ : ResumeAt := ⟨g.pc, false, 0, 0⟩
    s.atBoundary s.who = true → s.switchNow s.who = false → g.wait = .none → g.faultParked = false → g.acqHeld = false → s.swapsOut s.who = false →
    (∀ a rest, g.armed = a :: rest → g.resume = none →
      exec .clauseBegin s = .next ((s.setCur { g with armed := rest }).trap s.who a.cause a.targ a.pc at_)) ∧
    (g.armed = [] ∨ g.resume ≠ none →
      (s.fetchClause g = .bad → exec .clauseBegin s = .next (s.kill s.who 0x01 g.pc)) ∧
      (g.pc.getLsbD 56 = true → exec .clauseBegin s = .next (s.trap s.who 0x04 0 g.pc at_)) ∧
      (g.pc.getLsbD 56 = false → (∀ p ∈ tgetD (s.core (s.coreOf g)).loops (g.gid % 4) [], p.1 ≠ loopKey (s.reqOf g g.pc.toNat)) →
        tget (s.core (s.coreOf g)).icache (s.reqOf g g.pc.toNat).key = none →
        (∀ s1 l, s.llcRead (s.reqOf g g.pc.toNat) = .ok (s1, l) →
          (l.attrs.x = false → exec .clauseBegin s =
            .next (((s.seen (s.reqOf g g.pc.toNat)).groupFault s.who 1 0x40 3 g.pc.toNat g.pc 0).2.trap s.who 0x04 0 g.pc at_)) ∧
          (l.attrs.x = true → l.poison = true → exec .clauseBegin s = .next (s.trap s.who 0x06 0 g.pc at_))) ∧
        (∀ cause, s.llcRead (s.reqOf g g.pc.toNat) = .error (.fault cause) →
          let r := s.groupFault s.who 1 cause 3 g.pc.toNat g.pc 0
          exec .clauseBegin s = .next (r.2.setGroup s.who { r.2.group s.who with wait := .fetchFault (some r.1) g.pc }))) ∧
      (∀ s1 h ws, s.fetchClause g = .clause s1 h ws → s.chosen (s.coreOf g) (g.gid % 4) = some s.who → s.displaced (s.coreOf g) (g.gid % 4) ≠ some s.who → s1.who = s.who →
        (∀ k, g.resume = some k → ∃ t, exec .clauseBegin s = .next t ∧ t.cur.clause = some { hdr := h, words := ws, idx := k } ∧
          t.cur.v = s1.cur.v ∧ t.cur.s = s1.cur.s ∧ t.cur.stack = s1.cur.stack ∧ t.cur.xstat = s1.cur.xstat ∧ t.cur.waits = s1.cur.waits) ∧
        (g.resume = none → s1.waitsMet s.who (combine g.waits h.wait) = true → ∃ t, exec .clauseBegin s = .next t ∧
          t.cur.clause = some { hdr := h, words := ws, idx := 0 } ∧ t.cur.waits = noWait ∧
          (∀ b, t.cur.xstat.getLsbD b = (s1.cur.xstat.getLsbD b || (List.range 8).any fun k => (combine g.waits h.wait).tokw.getLsbD k && (s1.cur.tok k).held.getLsbD b)) ∧
          (∀ k, k < 8 → (t.cur.tok k).count = (s1.cur.tok k).count ∧ (t.cur.tok k).sig = (s1.cur.tok k).sig) ∧
          t.cur.v = s1.cur.v ∧ t.cur.s = s1.cur.s ∧ t.cur.stack = s1.cur.stack ∧ t.cur.pend = s1.cur.pend ∧ t.hbm = s1.hbm)) ∧
      (∀ s1 h ws, s.fetchClause g = .clause s1 h ws →
        s.chosen (s.coreOf g) (g.gid % 4) ≠ some s.who ∨ s.displaced (s.coreOf g) (g.gid % 4) = some s.who ∨ (g.resume = none ∧ s1.waitsMet s.who (combine g.waits h.wait) = false) →
        exec .clauseBegin s = .next s))

/-- O48. The active and pending sets and the paths (R25, R27, R28, R33): an active group in a long-latency wait, for a stage, for absent lines, or for the WLD, WCP or tokens of its next clause, exchanges places with the oldest ready pending group; the oldest ready pending group enters a free place of the active set, as its youngest and not to issue for two cycles; one that has been ready for 1,024 cycles takes the place of the oldest active group that is not ready, or of the youngest where all are, at that group's clause boundary; and once a path has issued PATHQ instructions it exchanges places with the one directly below it. Retirement (R38, R45): a group whose last lane has exited, at a boundary and with its loads, stores and tile moves complete, retires and counts as arrived at every barrier. With the team's last group, where nothing of the team is open, the team ends: its scratchpad, rings and barriers are gone. -/
def Obligations.ActiveSets : Prop :=
  (
  ∀ (s : State),
    let g := s.cur
    let core := s.coreOf g
    let k := g.gid % 4
    let enter := fun (y : State) (n : Nat) =>
      ({ y with nextId := n + 1 } : State).setGroup s.who { y.group s.who with active := true, age := n, mayIssue := s.cycle + 2, readySince := none, streak := 0 }
    (∀ p, s.oldestPending core k = some p → g.status = .live → g.active = true → g.faultParked = false → ¬ (s.atBoundary s.who = true ∧ s.switchNow s.who = true) →
      ((∃ ls, g.wait = .absent ls) ∨ (∃ n q full phase, g.wait = .rwait n q full phase) ∨
        (g.wait = .none ∧ g.clause = none ∧ g.resume = none ∧ g.armed = [] ∧ ∃ s1 hd ws, s.fetchClause g = .clause s1 hd ws ∧
          (let w := combine g.waits hd.wait
           (w.wld ≠ 63 ∧ w.wld.toNat < g.loads) ∨ (w.wcp ≠ 15 ∧ w.wcp.toNat < s1.copiesFor g) ∨ ∃ t, t < 8 ∧ w.tokw.getLsbD t = true ∧ s1.tokenFor g s.who t = false))) →
      p ≠ s.who → let y := ({ s with nextId := s.nextId + 1 } : State).setCur { g with active := false, age := s.nextId, readySince := none, streak := 0 }
      exec .clauseBegin s = .next (({ y with nextId := s.nextId + 2 } : State).setGroup p
        { y.group p with active := true, age := s.nextId + 1, mayIssue := s.cycle + 2, readySince := none, streak := 0 })) ∧
    (s.who ∈ s.pendings core k → (s.actives core k).length < 8 → s.oldestPending core k = some s.who → exec .pendingEnter s = .next (enter s s.nextId)) ∧
    (∀ d v, s.who ∈ s.pendings core k → s.ready s.who = true → g.readySince = some d → d + 1024 ≤ s.cycle →
      firstBy (fun u => (s.group u).age) ((s.actives core k).filter fun u => !s.ready u) = some v ∨
        ((∀ u ∈ s.actives core k, s.ready u = true) ∧ firstBy (fun u => s.nextId - (s.group u).age) (s.actives core k) = some v) →
      (s.group v).clause = none →
      exec .forcedSwap s = .next (enter (({ s with nextId := s.nextId + 1 } : State).setGroup v
        { s.group v with active := false, age := s.nextId, readySince := none, streak := 0 }) (s.nextId + 1))) ∧
    (∀ top below rest, s.atBoundary s.who = true → (g.wait = .none ∨ ∃ n u, g.wait = .bar n u ∧ u ≤ ((s.teamOf g).bar n).phases) → g.stack = top :: below :: rest → rest.length + 2 ≤ 32 →
      g.resume = none → g.widen = none → g.mode = .user → g.pathq.toNat ≤ g.pathCount → top.rcv = below.rcv → top.rcv ≠ 1 → top.rcv ≠ 3 →
      exec .pathSwitch s = .next (s.setCur { g with stack := below :: { top with pc := g.pc.setWidth 64 } :: rest, pathCount := 0, pc := below.pc.setWidth 57, wait := .none,
                                                     resv := g.resv.filter fun p => !inSet top.mask p.1 }))
  ) ∧ (
  ∀ (s : State),
    let g := s.cur
    let s1 := (s.setCur { g with status := .retired, resv := [], wait := .none, armed := [] }).groupGone s.who
    g.status = .live → g.exited = 0xFFFFFFFF → g.clause = none → g.pend = [] → g.moves = [] →
    ((∃ p ∈ s1.groups, p.2.team = g.team ∧ p.2.status = .live) → exec .groupRetire s = .next s1) ∧
    ((s.team g.team).live = true → (∀ p ∈ s1.groups, p.2.team = g.team → p.2.status ≠ .live ∧ p.2.pend = [] ∧ p.2.moves = []) →
      (s.team g.team).share = none → (∀ p ∈ s.ops, p.2.team ≠ g.team) →
      ∃ t, exec .groupRetire s = .next t ∧ t.groups = s1.groups ∧ t.cur.status = .retired ∧
        (t.team g.team).live = false ∧ (t.team g.team).spad = [] ∧ (t.team g.team).rings = [] ∧ (t.team g.team).bars = [] ∧
        (∀ n, n ≠ g.team → t.team n = s.team n) ∧ t.hbm = s.hbm)
  )

/-- O49. TEAM_PLACEMENT for the only waiting task, the gates not held (R13, R17, R19 to R21, R24, R48, R320, R321): a record that no condition of R20 refuses is checked; a refused one is recorded with its reason in the TCB, and nothing runs; that the refusal is recorded as of core 256 is the model's choice (assumption log 16), as is that the conditions are checked when the dispatcher first serves the task (assumption log 30); the next team of an unshared grid that finds a core starts there, its coordinates those of its linear index, with one live group for each slot that has a role, at ENTRY with ARGS in s1 and s2 and no lane exited. -/
def Obligations.TeamPlacement : Prop :=
  ∀ (s : State) (k : Nat),
    let tk := s.task k
    let l := tk.lrec
    s.waitingTasks = [k] → s.plat.gates = false → s.plat.pstate ≠ 3 →
    (tk.checked = false → refusal l (s.ctx tk.ctx) = 0 → exec .teamPlacement s = .next (s.setTask k { tk with checked := true })) ∧
    (tk.checked = false → refusal l (s.ctx tk.ctx) ≠ 0 → ∀ s1,
      ((s.setTask k { tk with checked := true, refused := true }).setCtx tk.ctx ((s.ctx tk.ctx).recordAt s.cycle 256 0 0 0x01 tk.tcb)).tcbState k 4 (refusal l (s.ctx tk.ctx)) = some s1 →
      exec .teamPlacement s = .next s1) ∧
    (∀ c, tk.checked = true → lrecCores l = false → tk.saved = [] → tk.placed ≠ 0 → tk.placed < lrecTeams l → s.placesFor k [(none, tk.placed)] [] = some [c] →
      ∃ t, exec .teamPlacement s = .next t ∧ (t.core c).poolw = lrecPoolw l ∧ (t.task k).placed = tk.placed + 1 ∧ t.hbm = s.hbm ∧
        (let y := t.team s.nextId
         y.live = true ∧ y.core = c ∧ y.task = k ∧ y.ctx = tk.ctx ∧ y.linear = tk.placed ∧ y.spad = [] ∧
         (y.x + lrecX l * (y.y + lrecY l * y.z)) = tk.placed ∧ y.x < lrecX l ∧ y.y < lrecY l ∧ y.z < lrecZ l ∧
         ∀ n r, slotRole l n = some r → ∃ u, s.nextId < u ∧ tget y.groups n = some u ∧
           (let g := t.group u
            g.status = .live ∧ g.team = s.nextId ∧ g.gid = n ∧ g.role = r ∧ g.mode = .user ∧ g.exited = 0 ∧ g.clause = none ∧ g.pc.toNat = lrecEntry l ∧
            g.nv = budgetV (lrecBudget l r) ∧ g.nx = budgetX (lrecBudget l r) ∧ g.ns = budgetS (lrecBudget l r) ∧
            (g.rs 2 ++ g.rs 1 : W64).toNat = lrecArgs l ∧ (∀ j, j < 32 → lane g.tids j = BitVec.ofNat 32 (32 * n + j)) ∧
            (∀ q, g.rv q = 0) ∧ (∀ q, 2 < q → q < 128 → g.rs q = 0))))

/-- O50. Pre-emption, the save of a team and its resumption (R44, R256, R288 to R290): PREEMPT_POINT stops a group at its clause boundary where no trap is due, inside a product between two chunks with its progress in MPROG, parked on an absent line, at a BARRIVE that waits, or at a REGROUP whose arrival is taken back; that a BARRIVE that waits is such a place is the model's choice (assumption log 50). TEAM_SAVE, once all have stopped, lands the scale bytes that copies have put together, stores the scratchpad image and the words of the barriers and rings in the lines of the team area, parks the copies and sends every live group to the system handler with PREEMPT, its frame holding where it stopped and what it waited for; memory is then as the stores left it, and what is kept beside the image is the model's (assumption log 21). TEAM_LEAVE_CORE takes the parked team off its core; RESUME_RESTORE puts back the image and the blocks, gives the operations the free slots of the core in order, and the team runs again (assumption log 50). -/
def Obligations.Preemption : Prop :=
  ∀ (s : State),
    (let g := s.cur
     let t := s.team g.team
     let out := fun (y : Team) (g1 : Group) => (.next (((s.setTeam g.team { y with stopped := ninsert t.stopped g.gid }).setCur g1).setCore t.core
       { s.core t.core with arrayQ := (s.core t.core).arrayQ.filter (· != s.who) }) : Host.Outcome State Fault Refusal)
     let left := t.arrived.filter (· != g.gid)
     let back := { t with arrived := left, regroup := if left.isEmpty then none else t.regroup }
     g.status = .live → t.live = true → t.save = .preempting → g.gid ∉ t.stopped → g.mode ≠ .sysHandler → g.exited ≠ 0xFFFFFFFF → g.faultParked = false →
     (g.clause = none → g.resume = none → s.trapDue s.who = false → g.product = none →
       (g.wait matches .none | .bar _ _ | .barCarry _ _ | .rwait _ _ _ _ | .gbar _ _ | .nrmrd _ _ | .mirror _ _ _ _ _ | .fetchFault _ _) = true →
       exec .preemptPoint s = out back g) ∧
     (∀ c p, g.clause = some c → g.product = some p → 1 ≤ p.next → p.next < p.chunks →
       exec .preemptPoint s = out back { g with product := none, wait := .none, mprog := mprogOf p.next ((wordPc g c).toNat / 8) }) ∧
     (∀ c, g.clause = some c → g.product = none → (g.wait matches .absent _ | .regroup | .barCarry _ _) = true →
       exec .preemptPoint s = out back { g with wait := .none })) ∧
    (let k := s.who
     let t := s.team k
     (∀ park s2, s.saveReady k park = true → t.share = none →
       let s1 := (s.ops.filter fun p => p.2.team == k).foldl (fun y p => let r := y.flushScales p.2; r.1.setOp r.2) s
       let t := s1.team k
       let lines := s1.spadSize k / 128
       let words := teamWords ((List.range 16).map fun n => (t.bar n).word) ((List.range 8).map fun n => (t.ring n).word)
       s1.areaWrite t.ctx (teamArea (s1.ctx t.ctx) t.linear) (fun n => if n < lines then mreadN noSide t.spad (128 * n) 128 else natField words (1024 * (n - lines)) 1024) (lines + 2) = .ok (s2, ()) →
       let c := s2.ctx t.ctx
       let live := (s2.membersOf k).filter fun p => p.2.status == .live
       (tkeys s2.groups).Nodup → (∀ p ∈ live, p.2.mode ≠ .sysHandler) →
       ∃ y, exec (.teamSave park) s = .next y ∧ y.hbm = s2.hbm ∧ y.host = s2.host ∧ y.llc = s2.llc ∧ y.dir = s2.dir ∧ y.cores = s2.cores ∧ y.ctxs = s2.ctxs ∧ y.gal = s2.gal ∧
         (y.ops = s2.ops.map fun p => (p.1, if p.2.team = k ∧ p.2.status = .running then { p.2 with status := .parked none } else p.2)) ∧
         (∀ n, n ≠ k → y.team n = s2.team n) ∧ (y.team k).save = .saving ∧ (y.team k).absent = [] ∧ (y.team k).stopped = [] ∧ (y.team k).spad = t.spad ∧
         (y.team k).keptAbsent = t.absent ∧ (y.team k).keptPoison = t.spadPoison ∧ (y.team k).keptBars = t.bars ∧ (y.team k).keptRings = t.rings ∧
         (∀ u, (∀ p ∈ live, p.1 ≠ u) → y.group u = s2.group u) ∧
         ∀ u g, (u, g) ∈ live → let h := y.group u
           h.mode = .sysHandler ∧ h.cause = 0x0A ∧ h.targ = 0 ∧ h.pc = BitVec.ofNat 57 c.sysEntry ∧ h.clause = none ∧ h.wait = .none ∧ h.resv = [] ∧ h.status = .live ∧
           h.rs 122 = 0 ∧ h.rs 123 = 0x0A ∧ (h.rs 125 ++ h.rs 124 : W64) = BitVec.ofNat 64 (c.saveb + (33 * t.linear + g.gid) * (c.savesz * 4096)) ∧
           h.v = g.v ∧ h.x = g.x ∧ h.s = g.s ∧ h.tiles = g.tiles ∧ h.accs = g.accs ∧ h.stack = g.stack ∧ h.frameU = g.frameU ∧ h.bankU = g.bankU ∧
           ∃ f, h.frameS = some f ∧ f.pc = g.pc ∧ f.inside = g.clause.isSome ∧ (∀ cl, g.clause = some cl → f.idx = cl.idx) ∧ f.mode = g.mode ∧ f.cause = 0x0A ∧ f.wait = g.wait ∧
             f.resume = false ∧ f.widen = g.widen ∧ f.pathCount = g.pathCount ∧ f.tokens = g.tokens ∧ f.copies = g.copies ∧ f.ringOps = g.ringOps ∧ f.norm = g.norm) ∧
     (∀ ctx base n f s1 s2 l, base % 128 = 0 → s.areaWrite ctx base f n = .ok (s1, ()) → s1.homeLine (s1.devReq ctx (base + 128 * n)) = .ok (s2, l) → l.attrs.w = true →
       ∃ data : Line, (∀ b, b < 128 → data.extractLsb' (8 * b) 8 = BitVec.ofNat 8 (f n / 256 ^ b)) ∧
         s.areaWrite ctx base f (n + 1) = .ok (s2.homeWrite (s1.devReq ctx (base + 128 * n)) l (byteMask 0 128) data 0 false, ())) ∧
     (let live := (s.membersOf k).filter fun p => p.2.status == .live
      t.live = true → live ≠ [] → s.handlersIdle k = true →
      (t.save = .saving → (∀ p ∈ live, p.2.wait = .parked) →
        exec .teamLeaveCore s = .next ((s.setTeam k { t with live := false, save := .saved, kept := live, spad := [], spadPoison := [] }).setTask t.task
          { s.task t.task with saved := (s.task t.task).saved ++ [k] })) ∧
      (∀ s1 m s2, t.save = .resuming → (∀ p ∈ live, ∃ b, p.2.wait = .tretResume b) → (∀ u ∈ tkeys t.kept, (s.group u).status = .live) →
        s.areaRead t.ctx (teamArea (s.ctx t.ctx) t.linear) (s.spadSize k / 128) = .ok (s1, m) →
        let t1 := { t with spad := m, absent := t.keptAbsent, spadPoison := t.keptPoison, bars := t.keptBars, rings := t.keptRings }
        (s1.setTeam k t1).applyBlocks t1 (live.map fun p => (p.1, (tget t.kept p.1).getD p.2)) = .ok (s2, ()) →
        ∃ y, exec .resumeRestore s = .next y ∧ y.groups = s2.groups ∧ y.hbm = s2.hbm ∧
          (y.team k).spad = m ∧ (y.team k).rings = t.keptRings ∧ (y.team k).bars = t.keptBars ∧ (y.team k).absent = t.keptAbsent ∧ (y.team k).kept = [] ∧
          (y.team k).save = (if t.again then .preempting else .running) ∧
          (let core := (s2.team k).core
           let mine := tkeys (s2.ops.filter fun p => p.2.team == k && p.2.status != .cancelled)
           let free := 16 - s2.usedSlots core
           (tkeys s2.ops).Nodup → ∀ u o, (u, o) ∈ s2.ops →
             (o.team ≠ k → (u, o) ∈ y.ops) ∧
             (o.team = k → o.status ≠ .cancelled → u ∈ mine.take free → (u, { o with core := core, slot := true, status := if o.status == .parked none then .running else o.status }) ∈ y.ops) ∧
             (o.team = k → o.status ≠ .cancelled → u ∉ mine.take free → (u, { o with core := core, slot := false }) ∈ y.ops)))))

/-- O51. The end of a grid (R46, R319, R321): once its last team has ended and no engine operation of it is left, its context's dirty lines are written back; the task's write-combining entries are sent, and the end waits for their acknowledgements; then STATE becomes 3, and PRED of each successor is decremented at its home, never below 0; a bad entry makes STATE 5: entry n of the list is the 8 bytes at SUCCL + 8n modulo 2^64, and one at an address that is remote or not canonical is recorded with that address. -/
def Obligations.GridEnds : Prop :=
  (∀ (s : State) (s1 : State),
    let k := s.who
    let tk := s.task k
    let mine := fun (e : WcbEntry) => e.task == k && e.ctx == tk.ctx
    s.gridOver k = true → s.flushCores tk.ctx (tkeys s.cores) = .ok (s1, ()) →
    let sent := (tkeys s1.cores).foldl (fun y c => y.wcbSendAll c mine) s1
    ((sent.cores.any fun p => p.2.wcb.any mine) = true → exec .gridEnd s = .next sent) ∧
    ((∀ p ∈ s1.cores, ∀ e ∈ p.2.wcb, mine e = false) → (∀ c, ∀ e ∈ (s1.core c).wcb, mine e = false) →
      ∀ s3, (s1.setTask k { tk with done := true }).tcbState k 3 0 = some s3 →
      ∀ sa n sb list, s3.devRead tk.ctx (tk.tcb + 0x4C) 2 = .ok (sa, n) → s3.devRead tk.ctx (tk.tcb + 0x50) 8 = .ok (sb, list) →
      (n = 0 → exec .gridEnd s = .next s3) ∧
      (∀ s4, s3.successors tk.ctx list n = .ok (s4, true) → exec .gridEnd s = .next s4) ∧
      (∀ s4 s5, s3.successors tk.ctx list n = .ok (s4, false) → s4.tcbState k 5 0 = some s5 → exec .gridEnd s = .next s5))) ∧
  (∀ (s s1 : State) (ctx tcb : Nat) (l : LlcLine),
    let r := s.devReq ctx (tcb + 0x40)
    tcb < 2 ^ 56 → s.homeLine r = .ok (s1, l) → l.attrs.w = true → s1.pageFull r.asid r.va = false → l.poison = false →
    let n := lineNat l.data (r.va % 128) 4
    (n = 0 → s.succeed ctx tcb = .ok (s1, true)) ∧
    (n ≠ 0 → s.succeed ctx tcb = .ok (s1.homeWrite r l (byteMask (r.va % 128) 4) (lineSet l.data (r.va % 128) 4 (n - 1)) 0 false, true))) ∧
  (∀ (s : State) (ctx list n : Nat) (s1 : State) (good : Bool), s.successors ctx list n = .ok (s1, good) →
    let a := (list + 8 * n) % 2 ^ 64
    (isCanonical a = false ∨ isRemote a = true → s.successors ctx list (n + 1) = .ok (s1.setCtx ctx ((s1.ctx ctx).recordAt s1.cycle 256 0 0 0x04 a), false)) ∧
    (isCanonical a = true → isRemote a = false → a % 128 ≤ 120 → ∀ s2 tcb s3 ok, s1.devRead ctx a 8 = .ok (s2, tcb) → s2.succeed ctx tcb = .ok (s3, ok) →
      s.successors ctx list (n + 1) = .ok (if ok then (s3, good) else (s3.setCtx ctx ((s3.ctx ctx).recordAt s3.cycle 256 0 0 0x04 a), false))))

/-- O52. What homes, LLCs and cores do on their own (R158, R160, R164, R165, R341): a home request reads or takes ownership as an access would, an evicted copy of a sharer leaves its sharer; a pull makes the recorded core write its covered lines back, and is retired once none of them is dirty; an invalidated sharer drops its copy; a write-back sends the dirty bytes and leaves the line clean. -/
def Obligations.CacheEvents : Prop :=
  ∀ (s : State) (asid : Nat) (va : VA),
    let k := lineKey asid va.toNat
    let d := s.dirAt k
    let only := fun (m : BitVec 4) => if m = 0 then DirState.uncached else DirState.shared m
    (∀ core q, s.lineReq core asid va = some q →
      (∀ s1 l, s.llcRead q = .ok (s1, l) → exec (.homeRequest { core := core, asid := asid, va := va, kind := .read }) s = .next s1) ∧
      (∀ s1 l, s.ownLine q = .ok (s1, l) → l.attrs.w = true → exec (.homeRequest { core := core, asid := asid, va := va, kind := .own }) s = .next s1) ∧
      (∀ l m, q.die ≠ homeDie q.va → s.llcAt q.die q.key = some l → (s.dirAt q.key).st = .shared m →
        exec (.homeRequest { core := core, asid := asid, va := va, kind := .evict }) s =
          .next ((s.dropLlc q.die q.key).setDir q.key { s.dirAt q.key with st := only (m &&& ~~~(1#4 <<< q.die)) }))) ∧
    (∀ e, d.entryOf s.who = some e →
      (let past := (∀ n, n < 8 → e.cols.getLsbD n = true → e.seq < tgetD (s.core e.core).relDone (8 * e.ctx + n) 0)
       (past → exec (.releasePull asid va) s = .next s) ∧
       (¬ past → ∀ s1, s.flushL1 e.core e.ctx (s.ctx e.ctx).asid e.cols = .ok (s1, ()) → exec (.releasePull asid va) s = .next s1) ∧
       ((past ∨ ∀ j ∈ s.l1Covered e.core (s.ctx e.ctx).asid e.cols, ∀ l, s.l1At e.core j = some l → l.dirty = 0) →
        exec (.pullAck asid va) s = .next (s.setDir k { d with rel := d.rel.filter (· != e) })))) ∧
    (∀ m, d.st = .shared m → s.who < 4 → m.getLsbD s.who = true → s.who ≠ homeDie va.toNat →
      exec (.directoryInvalidate asid va) s = .next ((s.dropLlc s.who k).setDir k { d with st := only (m &&& ~~~(1#4 <<< s.who)) })) ∧
    (∀ l evict, s.l1At s.who k = some l →
      let r : Req := ⟨s.who, s.ctxOfKey 0 k, keyAsid k, keyVa k⟩
      let out := fun (y : State) => (.next (if evict then y.dropL1 s.who k else y) : Host.Outcome State Fault Refusal)
      (l.dirty = 0 → exec (.l1WriteBack asid va evict) s = out s) ∧
      (∀ s1, l.dirty ≠ 0 → s.llcWrite r l.dirty l.data l.cols true l.poison l.byCtxs = .ok (s1, ()) →
        exec (.l1WriteBack asid va evict) s = out (s1.setL1 s.who k { l with dirty := 0, byCtxs := [] })))

/-- O53. Packets served (R171, R174, R239, R301, R308 to R310, R313), each event on the packet at its index: a read, write, atomic or signal of a job that this device does not run, or beyond its export window, is refused; a read answers with the line at its home, and a write is made there with its line, which has crossed the boundaries between its port's die and that home; a translation request is answered, and the asker tracked, once no move of the page is under way; MOVED reaches the asker; an invalidation drops the translation and, with nothing open, is acknowledged; an acknowledged write-combining entry is gone; a mirrored write is made at the home; an acknowledgement of a mirrored write is one less to wait for, and a refusal breaks the mirror. That the request waits while its page is in a move (assumption log 40), what an invalidation waits for (assumption log 46) and that mirrored writes keep an order of their own (assumption log 17) are the model's readings. -/
def Obligations.PacketService : Prop :=
  ∀ (s : State) (p : Packet), s.gal.serve[s.who]? = some p →
    ((packetLine p).isSome = true → (∀ va, p.kind ≠ .mirror va) → s.inOrder p = true →
      (s.serveReq p.djob (packetOffset p) = none → exec .remoteRequest s = .next (s.took.reply p .refused 0 false)) ∧
      (∀ r, s.serveReq p.djob (packetOffset p) = some r →
        (∀ a s1 l, p.kind = .read a → s.took.homeLine r = .ok (s1, l) → exec .remoteRequest s = .next (s1.reply p .readReply l.data l.poison (homeDie r.va))) ∧
        (∀ a, p.kind = .write a →
          let c := s.took.cross p.die (homeDie r.va) p.line p.poison
          ∀ s1 l, c.1.homeLine r = .ok (s1, l) → l.attrs.w = true → s1.pageFull r.asid r.va = false →
            exec .remoteRequest s = .next ((s1.homeWrite r l p.mask c.2.1 p.colour c.2.2).reply p .performed 0 false (homeDie r.va))))) ∧
    (∀ unit, p.kind = .xlat unit →
      let ctx := (s.ctxOfJob p.djob).elim 0x10000 (·.1)
      let k := s.serveXlat p.djob unit
      (s.movingUnit p.djob unit = true → exec .remoteTranslationRequest s = .next s) ∧
      (s.movingUnit p.djob unit = false → (∀ t ∈ s.gal.trackers, ¬ (t.ctx = ctx ∧ t.unit = unit)) →
      ((∀ u d w, k ≠ .xlatReply u d w) → exec .remoteTranslationRequest s = .next (s.took.reply p k 0 false)) ∧
      (∀ u d w, k = .xlatReply u d w → exec .remoteTranslationRequest s =
        .next (({ s.took with gal := { s.took.gal with trackers := s.gal.trackers ++ [⟨ctx, unit, [p.src], false, []⟩] } } : State).reply p k 0 false)))) ∧
    (p.kind = .moved → exec .moved s = .next (s.took.answer p)) ∧
    (∀ unit, p.kind = .inval unit →
      let mine := fun (e : WcbEntry) => e.peer = p.src ∧ e.line * 128 / 65536 = unit
      (∀ c, ∀ e ∈ (s.core c).wcb, ¬ mine e) → (∀ c ∈ s.cores, ∀ e ∈ c.2.wcb, ¬ mine e) → (∀ q ∈ s.gal.reqs, q.named ≠ p.src ∨ q.djob ≠ p.djob) →
      exec .remoteInvalidate s = .next (({ s with gal := { s.gal with
        xlats := s.gal.xlats.filter fun x => !(x.dev == p.src && x.djob == p.djob && x.unit == unit && x.bad == 0) } } : State).took.reply p (.invalAck unit) 0 false)) ∧
    (∀ c e, s.wcbOf p.tag = some (c, e) → p.kind = .performed →
      ∃ t, exec .wcbAck s = .next t ∧ (∀ x ∈ (t.core c).wcb, x.id ≠ e.id) ∧ t.hbm = s.hbm) ∧
    (∀ va k c s1, p.kind = .mirror va → s.inOrder p = true → s.ctxOfJob p.djob = some (k, c) →
      let x := s.took.cross p.die (homeDie va) p.line p.poison
      x.1.homeStore ⟨noCore, k, tagAsid c.asid va, va⟩ p.mask x.2.1 p.cols x.2.2 = .ok (s1, ()) →
      exec .mirroredWrite s = .next (s1.reply p .performed 0 false)) ∧
    (∀ k c, s.mirrorOf p.tag = some (k, c) → s.wcbOf p.tag = none → p.kind = .performed ∨ p.kind = .refused ∨ p.kind = .notPresent →
      ∃ t, exec .mirrorAck s = .next t ∧ (∀ m ∈ (t.ctx k).mirrors, m.1 ≠ p.tag) ∧ (∀ m ∈ c.mirrors, m.1 ≠ p.tag → m ∈ (t.ctx k).mirrors) ∧
        (t.ctx k).broken = (c.broken || decide (p.kind ≠ .performed))) ∧
    (∀ (r : Req) (l : LlcLine) (mask : LineMask) (data : Line) (cols : Byte) (poison : Bool) (s1 : State), s.homeLine r = .ok (s1, l) →
      (l.attrs.w = false → s.homeStore r mask data cols poison = .error .violation) ∧
      (l.attrs.w = true → s1.pageFull r.asid r.va = false → s.homeStore r mask data cols poison = .ok (s1.homeMerge r l mask data cols poison, ())))

/-- O54. The write-combining buffer and the port group (R174, R297 to R302, R304, R306): entries that have reached their age, or that waited for a replay, are sent if they may be; in an aligned step one waiting packet leaves on a port of the calendar to its destination, sealed with the session's next counter and held; where none comes in time it leaves by a relay; a mark within 5 ns aligns the device, and the fourth missed mark in a row stops it; an end-to-end acknowledgement frees a frame; a frame that is not seen acknowledged is sent again, and the eighth time ends its session, whose frames go and whose unanswered requests are refused. That a loss of alignment counts on die 0 (assumption log 15), that a frame has one packet and one placing a step (assumption log 22) and that a frame is charged 2,048 bytes (assumption log 12) are the model's choices. -/
def Obligations.PortGroup : Prop :=
  ∀ (s : State),
    let g := s.gal
    (exec .wcbAgeExpiry s = .next (s.wcbSendAll s.who fun e => decide (e.recs ≠ [] ∨ e.again = true ∨ e.limit * 14 ≤ (s.cycle - e.born) * 10))) ∧
    (let n := g.stepAt s.cycle
     let y : State := { s with gal := { g with sn := n + 1, used := [], light := [], ackOut := [], hopAcks := [], out := [] } }
     g.flight ≠ 0 → g.epoch ≤ s.nowNs → g.sn ≤ n → g.held = [] → g.owed = [] →
     (g.aligned = false → exec .galleryStep s = .next { y with gal := { y.gal with out := g.out } }) ∧
     (∀ o x, g.aligned = true → g.from_ ≤ n → o.placed ≠ some n → g.out = [o] → g.sessionTo o.pkt.dst = some x → overBudget ((s.ctx o.ctx).inPeriod s.cycle).useGal ((s.ctx o.ctx).inPeriod s.cycle).budget.gal = false → x.counter + 1 < 2 ^ 48 →
       let leaves := fun (port via : Nat) (relay : Bool) =>
         let f : GalFrame := { src := g.me, dst := o.pkt.dst, xmit := g.me, relayed := false, retrans := false, session := x.number, counter := x.counter,
                               pkts := [{ (s.haul (galleryDie port) o.pkt).2 with sess := some x.number }], crcOk := true, tagOk := true, lineOk := true, hopAcks := [], credit := 0 }
         ∃ t, exec .galleryStep s = .next t ∧ t.gal.light = [(port, { f with relayed := relay })] ∧ t.gal.out = [] ∧
         (∃ h, t.gal.held = [h] ∧ h.frame = f ∧ h.via = via ∧ h.first = n ∧ h.hopAck = false) ∧
         (∃ x1, t.gal.sessionTo o.pkt.dst = some x1 ∧ x1.counter = x.counter + 1 ∧ x1.number = x.number) ∧
         (∀ c, tget s.ctxs o.ctx = some c → (t.ctx o.ctx).useGal = (c.inPeriod s.cycle).useGal + 2048) ∧ (tget s.ctxs o.ctx = none → t.ctxs = s.ctxs) ∧ t.hbm = s.hbm ∧ t.groups = s.groups
       (∀ port, y.portFor n o.pkt.dst = some port → leaves port o.pkt.dst false) ∧
       (∀ port r, y.portFor n o.pkt.dst = none → g.stepsUntil n o.pkt.dst = none → y.relayFor n o.pkt.dst = some (port, r) → r ≠ o.pkt.dst → leaves port r true))) ∧
    (∀ n ok, exec (.timingMark n ok) s =
      .next (let t : State := { s with gal := { g with timeNs := g.epoch + n * g.stepNs, markAt := s.cycle, missed := 0, aligned := ok, from_ := if ok = true ∧ g.aligned = false then n + 1 else g.from_ } }
             if g.aligned = true ∧ ok = false then t.softError 0 else t)) ∧
    (exec (.alignmentLoss true) s = .next (let t : State := { s with gal := { g with aligned := false } }; if g.aligned then t.softError 0 else t)) ∧
    (g.missed ≤ 3 → exec (.alignmentLoss false) s =
      .next (let t : State := { s with gal := { g with missed := g.missed + 1, aligned := g.aligned && decide (g.missed < 3) } }
             if g.aligned = true ∧ g.missed = 3 then t.softError 0 else t)) ∧
    (∀ f : GalFrame, exec (.endToEndAck (frameId f)) s =
      .next { s with gal := { g with held := g.held.filter fun h => h.landed || (frameId h.frame) != frameId f } }) ∧
    (∀ h, h ∈ g.held → (g.held.find? fun x => (frameId x.frame) == frameId h.frame) = some h → h.landed = false → h.hopAck = true → h.sent + 2 * g.flight ≤ g.sn →
      (h.tries < 7 → ∃ t, exec (.gcmResend (frameId h.frame)) s = .next t ∧ t.gal.sessions = g.sessions ∧
        (∃ h1 ∈ t.gal.held, h1.frame = h.frame ∧ h1.hopAck = false ∧ h1.via = h.frame.dst ∧ h1.tries = h.tries + 1)) ∧
      (7 ≤ h.tries →
        let its := fun (dst number : Nat) => dst = h.frame.dst ∧ number = h.frame.session
        ∃ t, exec (.gcmResend (frameId h.frame)) s = .next t ∧
        (∀ x, x ∈ t.gal.sessions ↔ x ∈ g.sessions ∧ ¬ (x.out = true ∧ its x.peer x.number)) ∧
        (∀ x, x ∈ t.gal.held ↔ x ∈ g.held ∧ ¬ (x.landed = false ∧ its x.frame.dst x.frame.session)) ∧
        (∀ q ∈ t.gal.reqs, isRequest q = true → q.dst = h.frame.dst → q.sess ≠ some h.frame.session) ∧ (∀ q ∈ g.reqs, q.dst ≠ h.frame.dst → q ∈ t.gal.reqs)))

/-- O55. Frames received, sessions and a lost device (R300 to R302, R304 to R306, R308, R316, R339): a frame with a bad CRC does nothing; one for another device lands and is held; a tag that fails is counted, and the eighth time ends the session; a counter accepted before is only acknowledged again; the next packet in sequence is passed on, a later one waits, and the frame is acknowledged end to end once its packets have been passed. A verified session replaces the one before, its key and salt the first 36 bytes that HKDF gives for the ECDH secret of the two bound keys; a failed verification leaves none; a lost device has no session, packet, request or entry left. The replacement and numbering of sessions (assumption log 23), frames as records with flags (assumption log 22) and the die of a count (assumption log 15) are the model's choices. -/
def Obligations.FramesAndSessions : Prop :=
  ∀ (s : State),
    let g := s.gal
    (∀ f : GalFrame, f.crcOk = false → exec (.frameReceive f) s = .next s) ∧
    (∀ f : GalFrame, f.crcOk = true → g.flight ≠ 0 → g.sn ≠ 0 → g.portsTo ((g.sn - 1) % g.flight) f.xmit ≠ [] → f.pkts ≠ [] → f.hopAcks = [] → f.credit = 0 →
      let y : State := { s with gal := { g with hopAcks := tset g.hopAcks f.xmit (tgetD g.hopAcks f.xmit [] ++ [frameId f]) } }
      let into := fun (x z : Session) => g.sessions.map fun w => if w = x then z else w
      (f.dst ≠ g.me → (∀ h ∈ g.held, h.landed = true → frameId h.frame ≠ frameId f) →
        exec (.frameReceive f) s = .next { y with gal := { y.gal with held := g.held ++ [{ frame := f, first := 0, sent := 0, via := f.dst, ctx := 0, landed := true }] } }) ∧
      (∀ x, f.dst = g.me → g.sessions.find? (fun x => !x.out && x.peer == f.src && x.number == f.session) = some x →
        (f.counter ∈ x.accepted → (∀ e ∈ g.unacked, e.1 ≠ frameId f) →
          exec (.frameReceive f) s = .next { y with gal := { y.gal with ackOut := g.ackOut ++ [frameId f] } }) ∧
        (f.counter ∉ x.accepted → f.tagOk = false → tgetD x.discards f.counter 0 < 7 →
          exec (.frameReceive f) s = .next { y with gal := { y.gal with sessions := into x { x with discards := tset x.discards f.counter (tgetD x.discards f.counter 0 + 1) } } }) ∧
        (f.counter ∉ x.accepted → f.tagOk = false → 7 ≤ tgetD x.discards f.counter 0 →
          let left := g.reorder.filter (fun p => !(p.src == x.peer && p.sess == some x.number))
          let owed := g.unacked.filter (fun e => !(e.1.src == x.peer && e.1.session == x.number))
          exec (.frameReceive f) s = .next (({ y with gal := { y.gal with sessions := g.sessions.filter (· != x), reorder := left, unacked := owed } } : State).softError (((g.portsTo ((g.sn - 1) % g.flight) f.xmit).headD 0) / 32))) ∧
        (∀ p n a, f.counter ∉ x.accepted → f.tagOk = true → f.pkts = [p] → p.kind = .read a → p.seq = some n → g.reorder = [] → g.unacked = [] →
          let key := (f.session * 4096 + f.src) * 16 + p.colour
          let want := tgetD g.seqIn key 0
          let got := { p with src := f.src, sess := some f.session, die := ((g.portsTo ((g.sn - 1) % g.flight) f.xmit).headD 0) / 32 }
          (n = want → ∃ t, exec (.frameReceive f) s = .next t ∧ t.gal.serve = g.serve ++ [got] ∧ t.gal.reorder = [] ∧
            tgetD t.gal.seqIn key 0 = n + 1 ∧ t.gal.ackOut = g.ackOut ++ [frameId f]) ∧
          (want < n → ∃ t, exec (.frameReceive f) s = .next t ∧ t.gal.serve = g.serve ∧ t.gal.reorder = [got] ∧ t.gal.ackOut = g.ackOut ∧
            (t.gal.unacked.map (·.1)) = [frameId f])))) ∧
    (∀ peer number e, s.plat.eph = some e → peer < g.devices → peer ≠ g.me → (∀ x ∈ g.sessions, x.peer = peer → x.number < number) →
      (∀ key, ∃ t, exec (.sessionEstablish peer number (some key)) s = .next t ∧ peer ∉ t.gal.unverified ∧ (∀ q, q ≠ peer → t.gal.sessionTo q = g.sessionTo q) ∧
        (∀ x ∈ g.sessions, x.out = false → x ∈ t.gal.sessions) ∧
        let okm := fun (info : List Byte) => hkdf384 (ecdh (privateKey e) (keyPoint key)) info
        let keyed := fun (x : Session) (info : List Byte) => x.number = number ∧ x.counter = 0 ∧ x.accepted = [] ∧
          x.key = BitVec.ofNat 256 (bigNat ((okm info).take 32)) ∧ x.salt = BitVec.ofNat 32 (bigNat (((okm info).drop 32).take 4))
        (∃ x, t.gal.sessionTo peer = some x ∧ keyed x (Config.sessionInfo g.me peer number)) ∧
        (∃ x ∈ t.gal.sessions, x.out = false ∧ x.peer = peer ∧ keyed x (Config.sessionInfo peer g.me number))) ∧
      (∃ t, exec (.sessionEstablish peer number none) s = .next t ∧ peer ∈ t.gal.unverified ∧ (∀ x ∈ t.gal.sessions, x.peer ≠ peer) ∧ (∀ q ∈ t.gal.reqs, q.dst ≠ peer))) ∧
    (∀ peer number key, s.plat.eph = none → exec (.sessionEstablish peer number key) s = .next s) ∧
    (∀ dev, dev < g.devices → dev ≠ g.me → dev ∉ g.lost →
      ∃ t, exec (.deviceLost dev) s = .next t ∧ dev ∈ t.gal.lost ∧ (∀ x ∈ t.gal.sessions, x.peer ≠ dev) ∧ (∀ o ∈ t.gal.out, o.pkt.dst ≠ dev) ∧
        (∀ q ∈ t.gal.reqs, q.dst ≠ dev) ∧ (∀ c, ∀ e ∈ (t.core c).wcb, e.peer ≠ dev) ∧ (∀ h ∈ t.gal.held, h.frame.dst ≠ dev) ∧
        (∀ x ∈ t.gal.xlats, x.bad = 0 → x.dev ≠ dev ∧ x.server ≠ dev) ∧ t.hbm = s.hbm)

/-- O56. The command ring (R323, R324, R336): the doorbell takes the count of entries written; EN taken from 0 to 1 clears OVERRUN, ends bring-up and opens the gates; CRBASE and K are written; and an entry whose code is none, whose byte must be zero, or whose context does not exist, is refused with its reason, whatever command the device looks for. An entry that is executing is checked no more. That CRBASE drops its low 12 bits, that a K outside 4 to 12 leaves K as it was, and the order of the reasons, are the model's choices (assumption log 50). -/
def Obligations.CommandRing : Prop :=
  ∀ (s : State), s.portsUp = true →
    let r := s.ring
    (∀ wp, exec (.crwpDoorbell wp) s = .next ({ s with ring := { r with wp := wp } } : State).ringCheck) ∧
    (r.busy = true → s.nextEntry = some r.entry ∧ ∀ wp, exec (.crwpDoorbell wp) s = .next { s with ring := { r with wp := wp } }) ∧
    (∀ v : W32, r.en = false → v.getLsbD 31 = true → ∃ t, exec (.crEnable v) s = .next t ∧ t.plat.step = 7 ∧ (s.plat.step ≠ 7 → t.plat.gates = false) ∧
      t.ring.en = true ∧ t.ring.rp = r.rp ∧ t.ring.k = (if 4 ≤ v.toNat % 16 ∧ v.toNat % 16 ≤ 12 then v.toNat % 16 else r.k) ∧ t.groups = s.groups ∧ t.hbm = s.hbm) ∧
    (∀ v : W64, exec (.registerWrite 0 v) s = .next { s with ring := { r with base := v &&& ~~~0xFFF } }) ∧
    (∀ v : W64, r.en = true → exec (.registerWrite 8 v) s = .next { s with ring := { r with en := v.getLsbD 31 } }) ∧
    (∀ e, s.nextEntry = some e →
      (cmdCode e = 0 ∨ 8 < cmdCode e → ∀ i ∈ [Instr.ctxCreate, .ctxDestroy, .map, .replay, .budget, .gparam, .arm, .ovfpool], exec i s = .next (s.endCmd 1)) ∧
      (∀ i, (i, cmdCode e) ∈ [(Instr.ctxDestroy, 2), (.map, 3), (.replay, 4), (.budget, 5), (.gparam, 6), (.arm, 7), (.ovfpool, 8)] →
        (cmdField e 6 2 ≠ 0 → exec i s = .next (s.endCmd 1)) ∧
        (cmdField e 6 2 = 0 → tget s.ctxs (cmdCtx e) = none → exec i s = .next (s.endCmd 2)))) ∧
    (∀ n, let t := s.endCmd n
      t.ring.rp = r.rp + 1 ∧ t.plat.vectors.take (s.plat.vectors.length + 1) = s.plat.vectors ++ [2] ∧
      (Memory.wf noSide s.host = true → mread noSide t.host (r.slot + 1) = (if n = 0 then 1 else 2) ∧ mread noSide t.host (r.slot + 3) = BitVec.ofNat 8 n ∧
        ∀ a, a ≠ r.slot + 1 → a ≠ r.slot + 3 → mread noSide t.host a = mread noSide s.host a))

/-- O57. The commands (R261 to R264, R268, R270, R276, R307, R319, R320, R325, R326, R344), for the entry that may execute now, of a context that exists, or, for CTX_CREATE, does not: what each refuses with its reason, and what each does. The bound of the reserved area is the model's (assumption log 11), as are reason 5 for a MAP at or above 2^56 and reason 4 for a trap entry of 0 (assumption log 42), and that the lowest reason that holds is given (assumption log 50). -/
def Obligations.Commands : Prop :=
  ∀ (s : State) (e : Nat), s.nextEntry = some e →
    let k := cmdCtx e
    let refuses := fun (i : Instr) (n : Nat) => exec i s = .next (s.endCmd n)
    (cmdCode e = 1 →
      let asid := cmdField e 6 2
      let log := cmdField e 16 8
      let save := cmdField e 24 8
      let taken := asid = 0 ∨ (s.ctxOfAsid asid).isSome = true
      let bad := log % 32 < 6 ∨ 16 < log % 32 ∨ log / 32 % 2 ≠ 0 ∨ save % 4096 < 0xB2 ∨ cmdField e 8 8 % 4096 ≠ 0 ∨ cmdField e 8 8 < Config.reservedBase ∨ 2 ^ 40 < cmdField e 8 8 + 0x80000 ∨ cmdField e 48 8 = 0 ∨ cmdField e 56 8 = 0
      ((tget s.ctxs k).isSome = true → refuses .ctxCreate 2) ∧
      (tget s.ctxs k = none → taken → refuses .ctxCreate 3) ∧
      (tget s.ctxs k = none → ¬ taken → bad → refuses .ctxCreate 4) ∧
      (tget s.ctxs k = none → ¬ taken → ¬ bad → ∃ t : State, exec .ctxCreate s = .next (t.endCmd 0) ∧ (∀ n, n ≠ k → t.ctx n = s.ctx n) ∧ t.groups = s.groups ∧ t.hbm = s.hbm ∧
        (let c := t.ctx k
         c.asid = asid ∧ c.root = cmdField e 8 8 ∧ c.logBase = log / 64 * 64 ∧ c.logM = log % 32 ∧ c.saveb = save / 4096 * 4096 ∧ c.savesz = save % 4096 ∧
         c.quota = cmdField e 32 4 ∧ c.userEntry = cmdField e 40 8 ∧ c.sysEntry = cmdField e 48 8 ∧ c.resumeEntry = cmdField e 56 8))) ∧
    (cmdField e 6 2 = 0 → (tget s.ctxs k).isSome = true →
      let c := s.ctx k
      (cmdCode e = 2 →
        let busy := (∃ p ∈ s.teams, p.2.ctx = k ∧ p.2.live = true) ∨ ∃ p ∈ s.tasks, p.2.ctx = k ∧ p.2.done = false ∧ p.2.refused = false
        (busy → refuses .ctxDestroy 6) ∧
        (¬ busy → ∃ t : State, exec .ctxDestroy s = .next (t.endCmd 0) ∧ t.ctxs = tdel s.ctxs k ∧ t.groups = s.groups ∧ t.teams = s.teams ∧ t.hbm = s.hbm ∧
          ∀ p ∈ t.tasks, p.2.ctx ≠ k)) ∧
      (cmdCode e = 3 →
        let va := cmdField e 8 8
        let level := cmdField e 16 1 % 4
        let p : W64 := BitVec.ofNat 64 (cmdField e 24 8)
        let asid := tagAsid c.asid va
        let base := va / levelSpan level * levelSpan level
        (2 ^ 56 ≤ va → refuses .map 5) ∧
        (va < 2 ^ 56 → s.walkTo asid va level = none → refuses .map 5) ∧
        (∀ pa old, va < 2 ^ 56 → s.walkTo asid va level = some (pa, old) →
          (pteBad level p (va / 2 ^ 55 % 4 == 1) = true → refuses .map 7) ∧
          (let after := s.writePte k asid base level pa p
           let clash : Prop := (pteOvf p ≠ 0 ∧ (if pteTier p then c.ovfCxl else c.ovfHbm) = 0) ∨ ∃ m ∈ after.rev, m ∉ s.rev ∧ s.frameBad after.rev m = true
           pteBad level p (va / 2 ^ 55 % 4 == 1) = false →
             (clash → refuses .map 7) ∧
             (¬ clash → pteV old = false → s.lowered after.rev = [] →
               exec .map s = .next (((after.keepFull s.rev asid base).clearNew s.rev).endCmd 0))))) ∧
      (cmdCode e = 4 →
        (1 < cmdField e 12 4 → refuses .replay 4) ∧
        (cmdField e 12 4 ≤ 1 → (∀ r ∈ c.open_, r.1 ≠ cmdField e 8 4) → exec .replay s = .next (s.endCmd 0)) ∧
        (∀ r, cmdField e 12 4 ≤ 1 → c.open_.find? (fun r => r.1 == cmdField e 8 4) = some r →
          exec .replay s = .next ((s.setCtx k { c with open_ := c.open_.filter (· != r), released := c.released ++ [(r.2, cmdField e 12 4 == 1)] }).endCmd 0))) ∧
      (cmdCode e = 5 →
        (cmdField e 8 8 = 0 ∨ 1024 < cmdField e 8 8 → refuses .budget 4) ∧
        (1 ≤ cmdField e 8 8 → cmdField e 8 8 ≤ 1024 →
          let b : Budget := { period := cmdField e 8 8, hbm := cmdField e 16 4, copy := cmdField e 20 4, gal := cmdField e 24 4, cxl := cmdField e 28 4 }
          exec .budget s = .next ((s.setCtx k { c.inPeriod s.cycle with budgetNext := some b }).endCmd 0))) ∧
      (cmdCode e = 6 →
        let expb := cmdField e 16 8
        let expsz := cmdField e 24 4
        let buddy := cmdField e 40 4
        let bad := 2 ^ 56 ≤ expb ∨ expb % 65536 ≠ 0 ∨ 2 ^ 28 < expsz ∨ s.gal.devices ≤ cmdField e 32 4 ∨ cmdField e 36 4 < 1 ∨ 4096 < cmdField e 36 4 ∨
          (buddy ≠ 0xFFFF ∧ (s.gal.devices ≤ buddy ∨ buddy = s.gal.me))
        (bad → refuses .gparam 4) ∧
        (¬ bad → (∀ t ∈ s.gal.trackers, t.ctx ≠ k) → exec .gparam s = .next ((s.setCtx k { c with
          djob := BitVec.ofNat 32 (cmdField e 8 4), expb := expb, expsz := expsz, gwait := cmdField e 28 4 % 32, gbhome := cmdField e 32 4, nrmdev := cmdField e 36 4,
          buddy := buddy, broken := false }).endCmd 0))) ∧
      (cmdCode e = 7 →
        let a := cmdField e 8 8
        let r := s.devReq k a
        (a % 128 ≠ 0 → refuses .arm 4) ∧
        (a % 128 = 0 → 2 ^ 56 ≤ a → refuses .arm 5) ∧
        (∀ s1 l, a % 128 = 0 → a < 2 ^ 56 → s.homeLine r = .ok (s1, l) →
          let again : Prop := ∃ p ∈ s.tasks, s.tcbKey p.2 = r.key ∧ p.2.done = false ∧ p.2.refused = false
          (l.attrs.w = false → refuses .arm 5) ∧
          (l.attrs.w = true → again → refuses .arm 6) ∧
          (l.attrs.w = true → ¬ again → s1.pageFull r.asid a = false → ∃ (t : State) (n : Nat), exec .arm s = .next (t.endCmd 0) ∧
            (let y := t.task n
             y.ctx = k ∧ y.tcb = a ∧ y.lrec.toNat = lineNat l.data 0 64 ∧ y.launchId.toNat = lineNat l.data 0x48 4 ∧ y.done = false ∧ y.refused = false ∧
             y.checked = false ∧ y.placed = 0 ∧ y.gate = decide (lineNat l.data 0x40 4 = 0))))) ∧
      (cmdCode e = 8 →
        let h := cmdField e 8 8
        let x := cmdField e 16 8
        let used := fun (tier : Bool) => s.rev.any fun r => r.ctx == k && pteC r.pte && pteOvf r.pte != 0 && pteTier r.pte == tier
        let moves := (h ≠ c.ovfHbm ∧ used false = true) ∨ (x ≠ c.ovfCxl ∧ used true = true)
        (h % 16384 ≠ 0 ∨ x % 16384 ≠ 0 → refuses .ovfpool 4) ∧
        (h % 16384 = 0 → x % 16384 = 0 → moves → refuses .ovfpool 6) ∧
        (h % 16384 = 0 → x % 16384 = 0 → ¬ moves → exec .ovfpool s = .next ((s.setCtx k { c with ovfHbm := h, ovfCxl := x }).endCmd 0))))

/-- O58. Host accesses, budgets and heat (R262, R263, R273, R317, R318, R326, R343): an access below the reserved area to a frame that nothing maps reads or writes HBM itself, data or sideband, and the host sees what was there; one beyond is backed by nothing (the bound of that area and the fault are the model's, assumption logs 11 and 19); a host write to its own memory, where the device has accepted no CXL range, lands there; a snoop answered gives the line up, with the bytes of it that the host has modified; a budget period begins with every count at 0; and heat is halved. -/
def Obligations.HostAccesses : Prop :=
  ∀ (s : State), s.portsUp = true → s.noise = [] →
    (∀ pa op, s.mappingOf pa = none → s.inCompressed pa = false → pa < Config.reservedBase →
      let old := fun (n : Nat) => lineNat (physRead hbmSide s.hbm pa) (pa % 128) n
      let put := fun (y : State) (n x : Nat) => physWrite hbmSide y.hbm pa (byteMask (pa % 128) n) (lineSet (physRead hbmSide s.hbm pa) (pa % 128) n x)
      let cap := 128 - pa % 128
      (∀ n, op = .read n → exec (.hostMemAccess pa op) s = .next (s.hostSees (min n cap) (old (min n cap)))) ∧
      (∀ d, op = .write d → ∃ t, exec (.hostMemAccess pa op) s = .next t ∧ t.hbm = put s (min d.length cap) (ofBytes (d.take (min d.length cap))) ∧
        t.groups = s.groups ∧ t.plat = s.plat ∧ t.llc = s.llc) ∧
      (∀ n x, op = .fetchAdd n x → ∃ t, exec (.hostMemAccess pa op) s = .next t ∧ t.plat.hostData = bytesOf (min n cap) (old (min n cap)) ∧
        t.hbm = put s (min n cap) ((old (min n cap) + x) % 2 ^ (8 * min n cap)))) ∧
    (∀ pa d, s.plat.ranges = [] → exec (.hostMemAccess pa (.own d)) s = .next ({ s with host := mwriteL noSide s.host pa d } : State).ringCheck) ∧
    (∀ pa off, exec (.hostMemAccess pa (.register off)) s = .next (s.hostSees 8
      (if off = 0 then s.ring.base.toNat else if off = 8 then (s.ring.k + (if s.ring.en then 2 ^ 31 else 0)) % 2 ^ 64
       else if off = 0x18 then s.ring.rp.toNat else if off = 0x20 then (if s.ring.overrun then 1 else 0) + (if s.ring.busy then 2 else 0) else 0))) ∧
    (∀ pa n, Config.reservedBase ≤ pa → exec (.hostMemAccess pa (.read n)) s = .fault .unbackedAddress) ∧
    (∀ pa n, 2 ^ 40 ≤ pa →
      let a := (pa - 2 ^ 40) / 8 * 128
      let j := 128 + (pa - 2 ^ 40) % 8
      (Config.reservedBase ≤ a → exec (.sidebandWindowAccess pa (.read n)) s = .fault .unbackedAddress) ∧
      (a < Config.reservedBase → s.mappingOf a = none → s.inCompressed a = false →
        exec (.sidebandWindowAccess pa (.read n)) s = .next (s.hostSees (min n (136 - j)) (lineNat (physRead hbmSide s.hbm a) j (min n (136 - j)))))) ∧
    (∀ x : SnoopAnswer, let kept := s.plat.hostOwn.filter (· != x.pa / 128)
      (x.data = [] ∨ x.pa / 128 ∉ s.plat.hostOwn → exec (.snoopResponse x) s = .next { s with plat := { s.plat with hostOwn := kept } }) ∧
      (x.data ≠ [] → x.pa / 128 ∈ s.plat.hostOwn → s.mappingOf (x.pa / 128 * 128) = none → s.inCompressed (x.pa / 128 * 128) = false → x.pa / 128 * 128 < Config.reservedBase →
        let pa := x.pa / 128 * 128
        let n := min x.data.length 128
        ∃ t, exec (.snoopResponse x) s = .next t ∧ t.plat.hostOwn = kept ∧ t.groups = s.groups ∧ t.llc = s.llc ∧
          t.hbm = physWrite hbmSide s.hbm pa (byteMask 0 n) (lineSet (physRead hbmSide s.hbm pa) 0 n (ofBytes (x.data.take n))))) ∧
    (∀ c, tget s.ctxs s.who = some c →
      (s.cycle / (1400 * max c.budget.period 1) ≠ c.periodAt / (1400 * max c.budget.period 1) →
        exec .budgetPeriod s = .next (s.setCtx s.who { c with useHbm := 0, copyBits := 0, useGal := 0, useCxl := 0, budget := c.budgetNext.getD c.budget,
                                                              budgetNext := none, periodAt := s.cycle }))) ∧
    (let due := fun (k : Nat) => let d := max 16 ((s.ctx k).heatctl.extractLsb' 4 5).toNat; s.cycle / 2 ^ d - (s.ctx k).heatAt / 2 ^ d
     (∃ p ∈ s.ctxs, decaysDue p.2 s.cycle ≠ 0) → ∃ t, exec .heatDecay s = .next t ∧ t.groups = s.groups ∧ t.hbm = s.hbm ∧ (∀ p ∈ t.ctxs, p.2.heatAt = s.cycle) ∧
       ∀ p, p ∈ t.heat ↔ ∃ q ∈ s.heat, q.2.count / 2 ^ due q.2.ctx ≠ 0 ∧ p = (q.1, { q.2 with count := q.2.count / 2 ^ due q.2.ctx }))

/-- O59. The management plane (R13, R336 to R339): gates are held at any time and released once bring-up is over; P1 is entered from 100 °C or above 4,800 W and left below 95 °C and 4,600 W; from 110 °C the device's state is lost; P2 and P3 wait until no team is resident; a report shows the eight measurement registers and is signed over them and the nonce; the host extends MR4 to MR7 alone; and POWER_ON stops at the verification that fails, or leaves the links trained, the gates held and the calendar loaded, the images and the configuration measured and a fresh session key. What a removal of power clears and when POWER_ON acts are the model's (assumption logs 1, 10, 14); what is written at manufacture, the images and the numbers drawn are free (assumption log 5). Samples and soft errors (R15, R49, R278, R331 to R333, R340, R342): at a cycle that is a multiple of the interval a scheduler samples its next group, once, with ISS where the group issued in the cycle and its stall code elsewhere (assumption log 24) and zeros for a group of another context; a detected error is counted, and an uncorrectable one poisons its lane, byte, register or scratchpad word and nothing else; one of a link waits at its boundary for the next line that crosses it, which is the model's input, and an error counts on the die of its core (assumption log 15). -/
def Obligations.PlatformEvents : Prop :=
  (
  ∀ (s : State),
    let p := s.plat
    (exec (.gateHold true) s = .next { s with plat := { p with gates := true } }) ∧
    (p.step = 7 → exec (.gateHold false) s = .next { s with plat := { p with gates := false } }) ∧
    (p.step ≠ 7 → exec (.gateHold false) s = .next s) ∧
    (∀ die temp watts, die < 4 →
      (100 ≤ temp ∨ 4800 < watts → exec (.p1Enter die temp watts) s = .next { s with plat := { p with p1 := ninsert p.p1 die } }) ∧
      (temp < 100 → watts ≤ 4800 → exec (.p1Enter die temp watts) s = .next s)) ∧
    (∀ die temp watts,
      (temp < 95 → watts < 4600 → exec (.p1Exit die temp watts) s = .next { s with plat := { p with p1 := p.p1.filter (· != die) } }) ∧
      (95 ≤ temp ∨ 4600 ≤ watts → exec (.p1Exit die temp watts) s = .next s)) ∧
    (∀ temp, (temp < 110 → exec (.thermalShutdown temp) s = .next s) ∧
      (110 ≤ temp → ∃ t, exec (.thermalShutdown temp) s = .next t ∧ t.plat.power = false ∧ t.ctxs = [] ∧ t.teams = [] ∧ t.groups = [] ∧ t.tasks = [] ∧ t.hbm = [] ∧
        t.host = s.host)) ∧
    (exec (.powerStateSelect 0) s = .next { s with plat := { p with pstate := 0 }, gal := { s.gal with timeNs := s.gal.nsAt s.cycle, markAt := s.cycle, slow := false } }) ∧
    (∀ n, n = 2 ∨ n = 3 →
      ((∃ t ∈ s.teams, t.2.live = true) → exec (.powerStateSelect n) s = .next s) ∧
      ((∀ t ∈ s.teams, t.2.live = false) → exec (.powerStateSelect n) s =
        .next { s with plat := { p with pstate := n }, gal := { s.gal with timeNs := s.gal.nsAt s.cycle, markAt := s.cycle, slow := n = 2 } })) ∧
    (∀ nonce, 6 ≤ p.step → ∃ t r, exec (.attestationReport nonce) s = .next t ∧ t.plat.report = some r ∧ r.nonce = nonce ∧
      (∀ n, n < 8 → r.mrs[n]? = some (tgetD p.mr n 0)) ∧ r.serial = Config.serial ∧ r.key = keyBytes (publicKey (privateKey (p.eph.getD 0))) ∧
      r.sig = ecdsa (Config.attestKey % (curveN - 1) + 1) (privateKey s.free) (sha384 (digestBytes nonce ++ r.mrs.flatMap digestBytes ++ r.serial ++ r.key)) ∧ t.free = s.free + 1 ∧ t.plat.mr = p.mr ∧ t.groups = s.groups) ∧
    (∀ n data, 5 ≤ p.step →
      (4 ≤ n → n ≤ 7 → ∃ t, exec (.mrExtend n data) s = .next t ∧ tgetD t.plat.mr n 0 = sha384 (digestBytes (tgetD p.mr n 0) ++ digestBytes (sha384 data)) ∧
        ∀ m, m ≠ n → tgetD t.plat.mr m 0 = tgetD p.mr m 0) ∧
      (n < 4 ∨ 7 < n → exec (.mrExtend n data) s = .next s)) ∧
    (∀ u : PowerUp, p.power = false ∨ p.step = 1 →
      (u.imageOk = false → ∃ t, exec (.powerOn u) s = .next t ∧ t.plat.step = 2 ∧ t.plat.gates = true ∧ t.portsUp = false ∧ t.plat.mr = []) ∧
      (u.imageOk = true → u.dieOk = false → ∃ t, exec (.powerOn u) s = .next t ∧ t.plat.step = 4 ∧ t.plat.gates = true ∧ t.portsUp = false) ∧
      (u.imageOk = true → u.dieOk = true → ∃ t, exec (.powerOn u) s = .next t ∧ t.plat.step = 6 ∧ t.plat.gates = true ∧ t.portsUp = true ∧ t.host = s.host ∧ t.groups = [] ∧
        t.gal.me = u.me ∧ t.gal.epoch = u.epoch ∧ t.ring.en = false ∧ (∀ n, n < 3 → tgetD t.plat.mr n 0 = mrExtended 0 (Config.bootImage n)) ∧
        tgetD t.plat.mr 3 0 = mrExtended 0 (Config.configImage (configNumbers u)) ∧ t.plat.eph = some s.free ∧ t.free = s.free + 1))
  ) ∧ (
  ∀ (s : State),
    (∀ core k u,
      let c := s.core core
      let g := s.group u
      let own := decide ((s.teamOf g).ctx = c.sampOwner)
      let pc := match g.clause with | some cl => wordPc g cl | none => g.pc
      c.samp.getLsbD 63 = true → k < 4 → s.cycle % sampInterval c.samp = 0 → tget c.sampAt k ≠ some s.cycle → s.sampled core k = some u →
      exec (.pcSample core k) s = .next ((s.setCore core { c with sampRot := tset c.sampRot k (s.rotation u), sampAt := tset c.sampAt k s.cycle }).writeSample core
        (k * 2 ^ 59 + (if g.issued then 2 ^ 58 else s.stallOf u * 2 ^ 53) + (if own then pc.toNat / 8 % 2 ^ 53 else 0))
        (s.cycle % 2 ^ 16 * 2 ^ 48 + core * 2 ^ 40 + (if own then g.gid * 2 ^ 32 + g.engseq.toNat % 2 ^ 32 else 0)))) ∧
    (∀ core k, (s.core core).samp.getLsbD 63 = false ∨ s.cycle % sampInterval (s.core core).samp ≠ 0 ∨ tget (s.core core).sampAt k = some s.cycle ∨ s.sampled core k = none →
      exec (.pcSample core k) s = .next s) ∧
    (∀ die, die < 4 → exec (.softError (.corrected die)) s = .next (s.softError die)) ∧
    (∀ b flips, b < 8 → ∃ t, exec (.softError (.crossing b flips)) s = .next t ∧ tgetD t.noise b [] = tgetD s.noise b [] ++ [flips] ∧
      (∀ n, n ≠ b → tgetD t.noise n [] = tgetD s.noise n []) ∧ t.groups = s.groups ∧ t.hbm = s.hbm ∧ t.llc = s.llc ∧ t.plat = s.plat) ∧
    (∀ u,
      let g := s.group u
      let hit := fun (site : SoftSite) (g1 : Group) => exec (.softError site) s = .next ((s.softError (s.groupDie u)).setGroup u g1)
      g.status = .live →
      (∀ n l, n < g.nv → l < 32 → hit (.vector u n l) { g with vp := tset g.vp n (g.rvp n ||| (1#32 <<< l)) }) ∧
      (∀ n b, n < g.nx → b < 8 → hit (.scaleByte u n b) { g with xp := tset g.xp n (g.rxp n ||| (1#8 <<< b)) }) ∧
      (∀ n, n < 128 → hit (.scalar u n) (g.poisonS n)) ∧ (∀ n, n < 16 → hit (.tile u n) (g.markTile n true)) ∧ (∀ n, n < 8 → hit (.acc u n) (g.markAcc n true))) ∧
    (∀ k w, (s.team k).live = true → 4 * w < s.spadSize k → exec (.softError (.spad k w)) s =
      .next ((s.softError (dieOf (s.team k).core)).setTeam k { s.team k with spadPoison := ninsert (s.team k).spadPoison w })) ∧
    (∀ die, tgetD (s.softError die).plat.soft die 0 = min (tgetD s.plat.soft die 0 + 1) 0xFFFFFFFF)
  )

/-- O60. A group's registers are its own (R48, R49): an instruction word other than DBGWR leaves the vector, scale and scalar registers, the banks, the tiles and accumulators, all their poison, the stack, the mode, the PC, the flags, the frames and the calls of every other group as they were, whatever the word does. -/
def Obligations.OtherGroups : Prop :=
  ∀ (i : Instr) (s t : State) (u : Nat), i.info.isWord = true → (∀ f, i ≠ .dbgwr f) → u ≠ s.who → exec i s = .next t →
    let g := s.group u
    let y := t.group u
    y.v = g.v ∧ y.vp = g.vp ∧ y.x = g.x ∧ y.xp = g.xp ∧ y.s = g.s ∧ y.sp = g.sp ∧ y.bankU = g.bankU ∧ y.bankS = g.bankS ∧ y.bankP = g.bankP ∧
    y.tiles = g.tiles ∧ y.tp = g.tp ∧ y.accs = g.accs ∧ y.cp = g.cp ∧ y.stack = g.stack ∧ y.mode = g.mode ∧ y.pc = g.pc ∧ y.clause = g.clause ∧
    y.xstat = g.xstat ∧ y.frameU = g.frameU ∧ y.frameS = g.frameS ∧ y.calls = g.calls ∧ y.widen = g.widen ∧ y.exited = g.exited ∧ y.status = g.status

end
end

