-- ==== Sys2Proof/Laws/Encoding.lean ====
section
/-! SUPPORT. The fields of each format come back from the word that they make, and the opcode byte and MOD[3] stand where the opcode map looks for them (09_encoding.md R91, R92, R99). -/

namespace Sys2Proof

theorem fld_of {w pos len : Nat} {x : BitVec len} (h : w / 2 ^ pos % 2 ^ len = x.toNat) : fld w pos len = x := by
  apply BitVec.eq_of_toNat_eq
  simp [fld, h]

theorem bitAt_of {w pos : Nat} {b : Bool} (h : w / 2 ^ pos % 2 = b.toNat) : bitAt w pos = b := by
  cases b <;> simp [bitAt, h]

theorem FV.toWord_lt (f : FV) (opc : Nat) (h : opc < 256) : f.toWord opc < 2 ^ 64 := by
  obtain ⟨mod, prs, pneg, vd, va, vb, vc, ty, rm, sat, bs, cs⟩ := f
  have h0 := mod.isLt
  have h1 := prs.isLt
  have h2 := pneg.toNat_lt
  have h3 := vd.isLt
  have h4 := va.isLt
  have h5 := vb.isLt
  have h6 := vc.isLt
  have h7 := ty.isLt
  have h8 := rm.isLt
  have h9 := sat.toNat_lt
  have h10 := bs.toNat_lt
  have h11 := cs.toNat_lt
  simp only [FV.toWord]
  norm_num at *
  omega

theorem FV.opcode_toWord (f : FV) (opc : Nat) (h : opc < 256) : f.toWord opc / 2 ^ 56 % 256 = opc := by
  obtain ⟨mod, prs, pneg, vd, va, vb, vc, ty, rm, sat, bs, cs⟩ := f
  have h0 := mod.isLt
  have h1 := prs.isLt
  have h2 := pneg.toNat_lt
  have h3 := vd.isLt
  have h4 := va.isLt
  have h5 := vb.isLt
  have h6 := vc.isLt
  have h7 := ty.isLt
  have h8 := rm.isLt
  have h9 := sat.toNat_lt
  have h10 := bs.toNat_lt
  have h11 := cs.toNat_lt
  simp only [FV.toWord]
  norm_num at *
  omega

theorem FV.ofWord_toWord (f : FV) (opc : Nat) : FV.ofWord (f.toWord opc) = f := by
  obtain ⟨mod, prs, pneg, vd, va, vb, vc, ty, rm, sat, bs, cs⟩ := f
  have h0 := mod.isLt
  have h1 := prs.isLt
  have h2 := pneg.toNat_lt
  have h3 := vd.isLt
  have h4 := va.isLt
  have h5 := vb.isLt
  have h6 := vc.isLt
  have h7 := ty.isLt
  have h8 := rm.isLt
  have h9 := sat.toNat_lt
  have h10 := bs.toNat_lt
  have h11 := cs.toNat_lt
  simp only [FV.ofWord, FV.toWord, FV.mk.injEq]
  norm_num at *
  refine ⟨fld_of ?_, fld_of ?_, bitAt_of ?_, fld_of ?_, fld_of ?_, fld_of ?_, fld_of ?_, fld_of ?_, fld_of ?_, bitAt_of ?_, bitAt_of ?_, bitAt_of ?_⟩ <;> norm_num <;> omega

theorem FV.dual_toWord (f : FV) (opc : Nat) : bitAt (f.toWord opc) 55 = decide (8 ≤ f.mod.toNat) := by
  obtain ⟨mod, prs, pneg, vd, va, vb, vc, ty, rm, sat, bs, cs⟩ := f
  have h0 := mod.isLt
  have h1 := prs.isLt
  have h2 := pneg.toNat_lt
  have h3 := vd.isLt
  have h4 := va.isLt
  have h5 := vb.isLt
  have h6 := vc.isLt
  have h7 := ty.isLt
  have h8 := rm.isLt
  have h9 := sat.toNat_lt
  have h10 := bs.toNat_lt
  have h11 := cs.toNat_lt
  have hb : ∀ (x : Nat) (p : Prop) [Decidable p], (x = 1 ↔ p) → (x == 1) = decide p := by
    intro x p _ hp
    by_cases hx : x = 1
    · simp [hx, hp.1 hx]
    · simp [hx, mt hp.2 hx]
  simp only [bitAt, FV.toWord]
  apply hb
  norm_num at *
  omega

theorem FVI.toWord_lt (f : FVI) (opc : Nat) (h : opc < 256) : f.toWord opc < 2 ^ 64 := by
  obtain ⟨mod, prs, pneg, vd, va, ty, imm⟩ := f
  have h0 := mod.isLt
  have h1 := prs.isLt
  have h2 := pneg.toNat_lt
  have h3 := vd.isLt
  have h4 := va.isLt
  have h5 := ty.isLt
  have h6 := imm.isLt
  simp only [FVI.toWord]
  norm_num at *
  omega

theorem FVI.opcode_toWord (f : FVI) (opc : Nat) (h : opc < 256) : f.toWord opc / 2 ^ 56 % 256 = opc := by
  obtain ⟨mod, prs, pneg, vd, va, ty, imm⟩ := f
  have h0 := mod.isLt
  have h1 := prs.isLt
  have h2 := pneg.toNat_lt
  have h3 := vd.isLt
  have h4 := va.isLt
  have h5 := ty.isLt
  have h6 := imm.isLt
  simp only [FVI.toWord]
  norm_num at *
  omega

theorem FVI.ofWord_toWord (f : FVI) (opc : Nat) : FVI.ofWord (f.toWord opc) = f := by
  obtain ⟨mod, prs, pneg, vd, va, ty, imm⟩ := f
  have h0 := mod.isLt
  have h1 := prs.isLt
  have h2 := pneg.toNat_lt
  have h3 := vd.isLt
  have h4 := va.isLt
  have h5 := ty.isLt
  have h6 := imm.isLt
  simp only [FVI.ofWord, FVI.toWord, FVI.mk.injEq]
  norm_num at *
  refine ⟨fld_of ?_, fld_of ?_, bitAt_of ?_, fld_of ?_, fld_of ?_, fld_of ?_, fld_of ?_⟩ <;> norm_num <;> omega

theorem FVI.dual_toWord (f : FVI) (opc : Nat) : bitAt (f.toWord opc) 55 = decide (8 ≤ f.mod.toNat) := by
  obtain ⟨mod, prs, pneg, vd, va, ty, imm⟩ := f
  have h0 := mod.isLt
  have h1 := prs.isLt
  have h2 := pneg.toNat_lt
  have h3 := vd.isLt
  have h4 := va.isLt
  have h5 := ty.isLt
  have h6 := imm.isLt
  have hb : ∀ (x : Nat) (p : Prop) [Decidable p], (x = 1 ↔ p) → (x == 1) = decide p := by
    intro x p _ hp
    by_cases hx : x = 1
    · simp [hx, hp.1 hx]
    · simp [hx, mt hp.2 hx]
  simp only [bitAt, FVI.toWord]
  apply hb
  norm_num at *
  omega

theorem FS.toWord_lt (f : FS) (opc : Nat) (h : opc < 256) : f.toWord opc < 2 ^ 64 := by
  obtain ⟨mod, sd, sa, sb, sc, ty⟩ := f
  have h0 := mod.isLt
  have h1 := sd.isLt
  have h2 := sa.isLt
  have h3 := sb.isLt
  have h4 := sc.isLt
  have h5 := ty.isLt
  simp only [FS.toWord]
  norm_num at *
  omega

theorem FS.opcode_toWord (f : FS) (opc : Nat) (h : opc < 256) : f.toWord opc / 2 ^ 56 % 256 = opc := by
  obtain ⟨mod, sd, sa, sb, sc, ty⟩ := f
  have h0 := mod.isLt
  have h1 := sd.isLt
  have h2 := sa.isLt
  have h3 := sb.isLt
  have h4 := sc.isLt
  have h5 := ty.isLt
  simp only [FS.toWord]
  norm_num at *
  omega

theorem FS.ofWord_toWord (f : FS) (opc : Nat) : FS.ofWord (f.toWord opc) = f := by
  obtain ⟨mod, sd, sa, sb, sc, ty⟩ := f
  have h0 := mod.isLt
  have h1 := sd.isLt
  have h2 := sa.isLt
  have h3 := sb.isLt
  have h4 := sc.isLt
  have h5 := ty.isLt
  simp only [FS.ofWord, FS.toWord, FS.mk.injEq]
  norm_num at *
  refine ⟨fld_of ?_, fld_of ?_, fld_of ?_, fld_of ?_, fld_of ?_, fld_of ?_⟩ <;> norm_num <;> omega

theorem FS.dual_toWord (f : FS) (opc : Nat) : bitAt (f.toWord opc) 55 = decide (8 ≤ f.mod.toNat) := by
  obtain ⟨mod, sd, sa, sb, sc, ty⟩ := f
  have h0 := mod.isLt
  have h1 := sd.isLt
  have h2 := sa.isLt
  have h3 := sb.isLt
  have h4 := sc.isLt
  have h5 := ty.isLt
  have hb : ∀ (x : Nat) (p : Prop) [Decidable p], (x = 1 ↔ p) → (x == 1) = decide p := by
    intro x p _ hp
    by_cases hx : x = 1
    · simp [hx, hp.1 hx]
    · simp [hx, mt hp.2 hx]
  simp only [bitAt, FS.toWord]
  apply hb
  norm_num at *
  omega

theorem FSI.toWord_lt (f : FSI) (opc : Nat) (h : opc < 256) : f.toWord opc < 2 ^ 64 := by
  obtain ⟨mod, sd, sa, imm⟩ := f
  have h0 := mod.isLt
  have h1 := sd.isLt
  have h2 := sa.isLt
  have h3 := imm.isLt
  simp only [FSI.toWord]
  norm_num at *
  omega

theorem FSI.opcode_toWord (f : FSI) (opc : Nat) (h : opc < 256) : f.toWord opc / 2 ^ 56 % 256 = opc := by
  obtain ⟨mod, sd, sa, imm⟩ := f
  have h0 := mod.isLt
  have h1 := sd.isLt
  have h2 := sa.isLt
  have h3 := imm.isLt
  simp only [FSI.toWord]
  norm_num at *
  omega

theorem FSI.ofWord_toWord (f : FSI) (opc : Nat) : FSI.ofWord (f.toWord opc) = f := by
  obtain ⟨mod, sd, sa, imm⟩ := f
  have h0 := mod.isLt
  have h1 := sd.isLt
  have h2 := sa.isLt
  have h3 := imm.isLt
  simp only [FSI.ofWord, FSI.toWord, FSI.mk.injEq]
  norm_num at *
  refine ⟨fld_of ?_, fld_of ?_, fld_of ?_, fld_of ?_⟩ <;> norm_num <;> omega

theorem FSI.dual_toWord (f : FSI) (opc : Nat) : bitAt (f.toWord opc) 55 = decide (8 ≤ f.mod.toNat) := by
  obtain ⟨mod, sd, sa, imm⟩ := f
  have h0 := mod.isLt
  have h1 := sd.isLt
  have h2 := sa.isLt
  have h3 := imm.isLt
  have hb : ∀ (x : Nat) (p : Prop) [Decidable p], (x = 1 ↔ p) → (x == 1) = decide p := by
    intro x p _ hp
    by_cases hx : x = 1
    · simp [hx, hp.1 hx]
    · simp [hx, mt hp.2 hx]
  simp only [bitAt, FSI.toWord]
  apply hb
  norm_num at *
  omega

theorem FB.toWord_lt (f : FB) (opc : Nat) (h : opc < 256) : f.toWord opc < 2 ^ 64 := by
  obtain ⟨mod, prs, pneg, tgt, rcv⟩ := f
  have h0 := mod.isLt
  have h1 := prs.isLt
  have h2 := pneg.toNat_lt
  have h3 := tgt.isLt
  have h4 := rcv.isLt
  simp only [FB.toWord]
  norm_num at *
  omega

theorem FB.opcode_toWord (f : FB) (opc : Nat) (h : opc < 256) : f.toWord opc / 2 ^ 56 % 256 = opc := by
  obtain ⟨mod, prs, pneg, tgt, rcv⟩ := f
  have h0 := mod.isLt
  have h1 := prs.isLt
  have h2 := pneg.toNat_lt
  have h3 := tgt.isLt
  have h4 := rcv.isLt
  simp only [FB.toWord]
  norm_num at *
  omega

theorem FB.ofWord_toWord (f : FB) (opc : Nat) : FB.ofWord (f.toWord opc) = f := by
  obtain ⟨mod, prs, pneg, tgt, rcv⟩ := f
  have h0 := mod.isLt
  have h1 := prs.isLt
  have h2 := pneg.toNat_lt
  have h3 := tgt.isLt
  have h4 := rcv.isLt
  simp only [FB.ofWord, FB.toWord, FB.mk.injEq]
  norm_num at *
  refine ⟨fld_of ?_, fld_of ?_, bitAt_of ?_, fld_of ?_, fld_of ?_⟩ <;> norm_num <;> omega

theorem FM.toWord_lt (f : FM) (opc : Nat) (h : opc < 256) : f.toWord opc < 2 ^ 64 := by
  obtain ⟨mod, prs, pneg, vd, va, sb, off, col, sco⟩ := f
  have h0 := mod.isLt
  have h1 := prs.isLt
  have h2 := pneg.toNat_lt
  have h3 := vd.isLt
  have h4 := va.isLt
  have h5 := sb.isLt
  have h6 := off.isLt
  have h7 := col.isLt
  have h8 := sco.isLt
  simp only [FM.toWord]
  norm_num at *
  omega

theorem FM.opcode_toWord (f : FM) (opc : Nat) (h : opc < 256) : f.toWord opc / 2 ^ 56 % 256 = opc := by
  obtain ⟨mod, prs, pneg, vd, va, sb, off, col, sco⟩ := f
  have h0 := mod.isLt
  have h1 := prs.isLt
  have h2 := pneg.toNat_lt
  have h3 := vd.isLt
  have h4 := va.isLt
  have h5 := sb.isLt
  have h6 := off.isLt
  have h7 := col.isLt
  have h8 := sco.isLt
  simp only [FM.toWord]
  norm_num at *
  omega

theorem FM.ofWord_toWord (f : FM) (opc : Nat) : FM.ofWord (f.toWord opc) = f := by
  obtain ⟨mod, prs, pneg, vd, va, sb, off, col, sco⟩ := f
  have h0 := mod.isLt
  have h1 := prs.isLt
  have h2 := pneg.toNat_lt
  have h3 := vd.isLt
  have h4 := va.isLt
  have h5 := sb.isLt
  have h6 := off.isLt
  have h7 := col.isLt
  have h8 := sco.isLt
  simp only [FM.ofWord, FM.toWord, FM.mk.injEq]
  norm_num at *
  refine ⟨fld_of ?_, fld_of ?_, bitAt_of ?_, fld_of ?_, fld_of ?_, fld_of ?_, fld_of ?_, fld_of ?_, fld_of ?_⟩ <;> norm_num <;> omega

theorem FX.toWord_lt (f : FX) (opc : Nat) (h : opc < 256) : f.toWord opc < 2 ^ 64 := by
  obtain ⟨mod, cd, ce, ta, tb, tg, fa, fb, sub, spr⟩ := f
  have h0 := mod.isLt
  have h1 := cd.isLt
  have h2 := ce.isLt
  have h3 := ta.isLt
  have h4 := tb.isLt
  have h5 := tg.isLt
  have h6 := fa.isLt
  have h7 := fb.isLt
  have h8 := sub.isLt
  have h9 := spr.toNat_lt
  simp only [FX.toWord]
  norm_num at *
  omega

theorem FX.opcode_toWord (f : FX) (opc : Nat) (h : opc < 256) : f.toWord opc / 2 ^ 56 % 256 = opc := by
  obtain ⟨mod, cd, ce, ta, tb, tg, fa, fb, sub, spr⟩ := f
  have h0 := mod.isLt
  have h1 := cd.isLt
  have h2 := ce.isLt
  have h3 := ta.isLt
  have h4 := tb.isLt
  have h5 := tg.isLt
  have h6 := fa.isLt
  have h7 := fb.isLt
  have h8 := sub.isLt
  have h9 := spr.toNat_lt
  simp only [FX.toWord]
  norm_num at *
  omega

theorem FX.ofWord_toWord (f : FX) (opc : Nat) : FX.ofWord (f.toWord opc) = f := by
  obtain ⟨mod, cd, ce, ta, tb, tg, fa, fb, sub, spr⟩ := f
  have h0 := mod.isLt
  have h1 := cd.isLt
  have h2 := ce.isLt
  have h3 := ta.isLt
  have h4 := tb.isLt
  have h5 := tg.isLt
  have h6 := fa.isLt
  have h7 := fb.isLt
  have h8 := sub.isLt
  have h9 := spr.toNat_lt
  simp only [FX.ofWord, FX.toWord, FX.mk.injEq]
  norm_num at *
  refine ⟨fld_of ?_, fld_of ?_, fld_of ?_, fld_of ?_, fld_of ?_, fld_of ?_, fld_of ?_, fld_of ?_, fld_of ?_, bitAt_of ?_⟩ <;> norm_num <;> omega

theorem FE.toWord_lt (f : FE) (opc : Nat) (h : opc < 256) : f.toWord opc < 2 ^ 64 := by
  obtain ⟨mod, sr, vc, tok, sx, rid⟩ := f
  have h0 := mod.isLt
  have h1 := sr.isLt
  have h2 := vc.isLt
  have h3 := tok.isLt
  have h4 := sx.isLt
  have h5 := rid.isLt
  simp only [FE.toWord]
  norm_num at *
  omega

theorem FE.opcode_toWord (f : FE) (opc : Nat) (h : opc < 256) : f.toWord opc / 2 ^ 56 % 256 = opc := by
  obtain ⟨mod, sr, vc, tok, sx, rid⟩ := f
  have h0 := mod.isLt
  have h1 := sr.isLt
  have h2 := vc.isLt
  have h3 := tok.isLt
  have h4 := sx.isLt
  have h5 := rid.isLt
  simp only [FE.toWord]
  norm_num at *
  omega

theorem FE.ofWord_toWord (f : FE) (opc : Nat) : FE.ofWord (f.toWord opc) = f := by
  obtain ⟨mod, sr, vc, tok, sx, rid⟩ := f
  have h0 := mod.isLt
  have h1 := sr.isLt
  have h2 := vc.isLt
  have h3 := tok.isLt
  have h4 := sx.isLt
  have h5 := rid.isLt
  simp only [FE.ofWord, FE.toWord, FE.mk.injEq]
  norm_num at *
  refine ⟨fld_of ?_, fld_of ?_, fld_of ?_, fld_of ?_, fld_of ?_, fld_of ?_⟩ <;> norm_num <;> omega

theorem FW.toWord_lt (f : FW) (opc : Nat) (h : opc < 256) : f.toWord opc < 2 ^ 64 := by
  obtain ⟨wld, wst, wcp, wtl, tokw⟩ := f
  have h0 := wld.isLt
  have h1 := wst.isLt
  have h2 := wcp.isLt
  have h3 := wtl.isLt
  have h4 := tokw.isLt
  simp only [FW.toWord]
  norm_num at *
  omega

theorem FW.opcode_toWord (f : FW) (opc : Nat) (h : opc < 256) : f.toWord opc / 2 ^ 56 % 256 = opc := by
  obtain ⟨wld, wst, wcp, wtl, tokw⟩ := f
  have h0 := wld.isLt
  have h1 := wst.isLt
  have h2 := wcp.isLt
  have h3 := wtl.isLt
  have h4 := tokw.isLt
  simp only [FW.toWord]
  norm_num at *
  omega

theorem FW.ofWord_toWord (f : FW) (opc : Nat) : FW.ofWord (f.toWord opc) = f := by
  obtain ⟨wld, wst, wcp, wtl, tokw⟩ := f
  have h0 := wld.isLt
  have h1 := wst.isLt
  have h2 := wcp.isLt
  have h3 := wtl.isLt
  have h4 := tokw.isLt
  simp only [FW.ofWord, FW.toWord, FW.mk.injEq]
  norm_num at *
  refine ⟨fld_of ?_, fld_of ?_, fld_of ?_, fld_of ?_, fld_of ?_⟩ <;> norm_num <;> omega

theorem FY.toWord_lt (f : FY) (opc : Nat) (h : opc < 256) : f.toWord opc < 2 ^ 64 := by
  obtain ⟨mod, sd, sa, sysreg⟩ := f
  have h0 := mod.isLt
  have h1 := sd.isLt
  have h2 := sa.isLt
  have h3 := sysreg.isLt
  simp only [FY.toWord]
  norm_num at *
  omega

theorem FY.opcode_toWord (f : FY) (opc : Nat) (h : opc < 256) : f.toWord opc / 2 ^ 56 % 256 = opc := by
  obtain ⟨mod, sd, sa, sysreg⟩ := f
  have h0 := mod.isLt
  have h1 := sd.isLt
  have h2 := sa.isLt
  have h3 := sysreg.isLt
  simp only [FY.toWord]
  norm_num at *
  omega

theorem FY.ofWord_toWord (f : FY) (opc : Nat) : FY.ofWord (f.toWord opc) = f := by
  obtain ⟨mod, sd, sa, sysreg⟩ := f
  have h0 := mod.isLt
  have h1 := sd.isLt
  have h2 := sa.isLt
  have h3 := sysreg.isLt
  simp only [FY.ofWord, FY.toWord, FY.mk.injEq]
  norm_num at *
  refine ⟨fld_of ?_, fld_of ?_, fld_of ?_, fld_of ?_⟩ <;> norm_num <;> omega

end Sys2Proof
end

