-- ==== Sys2Proof/Laws/Tables.lean ====
section
/-! SUPPORT. Reading after writing in tables, lists and bit fields, and lane by lane in a vector register. -/

namespace Sys2Proof

variable {α : Type}

@[simp] theorem tget_nil (j : Nat) : tget ([] : Tbl α) j = none := rfl

theorem tget_tset (t : Tbl α) (j k : Nat) (x : α) : tget (tset t j x) k = if j = k then some x else tget t k := by
  induction t with
  | nil => simp [tset, tget]
  | cons p t ih =>
    obtain ⟨a, v⟩ := p
    by_cases h1 : j < a
    · simp [tset, tget, h1]
    · by_cases h2 : j = a
      · subst h2
        by_cases h3 : j = k <;> simp [tset, tget, h3]
      · simp only [tset, h1, h2, if_false, tget, ih]
        by_cases h3 : a = k
        · have : j ≠ k := by omega
          simp [h3, this]
        · simp [h3]

@[simp] theorem tget_tset_self (t : Tbl α) (j : Nat) (x : α) : tget (tset t j x) j = some x := by simp [tget_tset]

theorem tget_tset_ne (t : Tbl α) {j k : Nat} (x : α) (h : j ≠ k) : tget (tset t j x) k = tget t k := by simp [tget_tset, h]

theorem tgetD_tset (t : Tbl α) (j k : Nat) (x d : α) : tgetD (tset t j x) k d = if j = k then x else tgetD t k d := by
  simp only [tgetD, tget_tset]
  split <;> rfl

@[simp] theorem tgetD_tset_self (t : Tbl α) (j : Nat) (x d : α) : tgetD (tset t j x) j d = x := by simp [tgetD_tset]

theorem tgetD_tset_ne (t : Tbl α) {j k : Nat} (x d : α) (h : j ≠ k) : tgetD (tset t j x) k d = tgetD t k d := by
  simp [tgetD_tset, h]

theorem tset_tset (t : Tbl α) (j : Nat) (x y : α) : tset (tset t j x) j y = tset t j y := by
  induction t with
  | nil => simp [tset]
  | cons p t ih =>
    obtain ⟨a, v⟩ := p
    by_cases h1 : j < a
    · simp [tset, h1]
    · by_cases h2 : j = a
      · subst h2; simp [tset]
      · simp [tset, h1, h2, ih]

theorem tset_sorted_from (t : Tbl α) (j : Nat) (x : α) (a : Nat) (v : α) (haj : a < j) (h : Tbl.sorted ((a, v) :: t) = true) :
    Tbl.sorted ((a, v) :: tset t j x) = true := by
  induction t generalizing a v with
  | nil => simp [tset, Tbl.sorted, haj]
  | cons p t ih =>
    obtain ⟨b, w⟩ := p
    simp only [Tbl.sorted, Bool.and_eq_true, decide_eq_true_eq] at h
    by_cases h1 : j < b
    · simp [tset, h1, Tbl.sorted, haj, h.2]
    · by_cases h2 : j = b
      · subst h2
        simp only [tset, Nat.lt_irrefl, if_false, if_true]
        cases t with
        | nil => simp [Tbl.sorted, haj]
        | cons q t => obtain ⟨c, u⟩ := q; simp_all [Tbl.sorted]
      · have := ih b w (by omega) h.2
        simp [tset, h1, h2, Tbl.sorted, h.1, this]

/-- `tset` keeps the keys strictly rising. -/
theorem tset_sorted (t : Tbl α) (j : Nat) (x : α) (h : Tbl.sorted t = true) : Tbl.sorted (tset t j x) = true := by
  cases t with
  | nil => rfl
  | cons p t =>
    obtain ⟨a, v⟩ := p
    by_cases h1 : j < a
    · simp [tset, h1, Tbl.sorted, h]
    · by_cases h2 : j = a
      · subst h2
        simp only [tset, Nat.lt_irrefl, if_false, if_true]
        cases t with
        | nil => rfl
        | cons q t => obtain ⟨c, u⟩ := q; simp_all [Tbl.sorted]
      · simp only [tset, h1, h2, if_false]
        exact tset_sorted_from t j x a v (by omega) h

@[simp] theorem lset_length (l : List α) (n : Nat) (x : α) : (lset l n x).length = l.length := by
  induction l generalizing n with
  | nil => rfl
  | cons a t ih => cases n <;> simp [lset, ih]

/-! ### Bit fields -/

@[simp] theorem getBits_eq {n : Nat} (x : BitVec n) (p len : Nat) : getBits x p len = x.extractLsb' p len := rfl

theorem putBits_getLsbD {n len : Nat} (x : BitVec n) (p : Nat) (v : BitVec len) (i : Nat) (hi : i < n) :
    (putBits x p v).getLsbD i = if p ≤ i ∧ i < p + len then v.getLsbD (i - p) else x.getLsbD i := by
  simp only [putBits, BitVec.getLsbD_or, BitVec.getLsbD_and, BitVec.getLsbD_not, BitVec.getLsbD_shiftLeft, BitVec.getLsbD_setWidth,
    BitVec.getLsbD_allOnes, hi, decide_true, Bool.true_and]
  by_cases h : p ≤ i
  · by_cases h2 : i < p + len
    · have h3 : i - p < len := by omega
      have h4 : i - p < n := by omega
      simp [h, h2, h3, h4, show ¬ i < p by omega]
    · have h3 : ¬ i - p < len := by omega
      have h5 : v.getLsbD (i - p) = false := BitVec.getLsbD_of_ge v _ (by omega)
      simp [h, h2, h3, h5, show ¬ i < p by omega]
  · simp [h, show i < p by omega]

theorem extract_putBits_self {n len : Nat} (x : BitVec n) (p : Nat) (v : BitVec len) (h : p + len ≤ n) :
    (putBits x p v).extractLsb' p len = v := by
  apply BitVec.eq_of_getLsbD_eq
  intro i hi
  simp only [BitVec.getLsbD_extractLsb', hi, decide_true, Bool.true_and]
  rw [putBits_getLsbD _ _ _ _ (by omega)]
  simp [hi]

theorem extract_putBits_ne {n len : Nat} (x : BitVec n) (p q m : Nat) (v : BitVec len) (h : q + m ≤ n) (hd : q + m ≤ p ∨ p + len ≤ q) :
    (putBits x p v).extractLsb' q m = x.extractLsb' q m := by
  apply BitVec.eq_of_getLsbD_eq
  intro i hi
  simp only [BitVec.getLsbD_extractLsb', hi, decide_true, Bool.true_and]
  rw [putBits_getLsbD _ _ _ _ (by omega)]
  split
  · omega
  · rfl

/-! ### Lanes -/

@[simp] theorem lane_setLane_self (v : VReg) (l : Nat) (x : W32) (h : l < 32) : lane (setLane v l x) l = x := by
  simp only [lane, setLane, getBits_eq]
  exact extract_putBits_self v (32 * l) x (by omega)

theorem lane_setLane_ne (v : VReg) (l k : Nat) (x : W32) (hk : k < 32) (h : l ≠ k) : lane (setLane v l x) k = lane v k := by
  simp only [lane, setLane, getBits_eq]
  exact extract_putBits_ne v (32 * l) (32 * k) 32 x (by omega) (by omega)

theorem mem_lanesOf (m : Lanes) (l : Nat) : l ∈ lanesOf m ↔ l < 32 ∧ inSet m l = true := by
  simp [lanesOf]

theorem lane_foldl (ls : List Nat) (hn : ∀ l ∈ ls, l < 32) (f : Nat → W32) (v : VReg) (k : Nat) (hk : k < 32) :
    lane (ls.foldl (fun r l => setLane r l (f l)) v) k = if k ∈ ls then f k else lane v k := by
  induction ls generalizing v with
  | nil => simp
  | cons a t ih =>
    have ha : a < 32 := hn a (by simp)
    simp only [List.foldl_cons]
    rw [ih (fun l hl => hn l (by simp [hl]))]
    by_cases h1 : k ∈ t
    · simp [h1]
    · by_cases h2 : a = k
      · subst h2; simp [h1, ha]
      · simp [h1, lane_setLane_ne _ _ _ _ hk h2, show ¬ k = a by omega]

/-- The lanes of the set receive their values, every other lane keeps its own (13 R133). -/
theorem lane_mapLanes (m : Lanes) (f : Nat → W32) (v : VReg) (k : Nat) (hk : k < 32) :
    lane (mapLanes m f v) k = if inSet m k then f k else lane v k := by
  simp only [mapLanes]
  rw [lane_foldl _ (fun l hl => ((mem_lanesOf m l).1 hl).1) f v k hk]
  by_cases h : inSet m k = true
  · simp [mem_lanesOf, hk, h]
  · simp [mem_lanesOf, h]

@[simp] theorem lanesOf_zero : lanesOf 0 = [] := by decide

end Sys2Proof
end

