-- ==== Sys2Proof/Laws/State.lean ====
section
/-! SUPPORT. One lemma per field per update of the state and of a group, and reading a record after writing it. -/

namespace Sys2Proof.Machine

@[simp] theorem State.setGroup_teams (s : State) (u : Nat) (g : Group) : (s.setGroup u g).teams = s.teams := rfl
@[simp] theorem State.setGroup_cores (s : State) (u : Nat) (g : Group) : (s.setGroup u g).cores = s.cores := rfl
@[simp] theorem State.setGroup_ctxs (s : State) (u : Nat) (g : Group) : (s.setGroup u g).ctxs = s.ctxs := rfl
@[simp] theorem State.setGroup_tasks (s : State) (u : Nat) (g : Group) : (s.setGroup u g).tasks = s.tasks := rfl
@[simp] theorem State.setGroup_ops (s : State) (u : Nat) (g : Group) : (s.setGroup u g).ops = s.ops := rfl
@[simp] theorem State.setGroup_hbm (s : State) (u : Nat) (g : Group) : (s.setGroup u g).hbm = s.hbm := rfl
@[simp] theorem State.setGroup_cxl (s : State) (u : Nat) (g : Group) : (s.setGroup u g).cxl = s.cxl := rfl
@[simp] theorem State.setGroup_host (s : State) (u : Nat) (g : Group) : (s.setGroup u g).host = s.host := rfl
@[simp] theorem State.setGroup_memPoison (s : State) (u : Nat) (g : Group) : (s.setGroup u g).memPoison = s.memPoison := rfl
@[simp] theorem State.setGroup_noise (s : State) (u : Nat) (g : Group) : (s.setGroup u g).noise = s.noise := rfl
@[simp] theorem State.setGroup_comp (s : State) (u : Nat) (g : Group) : (s.setGroup u g).comp = s.comp := rfl
@[simp] theorem State.setGroup_llc (s : State) (u : Nat) (g : Group) : (s.setGroup u g).llc = s.llc := rfl
@[simp] theorem State.setGroup_dir (s : State) (u : Nat) (g : Group) : (s.setGroup u g).dir = s.dir := rfl
@[simp] theorem State.setGroup_tlb (s : State) (u : Nat) (g : Group) : (s.setGroup u g).tlb = s.tlb := rfl
@[simp] theorem State.setGroup_rev (s : State) (u : Nat) (g : Group) : (s.setGroup u g).rev = s.rev := rfl
@[simp] theorem State.setGroup_heat (s : State) (u : Nat) (g : Group) : (s.setGroup u g).heat = s.heat := rfl
@[simp] theorem State.setGroup_gal (s : State) (u : Nat) (g : Group) : (s.setGroup u g).gal = s.gal := rfl
@[simp] theorem State.setGroup_ring (s : State) (u : Nat) (g : Group) : (s.setGroup u g).ring = s.ring := rfl
@[simp] theorem State.setGroup_plat (s : State) (u : Nat) (g : Group) : (s.setGroup u g).plat = s.plat := rfl
@[simp] theorem State.setGroup_cycle (s : State) (u : Nat) (g : Group) : (s.setGroup u g).cycle = s.cycle := rfl
@[simp] theorem State.setGroup_who (s : State) (u : Nat) (g : Group) : (s.setGroup u g).who = s.who := rfl
@[simp] theorem State.setGroup_agenda (s : State) (u : Nat) (g : Group) : (s.setGroup u g).agenda = s.agenda := rfl
@[simp] theorem State.setGroup_free (s : State) (u : Nat) (g : Group) : (s.setGroup u g).free = s.free := rfl
@[simp] theorem State.setGroup_nextId (s : State) (u : Nat) (g : Group) : (s.setGroup u g).nextId = s.nextId := rfl
@[simp] theorem State.setGroup_kernelRings (s : State) (u : Nat) (g : Group) : (s.setGroup u g).kernelRings = s.kernelRings := rfl

@[simp] theorem State.setTeam_groups (s : State) (k : Nat) (x : Team) : (s.setTeam k x).groups = s.groups := rfl
@[simp] theorem State.setTeam_cores (s : State) (k : Nat) (x : Team) : (s.setTeam k x).cores = s.cores := rfl
@[simp] theorem State.setTeam_ctxs (s : State) (k : Nat) (x : Team) : (s.setTeam k x).ctxs = s.ctxs := rfl
@[simp] theorem State.setTeam_tasks (s : State) (k : Nat) (x : Team) : (s.setTeam k x).tasks = s.tasks := rfl
@[simp] theorem State.setTeam_ops (s : State) (k : Nat) (x : Team) : (s.setTeam k x).ops = s.ops := rfl
@[simp] theorem State.setTeam_hbm (s : State) (k : Nat) (x : Team) : (s.setTeam k x).hbm = s.hbm := rfl
@[simp] theorem State.setTeam_cxl (s : State) (k : Nat) (x : Team) : (s.setTeam k x).cxl = s.cxl := rfl
@[simp] theorem State.setTeam_host (s : State) (k : Nat) (x : Team) : (s.setTeam k x).host = s.host := rfl
@[simp] theorem State.setTeam_memPoison (s : State) (k : Nat) (x : Team) : (s.setTeam k x).memPoison = s.memPoison := rfl
@[simp] theorem State.setTeam_noise (s : State) (k : Nat) (x : Team) : (s.setTeam k x).noise = s.noise := rfl
@[simp] theorem State.setTeam_comp (s : State) (k : Nat) (x : Team) : (s.setTeam k x).comp = s.comp := rfl
@[simp] theorem State.setTeam_llc (s : State) (k : Nat) (x : Team) : (s.setTeam k x).llc = s.llc := rfl
@[simp] theorem State.setTeam_dir (s : State) (k : Nat) (x : Team) : (s.setTeam k x).dir = s.dir := rfl
@[simp] theorem State.setTeam_tlb (s : State) (k : Nat) (x : Team) : (s.setTeam k x).tlb = s.tlb := rfl
@[simp] theorem State.setTeam_rev (s : State) (k : Nat) (x : Team) : (s.setTeam k x).rev = s.rev := rfl
@[simp] theorem State.setTeam_heat (s : State) (k : Nat) (x : Team) : (s.setTeam k x).heat = s.heat := rfl
@[simp] theorem State.setTeam_gal (s : State) (k : Nat) (x : Team) : (s.setTeam k x).gal = s.gal := rfl
@[simp] theorem State.setTeam_ring (s : State) (k : Nat) (x : Team) : (s.setTeam k x).ring = s.ring := rfl
@[simp] theorem State.setTeam_plat (s : State) (k : Nat) (x : Team) : (s.setTeam k x).plat = s.plat := rfl
@[simp] theorem State.setTeam_cycle (s : State) (k : Nat) (x : Team) : (s.setTeam k x).cycle = s.cycle := rfl
@[simp] theorem State.setTeam_who (s : State) (k : Nat) (x : Team) : (s.setTeam k x).who = s.who := rfl
@[simp] theorem State.setTeam_agenda (s : State) (k : Nat) (x : Team) : (s.setTeam k x).agenda = s.agenda := rfl
@[simp] theorem State.setTeam_free (s : State) (k : Nat) (x : Team) : (s.setTeam k x).free = s.free := rfl
@[simp] theorem State.setTeam_nextId (s : State) (k : Nat) (x : Team) : (s.setTeam k x).nextId = s.nextId := rfl
@[simp] theorem State.setTeam_kernelRings (s : State) (k : Nat) (x : Team) : (s.setTeam k x).kernelRings = s.kernelRings := rfl

@[simp] theorem State.setCore_groups (s : State) (k : Nat) (x : Core) : (s.setCore k x).groups = s.groups := rfl
@[simp] theorem State.setCore_teams (s : State) (k : Nat) (x : Core) : (s.setCore k x).teams = s.teams := rfl
@[simp] theorem State.setCore_ctxs (s : State) (k : Nat) (x : Core) : (s.setCore k x).ctxs = s.ctxs := rfl
@[simp] theorem State.setCore_tasks (s : State) (k : Nat) (x : Core) : (s.setCore k x).tasks = s.tasks := rfl
@[simp] theorem State.setCore_ops (s : State) (k : Nat) (x : Core) : (s.setCore k x).ops = s.ops := rfl
@[simp] theorem State.setCore_hbm (s : State) (k : Nat) (x : Core) : (s.setCore k x).hbm = s.hbm := rfl
@[simp] theorem State.setCore_cxl (s : State) (k : Nat) (x : Core) : (s.setCore k x).cxl = s.cxl := rfl
@[simp] theorem State.setCore_host (s : State) (k : Nat) (x : Core) : (s.setCore k x).host = s.host := rfl
@[simp] theorem State.setCore_memPoison (s : State) (k : Nat) (x : Core) : (s.setCore k x).memPoison = s.memPoison := rfl
@[simp] theorem State.setCore_noise (s : State) (k : Nat) (x : Core) : (s.setCore k x).noise = s.noise := rfl
@[simp] theorem State.setCore_comp (s : State) (k : Nat) (x : Core) : (s.setCore k x).comp = s.comp := rfl
@[simp] theorem State.setCore_llc (s : State) (k : Nat) (x : Core) : (s.setCore k x).llc = s.llc := rfl
@[simp] theorem State.setCore_dir (s : State) (k : Nat) (x : Core) : (s.setCore k x).dir = s.dir := rfl
@[simp] theorem State.setCore_tlb (s : State) (k : Nat) (x : Core) : (s.setCore k x).tlb = s.tlb := rfl
@[simp] theorem State.setCore_rev (s : State) (k : Nat) (x : Core) : (s.setCore k x).rev = s.rev := rfl
@[simp] theorem State.setCore_heat (s : State) (k : Nat) (x : Core) : (s.setCore k x).heat = s.heat := rfl
@[simp] theorem State.setCore_gal (s : State) (k : Nat) (x : Core) : (s.setCore k x).gal = s.gal := rfl
@[simp] theorem State.setCore_ring (s : State) (k : Nat) (x : Core) : (s.setCore k x).ring = s.ring := rfl
@[simp] theorem State.setCore_plat (s : State) (k : Nat) (x : Core) : (s.setCore k x).plat = s.plat := rfl
@[simp] theorem State.setCore_cycle (s : State) (k : Nat) (x : Core) : (s.setCore k x).cycle = s.cycle := rfl
@[simp] theorem State.setCore_who (s : State) (k : Nat) (x : Core) : (s.setCore k x).who = s.who := rfl
@[simp] theorem State.setCore_agenda (s : State) (k : Nat) (x : Core) : (s.setCore k x).agenda = s.agenda := rfl
@[simp] theorem State.setCore_free (s : State) (k : Nat) (x : Core) : (s.setCore k x).free = s.free := rfl
@[simp] theorem State.setCore_nextId (s : State) (k : Nat) (x : Core) : (s.setCore k x).nextId = s.nextId := rfl
@[simp] theorem State.setCore_kernelRings (s : State) (k : Nat) (x : Core) : (s.setCore k x).kernelRings = s.kernelRings := rfl

@[simp] theorem State.setCtx_groups (s : State) (k : Nat) (x : Ctx) : (s.setCtx k x).groups = s.groups := rfl
@[simp] theorem State.setCtx_teams (s : State) (k : Nat) (x : Ctx) : (s.setCtx k x).teams = s.teams := rfl
@[simp] theorem State.setCtx_cores (s : State) (k : Nat) (x : Ctx) : (s.setCtx k x).cores = s.cores := rfl
@[simp] theorem State.setCtx_tasks (s : State) (k : Nat) (x : Ctx) : (s.setCtx k x).tasks = s.tasks := rfl
@[simp] theorem State.setCtx_ops (s : State) (k : Nat) (x : Ctx) : (s.setCtx k x).ops = s.ops := rfl
@[simp] theorem State.setCtx_hbm (s : State) (k : Nat) (x : Ctx) : (s.setCtx k x).hbm = s.hbm := rfl
@[simp] theorem State.setCtx_cxl (s : State) (k : Nat) (x : Ctx) : (s.setCtx k x).cxl = s.cxl := rfl
@[simp] theorem State.setCtx_host (s : State) (k : Nat) (x : Ctx) : (s.setCtx k x).host = s.host := rfl
@[simp] theorem State.setCtx_memPoison (s : State) (k : Nat) (x : Ctx) : (s.setCtx k x).memPoison = s.memPoison := rfl
@[simp] theorem State.setCtx_noise (s : State) (k : Nat) (x : Ctx) : (s.setCtx k x).noise = s.noise := rfl
@[simp] theorem State.setCtx_comp (s : State) (k : Nat) (x : Ctx) : (s.setCtx k x).comp = s.comp := rfl
@[simp] theorem State.setCtx_llc (s : State) (k : Nat) (x : Ctx) : (s.setCtx k x).llc = s.llc := rfl
@[simp] theorem State.setCtx_dir (s : State) (k : Nat) (x : Ctx) : (s.setCtx k x).dir = s.dir := rfl
@[simp] theorem State.setCtx_tlb (s : State) (k : Nat) (x : Ctx) : (s.setCtx k x).tlb = s.tlb := rfl
@[simp] theorem State.setCtx_rev (s : State) (k : Nat) (x : Ctx) : (s.setCtx k x).rev = s.rev := rfl
@[simp] theorem State.setCtx_heat (s : State) (k : Nat) (x : Ctx) : (s.setCtx k x).heat = s.heat := rfl
@[simp] theorem State.setCtx_gal (s : State) (k : Nat) (x : Ctx) : (s.setCtx k x).gal = s.gal := rfl
@[simp] theorem State.setCtx_ring (s : State) (k : Nat) (x : Ctx) : (s.setCtx k x).ring = s.ring := rfl
@[simp] theorem State.setCtx_plat (s : State) (k : Nat) (x : Ctx) : (s.setCtx k x).plat = s.plat := rfl
@[simp] theorem State.setCtx_cycle (s : State) (k : Nat) (x : Ctx) : (s.setCtx k x).cycle = s.cycle := rfl
@[simp] theorem State.setCtx_who (s : State) (k : Nat) (x : Ctx) : (s.setCtx k x).who = s.who := rfl
@[simp] theorem State.setCtx_agenda (s : State) (k : Nat) (x : Ctx) : (s.setCtx k x).agenda = s.agenda := rfl
@[simp] theorem State.setCtx_free (s : State) (k : Nat) (x : Ctx) : (s.setCtx k x).free = s.free := rfl
@[simp] theorem State.setCtx_nextId (s : State) (k : Nat) (x : Ctx) : (s.setCtx k x).nextId = s.nextId := rfl
@[simp] theorem State.setCtx_kernelRings (s : State) (k : Nat) (x : Ctx) : (s.setCtx k x).kernelRings = s.kernelRings := rfl

@[simp] theorem State.setTask_groups (s : State) (k : Nat) (x : Task) : (s.setTask k x).groups = s.groups := rfl
@[simp] theorem State.setTask_teams (s : State) (k : Nat) (x : Task) : (s.setTask k x).teams = s.teams := rfl
@[simp] theorem State.setTask_cores (s : State) (k : Nat) (x : Task) : (s.setTask k x).cores = s.cores := rfl
@[simp] theorem State.setTask_ctxs (s : State) (k : Nat) (x : Task) : (s.setTask k x).ctxs = s.ctxs := rfl
@[simp] theorem State.setTask_ops (s : State) (k : Nat) (x : Task) : (s.setTask k x).ops = s.ops := rfl
@[simp] theorem State.setTask_hbm (s : State) (k : Nat) (x : Task) : (s.setTask k x).hbm = s.hbm := rfl
@[simp] theorem State.setTask_cxl (s : State) (k : Nat) (x : Task) : (s.setTask k x).cxl = s.cxl := rfl
@[simp] theorem State.setTask_host (s : State) (k : Nat) (x : Task) : (s.setTask k x).host = s.host := rfl
@[simp] theorem State.setTask_memPoison (s : State) (k : Nat) (x : Task) : (s.setTask k x).memPoison = s.memPoison := rfl
@[simp] theorem State.setTask_noise (s : State) (k : Nat) (x : Task) : (s.setTask k x).noise = s.noise := rfl
@[simp] theorem State.setTask_comp (s : State) (k : Nat) (x : Task) : (s.setTask k x).comp = s.comp := rfl
@[simp] theorem State.setTask_llc (s : State) (k : Nat) (x : Task) : (s.setTask k x).llc = s.llc := rfl
@[simp] theorem State.setTask_dir (s : State) (k : Nat) (x : Task) : (s.setTask k x).dir = s.dir := rfl
@[simp] theorem State.setTask_tlb (s : State) (k : Nat) (x : Task) : (s.setTask k x).tlb = s.tlb := rfl
@[simp] theorem State.setTask_rev (s : State) (k : Nat) (x : Task) : (s.setTask k x).rev = s.rev := rfl
@[simp] theorem State.setTask_heat (s : State) (k : Nat) (x : Task) : (s.setTask k x).heat = s.heat := rfl
@[simp] theorem State.setTask_gal (s : State) (k : Nat) (x : Task) : (s.setTask k x).gal = s.gal := rfl
@[simp] theorem State.setTask_ring (s : State) (k : Nat) (x : Task) : (s.setTask k x).ring = s.ring := rfl
@[simp] theorem State.setTask_plat (s : State) (k : Nat) (x : Task) : (s.setTask k x).plat = s.plat := rfl
@[simp] theorem State.setTask_cycle (s : State) (k : Nat) (x : Task) : (s.setTask k x).cycle = s.cycle := rfl
@[simp] theorem State.setTask_who (s : State) (k : Nat) (x : Task) : (s.setTask k x).who = s.who := rfl
@[simp] theorem State.setTask_agenda (s : State) (k : Nat) (x : Task) : (s.setTask k x).agenda = s.agenda := rfl
@[simp] theorem State.setTask_free (s : State) (k : Nat) (x : Task) : (s.setTask k x).free = s.free := rfl
@[simp] theorem State.setTask_nextId (s : State) (k : Nat) (x : Task) : (s.setTask k x).nextId = s.nextId := rfl
@[simp] theorem State.setTask_kernelRings (s : State) (k : Nat) (x : Task) : (s.setTask k x).kernelRings = s.kernelRings := rfl

@[simp] theorem State.setOp_groups (s : State) (x : EngOp) : (s.setOp x).groups = s.groups := rfl
@[simp] theorem State.setOp_teams (s : State) (x : EngOp) : (s.setOp x).teams = s.teams := rfl
@[simp] theorem State.setOp_cores (s : State) (x : EngOp) : (s.setOp x).cores = s.cores := rfl
@[simp] theorem State.setOp_ctxs (s : State) (x : EngOp) : (s.setOp x).ctxs = s.ctxs := rfl
@[simp] theorem State.setOp_tasks (s : State) (x : EngOp) : (s.setOp x).tasks = s.tasks := rfl
@[simp] theorem State.setOp_hbm (s : State) (x : EngOp) : (s.setOp x).hbm = s.hbm := rfl
@[simp] theorem State.setOp_cxl (s : State) (x : EngOp) : (s.setOp x).cxl = s.cxl := rfl
@[simp] theorem State.setOp_host (s : State) (x : EngOp) : (s.setOp x).host = s.host := rfl
@[simp] theorem State.setOp_memPoison (s : State) (x : EngOp) : (s.setOp x).memPoison = s.memPoison := rfl
@[simp] theorem State.setOp_noise (s : State) (x : EngOp) : (s.setOp x).noise = s.noise := rfl
@[simp] theorem State.setOp_comp (s : State) (x : EngOp) : (s.setOp x).comp = s.comp := rfl
@[simp] theorem State.setOp_llc (s : State) (x : EngOp) : (s.setOp x).llc = s.llc := rfl
@[simp] theorem State.setOp_dir (s : State) (x : EngOp) : (s.setOp x).dir = s.dir := rfl
@[simp] theorem State.setOp_tlb (s : State) (x : EngOp) : (s.setOp x).tlb = s.tlb := rfl
@[simp] theorem State.setOp_rev (s : State) (x : EngOp) : (s.setOp x).rev = s.rev := rfl
@[simp] theorem State.setOp_heat (s : State) (x : EngOp) : (s.setOp x).heat = s.heat := rfl
@[simp] theorem State.setOp_gal (s : State) (x : EngOp) : (s.setOp x).gal = s.gal := rfl
@[simp] theorem State.setOp_ring (s : State) (x : EngOp) : (s.setOp x).ring = s.ring := rfl
@[simp] theorem State.setOp_plat (s : State) (x : EngOp) : (s.setOp x).plat = s.plat := rfl
@[simp] theorem State.setOp_cycle (s : State) (x : EngOp) : (s.setOp x).cycle = s.cycle := rfl
@[simp] theorem State.setOp_who (s : State) (x : EngOp) : (s.setOp x).who = s.who := rfl
@[simp] theorem State.setOp_agenda (s : State) (x : EngOp) : (s.setOp x).agenda = s.agenda := rfl
@[simp] theorem State.setOp_free (s : State) (x : EngOp) : (s.setOp x).free = s.free := rfl
@[simp] theorem State.setOp_nextId (s : State) (x : EngOp) : (s.setOp x).nextId = s.nextId := rfl
@[simp] theorem State.setOp_kernelRings (s : State) (x : EngOp) : (s.setOp x).kernelRings = s.kernelRings := rfl

@[simp] theorem State.setCur_teams (s : State) (g : Group) : (s.setCur g).teams = s.teams := rfl
@[simp] theorem State.setCur_cores (s : State) (g : Group) : (s.setCur g).cores = s.cores := rfl
@[simp] theorem State.setCur_ctxs (s : State) (g : Group) : (s.setCur g).ctxs = s.ctxs := rfl
@[simp] theorem State.setCur_tasks (s : State) (g : Group) : (s.setCur g).tasks = s.tasks := rfl
@[simp] theorem State.setCur_ops (s : State) (g : Group) : (s.setCur g).ops = s.ops := rfl
@[simp] theorem State.setCur_hbm (s : State) (g : Group) : (s.setCur g).hbm = s.hbm := rfl
@[simp] theorem State.setCur_cxl (s : State) (g : Group) : (s.setCur g).cxl = s.cxl := rfl
@[simp] theorem State.setCur_host (s : State) (g : Group) : (s.setCur g).host = s.host := rfl
@[simp] theorem State.setCur_memPoison (s : State) (g : Group) : (s.setCur g).memPoison = s.memPoison := rfl
@[simp] theorem State.setCur_noise (s : State) (g : Group) : (s.setCur g).noise = s.noise := rfl
@[simp] theorem State.setCur_comp (s : State) (g : Group) : (s.setCur g).comp = s.comp := rfl
@[simp] theorem State.setCur_llc (s : State) (g : Group) : (s.setCur g).llc = s.llc := rfl
@[simp] theorem State.setCur_dir (s : State) (g : Group) : (s.setCur g).dir = s.dir := rfl
@[simp] theorem State.setCur_tlb (s : State) (g : Group) : (s.setCur g).tlb = s.tlb := rfl
@[simp] theorem State.setCur_rev (s : State) (g : Group) : (s.setCur g).rev = s.rev := rfl
@[simp] theorem State.setCur_heat (s : State) (g : Group) : (s.setCur g).heat = s.heat := rfl
@[simp] theorem State.setCur_gal (s : State) (g : Group) : (s.setCur g).gal = s.gal := rfl
@[simp] theorem State.setCur_ring (s : State) (g : Group) : (s.setCur g).ring = s.ring := rfl
@[simp] theorem State.setCur_plat (s : State) (g : Group) : (s.setCur g).plat = s.plat := rfl
@[simp] theorem State.setCur_cycle (s : State) (g : Group) : (s.setCur g).cycle = s.cycle := rfl
@[simp] theorem State.setCur_who (s : State) (g : Group) : (s.setCur g).who = s.who := rfl
@[simp] theorem State.setCur_agenda (s : State) (g : Group) : (s.setCur g).agenda = s.agenda := rfl
@[simp] theorem State.setCur_free (s : State) (g : Group) : (s.setCur g).free = s.free := rfl
@[simp] theorem State.setCur_nextId (s : State) (g : Group) : (s.setCur g).nextId = s.nextId := rfl
@[simp] theorem State.setCur_kernelRings (s : State) (g : Group) : (s.setCur g).kernelRings = s.kernelRings := rfl

theorem State.group_setGroup (s : State) (u v : Nat) (g : Group) : (s.setGroup u g).group v = if u = v then g else s.group v := by
  simp [State.group, State.setGroup, tgetD_tset]
@[simp] theorem State.group_setGroup_self (s : State) (u : Nat) (g : Group) : (s.setGroup u g).group u = g := by simp [State.group_setGroup]
theorem State.group_setGroup_ne (s : State) {u v : Nat} (g : Group) (h : u ≠ v) : (s.setGroup u g).group v = s.group v := by
  simp [State.group_setGroup, h]
theorem State.team_setTeam (s : State) (k j : Nat) (x : Team) : (s.setTeam k x).team j = if k = j then x else s.team j := by
  simp [State.team, State.setTeam, tgetD_tset]
@[simp] theorem State.team_setTeam_self (s : State) (k : Nat) (x : Team) : (s.setTeam k x).team k = x := by simp [State.team_setTeam]
theorem State.core_setCore (s : State) (k j : Nat) (x : Core) : (s.setCore k x).core j = if k = j then x else s.core j := by
  simp [State.core, State.setCore, tgetD_tset]
@[simp] theorem State.core_setCore_self (s : State) (k : Nat) (x : Core) : (s.setCore k x).core k = x := by simp [State.core_setCore]
theorem State.ctx_setCtx (s : State) (k j : Nat) (x : Ctx) : (s.setCtx k x).ctx j = if k = j then x else s.ctx j := by
  simp [State.ctx, State.setCtx, tgetD_tset]
@[simp] theorem State.ctx_setCtx_self (s : State) (k : Nat) (x : Ctx) : (s.setCtx k x).ctx k = x := by simp [State.ctx_setCtx]
theorem State.task_setTask (s : State) (k j : Nat) (x : Task) : (s.setTask k x).task j = if k = j then x else s.task j := by
  simp [State.task, State.setTask, tgetD_tset]
theorem State.op_setOp (s : State) (x : EngOp) (j : Nat) : (s.setOp x).op j = if x.id = j then some x else s.op j := by
  simp [State.op, State.setOp, tget_tset]

@[simp] theorem State.cur_setCur (s : State) (g : Group) : (s.setCur g).cur = g := by simp [State.cur, State.setCur]
@[simp] theorem State.setCur_setCur (s : State) (g h : Group) : (s.setCur g).setCur h = s.setCur h := by
  simp [State.setCur, State.setGroup, tset_tset]
@[simp] theorem State.setGroup_setGroup (s : State) (u : Nat) (g h : Group) : (s.setGroup u g).setGroup u h = s.setGroup u h := by
  simp [State.setGroup, tset_tset]
theorem State.setCur_eq (s : State) (g : Group) : s.setCur g = s.setGroup s.who g := rfl

@[simp] theorem State.setGroup_team_read (s : State) (u : Nat) (g : Group) (k : Nat) : (s.setGroup u g).team k = s.team k := rfl
@[simp] theorem State.setCur_team_read (s : State) (g : Group) (k : Nat) : (s.setCur g).team k = s.team k := rfl
@[simp] theorem State.setGroup_core_read (s : State) (u : Nat) (g : Group) (k : Nat) : (s.setGroup u g).core k = s.core k := rfl
@[simp] theorem State.setCur_core_read (s : State) (g : Group) (k : Nat) : (s.setCur g).core k = s.core k := rfl
@[simp] theorem State.setGroup_ctx_read (s : State) (u : Nat) (g : Group) (k : Nat) : (s.setGroup u g).ctx k = s.ctx k := rfl
@[simp] theorem State.setCur_ctx_read (s : State) (g : Group) (k : Nat) : (s.setCur g).ctx k = s.ctx k := rfl
@[simp] theorem State.setGroup_task_read (s : State) (u : Nat) (g : Group) (k : Nat) : (s.setGroup u g).task k = s.task k := rfl
@[simp] theorem State.setCur_task_read (s : State) (g : Group) (k : Nat) : (s.setCur g).task k = s.task k := rfl
@[simp] theorem State.setGroup_op_read (s : State) (u : Nat) (g : Group) (k : Nat) : (s.setGroup u g).op k = s.op k := rfl
@[simp] theorem State.setTeam_group_read (s : State) (k : Nat) (x : Team) (u : Nat) : (s.setTeam k x).group u = s.group u := rfl
@[simp] theorem State.setCtx_group_read (s : State) (k : Nat) (x : Ctx) (u : Nat) : (s.setCtx k x).group u = s.group u := rfl
@[simp] theorem State.setCore_group_read (s : State) (k : Nat) (x : Core) (u : Nat) : (s.setCore k x).group u = s.group u := rfl

@[simp] theorem Group.wv_status (g : Group) (n : Nat) (m : Lanes) (x : Nat → W32) : (g.wv n m x).status = g.status := rfl
@[simp] theorem Group.wv_team (g : Group) (n : Nat) (m : Lanes) (x : Nat → W32) : (g.wv n m x).team = g.team := rfl
@[simp] theorem Group.wv_gid (g : Group) (n : Nat) (m : Lanes) (x : Nat → W32) : (g.wv n m x).gid = g.gid := rfl
@[simp] theorem Group.wv_role (g : Group) (n : Nat) (m : Lanes) (x : Nat → W32) : (g.wv n m x).role = g.role := rfl
@[simp] theorem Group.wv_nv (g : Group) (n : Nat) (m : Lanes) (x : Nat → W32) : (g.wv n m x).nv = g.nv := rfl
@[simp] theorem Group.wv_nx (g : Group) (n : Nat) (m : Lanes) (x : Nat → W32) : (g.wv n m x).nx = g.nx := rfl
@[simp] theorem Group.wv_ns (g : Group) (n : Nat) (m : Lanes) (x : Nat → W32) : (g.wv n m x).ns = g.ns := rfl
@[simp] theorem Group.wv_na (g : Group) (n : Nat) (m : Lanes) (x : Nat → W32) : (g.wv n m x).na = g.na := rfl
@[simp] theorem Group.wv_x (g : Group) (n : Nat) (m : Lanes) (x : Nat → W32) : (g.wv n m x).x = g.x := rfl
@[simp] theorem Group.wv_xp (g : Group) (n : Nat) (m : Lanes) (x : Nat → W32) : (g.wv n m x).xp = g.xp := rfl
@[simp] theorem Group.wv_s (g : Group) (n : Nat) (m : Lanes) (x : Nat → W32) : (g.wv n m x).s = g.s := rfl
@[simp] theorem Group.wv_sp (g : Group) (n : Nat) (m : Lanes) (x : Nat → W32) : (g.wv n m x).sp = g.sp := rfl
@[simp] theorem Group.wv_bankU (g : Group) (n : Nat) (m : Lanes) (x : Nat → W32) : (g.wv n m x).bankU = g.bankU := rfl
@[simp] theorem Group.wv_bankS (g : Group) (n : Nat) (m : Lanes) (x : Nat → W32) : (g.wv n m x).bankS = g.bankS := rfl
@[simp] theorem Group.wv_bankP (g : Group) (n : Nat) (m : Lanes) (x : Nat → W32) : (g.wv n m x).bankP = g.bankP := rfl
@[simp] theorem Group.wv_tiles (g : Group) (n : Nat) (m : Lanes) (x : Nat → W32) : (g.wv n m x).tiles = g.tiles := rfl
@[simp] theorem Group.wv_tp (g : Group) (n : Nat) (m : Lanes) (x : Nat → W32) : (g.wv n m x).tp = g.tp := rfl
@[simp] theorem Group.wv_accs (g : Group) (n : Nat) (m : Lanes) (x : Nat → W32) : (g.wv n m x).accs = g.accs := rfl
@[simp] theorem Group.wv_cp (g : Group) (n : Nat) (m : Lanes) (x : Nat → W32) : (g.wv n m x).cp = g.cp := rfl
@[simp] theorem Group.wv_pc (g : Group) (n : Nat) (m : Lanes) (x : Nat → W32) : (g.wv n m x).pc = g.pc := rfl
@[simp] theorem Group.wv_resume (g : Group) (n : Nat) (m : Lanes) (x : Nat → W32) : (g.wv n m x).resume = g.resume := rfl
@[simp] theorem Group.wv_clause (g : Group) (n : Nat) (m : Lanes) (x : Nat → W32) : (g.wv n m x).clause = g.clause := rfl
@[simp] theorem Group.wv_waits (g : Group) (n : Nat) (m : Lanes) (x : Nat → W32) : (g.wv n m x).waits = g.waits := rfl
@[simp] theorem Group.wv_stack (g : Group) (n : Nat) (m : Lanes) (x : Nat → W32) : (g.wv n m x).stack = g.stack := rfl
@[simp] theorem Group.wv_exited (g : Group) (n : Nat) (m : Lanes) (x : Nat → W32) : (g.wv n m x).exited = g.exited := rfl
@[simp] theorem Group.wv_tids (g : Group) (n : Nat) (m : Lanes) (x : Nat → W32) : (g.wv n m x).tids = g.tids := rfl
@[simp] theorem Group.wv_widen (g : Group) (n : Nat) (m : Lanes) (x : Nat → W32) : (g.wv n m x).widen = g.widen := rfl
@[simp] theorem Group.wv_tokens (g : Group) (n : Nat) (m : Lanes) (x : Nat → W32) : (g.wv n m x).tokens = g.tokens := rfl
@[simp] theorem Group.wv_pend (g : Group) (n : Nat) (m : Lanes) (x : Nat → W32) : (g.wv n m x).pend = g.pend := rfl
@[simp] theorem Group.wv_moves (g : Group) (n : Nat) (m : Lanes) (x : Nat → W32) : (g.wv n m x).moves = g.moves := rfl
@[simp] theorem Group.wv_copies (g : Group) (n : Nat) (m : Lanes) (x : Nat → W32) : (g.wv n m x).copies = g.copies := rfl
@[simp] theorem Group.wv_xstat (g : Group) (n : Nat) (m : Lanes) (x : Nat → W32) : (g.wv n m x).xstat = g.xstat := rfl
@[simp] theorem Group.wv_gctl (g : Group) (n : Nat) (m : Lanes) (x : Nat → W32) : (g.wv n m x).gctl = g.gctl := rfl
@[simp] theorem Group.wv_gctlNext (g : Group) (n : Nat) (m : Lanes) (x : Nat → W32) : (g.wv n m x).gctlNext = g.gctlNext := rfl
@[simp] theorem Group.wv_mprog (g : Group) (n : Nat) (m : Lanes) (x : Nat → W32) : (g.wv n m x).mprog = g.mprog := rfl
@[simp] theorem Group.wv_pathq (g : Group) (n : Nat) (m : Lanes) (x : Nat → W32) : (g.wv n m x).pathq = g.pathq := rfl
@[simp] theorem Group.wv_pathCount (g : Group) (n : Nat) (m : Lanes) (x : Nat → W32) : (g.wv n m x).pathCount = g.pathCount := rfl
@[simp] theorem Group.wv_engseq (g : Group) (n : Nat) (m : Lanes) (x : Nat → W32) : (g.wv n m x).engseq = g.engseq := rfl
@[simp] theorem Group.wv_calls (g : Group) (n : Nat) (m : Lanes) (x : Nat → W32) : (g.wv n m x).calls = g.calls := rfl
@[simp] theorem Group.wv_key (g : Group) (n : Nat) (m : Lanes) (x : Nat → W32) : (g.wv n m x).key = g.key := rfl
@[simp] theorem Group.wv_mode (g : Group) (n : Nat) (m : Lanes) (x : Nat → W32) : (g.wv n m x).mode = g.mode := rfl
@[simp] theorem Group.wv_targ (g : Group) (n : Nat) (m : Lanes) (x : Nat → W32) : (g.wv n m x).targ = g.targ := rfl
@[simp] theorem Group.wv_cause (g : Group) (n : Nat) (m : Lanes) (x : Nat → W32) : (g.wv n m x).cause = g.cause := rfl
@[simp] theorem Group.wv_frameU (g : Group) (n : Nat) (m : Lanes) (x : Nat → W32) : (g.wv n m x).frameU = g.frameU := rfl
@[simp] theorem Group.wv_frameS (g : Group) (n : Nat) (m : Lanes) (x : Nat → W32) : (g.wv n m x).frameS = g.frameS := rfl
@[simp] theorem Group.wv_bpSkip (g : Group) (n : Nat) (m : Lanes) (x : Nat → W32) : (g.wv n m x).bpSkip = g.bpSkip := rfl
@[simp] theorem Group.wv_saved (g : Group) (n : Nat) (m : Lanes) (x : Nat → W32) : (g.wv n m x).saved = g.saved := rfl
@[simp] theorem Group.wv_staged (g : Group) (n : Nat) (m : Lanes) (x : Nat → W32) : (g.wv n m x).staged = g.staged := rfl
@[simp] theorem Group.wv_wait (g : Group) (n : Nat) (m : Lanes) (x : Nat → W32) : (g.wv n m x).wait = g.wait := rfl
@[simp] theorem Group.wv_armed (g : Group) (n : Nat) (m : Lanes) (x : Nat → W32) : (g.wv n m x).armed = g.armed := rfl
@[simp] theorem Group.wv_seed (g : Group) (n : Nat) (m : Lanes) (x : Nat → W32) : (g.wv n m x).seed = g.seed := rfl
@[simp] theorem Group.wv_ringOps (g : Group) (n : Nat) (m : Lanes) (x : Nat → W32) : (g.wv n m x).ringOps = g.ringOps := rfl
@[simp] theorem Group.wv_resv (g : Group) (n : Nat) (m : Lanes) (x : Nat → W32) : (g.wv n m x).resv = g.resv := rfl
@[simp] theorem Group.wv_norm (g : Group) (n : Nat) (m : Lanes) (x : Nat → W32) : (g.wv n m x).norm = g.norm := rfl
@[simp] theorem Group.wv_product (g : Group) (n : Nat) (m : Lanes) (x : Nat → W32) : (g.wv n m x).product = g.product := rfl
@[simp] theorem Group.wv_active (g : Group) (n : Nat) (m : Lanes) (x : Nat → W32) : (g.wv n m x).active = g.active := rfl
@[simp] theorem Group.wv_age (g : Group) (n : Nat) (m : Lanes) (x : Nat → W32) : (g.wv n m x).age = g.age := rfl
@[simp] theorem Group.wv_streak (g : Group) (n : Nat) (m : Lanes) (x : Nat → W32) : (g.wv n m x).streak = g.streak := rfl
@[simp] theorem Group.wv_yielded (g : Group) (n : Nat) (m : Lanes) (x : Nat → W32) : (g.wv n m x).yielded = g.yielded := rfl
@[simp] theorem Group.wv_readySince (g : Group) (n : Nat) (m : Lanes) (x : Nat → W32) : (g.wv n m x).readySince = g.readySince := rfl
@[simp] theorem Group.wv_mayIssue (g : Group) (n : Nat) (m : Lanes) (x : Nat → W32) : (g.wv n m x).mayIssue = g.mayIssue := rfl
@[simp] theorem Group.wv_fetchSince (g : Group) (n : Nat) (m : Lanes) (x : Nat → W32) : (g.wv n m x).fetchSince = g.fetchSince := rfl
@[simp] theorem Group.wv_fetchVa (g : Group) (n : Nat) (m : Lanes) (x : Nat → W32) : (g.wv n m x).fetchVa = g.fetchVa := rfl
@[simp] theorem Group.wv_fetchKind (g : Group) (n : Nat) (m : Lanes) (x : Nat → W32) : (g.wv n m x).fetchKind = g.fetchKind := rfl
@[simp] theorem Group.wv_fetchMig (g : Group) (n : Nat) (m : Lanes) (x : Nat → W32) : (g.wv n m x).fetchMig = g.fetchMig := rfl
@[simp] theorem Group.wv_issued (g : Group) (n : Nat) (m : Lanes) (x : Nat → W32) : (g.wv n m x).issued = g.issued := rfl

@[simp] theorem Group.wl_status (g : Group) (n l : Nat) (x : W32) (p : Bool) : (g.wl n l x p).status = g.status := rfl
@[simp] theorem Group.wl_team (g : Group) (n l : Nat) (x : W32) (p : Bool) : (g.wl n l x p).team = g.team := rfl
@[simp] theorem Group.wl_gid (g : Group) (n l : Nat) (x : W32) (p : Bool) : (g.wl n l x p).gid = g.gid := rfl
@[simp] theorem Group.wl_role (g : Group) (n l : Nat) (x : W32) (p : Bool) : (g.wl n l x p).role = g.role := rfl
@[simp] theorem Group.wl_nv (g : Group) (n l : Nat) (x : W32) (p : Bool) : (g.wl n l x p).nv = g.nv := rfl
@[simp] theorem Group.wl_nx (g : Group) (n l : Nat) (x : W32) (p : Bool) : (g.wl n l x p).nx = g.nx := rfl
@[simp] theorem Group.wl_ns (g : Group) (n l : Nat) (x : W32) (p : Bool) : (g.wl n l x p).ns = g.ns := rfl
@[simp] theorem Group.wl_na (g : Group) (n l : Nat) (x : W32) (p : Bool) : (g.wl n l x p).na = g.na := rfl
@[simp] theorem Group.wl_x (g : Group) (n l : Nat) (x : W32) (p : Bool) : (g.wl n l x p).x = g.x := rfl
@[simp] theorem Group.wl_xp (g : Group) (n l : Nat) (x : W32) (p : Bool) : (g.wl n l x p).xp = g.xp := rfl
@[simp] theorem Group.wl_s (g : Group) (n l : Nat) (x : W32) (p : Bool) : (g.wl n l x p).s = g.s := rfl
@[simp] theorem Group.wl_sp (g : Group) (n l : Nat) (x : W32) (p : Bool) : (g.wl n l x p).sp = g.sp := rfl
@[simp] theorem Group.wl_bankU (g : Group) (n l : Nat) (x : W32) (p : Bool) : (g.wl n l x p).bankU = g.bankU := rfl
@[simp] theorem Group.wl_bankS (g : Group) (n l : Nat) (x : W32) (p : Bool) : (g.wl n l x p).bankS = g.bankS := rfl
@[simp] theorem Group.wl_bankP (g : Group) (n l : Nat) (x : W32) (p : Bool) : (g.wl n l x p).bankP = g.bankP := rfl
@[simp] theorem Group.wl_tiles (g : Group) (n l : Nat) (x : W32) (p : Bool) : (g.wl n l x p).tiles = g.tiles := rfl
@[simp] theorem Group.wl_tp (g : Group) (n l : Nat) (x : W32) (p : Bool) : (g.wl n l x p).tp = g.tp := rfl
@[simp] theorem Group.wl_accs (g : Group) (n l : Nat) (x : W32) (p : Bool) : (g.wl n l x p).accs = g.accs := rfl
@[simp] theorem Group.wl_cp (g : Group) (n l : Nat) (x : W32) (p : Bool) : (g.wl n l x p).cp = g.cp := rfl
@[simp] theorem Group.wl_pc (g : Group) (n l : Nat) (x : W32) (p : Bool) : (g.wl n l x p).pc = g.pc := rfl
@[simp] theorem Group.wl_resume (g : Group) (n l : Nat) (x : W32) (p : Bool) : (g.wl n l x p).resume = g.resume := rfl
@[simp] theorem Group.wl_clause (g : Group) (n l : Nat) (x : W32) (p : Bool) : (g.wl n l x p).clause = g.clause := rfl
@[simp] theorem Group.wl_waits (g : Group) (n l : Nat) (x : W32) (p : Bool) : (g.wl n l x p).waits = g.waits := rfl
@[simp] theorem Group.wl_stack (g : Group) (n l : Nat) (x : W32) (p : Bool) : (g.wl n l x p).stack = g.stack := rfl
@[simp] theorem Group.wl_exited (g : Group) (n l : Nat) (x : W32) (p : Bool) : (g.wl n l x p).exited = g.exited := rfl
@[simp] theorem Group.wl_tids (g : Group) (n l : Nat) (x : W32) (p : Bool) : (g.wl n l x p).tids = g.tids := rfl
@[simp] theorem Group.wl_widen (g : Group) (n l : Nat) (x : W32) (p : Bool) : (g.wl n l x p).widen = g.widen := rfl
@[simp] theorem Group.wl_tokens (g : Group) (n l : Nat) (x : W32) (p : Bool) : (g.wl n l x p).tokens = g.tokens := rfl
@[simp] theorem Group.wl_pend (g : Group) (n l : Nat) (x : W32) (p : Bool) : (g.wl n l x p).pend = g.pend := rfl
@[simp] theorem Group.wl_moves (g : Group) (n l : Nat) (x : W32) (p : Bool) : (g.wl n l x p).moves = g.moves := rfl
@[simp] theorem Group.wl_copies (g : Group) (n l : Nat) (x : W32) (p : Bool) : (g.wl n l x p).copies = g.copies := rfl
@[simp] theorem Group.wl_xstat (g : Group) (n l : Nat) (x : W32) (p : Bool) : (g.wl n l x p).xstat = g.xstat := rfl
@[simp] theorem Group.wl_gctl (g : Group) (n l : Nat) (x : W32) (p : Bool) : (g.wl n l x p).gctl = g.gctl := rfl
@[simp] theorem Group.wl_gctlNext (g : Group) (n l : Nat) (x : W32) (p : Bool) : (g.wl n l x p).gctlNext = g.gctlNext := rfl
@[simp] theorem Group.wl_mprog (g : Group) (n l : Nat) (x : W32) (p : Bool) : (g.wl n l x p).mprog = g.mprog := rfl
@[simp] theorem Group.wl_pathq (g : Group) (n l : Nat) (x : W32) (p : Bool) : (g.wl n l x p).pathq = g.pathq := rfl
@[simp] theorem Group.wl_pathCount (g : Group) (n l : Nat) (x : W32) (p : Bool) : (g.wl n l x p).pathCount = g.pathCount := rfl
@[simp] theorem Group.wl_engseq (g : Group) (n l : Nat) (x : W32) (p : Bool) : (g.wl n l x p).engseq = g.engseq := rfl
@[simp] theorem Group.wl_calls (g : Group) (n l : Nat) (x : W32) (p : Bool) : (g.wl n l x p).calls = g.calls := rfl
@[simp] theorem Group.wl_key (g : Group) (n l : Nat) (x : W32) (p : Bool) : (g.wl n l x p).key = g.key := rfl
@[simp] theorem Group.wl_mode (g : Group) (n l : Nat) (x : W32) (p : Bool) : (g.wl n l x p).mode = g.mode := rfl
@[simp] theorem Group.wl_targ (g : Group) (n l : Nat) (x : W32) (p : Bool) : (g.wl n l x p).targ = g.targ := rfl
@[simp] theorem Group.wl_cause (g : Group) (n l : Nat) (x : W32) (p : Bool) : (g.wl n l x p).cause = g.cause := rfl
@[simp] theorem Group.wl_frameU (g : Group) (n l : Nat) (x : W32) (p : Bool) : (g.wl n l x p).frameU = g.frameU := rfl
@[simp] theorem Group.wl_frameS (g : Group) (n l : Nat) (x : W32) (p : Bool) : (g.wl n l x p).frameS = g.frameS := rfl
@[simp] theorem Group.wl_bpSkip (g : Group) (n l : Nat) (x : W32) (p : Bool) : (g.wl n l x p).bpSkip = g.bpSkip := rfl
@[simp] theorem Group.wl_saved (g : Group) (n l : Nat) (x : W32) (p : Bool) : (g.wl n l x p).saved = g.saved := rfl
@[simp] theorem Group.wl_staged (g : Group) (n l : Nat) (x : W32) (p : Bool) : (g.wl n l x p).staged = g.staged := rfl
@[simp] theorem Group.wl_wait (g : Group) (n l : Nat) (x : W32) (p : Bool) : (g.wl n l x p).wait = g.wait := rfl
@[simp] theorem Group.wl_armed (g : Group) (n l : Nat) (x : W32) (p : Bool) : (g.wl n l x p).armed = g.armed := rfl
@[simp] theorem Group.wl_seed (g : Group) (n l : Nat) (x : W32) (p : Bool) : (g.wl n l x p).seed = g.seed := rfl
@[simp] theorem Group.wl_ringOps (g : Group) (n l : Nat) (x : W32) (p : Bool) : (g.wl n l x p).ringOps = g.ringOps := rfl
@[simp] theorem Group.wl_resv (g : Group) (n l : Nat) (x : W32) (p : Bool) : (g.wl n l x p).resv = g.resv := rfl
@[simp] theorem Group.wl_norm (g : Group) (n l : Nat) (x : W32) (p : Bool) : (g.wl n l x p).norm = g.norm := rfl
@[simp] theorem Group.wl_product (g : Group) (n l : Nat) (x : W32) (p : Bool) : (g.wl n l x p).product = g.product := rfl
@[simp] theorem Group.wl_active (g : Group) (n l : Nat) (x : W32) (p : Bool) : (g.wl n l x p).active = g.active := rfl
@[simp] theorem Group.wl_age (g : Group) (n l : Nat) (x : W32) (p : Bool) : (g.wl n l x p).age = g.age := rfl
@[simp] theorem Group.wl_streak (g : Group) (n l : Nat) (x : W32) (p : Bool) : (g.wl n l x p).streak = g.streak := rfl
@[simp] theorem Group.wl_yielded (g : Group) (n l : Nat) (x : W32) (p : Bool) : (g.wl n l x p).yielded = g.yielded := rfl
@[simp] theorem Group.wl_readySince (g : Group) (n l : Nat) (x : W32) (p : Bool) : (g.wl n l x p).readySince = g.readySince := rfl
@[simp] theorem Group.wl_mayIssue (g : Group) (n l : Nat) (x : W32) (p : Bool) : (g.wl n l x p).mayIssue = g.mayIssue := rfl
@[simp] theorem Group.wl_fetchSince (g : Group) (n l : Nat) (x : W32) (p : Bool) : (g.wl n l x p).fetchSince = g.fetchSince := rfl
@[simp] theorem Group.wl_fetchVa (g : Group) (n l : Nat) (x : W32) (p : Bool) : (g.wl n l x p).fetchVa = g.fetchVa := rfl
@[simp] theorem Group.wl_fetchKind (g : Group) (n l : Nat) (x : W32) (p : Bool) : (g.wl n l x p).fetchKind = g.fetchKind := rfl
@[simp] theorem Group.wl_fetchMig (g : Group) (n l : Nat) (x : W32) (p : Bool) : (g.wl n l x p).fetchMig = g.fetchMig := rfl
@[simp] theorem Group.wl_issued (g : Group) (n l : Nat) (x : W32) (p : Bool) : (g.wl n l x p).issued = g.issued := rfl

@[simp] theorem Group.wx_status (g : Group) (n : Nat) (x : W64) : (g.wx n x).status = g.status := rfl
@[simp] theorem Group.wx_team (g : Group) (n : Nat) (x : W64) : (g.wx n x).team = g.team := rfl
@[simp] theorem Group.wx_gid (g : Group) (n : Nat) (x : W64) : (g.wx n x).gid = g.gid := rfl
@[simp] theorem Group.wx_role (g : Group) (n : Nat) (x : W64) : (g.wx n x).role = g.role := rfl
@[simp] theorem Group.wx_nv (g : Group) (n : Nat) (x : W64) : (g.wx n x).nv = g.nv := rfl
@[simp] theorem Group.wx_nx (g : Group) (n : Nat) (x : W64) : (g.wx n x).nx = g.nx := rfl
@[simp] theorem Group.wx_ns (g : Group) (n : Nat) (x : W64) : (g.wx n x).ns = g.ns := rfl
@[simp] theorem Group.wx_na (g : Group) (n : Nat) (x : W64) : (g.wx n x).na = g.na := rfl
@[simp] theorem Group.wx_v (g : Group) (n : Nat) (x : W64) : (g.wx n x).v = g.v := rfl
@[simp] theorem Group.wx_vp (g : Group) (n : Nat) (x : W64) : (g.wx n x).vp = g.vp := rfl
@[simp] theorem Group.wx_s (g : Group) (n : Nat) (x : W64) : (g.wx n x).s = g.s := rfl
@[simp] theorem Group.wx_sp (g : Group) (n : Nat) (x : W64) : (g.wx n x).sp = g.sp := rfl
@[simp] theorem Group.wx_bankU (g : Group) (n : Nat) (x : W64) : (g.wx n x).bankU = g.bankU := rfl
@[simp] theorem Group.wx_bankS (g : Group) (n : Nat) (x : W64) : (g.wx n x).bankS = g.bankS := rfl
@[simp] theorem Group.wx_bankP (g : Group) (n : Nat) (x : W64) : (g.wx n x).bankP = g.bankP := rfl
@[simp] theorem Group.wx_tiles (g : Group) (n : Nat) (x : W64) : (g.wx n x).tiles = g.tiles := rfl
@[simp] theorem Group.wx_tp (g : Group) (n : Nat) (x : W64) : (g.wx n x).tp = g.tp := rfl
@[simp] theorem Group.wx_accs (g : Group) (n : Nat) (x : W64) : (g.wx n x).accs = g.accs := rfl
@[simp] theorem Group.wx_cp (g : Group) (n : Nat) (x : W64) : (g.wx n x).cp = g.cp := rfl
@[simp] theorem Group.wx_pc (g : Group) (n : Nat) (x : W64) : (g.wx n x).pc = g.pc := rfl
@[simp] theorem Group.wx_resume (g : Group) (n : Nat) (x : W64) : (g.wx n x).resume = g.resume := rfl
@[simp] theorem Group.wx_clause (g : Group) (n : Nat) (x : W64) : (g.wx n x).clause = g.clause := rfl
@[simp] theorem Group.wx_waits (g : Group) (n : Nat) (x : W64) : (g.wx n x).waits = g.waits := rfl
@[simp] theorem Group.wx_stack (g : Group) (n : Nat) (x : W64) : (g.wx n x).stack = g.stack := rfl
@[simp] theorem Group.wx_exited (g : Group) (n : Nat) (x : W64) : (g.wx n x).exited = g.exited := rfl
@[simp] theorem Group.wx_tids (g : Group) (n : Nat) (x : W64) : (g.wx n x).tids = g.tids := rfl
@[simp] theorem Group.wx_widen (g : Group) (n : Nat) (x : W64) : (g.wx n x).widen = g.widen := rfl
@[simp] theorem Group.wx_tokens (g : Group) (n : Nat) (x : W64) : (g.wx n x).tokens = g.tokens := rfl
@[simp] theorem Group.wx_pend (g : Group) (n : Nat) (x : W64) : (g.wx n x).pend = g.pend := rfl
@[simp] theorem Group.wx_moves (g : Group) (n : Nat) (x : W64) : (g.wx n x).moves = g.moves := rfl
@[simp] theorem Group.wx_copies (g : Group) (n : Nat) (x : W64) : (g.wx n x).copies = g.copies := rfl
@[simp] theorem Group.wx_xstat (g : Group) (n : Nat) (x : W64) : (g.wx n x).xstat = g.xstat := rfl
@[simp] theorem Group.wx_gctl (g : Group) (n : Nat) (x : W64) : (g.wx n x).gctl = g.gctl := rfl
@[simp] theorem Group.wx_gctlNext (g : Group) (n : Nat) (x : W64) : (g.wx n x).gctlNext = g.gctlNext := rfl
@[simp] theorem Group.wx_mprog (g : Group) (n : Nat) (x : W64) : (g.wx n x).mprog = g.mprog := rfl
@[simp] theorem Group.wx_pathq (g : Group) (n : Nat) (x : W64) : (g.wx n x).pathq = g.pathq := rfl
@[simp] theorem Group.wx_pathCount (g : Group) (n : Nat) (x : W64) : (g.wx n x).pathCount = g.pathCount := rfl
@[simp] theorem Group.wx_engseq (g : Group) (n : Nat) (x : W64) : (g.wx n x).engseq = g.engseq := rfl
@[simp] theorem Group.wx_calls (g : Group) (n : Nat) (x : W64) : (g.wx n x).calls = g.calls := rfl
@[simp] theorem Group.wx_key (g : Group) (n : Nat) (x : W64) : (g.wx n x).key = g.key := rfl
@[simp] theorem Group.wx_mode (g : Group) (n : Nat) (x : W64) : (g.wx n x).mode = g.mode := rfl
@[simp] theorem Group.wx_targ (g : Group) (n : Nat) (x : W64) : (g.wx n x).targ = g.targ := rfl
@[simp] theorem Group.wx_cause (g : Group) (n : Nat) (x : W64) : (g.wx n x).cause = g.cause := rfl
@[simp] theorem Group.wx_frameU (g : Group) (n : Nat) (x : W64) : (g.wx n x).frameU = g.frameU := rfl
@[simp] theorem Group.wx_frameS (g : Group) (n : Nat) (x : W64) : (g.wx n x).frameS = g.frameS := rfl
@[simp] theorem Group.wx_bpSkip (g : Group) (n : Nat) (x : W64) : (g.wx n x).bpSkip = g.bpSkip := rfl
@[simp] theorem Group.wx_saved (g : Group) (n : Nat) (x : W64) : (g.wx n x).saved = g.saved := rfl
@[simp] theorem Group.wx_staged (g : Group) (n : Nat) (x : W64) : (g.wx n x).staged = g.staged := rfl
@[simp] theorem Group.wx_wait (g : Group) (n : Nat) (x : W64) : (g.wx n x).wait = g.wait := rfl
@[simp] theorem Group.wx_armed (g : Group) (n : Nat) (x : W64) : (g.wx n x).armed = g.armed := rfl
@[simp] theorem Group.wx_seed (g : Group) (n : Nat) (x : W64) : (g.wx n x).seed = g.seed := rfl
@[simp] theorem Group.wx_ringOps (g : Group) (n : Nat) (x : W64) : (g.wx n x).ringOps = g.ringOps := rfl
@[simp] theorem Group.wx_resv (g : Group) (n : Nat) (x : W64) : (g.wx n x).resv = g.resv := rfl
@[simp] theorem Group.wx_norm (g : Group) (n : Nat) (x : W64) : (g.wx n x).norm = g.norm := rfl
@[simp] theorem Group.wx_product (g : Group) (n : Nat) (x : W64) : (g.wx n x).product = g.product := rfl
@[simp] theorem Group.wx_active (g : Group) (n : Nat) (x : W64) : (g.wx n x).active = g.active := rfl
@[simp] theorem Group.wx_age (g : Group) (n : Nat) (x : W64) : (g.wx n x).age = g.age := rfl
@[simp] theorem Group.wx_streak (g : Group) (n : Nat) (x : W64) : (g.wx n x).streak = g.streak := rfl
@[simp] theorem Group.wx_yielded (g : Group) (n : Nat) (x : W64) : (g.wx n x).yielded = g.yielded := rfl
@[simp] theorem Group.wx_readySince (g : Group) (n : Nat) (x : W64) : (g.wx n x).readySince = g.readySince := rfl
@[simp] theorem Group.wx_mayIssue (g : Group) (n : Nat) (x : W64) : (g.wx n x).mayIssue = g.mayIssue := rfl
@[simp] theorem Group.wx_fetchSince (g : Group) (n : Nat) (x : W64) : (g.wx n x).fetchSince = g.fetchSince := rfl
@[simp] theorem Group.wx_fetchVa (g : Group) (n : Nat) (x : W64) : (g.wx n x).fetchVa = g.fetchVa := rfl
@[simp] theorem Group.wx_fetchKind (g : Group) (n : Nat) (x : W64) : (g.wx n x).fetchKind = g.fetchKind := rfl
@[simp] theorem Group.wx_fetchMig (g : Group) (n : Nat) (x : W64) : (g.wx n x).fetchMig = g.fetchMig := rfl
@[simp] theorem Group.wx_issued (g : Group) (n : Nat) (x : W64) : (g.wx n x).issued = g.issued := rfl

@[simp] theorem Group.wxb_status (g : Group) (n j : Nat) (x : Byte) (p : Bool) : (g.wxb n j x p).status = g.status := rfl
@[simp] theorem Group.wxb_team (g : Group) (n j : Nat) (x : Byte) (p : Bool) : (g.wxb n j x p).team = g.team := rfl
@[simp] theorem Group.wxb_gid (g : Group) (n j : Nat) (x : Byte) (p : Bool) : (g.wxb n j x p).gid = g.gid := rfl
@[simp] theorem Group.wxb_role (g : Group) (n j : Nat) (x : Byte) (p : Bool) : (g.wxb n j x p).role = g.role := rfl
@[simp] theorem Group.wxb_nv (g : Group) (n j : Nat) (x : Byte) (p : Bool) : (g.wxb n j x p).nv = g.nv := rfl
@[simp] theorem Group.wxb_nx (g : Group) (n j : Nat) (x : Byte) (p : Bool) : (g.wxb n j x p).nx = g.nx := rfl
@[simp] theorem Group.wxb_ns (g : Group) (n j : Nat) (x : Byte) (p : Bool) : (g.wxb n j x p).ns = g.ns := rfl
@[simp] theorem Group.wxb_na (g : Group) (n j : Nat) (x : Byte) (p : Bool) : (g.wxb n j x p).na = g.na := rfl
@[simp] theorem Group.wxb_v (g : Group) (n j : Nat) (x : Byte) (p : Bool) : (g.wxb n j x p).v = g.v := rfl
@[simp] theorem Group.wxb_vp (g : Group) (n j : Nat) (x : Byte) (p : Bool) : (g.wxb n j x p).vp = g.vp := rfl
@[simp] theorem Group.wxb_s (g : Group) (n j : Nat) (x : Byte) (p : Bool) : (g.wxb n j x p).s = g.s := rfl
@[simp] theorem Group.wxb_sp (g : Group) (n j : Nat) (x : Byte) (p : Bool) : (g.wxb n j x p).sp = g.sp := rfl
@[simp] theorem Group.wxb_bankU (g : Group) (n j : Nat) (x : Byte) (p : Bool) : (g.wxb n j x p).bankU = g.bankU := rfl
@[simp] theorem Group.wxb_bankS (g : Group) (n j : Nat) (x : Byte) (p : Bool) : (g.wxb n j x p).bankS = g.bankS := rfl
@[simp] theorem Group.wxb_bankP (g : Group) (n j : Nat) (x : Byte) (p : Bool) : (g.wxb n j x p).bankP = g.bankP := rfl
@[simp] theorem Group.wxb_tiles (g : Group) (n j : Nat) (x : Byte) (p : Bool) : (g.wxb n j x p).tiles = g.tiles := rfl
@[simp] theorem Group.wxb_tp (g : Group) (n j : Nat) (x : Byte) (p : Bool) : (g.wxb n j x p).tp = g.tp := rfl
@[simp] theorem Group.wxb_accs (g : Group) (n j : Nat) (x : Byte) (p : Bool) : (g.wxb n j x p).accs = g.accs := rfl
@[simp] theorem Group.wxb_cp (g : Group) (n j : Nat) (x : Byte) (p : Bool) : (g.wxb n j x p).cp = g.cp := rfl
@[simp] theorem Group.wxb_pc (g : Group) (n j : Nat) (x : Byte) (p : Bool) : (g.wxb n j x p).pc = g.pc := rfl
@[simp] theorem Group.wxb_resume (g : Group) (n j : Nat) (x : Byte) (p : Bool) : (g.wxb n j x p).resume = g.resume := rfl
@[simp] theorem Group.wxb_clause (g : Group) (n j : Nat) (x : Byte) (p : Bool) : (g.wxb n j x p).clause = g.clause := rfl
@[simp] theorem Group.wxb_waits (g : Group) (n j : Nat) (x : Byte) (p : Bool) : (g.wxb n j x p).waits = g.waits := rfl
@[simp] theorem Group.wxb_stack (g : Group) (n j : Nat) (x : Byte) (p : Bool) : (g.wxb n j x p).stack = g.stack := rfl
@[simp] theorem Group.wxb_exited (g : Group) (n j : Nat) (x : Byte) (p : Bool) : (g.wxb n j x p).exited = g.exited := rfl
@[simp] theorem Group.wxb_tids (g : Group) (n j : Nat) (x : Byte) (p : Bool) : (g.wxb n j x p).tids = g.tids := rfl
@[simp] theorem Group.wxb_widen (g : Group) (n j : Nat) (x : Byte) (p : Bool) : (g.wxb n j x p).widen = g.widen := rfl
@[simp] theorem Group.wxb_tokens (g : Group) (n j : Nat) (x : Byte) (p : Bool) : (g.wxb n j x p).tokens = g.tokens := rfl
@[simp] theorem Group.wxb_pend (g : Group) (n j : Nat) (x : Byte) (p : Bool) : (g.wxb n j x p).pend = g.pend := rfl
@[simp] theorem Group.wxb_moves (g : Group) (n j : Nat) (x : Byte) (p : Bool) : (g.wxb n j x p).moves = g.moves := rfl
@[simp] theorem Group.wxb_copies (g : Group) (n j : Nat) (x : Byte) (p : Bool) : (g.wxb n j x p).copies = g.copies := rfl
@[simp] theorem Group.wxb_xstat (g : Group) (n j : Nat) (x : Byte) (p : Bool) : (g.wxb n j x p).xstat = g.xstat := rfl
@[simp] theorem Group.wxb_gctl (g : Group) (n j : Nat) (x : Byte) (p : Bool) : (g.wxb n j x p).gctl = g.gctl := rfl
@[simp] theorem Group.wxb_gctlNext (g : Group) (n j : Nat) (x : Byte) (p : Bool) : (g.wxb n j x p).gctlNext = g.gctlNext := rfl
@[simp] theorem Group.wxb_mprog (g : Group) (n j : Nat) (x : Byte) (p : Bool) : (g.wxb n j x p).mprog = g.mprog := rfl
@[simp] theorem Group.wxb_pathq (g : Group) (n j : Nat) (x : Byte) (p : Bool) : (g.wxb n j x p).pathq = g.pathq := rfl
@[simp] theorem Group.wxb_pathCount (g : Group) (n j : Nat) (x : Byte) (p : Bool) : (g.wxb n j x p).pathCount = g.pathCount := rfl
@[simp] theorem Group.wxb_engseq (g : Group) (n j : Nat) (x : Byte) (p : Bool) : (g.wxb n j x p).engseq = g.engseq := rfl
@[simp] theorem Group.wxb_calls (g : Group) (n j : Nat) (x : Byte) (p : Bool) : (g.wxb n j x p).calls = g.calls := rfl
@[simp] theorem Group.wxb_key (g : Group) (n j : Nat) (x : Byte) (p : Bool) : (g.wxb n j x p).key = g.key := rfl
@[simp] theorem Group.wxb_mode (g : Group) (n j : Nat) (x : Byte) (p : Bool) : (g.wxb n j x p).mode = g.mode := rfl
@[simp] theorem Group.wxb_targ (g : Group) (n j : Nat) (x : Byte) (p : Bool) : (g.wxb n j x p).targ = g.targ := rfl
@[simp] theorem Group.wxb_cause (g : Group) (n j : Nat) (x : Byte) (p : Bool) : (g.wxb n j x p).cause = g.cause := rfl
@[simp] theorem Group.wxb_frameU (g : Group) (n j : Nat) (x : Byte) (p : Bool) : (g.wxb n j x p).frameU = g.frameU := rfl
@[simp] theorem Group.wxb_frameS (g : Group) (n j : Nat) (x : Byte) (p : Bool) : (g.wxb n j x p).frameS = g.frameS := rfl
@[simp] theorem Group.wxb_bpSkip (g : Group) (n j : Nat) (x : Byte) (p : Bool) : (g.wxb n j x p).bpSkip = g.bpSkip := rfl
@[simp] theorem Group.wxb_saved (g : Group) (n j : Nat) (x : Byte) (p : Bool) : (g.wxb n j x p).saved = g.saved := rfl
@[simp] theorem Group.wxb_staged (g : Group) (n j : Nat) (x : Byte) (p : Bool) : (g.wxb n j x p).staged = g.staged := rfl
@[simp] theorem Group.wxb_wait (g : Group) (n j : Nat) (x : Byte) (p : Bool) : (g.wxb n j x p).wait = g.wait := rfl
@[simp] theorem Group.wxb_armed (g : Group) (n j : Nat) (x : Byte) (p : Bool) : (g.wxb n j x p).armed = g.armed := rfl
@[simp] theorem Group.wxb_seed (g : Group) (n j : Nat) (x : Byte) (p : Bool) : (g.wxb n j x p).seed = g.seed := rfl
@[simp] theorem Group.wxb_ringOps (g : Group) (n j : Nat) (x : Byte) (p : Bool) : (g.wxb n j x p).ringOps = g.ringOps := rfl
@[simp] theorem Group.wxb_resv (g : Group) (n j : Nat) (x : Byte) (p : Bool) : (g.wxb n j x p).resv = g.resv := rfl
@[simp] theorem Group.wxb_norm (g : Group) (n j : Nat) (x : Byte) (p : Bool) : (g.wxb n j x p).norm = g.norm := rfl
@[simp] theorem Group.wxb_product (g : Group) (n j : Nat) (x : Byte) (p : Bool) : (g.wxb n j x p).product = g.product := rfl
@[simp] theorem Group.wxb_active (g : Group) (n j : Nat) (x : Byte) (p : Bool) : (g.wxb n j x p).active = g.active := rfl
@[simp] theorem Group.wxb_age (g : Group) (n j : Nat) (x : Byte) (p : Bool) : (g.wxb n j x p).age = g.age := rfl
@[simp] theorem Group.wxb_streak (g : Group) (n j : Nat) (x : Byte) (p : Bool) : (g.wxb n j x p).streak = g.streak := rfl
@[simp] theorem Group.wxb_yielded (g : Group) (n j : Nat) (x : Byte) (p : Bool) : (g.wxb n j x p).yielded = g.yielded := rfl
@[simp] theorem Group.wxb_readySince (g : Group) (n j : Nat) (x : Byte) (p : Bool) : (g.wxb n j x p).readySince = g.readySince := rfl
@[simp] theorem Group.wxb_mayIssue (g : Group) (n j : Nat) (x : Byte) (p : Bool) : (g.wxb n j x p).mayIssue = g.mayIssue := rfl
@[simp] theorem Group.wxb_fetchSince (g : Group) (n j : Nat) (x : Byte) (p : Bool) : (g.wxb n j x p).fetchSince = g.fetchSince := rfl
@[simp] theorem Group.wxb_fetchVa (g : Group) (n j : Nat) (x : Byte) (p : Bool) : (g.wxb n j x p).fetchVa = g.fetchVa := rfl
@[simp] theorem Group.wxb_fetchKind (g : Group) (n j : Nat) (x : Byte) (p : Bool) : (g.wxb n j x p).fetchKind = g.fetchKind := rfl
@[simp] theorem Group.wxb_fetchMig (g : Group) (n j : Nat) (x : Byte) (p : Bool) : (g.wxb n j x p).fetchMig = g.fetchMig := rfl
@[simp] theorem Group.wxb_issued (g : Group) (n j : Nat) (x : Byte) (p : Bool) : (g.wxb n j x p).issued = g.issued := rfl

@[simp] theorem Group.setTok_status (g : Group) (n : Nat) (t : Token) : (g.setTok n t).status = g.status := rfl
@[simp] theorem Group.setTok_team (g : Group) (n : Nat) (t : Token) : (g.setTok n t).team = g.team := rfl
@[simp] theorem Group.setTok_gid (g : Group) (n : Nat) (t : Token) : (g.setTok n t).gid = g.gid := rfl
@[simp] theorem Group.setTok_role (g : Group) (n : Nat) (t : Token) : (g.setTok n t).role = g.role := rfl
@[simp] theorem Group.setTok_nv (g : Group) (n : Nat) (t : Token) : (g.setTok n t).nv = g.nv := rfl
@[simp] theorem Group.setTok_nx (g : Group) (n : Nat) (t : Token) : (g.setTok n t).nx = g.nx := rfl
@[simp] theorem Group.setTok_ns (g : Group) (n : Nat) (t : Token) : (g.setTok n t).ns = g.ns := rfl
@[simp] theorem Group.setTok_na (g : Group) (n : Nat) (t : Token) : (g.setTok n t).na = g.na := rfl
@[simp] theorem Group.setTok_v (g : Group) (n : Nat) (t : Token) : (g.setTok n t).v = g.v := rfl
@[simp] theorem Group.setTok_vp (g : Group) (n : Nat) (t : Token) : (g.setTok n t).vp = g.vp := rfl
@[simp] theorem Group.setTok_x (g : Group) (n : Nat) (t : Token) : (g.setTok n t).x = g.x := rfl
@[simp] theorem Group.setTok_xp (g : Group) (n : Nat) (t : Token) : (g.setTok n t).xp = g.xp := rfl
@[simp] theorem Group.setTok_s (g : Group) (n : Nat) (t : Token) : (g.setTok n t).s = g.s := rfl
@[simp] theorem Group.setTok_sp (g : Group) (n : Nat) (t : Token) : (g.setTok n t).sp = g.sp := rfl
@[simp] theorem Group.setTok_bankU (g : Group) (n : Nat) (t : Token) : (g.setTok n t).bankU = g.bankU := rfl
@[simp] theorem Group.setTok_bankS (g : Group) (n : Nat) (t : Token) : (g.setTok n t).bankS = g.bankS := rfl
@[simp] theorem Group.setTok_bankP (g : Group) (n : Nat) (t : Token) : (g.setTok n t).bankP = g.bankP := rfl
@[simp] theorem Group.setTok_tiles (g : Group) (n : Nat) (t : Token) : (g.setTok n t).tiles = g.tiles := rfl
@[simp] theorem Group.setTok_tp (g : Group) (n : Nat) (t : Token) : (g.setTok n t).tp = g.tp := rfl
@[simp] theorem Group.setTok_accs (g : Group) (n : Nat) (t : Token) : (g.setTok n t).accs = g.accs := rfl
@[simp] theorem Group.setTok_cp (g : Group) (n : Nat) (t : Token) : (g.setTok n t).cp = g.cp := rfl
@[simp] theorem Group.setTok_pc (g : Group) (n : Nat) (t : Token) : (g.setTok n t).pc = g.pc := rfl
@[simp] theorem Group.setTok_resume (g : Group) (n : Nat) (t : Token) : (g.setTok n t).resume = g.resume := rfl
@[simp] theorem Group.setTok_clause (g : Group) (n : Nat) (t : Token) : (g.setTok n t).clause = g.clause := rfl
@[simp] theorem Group.setTok_waits (g : Group) (n : Nat) (t : Token) : (g.setTok n t).waits = g.waits := rfl
@[simp] theorem Group.setTok_stack (g : Group) (n : Nat) (t : Token) : (g.setTok n t).stack = g.stack := rfl
@[simp] theorem Group.setTok_exited (g : Group) (n : Nat) (t : Token) : (g.setTok n t).exited = g.exited := rfl
@[simp] theorem Group.setTok_tids (g : Group) (n : Nat) (t : Token) : (g.setTok n t).tids = g.tids := rfl
@[simp] theorem Group.setTok_widen (g : Group) (n : Nat) (t : Token) : (g.setTok n t).widen = g.widen := rfl
@[simp] theorem Group.setTok_pend (g : Group) (n : Nat) (t : Token) : (g.setTok n t).pend = g.pend := rfl
@[simp] theorem Group.setTok_moves (g : Group) (n : Nat) (t : Token) : (g.setTok n t).moves = g.moves := rfl
@[simp] theorem Group.setTok_copies (g : Group) (n : Nat) (t : Token) : (g.setTok n t).copies = g.copies := rfl
@[simp] theorem Group.setTok_xstat (g : Group) (n : Nat) (t : Token) : (g.setTok n t).xstat = g.xstat := rfl
@[simp] theorem Group.setTok_gctl (g : Group) (n : Nat) (t : Token) : (g.setTok n t).gctl = g.gctl := rfl
@[simp] theorem Group.setTok_gctlNext (g : Group) (n : Nat) (t : Token) : (g.setTok n t).gctlNext = g.gctlNext := rfl
@[simp] theorem Group.setTok_mprog (g : Group) (n : Nat) (t : Token) : (g.setTok n t).mprog = g.mprog := rfl
@[simp] theorem Group.setTok_pathq (g : Group) (n : Nat) (t : Token) : (g.setTok n t).pathq = g.pathq := rfl
@[simp] theorem Group.setTok_pathCount (g : Group) (n : Nat) (t : Token) : (g.setTok n t).pathCount = g.pathCount := rfl
@[simp] theorem Group.setTok_engseq (g : Group) (n : Nat) (t : Token) : (g.setTok n t).engseq = g.engseq := rfl
@[simp] theorem Group.setTok_calls (g : Group) (n : Nat) (t : Token) : (g.setTok n t).calls = g.calls := rfl
@[simp] theorem Group.setTok_key (g : Group) (n : Nat) (t : Token) : (g.setTok n t).key = g.key := rfl
@[simp] theorem Group.setTok_mode (g : Group) (n : Nat) (t : Token) : (g.setTok n t).mode = g.mode := rfl
@[simp] theorem Group.setTok_targ (g : Group) (n : Nat) (t : Token) : (g.setTok n t).targ = g.targ := rfl
@[simp] theorem Group.setTok_cause (g : Group) (n : Nat) (t : Token) : (g.setTok n t).cause = g.cause := rfl
@[simp] theorem Group.setTok_frameU (g : Group) (n : Nat) (t : Token) : (g.setTok n t).frameU = g.frameU := rfl
@[simp] theorem Group.setTok_frameS (g : Group) (n : Nat) (t : Token) : (g.setTok n t).frameS = g.frameS := rfl
@[simp] theorem Group.setTok_bpSkip (g : Group) (n : Nat) (t : Token) : (g.setTok n t).bpSkip = g.bpSkip := rfl
@[simp] theorem Group.setTok_saved (g : Group) (n : Nat) (t : Token) : (g.setTok n t).saved = g.saved := rfl
@[simp] theorem Group.setTok_staged (g : Group) (n : Nat) (t : Token) : (g.setTok n t).staged = g.staged := rfl
@[simp] theorem Group.setTok_wait (g : Group) (n : Nat) (t : Token) : (g.setTok n t).wait = g.wait := rfl
@[simp] theorem Group.setTok_armed (g : Group) (n : Nat) (t : Token) : (g.setTok n t).armed = g.armed := rfl
@[simp] theorem Group.setTok_seed (g : Group) (n : Nat) (t : Token) : (g.setTok n t).seed = g.seed := rfl
@[simp] theorem Group.setTok_ringOps (g : Group) (n : Nat) (t : Token) : (g.setTok n t).ringOps = g.ringOps := rfl
@[simp] theorem Group.setTok_resv (g : Group) (n : Nat) (t : Token) : (g.setTok n t).resv = g.resv := rfl
@[simp] theorem Group.setTok_norm (g : Group) (n : Nat) (t : Token) : (g.setTok n t).norm = g.norm := rfl
@[simp] theorem Group.setTok_product (g : Group) (n : Nat) (t : Token) : (g.setTok n t).product = g.product := rfl
@[simp] theorem Group.setTok_active (g : Group) (n : Nat) (t : Token) : (g.setTok n t).active = g.active := rfl
@[simp] theorem Group.setTok_age (g : Group) (n : Nat) (t : Token) : (g.setTok n t).age = g.age := rfl
@[simp] theorem Group.setTok_streak (g : Group) (n : Nat) (t : Token) : (g.setTok n t).streak = g.streak := rfl
@[simp] theorem Group.setTok_yielded (g : Group) (n : Nat) (t : Token) : (g.setTok n t).yielded = g.yielded := rfl
@[simp] theorem Group.setTok_readySince (g : Group) (n : Nat) (t : Token) : (g.setTok n t).readySince = g.readySince := rfl
@[simp] theorem Group.setTok_mayIssue (g : Group) (n : Nat) (t : Token) : (g.setTok n t).mayIssue = g.mayIssue := rfl
@[simp] theorem Group.setTok_fetchSince (g : Group) (n : Nat) (t : Token) : (g.setTok n t).fetchSince = g.fetchSince := rfl
@[simp] theorem Group.setTok_fetchVa (g : Group) (n : Nat) (t : Token) : (g.setTok n t).fetchVa = g.fetchVa := rfl
@[simp] theorem Group.setTok_fetchKind (g : Group) (n : Nat) (t : Token) : (g.setTok n t).fetchKind = g.fetchKind := rfl
@[simp] theorem Group.setTok_fetchMig (g : Group) (n : Nat) (t : Token) : (g.setTok n t).fetchMig = g.fetchMig := rfl
@[simp] theorem Group.setTok_issued (g : Group) (n : Nat) (t : Token) : (g.setTok n t).issued = g.issued := rfl

@[simp] theorem Group.flag_status (g : Group) (f : BitVec 3) : (g.flag f).status = g.status := rfl
@[simp] theorem Group.flag_team (g : Group) (f : BitVec 3) : (g.flag f).team = g.team := rfl
@[simp] theorem Group.flag_gid (g : Group) (f : BitVec 3) : (g.flag f).gid = g.gid := rfl
@[simp] theorem Group.flag_role (g : Group) (f : BitVec 3) : (g.flag f).role = g.role := rfl
@[simp] theorem Group.flag_nv (g : Group) (f : BitVec 3) : (g.flag f).nv = g.nv := rfl
@[simp] theorem Group.flag_nx (g : Group) (f : BitVec 3) : (g.flag f).nx = g.nx := rfl
@[simp] theorem Group.flag_ns (g : Group) (f : BitVec 3) : (g.flag f).ns = g.ns := rfl
@[simp] theorem Group.flag_na (g : Group) (f : BitVec 3) : (g.flag f).na = g.na := rfl
@[simp] theorem Group.flag_v (g : Group) (f : BitVec 3) : (g.flag f).v = g.v := rfl
@[simp] theorem Group.flag_vp (g : Group) (f : BitVec 3) : (g.flag f).vp = g.vp := rfl
@[simp] theorem Group.flag_x (g : Group) (f : BitVec 3) : (g.flag f).x = g.x := rfl
@[simp] theorem Group.flag_xp (g : Group) (f : BitVec 3) : (g.flag f).xp = g.xp := rfl
@[simp] theorem Group.flag_s (g : Group) (f : BitVec 3) : (g.flag f).s = g.s := rfl
@[simp] theorem Group.flag_sp (g : Group) (f : BitVec 3) : (g.flag f).sp = g.sp := rfl
@[simp] theorem Group.flag_bankU (g : Group) (f : BitVec 3) : (g.flag f).bankU = g.bankU := rfl
@[simp] theorem Group.flag_bankS (g : Group) (f : BitVec 3) : (g.flag f).bankS = g.bankS := rfl
@[simp] theorem Group.flag_bankP (g : Group) (f : BitVec 3) : (g.flag f).bankP = g.bankP := rfl
@[simp] theorem Group.flag_tiles (g : Group) (f : BitVec 3) : (g.flag f).tiles = g.tiles := rfl
@[simp] theorem Group.flag_tp (g : Group) (f : BitVec 3) : (g.flag f).tp = g.tp := rfl
@[simp] theorem Group.flag_accs (g : Group) (f : BitVec 3) : (g.flag f).accs = g.accs := rfl
@[simp] theorem Group.flag_cp (g : Group) (f : BitVec 3) : (g.flag f).cp = g.cp := rfl
@[simp] theorem Group.flag_pc (g : Group) (f : BitVec 3) : (g.flag f).pc = g.pc := rfl
@[simp] theorem Group.flag_resume (g : Group) (f : BitVec 3) : (g.flag f).resume = g.resume := rfl
@[simp] theorem Group.flag_clause (g : Group) (f : BitVec 3) : (g.flag f).clause = g.clause := rfl
@[simp] theorem Group.flag_waits (g : Group) (f : BitVec 3) : (g.flag f).waits = g.waits := rfl
@[simp] theorem Group.flag_stack (g : Group) (f : BitVec 3) : (g.flag f).stack = g.stack := rfl
@[simp] theorem Group.flag_exited (g : Group) (f : BitVec 3) : (g.flag f).exited = g.exited := rfl
@[simp] theorem Group.flag_tids (g : Group) (f : BitVec 3) : (g.flag f).tids = g.tids := rfl
@[simp] theorem Group.flag_widen (g : Group) (f : BitVec 3) : (g.flag f).widen = g.widen := rfl
@[simp] theorem Group.flag_tokens (g : Group) (f : BitVec 3) : (g.flag f).tokens = g.tokens := rfl
@[simp] theorem Group.flag_pend (g : Group) (f : BitVec 3) : (g.flag f).pend = g.pend := rfl
@[simp] theorem Group.flag_moves (g : Group) (f : BitVec 3) : (g.flag f).moves = g.moves := rfl
@[simp] theorem Group.flag_copies (g : Group) (f : BitVec 3) : (g.flag f).copies = g.copies := rfl
@[simp] theorem Group.flag_gctl (g : Group) (f : BitVec 3) : (g.flag f).gctl = g.gctl := rfl
@[simp] theorem Group.flag_gctlNext (g : Group) (f : BitVec 3) : (g.flag f).gctlNext = g.gctlNext := rfl
@[simp] theorem Group.flag_mprog (g : Group) (f : BitVec 3) : (g.flag f).mprog = g.mprog := rfl
@[simp] theorem Group.flag_pathq (g : Group) (f : BitVec 3) : (g.flag f).pathq = g.pathq := rfl
@[simp] theorem Group.flag_pathCount (g : Group) (f : BitVec 3) : (g.flag f).pathCount = g.pathCount := rfl
@[simp] theorem Group.flag_engseq (g : Group) (f : BitVec 3) : (g.flag f).engseq = g.engseq := rfl
@[simp] theorem Group.flag_calls (g : Group) (f : BitVec 3) : (g.flag f).calls = g.calls := rfl
@[simp] theorem Group.flag_key (g : Group) (f : BitVec 3) : (g.flag f).key = g.key := rfl
@[simp] theorem Group.flag_mode (g : Group) (f : BitVec 3) : (g.flag f).mode = g.mode := rfl
@[simp] theorem Group.flag_targ (g : Group) (f : BitVec 3) : (g.flag f).targ = g.targ := rfl
@[simp] theorem Group.flag_cause (g : Group) (f : BitVec 3) : (g.flag f).cause = g.cause := rfl
@[simp] theorem Group.flag_frameU (g : Group) (f : BitVec 3) : (g.flag f).frameU = g.frameU := rfl
@[simp] theorem Group.flag_frameS (g : Group) (f : BitVec 3) : (g.flag f).frameS = g.frameS := rfl
@[simp] theorem Group.flag_bpSkip (g : Group) (f : BitVec 3) : (g.flag f).bpSkip = g.bpSkip := rfl
@[simp] theorem Group.flag_saved (g : Group) (f : BitVec 3) : (g.flag f).saved = g.saved := rfl
@[simp] theorem Group.flag_staged (g : Group) (f : BitVec 3) : (g.flag f).staged = g.staged := rfl
@[simp] theorem Group.flag_wait (g : Group) (f : BitVec 3) : (g.flag f).wait = g.wait := rfl
@[simp] theorem Group.flag_armed (g : Group) (f : BitVec 3) : (g.flag f).armed = g.armed := rfl
@[simp] theorem Group.flag_seed (g : Group) (f : BitVec 3) : (g.flag f).seed = g.seed := rfl
@[simp] theorem Group.flag_ringOps (g : Group) (f : BitVec 3) : (g.flag f).ringOps = g.ringOps := rfl
@[simp] theorem Group.flag_resv (g : Group) (f : BitVec 3) : (g.flag f).resv = g.resv := rfl
@[simp] theorem Group.flag_norm (g : Group) (f : BitVec 3) : (g.flag f).norm = g.norm := rfl
@[simp] theorem Group.flag_product (g : Group) (f : BitVec 3) : (g.flag f).product = g.product := rfl
@[simp] theorem Group.flag_active (g : Group) (f : BitVec 3) : (g.flag f).active = g.active := rfl
@[simp] theorem Group.flag_age (g : Group) (f : BitVec 3) : (g.flag f).age = g.age := rfl
@[simp] theorem Group.flag_streak (g : Group) (f : BitVec 3) : (g.flag f).streak = g.streak := rfl
@[simp] theorem Group.flag_yielded (g : Group) (f : BitVec 3) : (g.flag f).yielded = g.yielded := rfl
@[simp] theorem Group.flag_readySince (g : Group) (f : BitVec 3) : (g.flag f).readySince = g.readySince := rfl
@[simp] theorem Group.flag_mayIssue (g : Group) (f : BitVec 3) : (g.flag f).mayIssue = g.mayIssue := rfl
@[simp] theorem Group.flag_fetchSince (g : Group) (f : BitVec 3) : (g.flag f).fetchSince = g.fetchSince := rfl
@[simp] theorem Group.flag_fetchVa (g : Group) (f : BitVec 3) : (g.flag f).fetchVa = g.fetchVa := rfl
@[simp] theorem Group.flag_fetchKind (g : Group) (f : BitVec 3) : (g.flag f).fetchKind = g.fetchKind := rfl
@[simp] theorem Group.flag_fetchMig (g : Group) (f : BitVec 3) : (g.flag f).fetchMig = g.fetchMig := rfl
@[simp] theorem Group.flag_issued (g : Group) (f : BitVec 3) : (g.flag f).issued = g.issued := rfl

@[simp] theorem Group.ws_status (g : Group) (n : Nat) (x : W32) : (g.ws n x).status = g.status := by unfold Group.ws; repeat (first | rfl | split)
@[simp] theorem Group.ws_team (g : Group) (n : Nat) (x : W32) : (g.ws n x).team = g.team := by unfold Group.ws; repeat (first | rfl | split)
@[simp] theorem Group.ws_gid (g : Group) (n : Nat) (x : W32) : (g.ws n x).gid = g.gid := by unfold Group.ws; repeat (first | rfl | split)
@[simp] theorem Group.ws_role (g : Group) (n : Nat) (x : W32) : (g.ws n x).role = g.role := by unfold Group.ws; repeat (first | rfl | split)
@[simp] theorem Group.ws_nv (g : Group) (n : Nat) (x : W32) : (g.ws n x).nv = g.nv := by unfold Group.ws; repeat (first | rfl | split)
@[simp] theorem Group.ws_nx (g : Group) (n : Nat) (x : W32) : (g.ws n x).nx = g.nx := by unfold Group.ws; repeat (first | rfl | split)
@[simp] theorem Group.ws_ns (g : Group) (n : Nat) (x : W32) : (g.ws n x).ns = g.ns := by unfold Group.ws; repeat (first | rfl | split)
@[simp] theorem Group.ws_na (g : Group) (n : Nat) (x : W32) : (g.ws n x).na = g.na := by unfold Group.ws; repeat (first | rfl | split)
@[simp] theorem Group.ws_v (g : Group) (n : Nat) (x : W32) : (g.ws n x).v = g.v := by unfold Group.ws; repeat (first | rfl | split)
@[simp] theorem Group.ws_vp (g : Group) (n : Nat) (x : W32) : (g.ws n x).vp = g.vp := by unfold Group.ws; repeat (first | rfl | split)
@[simp] theorem Group.ws_x (g : Group) (n : Nat) (x : W32) : (g.ws n x).x = g.x := by unfold Group.ws; repeat (first | rfl | split)
@[simp] theorem Group.ws_xp (g : Group) (n : Nat) (x : W32) : (g.ws n x).xp = g.xp := by unfold Group.ws; repeat (first | rfl | split)
@[simp] theorem Group.ws_tiles (g : Group) (n : Nat) (x : W32) : (g.ws n x).tiles = g.tiles := by unfold Group.ws; repeat (first | rfl | split)
@[simp] theorem Group.ws_tp (g : Group) (n : Nat) (x : W32) : (g.ws n x).tp = g.tp := by unfold Group.ws; repeat (first | rfl | split)
@[simp] theorem Group.ws_accs (g : Group) (n : Nat) (x : W32) : (g.ws n x).accs = g.accs := by unfold Group.ws; repeat (first | rfl | split)
@[simp] theorem Group.ws_cp (g : Group) (n : Nat) (x : W32) : (g.ws n x).cp = g.cp := by unfold Group.ws; repeat (first | rfl | split)
@[simp] theorem Group.ws_pc (g : Group) (n : Nat) (x : W32) : (g.ws n x).pc = g.pc := by unfold Group.ws; repeat (first | rfl | split)
@[simp] theorem Group.ws_resume (g : Group) (n : Nat) (x : W32) : (g.ws n x).resume = g.resume := by unfold Group.ws; repeat (first | rfl | split)
@[simp] theorem Group.ws_clause (g : Group) (n : Nat) (x : W32) : (g.ws n x).clause = g.clause := by unfold Group.ws; repeat (first | rfl | split)
@[simp] theorem Group.ws_waits (g : Group) (n : Nat) (x : W32) : (g.ws n x).waits = g.waits := by unfold Group.ws; repeat (first | rfl | split)
@[simp] theorem Group.ws_stack (g : Group) (n : Nat) (x : W32) : (g.ws n x).stack = g.stack := by unfold Group.ws; repeat (first | rfl | split)
@[simp] theorem Group.ws_exited (g : Group) (n : Nat) (x : W32) : (g.ws n x).exited = g.exited := by unfold Group.ws; repeat (first | rfl | split)
@[simp] theorem Group.ws_tids (g : Group) (n : Nat) (x : W32) : (g.ws n x).tids = g.tids := by unfold Group.ws; repeat (first | rfl | split)
@[simp] theorem Group.ws_widen (g : Group) (n : Nat) (x : W32) : (g.ws n x).widen = g.widen := by unfold Group.ws; repeat (first | rfl | split)
@[simp] theorem Group.ws_tokens (g : Group) (n : Nat) (x : W32) : (g.ws n x).tokens = g.tokens := by unfold Group.ws; repeat (first | rfl | split)
@[simp] theorem Group.ws_pend (g : Group) (n : Nat) (x : W32) : (g.ws n x).pend = g.pend := by unfold Group.ws; repeat (first | rfl | split)
@[simp] theorem Group.ws_moves (g : Group) (n : Nat) (x : W32) : (g.ws n x).moves = g.moves := by unfold Group.ws; repeat (first | rfl | split)
@[simp] theorem Group.ws_copies (g : Group) (n : Nat) (x : W32) : (g.ws n x).copies = g.copies := by unfold Group.ws; repeat (first | rfl | split)
@[simp] theorem Group.ws_xstat (g : Group) (n : Nat) (x : W32) : (g.ws n x).xstat = g.xstat := by unfold Group.ws; repeat (first | rfl | split)
@[simp] theorem Group.ws_gctl (g : Group) (n : Nat) (x : W32) : (g.ws n x).gctl = g.gctl := by unfold Group.ws; repeat (first | rfl | split)
@[simp] theorem Group.ws_gctlNext (g : Group) (n : Nat) (x : W32) : (g.ws n x).gctlNext = g.gctlNext := by unfold Group.ws; repeat (first | rfl | split)
@[simp] theorem Group.ws_mprog (g : Group) (n : Nat) (x : W32) : (g.ws n x).mprog = g.mprog := by unfold Group.ws; repeat (first | rfl | split)
@[simp] theorem Group.ws_pathq (g : Group) (n : Nat) (x : W32) : (g.ws n x).pathq = g.pathq := by unfold Group.ws; repeat (first | rfl | split)
@[simp] theorem Group.ws_pathCount (g : Group) (n : Nat) (x : W32) : (g.ws n x).pathCount = g.pathCount := by unfold Group.ws; repeat (first | rfl | split)
@[simp] theorem Group.ws_engseq (g : Group) (n : Nat) (x : W32) : (g.ws n x).engseq = g.engseq := by unfold Group.ws; repeat (first | rfl | split)
@[simp] theorem Group.ws_calls (g : Group) (n : Nat) (x : W32) : (g.ws n x).calls = g.calls := by unfold Group.ws; repeat (first | rfl | split)
@[simp] theorem Group.ws_key (g : Group) (n : Nat) (x : W32) : (g.ws n x).key = g.key := by unfold Group.ws; repeat (first | rfl | split)
@[simp] theorem Group.ws_mode (g : Group) (n : Nat) (x : W32) : (g.ws n x).mode = g.mode := by unfold Group.ws; repeat (first | rfl | split)
@[simp] theorem Group.ws_targ (g : Group) (n : Nat) (x : W32) : (g.ws n x).targ = g.targ := by unfold Group.ws; repeat (first | rfl | split)
@[simp] theorem Group.ws_cause (g : Group) (n : Nat) (x : W32) : (g.ws n x).cause = g.cause := by unfold Group.ws; repeat (first | rfl | split)
@[simp] theorem Group.ws_frameU (g : Group) (n : Nat) (x : W32) : (g.ws n x).frameU = g.frameU := by unfold Group.ws; repeat (first | rfl | split)
@[simp] theorem Group.ws_frameS (g : Group) (n : Nat) (x : W32) : (g.ws n x).frameS = g.frameS := by unfold Group.ws; repeat (first | rfl | split)
@[simp] theorem Group.ws_bpSkip (g : Group) (n : Nat) (x : W32) : (g.ws n x).bpSkip = g.bpSkip := by unfold Group.ws; repeat (first | rfl | split)
@[simp] theorem Group.ws_saved (g : Group) (n : Nat) (x : W32) : (g.ws n x).saved = g.saved := by unfold Group.ws; repeat (first | rfl | split)
@[simp] theorem Group.ws_staged (g : Group) (n : Nat) (x : W32) : (g.ws n x).staged = g.staged := by unfold Group.ws; repeat (first | rfl | split)
@[simp] theorem Group.ws_wait (g : Group) (n : Nat) (x : W32) : (g.ws n x).wait = g.wait := by unfold Group.ws; repeat (first | rfl | split)
@[simp] theorem Group.ws_armed (g : Group) (n : Nat) (x : W32) : (g.ws n x).armed = g.armed := by unfold Group.ws; repeat (first | rfl | split)
@[simp] theorem Group.ws_seed (g : Group) (n : Nat) (x : W32) : (g.ws n x).seed = g.seed := by unfold Group.ws; repeat (first | rfl | split)
@[simp] theorem Group.ws_ringOps (g : Group) (n : Nat) (x : W32) : (g.ws n x).ringOps = g.ringOps := by unfold Group.ws; repeat (first | rfl | split)
@[simp] theorem Group.ws_resv (g : Group) (n : Nat) (x : W32) : (g.ws n x).resv = g.resv := by unfold Group.ws; repeat (first | rfl | split)
@[simp] theorem Group.ws_norm (g : Group) (n : Nat) (x : W32) : (g.ws n x).norm = g.norm := by unfold Group.ws; repeat (first | rfl | split)
@[simp] theorem Group.ws_product (g : Group) (n : Nat) (x : W32) : (g.ws n x).product = g.product := by unfold Group.ws; repeat (first | rfl | split)
@[simp] theorem Group.ws_active (g : Group) (n : Nat) (x : W32) : (g.ws n x).active = g.active := by unfold Group.ws; repeat (first | rfl | split)
@[simp] theorem Group.ws_age (g : Group) (n : Nat) (x : W32) : (g.ws n x).age = g.age := by unfold Group.ws; repeat (first | rfl | split)
@[simp] theorem Group.ws_streak (g : Group) (n : Nat) (x : W32) : (g.ws n x).streak = g.streak := by unfold Group.ws; repeat (first | rfl | split)
@[simp] theorem Group.ws_yielded (g : Group) (n : Nat) (x : W32) : (g.ws n x).yielded = g.yielded := by unfold Group.ws; repeat (first | rfl | split)
@[simp] theorem Group.ws_readySince (g : Group) (n : Nat) (x : W32) : (g.ws n x).readySince = g.readySince := by unfold Group.ws; repeat (first | rfl | split)
@[simp] theorem Group.ws_mayIssue (g : Group) (n : Nat) (x : W32) : (g.ws n x).mayIssue = g.mayIssue := by unfold Group.ws; repeat (first | rfl | split)
@[simp] theorem Group.ws_fetchSince (g : Group) (n : Nat) (x : W32) : (g.ws n x).fetchSince = g.fetchSince := by unfold Group.ws; repeat (first | rfl | split)
@[simp] theorem Group.ws_fetchVa (g : Group) (n : Nat) (x : W32) : (g.ws n x).fetchVa = g.fetchVa := by unfold Group.ws; repeat (first | rfl | split)
@[simp] theorem Group.ws_fetchKind (g : Group) (n : Nat) (x : W32) : (g.ws n x).fetchKind = g.fetchKind := by unfold Group.ws; repeat (first | rfl | split)
@[simp] theorem Group.ws_fetchMig (g : Group) (n : Nat) (x : W32) : (g.ws n x).fetchMig = g.fetchMig := by unfold Group.ws; repeat (first | rfl | split)
@[simp] theorem Group.ws_issued (g : Group) (n : Nat) (x : W32) : (g.ws n x).issued = g.issued := by unfold Group.ws; repeat (first | rfl | split)

end Sys2Proof.Machine
end

