-- ==== Sys2Proof/Laws/Issue.lean ====
section
/-! SUPPORT. What the issue of an instruction word can answer: one lemma for each outcome of its effect. -/

namespace Sys2Proof.Machine

@[simp] theorem Group.issuing_status (g : Group) : g.issuing.status = g.status := rfl
@[simp] theorem Group.issuing_clause (g : Group) : g.issuing.clause = g.clause := rfl
@[simp] theorem Group.issuing_mask (g : Group) : g.issuing.mask = g.mask := rfl
@[simp] theorem Group.issuing_rs (g : Group) (n : Nat) : g.issuing.rs n = g.rs n := rfl
@[simp] theorem Group.issuing_rv (g : Group) (n : Nat) : g.issuing.rv n = g.rv n := rfl
@[simp] theorem Group.issuing_rl (g : Group) (n l : Nat) : g.issuing.rl n l = g.rl n l := rfl
@[simp] theorem Group.issuing_rx (g : Group) (n : Nat) : g.issuing.rx n = g.rx n := rfl
@[simp] theorem Group.issuing_rpair (g : Group) (n : Nat) : g.issuing.rpair n = g.rpair n := rfl
@[simp] theorem Group.issuing_pred (g : Group) (p : Nat × Bool) : g.issuing.pred p = g.pred p := rfl
@[simp] theorem Group.issuing_active (g : Group) (p : Nat × Bool) : g.issuing.active' p = g.active' p := rfl
@[simp] theorem Group.issuing_team (g : Group) : g.issuing.team = g.team := rfl
@[simp] theorem Group.issuing_gid (g : Group) : g.issuing.gid = g.gid := rfl
@[simp] theorem Group.issuing_pc (g : Group) : g.issuing.pc = g.pc := rfl
@[simp] theorem Group.issuing_mode (g : Group) : g.issuing.mode = g.mode := rfl

/-- The word of a group that may issue it: what its effect answers is what the step answers. -/
theorem issue_passed {i : Info} {s : State} {c : Clause} (h : AtWord s c) (hc : checkWord i s.cur c = none)
    (hp : readsPoison i s.cur = false) (illegal poison : State → Group → Bool) (hi : illegal s s.cur = false)
    (hq : poison s s.cur = false) (eff : State → Group → Eff) :
    issue i illegal poison eff s =
      match eff (s.setCur s.cur.issuing) s.cur.issuing with
      | .done s2 => .next (advance s2 s.who c)
      | .goto s2 pc => .next (if (s2.group s.who).status == .live then s2.setGroup s.who ((s2.group s.who).endClause c pc) else s2)
      | .stall s2 => .next (s2.setGroup s.who { s2.group s.who with pathCount := s.cur.pathCount, issued := s.cur.issued || (s2.group s.who).product.isSome })
      | .trap cause targ => .next (s.trap s.who cause targ (wordPc s.cur c) (resumeHere s.cur c))
      | .fail s2 cause targ => .next ((s2.setCur s.cur).trap s.who cause targ (wordPc s.cur c) (resumeHere s.cur c))
      | .soft s2 cause targ => .next (s2.trap s.who cause targ (wordPc s.cur c)
          (if c.idx + 1 < c.words.length then ⟨s.cur.pc, true, c.idx + 1, c.words.length⟩ else ⟨nextHeader s.cur c, false, 0, c.words.length⟩))
      | .kill cause => .next (s.kill s.who cause (wordPc s.cur c))
      | .leave s2 => .next s2 := by
  obtain ⟨h1, h2, h3, h4⟩ := h
  simp only [issue, h1, h2, h3, h4, hc, hp, hi, hq, resumeHere, Bool.or_self, Bool.false_eq_true, if_false]
  rw [State.cur_setCur]
  all_goals rfl

/-- A word that fails a check kills its group with the cause of the first check that fails (09 R101). -/
theorem issue_kills {i : Info} {s : State} {c : Clause} (h : AtWord s c) {cause : Nat} (hc : checkWord i s.cur c = some cause)
    (illegal poison : State → Group → Bool) (eff : State → Group → Eff) :
    issue i illegal poison eff s = .next (s.kill s.who cause (wordPc s.cur c)) := by
  obtain ⟨h1, h2, h3, h4⟩ := h
  simp [issue, h1, h2, h3, h4, hc]

/-- A word that passes its checks and is no illegal use traps where it reads poison (05 R49, 09 R101). -/
theorem issue_poisoned {i : Info} {s : State} {c : Clause} (h : AtWord s c) (hc : checkWord i s.cur c = none)
    (illegal poison : State → Group → Bool) (hi : illegal s s.cur = false) (hp : (readsPoison i s.cur || poison s s.cur) = true)
    (eff : State → Group → Eff) :
    issue i illegal poison eff s = .next (s.trap s.who causePoison 0 (wordPc s.cur c) (resumeHere s.cur c)) := by
  obtain ⟨h1, h2, h3, h4⟩ := h
  simp [issue, h1, h2, h3, h4, hc, hi, hp, resumeHere]

/-- An illegal use that an instruction's own description names kills its group (09 R101). -/
theorem issue_illegal {i : Info} {s : State} {c : Clause} (h : AtWord s c) (hc : checkWord i s.cur c = none)
    (illegal poison : State → Group → Bool) (hi : illegal s s.cur = true) (eff : State → Group → Eff) :
    issue i illegal poison eff s = .next (s.kill s.who causeIllegal (wordPc s.cur c)) := by
  obtain ⟨h1, h2, h3, h4⟩ := h
  simp [issue, h1, h2, h3, h4, hc, hi]

/-- The issue of a word always answers a next state. -/
theorem issue_next (i : Info) (illegal poison : State → Group → Bool) (eff : State → Group → Eff) (s : State) :
    ∃ t, issue i illegal poison eff s = .next t := by
  unfold issue
  dsimp only
  repeat' split
  all_goals exact ⟨_, rfl⟩

/-- An effect on the issuing group alone (09 R82). -/
theorem issue_onGroup {i : Info} {s : State} {c : Clause} (h : AtWord s c) (hc : checkWord i s.cur c = none)
    (hp : readsPoison i s.cur = false) (f : Group → Group) :
    issue i never never (onGroup f) s = .next (s.past c (f s.cur.issuing)) := by
  rw [issue_passed h hc hp never never rfl rfl]
  simp [onGroup, State.past]

/-- An effect that needs some lane of ACTIVE, where ACTIVE is non-empty. -/
theorem whenActive_on {i : Info} {f : State → Group → Eff} {s : State} {g : Group} (h : g.active' i.pred ≠ 0) : whenActive i f s g = f s g :=
  if_neg h

/-- The same where ACTIVE is empty: no effect. -/
theorem whenActive_off {i : Info} {f : State → Group → Eff} {s : State} {g : Group} (h : g.active' i.pred = 0) : whenActive i f s g = .done s :=
  if_pos h

/-- An effect on the issuing group alone that happens only when ACTIVE is non-empty (03 R34). -/
theorem issue_whenActive {i : Info} {s : State} {c : Clause} (h : AtWord s c) (hc : checkWord i s.cur c = none)
    (hp : readsPoison i s.cur = false) (f : Group → Group) :
    issue i never never (whenActive i (onGroup f)) s =
      .next (s.past c (if s.cur.active' i.pred = 0 then s.cur.issuing else f s.cur.issuing)) := by
  rw [issue_passed h hc hp never never rfl rfl]
  by_cases h0 : s.cur.active' i.pred = 0
  · rw [whenActive_off (by rwa [Group.issuing_active]), if_pos h0]; rfl
  · rw [whenActive_on (by rwa [Group.issuing_active]), if_neg h0]
    simp only [onGroup, State.setCur_setCur]; rfl

/-- The word's effect is taken and its clause goes on. -/
theorem issue_done {i : Info} {s s2 : State} {c : Clause} (h : AtWord s c) (hc : checkWord i s.cur c = none)
    (hp : readsPoison i s.cur = false) {illegal poison : State → Group → Bool} (hi : illegal s s.cur = false)
    (hq : poison s s.cur = false) {eff : State → Group → Eff} (he : eff (s.setCur s.cur.issuing) s.cur.issuing = .done s2) :
    issue i illegal poison eff s = .next (advance s2 s.who c) := by
  rw [issue_passed h hc hp illegal poison hi hq, he]

/-- The word's effect is taken and its group goes on at another clause. -/
theorem issue_goto {i : Info} {s s2 : State} {c : Clause} {pc : VA} (h : AtWord s c) (hc : checkWord i s.cur c = none)
    (hp : readsPoison i s.cur = false) {illegal poison : State → Group → Bool} (hi : illegal s s.cur = false)
    (hq : poison s s.cur = false) {eff : State → Group → Eff} (he : eff (s.setCur s.cur.issuing) s.cur.issuing = .goto s2 pc)
    (hl : (s2.group s.who).status = .live) :
    issue i illegal poison eff s = .next (s2.setGroup s.who ((s2.group s.who).endClause c pc)) := by
  rw [issue_passed h hc hp illegal poison hi hq, he]
  simp [hl]

/-- The word traps before it changes anything. -/
theorem issue_trap {i : Info} {s : State} {c : Clause} {cause : Nat} {targ : W32} (h : AtWord s c) (hc : checkWord i s.cur c = none)
    (hp : readsPoison i s.cur = false) {illegal poison : State → Group → Bool} (hi : illegal s s.cur = false)
    (hq : poison s s.cur = false) {eff : State → Group → Eff} (he : eff (s.setCur s.cur.issuing) s.cur.issuing = .trap cause targ) :
    issue i illegal poison eff s = .next (s.trap s.who cause targ (wordPc s.cur c) (resumeHere s.cur c)) := by
  rw [issue_passed h hc hp illegal poison hi hq, he]

/-- The word leaves its group in another clause or handler. -/
theorem issue_leave {i : Info} {s s2 : State} {c : Clause} (h : AtWord s c) (hc : checkWord i s.cur c = none)
    (hp : readsPoison i s.cur = false) {illegal poison : State → Group → Bool} (hi : illegal s s.cur = false)
    (hq : poison s s.cur = false) {eff : State → Group → Eff} (he : eff (s.setCur s.cur.issuing) s.cur.issuing = .leave s2) :
    issue i illegal poison eff s = .next s2 := by
  rw [issue_passed h hc hp illegal poison hi hq, he]

end Sys2Proof.Machine
end

