-- ==== Sys2Proof/Laws/Memory.lean ====
section
/-! SUPPORT. Reading after writing in a memory, and that every write keeps the canonical form. -/

namespace Sys2Proof.Machine

/-- Every address of the memory lies above `a`. -/
def memAbove (a : Nat) (m : Memory) : Prop := ∀ p ∈ m, a < p.1

theorem memWf_cons (side a : Nat) (b : Byte) (t : Memory) :
    memWf side ((a, b) :: t) = true ↔ b ≠ unwritten side a ∧ memAbove a t ∧ memWf side t = true := by
  induction t generalizing a b with
  | nil => simp [memWf, memAbove]
  | cons p t ih =>
    obtain ⟨k, c⟩ := p
    rw [memWf]
    simp only [Bool.and_eq_true, bne_iff_ne, decide_eq_true_eq, ne_eq]
    constructor
    · rintro ⟨⟨h1, h2⟩, h3⟩
      refine ⟨h1, ?_, h3⟩
      have h4 := ((ih k c).1 h3).2.1
      intro q hq
      rcases List.mem_cons.1 hq with rfl | hq
      · exact h2
      · exact Nat.lt_trans h2 (h4 q hq)
    · rintro ⟨h1, h2, h3⟩
      exact ⟨⟨h1, h2 (k, c) (by simp)⟩, h3⟩

theorem memAbove_mwrite {side a j : Nat} {b : Byte} {m : Memory} (h : memAbove a m) (hj : a < j) :
    memAbove a (mwrite side m j b) := by
  induction m with
  | nil => unfold mwrite; split <;> simp [memAbove, hj]
  | cons p t ih =>
    obtain ⟨k, c⟩ := p
    have hk : a < k := h (k, c) (by simp)
    have ht : memAbove a t := fun q hq => h q (by simp [hq])
    have := ih ht
    unfold mwrite
    split
    · split
      · exact h
      · intro q hq
        rcases List.mem_cons.1 hq with rfl | hq
        · exact hj
        · exact h q hq
    · split
      · split
        · exact ht
        · intro q hq; rcases List.mem_cons.1 hq with rfl | hq
          · exact hj
          · exact ht q hq
      · intro q hq; rcases List.mem_cons.1 hq with rfl | hq
        · exact hk
        · exact this q hq

/-- Writing a byte keeps the canonical form. -/
theorem memWf_mwrite {side : Nat} {m : Memory} (a : Nat) (b : Byte) (h : memWf side m = true) : memWf side (mwrite side m a b) = true := by
  induction m with
  | nil => unfold mwrite; split <;> simp_all [memWf]
  | cons p t ih =>
    obtain ⟨k, c⟩ := p
    obtain ⟨hc, ht, hw⟩ := (memWf_cons side k c t).1 h
    unfold mwrite
    split
    · split
      · exact h
      · rename_i hlt hb
        refine (memWf_cons side a b _).2 ⟨hb, ?_, h⟩
        intro q hq
        rcases List.mem_cons.1 hq with rfl | hq
        · exact hlt
        · exact Nat.lt_trans hlt (ht q hq)
    · split
      · rename_i hn he
        subst he
        split
        · exact hw
        · rename_i hb; exact (memWf_cons side a b _).2 ⟨hb, ht, hw⟩
      · rename_i hn he
        exact (memWf_cons side k c _).2 ⟨hc, memAbove_mwrite ht (by omega), ih hw⟩

theorem mread_above {side a : Nat} {m : Memory} (h : memAbove a m) : mread side m a = unwritten side a := by
  induction m with
  | nil => rfl
  | cons p t ih =>
    obtain ⟨k, c⟩ := p
    have hk : a < k := h (k, c) (by simp)
    simp [mread, show ¬ k = a by omega, ih fun q hq => h q (by simp [hq])]

/-- Reading a byte after writing one, in a memory of canonical form. -/
theorem mread_mwrite {side : Nat} {m : Memory} (h : memWf side m = true) (a j : Nat) (b : Byte) :
    mread side (mwrite side m a b) j = if a = j then b else mread side m j := by
  induction m with
  | nil =>
    unfold mwrite
    by_cases hj : a = j
    · subst hj; split <;> simp_all [mread]
    · split <;> simp [mread, hj]
  | cons p t ih =>
    obtain ⟨k, c⟩ := p
    obtain ⟨hc, ht, hw⟩ := (memWf_cons side k c t).1 h
    unfold mwrite
    split
    · rename_i hlt
      have hab : memAbove a ((k, c) :: t) := by
        intro q hq
        rcases List.mem_cons.1 hq with rfl | hq
        · exact hlt
        · exact Nat.lt_trans hlt (ht q hq)
      by_cases hj : a = j
      · subst hj
        split
        · rename_i hb; rw [mread_above hab]; simp [hb]
        · simp [mread]
      · split
        · simp
        · rw [mread]; simp [hj]
    · split
      · rename_i hn he
        subst he
        by_cases hj : a = j
        · subst hj
          split
          · rename_i hb; rw [mread_above ht]; simp [hb]
          · simp [mread]
        · split <;> simp [mread, hj]
      · rename_i hn he
        simp only [mread, ih hw]
        by_cases hk : k = j
        · simp [hk, show ¬ a = j by omega]
        · simp [hk]

theorem memWf_mwriteL {side : Nat} {m : Memory} (a : Nat) (l : List Byte) (h : memWf side m = true) : memWf side (mwriteL side m a l) = true := by
  induction l generalizing m a with
  | nil => exact h
  | cons b t ih => exact ih _ (memWf_mwrite a b h)

/-- Reading a byte after writing several. -/
theorem mread_mwriteL {side : Nat} {m : Memory} (h : memWf side m = true) (a : Nat) (l : List Byte) (j : Nat) :
    mread side (mwriteL side m a l) j = if a ≤ j ∧ j < a + l.length then (l[j - a]?).getD 0 else mread side m j := by
  induction l generalizing m a with
  | nil => simp [mwriteL, show ¬ (a ≤ j ∧ j < a) by omega]
  | cons b t ih =>
    rw [mwriteL, ih (memWf_mwrite a b h), mread_mwrite h]
    simp only [List.length_cons]
    by_cases h1 : a = j
    · subst h1
      rw [if_neg (by omega)]; simp
    · by_cases h2 : a + 1 ≤ j ∧ j < a + 1 + t.length
      · have : j - a = (j - (a + 1)) + 1 := by omega
        simp [h2, show a ≤ j ∧ j < a + (t.length + 1) by omega, this]
      · rw [if_neg h2, if_neg (by omega : ¬ (a ≤ j ∧ j < a + (t.length + 1)))]; simp [h1]

theorem memWf_foldl {side : Nat} {β : Type} (l : List β) (f : Memory → β → Memory) (m : Memory)
    (hf : ∀ m x, memWf side m = true → memWf side (f m x) = true) (h : memWf side m = true) : memWf side (l.foldl f m) = true := by
  induction l generalizing m with
  | nil => exact h
  | cons x t ih => exact ih _ (hf _ _ h)

theorem memWf_physWrite {side : Nat} {m : Memory} (pa : Nat) (mask : LineMask) (l : Line) (h : memWf side m = true) :
    memWf side (physWrite side m pa mask l) = true := by
  unfold physWrite
  apply memWf_foldl _ _ _ _ h
  intro m j hm
  split
  · exact memWf_mwrite _ _ hm
  · exact hm

@[simp] theorem memWf_nil (side : Nat) : memWf side [] = true := rfl

/-- Two memories of canonical form that read alike are the same memory: equal memories are equal data. -/
theorem memory_ext {side : Nat} {m n : Memory} (hm : memWf side m = true) (hn : memWf side n = true)
    (h : ∀ a, mread side m a = mread side n a) : m = n := by
  induction m generalizing n with
  | nil =>
    cases n with
    | nil => rfl
    | cons p t =>
      obtain ⟨k, c⟩ := p
      have := h k
      simp [mread] at this
      exact absurd this.symm ((memWf_cons side k c t).1 hn).1
  | cons p t ih =>
    obtain ⟨k, c⟩ := p
    obtain ⟨h1, h2, h3⟩ := (memWf_cons side k c t).1 hm
    cases n with
    | nil =>
      have := h k
      simp [mread] at this
      exact absurd this h1
    | cons q u =>
      obtain ⟨j, d⟩ := q
      obtain ⟨g1, g2, g3⟩ := (memWf_cons side j d u).1 hn
      have hkj : k = j := by
        rcases Nat.lt_trichotomy k j with hlt | heq | hgt
        · have := h k
          rw [mread_above (m := (j, d) :: u) (by
            intro r hr; rcases List.mem_cons.1 hr with rfl | hr
            · exact hlt
            · exact Nat.lt_trans hlt (g2 r hr))] at this
          simp [mread] at this
          exact absurd this h1
        · exact heq
        · have := h j
          rw [mread_above (m := (k, c) :: t) (by
            intro r hr; rcases List.mem_cons.1 hr with rfl | hr
            · exact hgt
            · exact Nat.lt_trans hgt (h2 r hr))] at this
          simp [mread] at this
          exact absurd this.symm g1
      subst hkj
      have hcd : c = d := by have := h k; simpa [mread] using this
      subst hcd
      congr 1
      apply ih h3 g3
      intro a
      by_cases ha : k = a
      · subst ha; rw [mread_above h2, mread_above g2]
      · have := h a; simpa [mread, ha] using this

end Sys2Proof.Machine
end

