-- ==== Sys2Proof/Laws/PerInstr.lean ====
section
/-! SUPPORT. Facts about every instruction as syntax, one lemma for each constructor: its encoding fits in 64 bits. -/

namespace Sys2Proof.Laws.Fits

/-- The encoding of an instruction fits in one 64-bit word (09_encoding.md R82). -/
def Statement (i : Instr) : Prop := encodeNat i < 2 ^ 64

theorem op_lt {n : Nat} (h : Nat.blt n 256 = true) : n < 256 := Nat.le_of_ble_eq_true h
theorem one {i : Instr} {n : Nat} (h : encodeNat i = n) (hn : Nat.blt n (2 ^ 64) = true) : Statement i := by
  unfold Statement; rw [h]; exact Nat.le_of_ble_eq_true hn
theorem zero {i : Instr} (h : encodeNat i = 0) : Statement i := one h rfl

theorem smov (f : FS) : Statement (.smov f) := FS.toWord_lt f _ (op_lt rfl)
theorem smovi (f : FSI) : Statement (.smovi f) := FSI.toWord_lt f _ (op_lt rfl)
theorem sadd (f : FS) : Statement (.sadd f) := FS.toWord_lt f _ (op_lt rfl)
theorem saddImm (f : FSI) : Statement (.saddImm f) := FSI.toWord_lt f _ (op_lt rfl)
theorem ssub (f : FS) : Statement (.ssub f) := FS.toWord_lt f _ (op_lt rfl)
theorem ssubImm (f : FSI) : Statement (.ssubImm f) := FSI.toWord_lt f _ (op_lt rfl)
theorem smul (f : FS) : Statement (.smul f) := FS.toWord_lt f _ (op_lt rfl)
theorem smulImm (f : FSI) : Statement (.smulImm f) := FSI.toWord_lt f _ (op_lt rfl)
theorem smulhi (f : FS) : Statement (.smulhi f) := FS.toWord_lt f _ (op_lt rfl)
theorem sand (f : FS) : Statement (.sand f) := FS.toWord_lt f _ (op_lt rfl)
theorem sandImm (f : FSI) : Statement (.sandImm f) := FSI.toWord_lt f _ (op_lt rfl)
theorem sor (f : FS) : Statement (.sor f) := FS.toWord_lt f _ (op_lt rfl)
theorem sorImm (f : FSI) : Statement (.sorImm f) := FSI.toWord_lt f _ (op_lt rfl)
theorem sxor (f : FS) : Statement (.sxor f) := FS.toWord_lt f _ (op_lt rfl)
theorem sxorImm (f : FSI) : Statement (.sxorImm f) := FSI.toWord_lt f _ (op_lt rfl)
theorem sshl (f : FS) : Statement (.sshl f) := FS.toWord_lt f _ (op_lt rfl)
theorem sshlImm (f : FSI) : Statement (.sshlImm f) := FSI.toWord_lt f _ (op_lt rfl)
theorem sshr (f : FS) : Statement (.sshr f) := FS.toWord_lt f _ (op_lt rfl)
theorem sshrImm (f : FSI) : Statement (.sshrImm f) := FSI.toWord_lt f _ (op_lt rfl)
theorem ssar (f : FS) : Statement (.ssar f) := FS.toWord_lt f _ (op_lt rfl)
theorem ssarImm (f : FSI) : Statement (.ssarImm f) := FSI.toWord_lt f _ (op_lt rfl)
theorem smin (f : FS) : Statement (.smin f) := FS.toWord_lt f _ (op_lt rfl)
theorem sminImm (f : FSI) : Statement (.sminImm f) := FSI.toWord_lt f _ (op_lt rfl)
theorem smax (f : FS) : Statement (.smax f) := FS.toWord_lt f _ (op_lt rfl)
theorem smaxImm (f : FSI) : Statement (.smaxImm f) := FSI.toWord_lt f _ (op_lt rfl)
theorem scmp (f : FS) : Statement (.scmp f) := FS.toWord_lt f _ (op_lt rfl)
theorem scmpImm (f : FSI) : Statement (.scmpImm f) := FSI.toWord_lt f _ (op_lt rfl)
theorem ssel (f : FS) : Statement (.ssel f) := FS.toWord_lt f _ (op_lt rfl)
theorem spopc (f : FS) : Statement (.spopc f) := FS.toWord_lt f _ (op_lt rfl)
theorem sclz (f : FS) : Statement (.sclz f) := FS.toWord_lt f _ (op_lt rfl)
theorem sbfx (f : FS) : Statement (.sbfx f) := FS.toWord_lt f _ (op_lt rfl)
theorem sget (f : FSI) : Statement (.sget f) := FSI.toWord_lt f _ (op_lt rfl)
theorem bra (f : FB) : Statement (.bra f) := FB.toWord_lt f _ (op_lt rfl)
theorem brd (f : FB) : Statement (.brd f) := FB.toWord_lt f _ (op_lt rfl)
theorem bri (f : FS) : Statement (.bri f) := FS.toWord_lt f _ (op_lt rfl)
theorem call (f : FB) : Statement (.call f) := FB.toWord_lt f _ (op_lt rfl)
theorem wait (f : FW) : Statement (.wait f) := FW.toWord_lt f _ (op_lt rfl)
theorem bar (f : FS) : Statement (.bar f) := FS.toWord_lt f _ (op_lt rfl)
theorem barrive (f : FS) : Statement (.barrive f) := FS.toWord_lt f _ (op_lt rfl)
theorem exit (f : FB) : Statement (.exit f) := FB.toWord_lt f _ (op_lt rfl)
theorem regroup (f : FV) : Statement (.regroup f) := FV.toWord_lt f _ (op_lt rfl)
theorem trap (f : FSI) : Statement (.trap f) := FSI.toWord_lt f _ (op_lt rfl)
theorem vadd (f : FV) : Statement (.vadd f) := FV.toWord_lt f _ (op_lt rfl)
theorem vaddImm (f : FVI) : Statement (.vaddImm f) := FVI.toWord_lt f _ (op_lt rfl)
theorem vsub (f : FV) : Statement (.vsub f) := FV.toWord_lt f _ (op_lt rfl)
theorem vsubImm (f : FVI) : Statement (.vsubImm f) := FVI.toWord_lt f _ (op_lt rfl)
theorem vmul (f : FV) : Statement (.vmul f) := FV.toWord_lt f _ (op_lt rfl)
theorem vmulImm (f : FVI) : Statement (.vmulImm f) := FVI.toWord_lt f _ (op_lt rfl)
theorem vmad (f : FV) : Statement (.vmad f) := FV.toWord_lt f _ (op_lt rfl)
theorem vmin (f : FV) : Statement (.vmin f) := FV.toWord_lt f _ (op_lt rfl)
theorem vminImm (f : FVI) : Statement (.vminImm f) := FVI.toWord_lt f _ (op_lt rfl)
theorem vmax (f : FV) : Statement (.vmax f) := FV.toWord_lt f _ (op_lt rfl)
theorem vmaxImm (f : FVI) : Statement (.vmaxImm f) := FVI.toWord_lt f _ (op_lt rfl)
theorem vabs (f : FV) : Statement (.vabs f) := FV.toWord_lt f _ (op_lt rfl)
theorem vand (f : FV) : Statement (.vand f) := FV.toWord_lt f _ (op_lt rfl)
theorem vandImm (f : FVI) : Statement (.vandImm f) := FVI.toWord_lt f _ (op_lt rfl)
theorem vor (f : FV) : Statement (.vor f) := FV.toWord_lt f _ (op_lt rfl)
theorem vorImm (f : FVI) : Statement (.vorImm f) := FVI.toWord_lt f _ (op_lt rfl)
theorem vxor (f : FV) : Statement (.vxor f) := FV.toWord_lt f _ (op_lt rfl)
theorem vxorImm (f : FVI) : Statement (.vxorImm f) := FVI.toWord_lt f _ (op_lt rfl)
theorem vnot (f : FV) : Statement (.vnot f) := FV.toWord_lt f _ (op_lt rfl)
theorem vbfn3 (f : FV) : Statement (.vbfn3 f) := FV.toWord_lt f _ (op_lt rfl)
theorem vshl (f : FV) : Statement (.vshl f) := FV.toWord_lt f _ (op_lt rfl)
theorem vshlImm (f : FVI) : Statement (.vshlImm f) := FVI.toWord_lt f _ (op_lt rfl)
theorem vshr (f : FV) : Statement (.vshr f) := FV.toWord_lt f _ (op_lt rfl)
theorem vshrImm (f : FVI) : Statement (.vshrImm f) := FVI.toWord_lt f _ (op_lt rfl)
theorem vsar (f : FV) : Statement (.vsar f) := FV.toWord_lt f _ (op_lt rfl)
theorem vsarImm (f : FVI) : Statement (.vsarImm f) := FVI.toWord_lt f _ (op_lt rfl)
theorem vbfx (f : FV) : Statement (.vbfx f) := FV.toWord_lt f _ (op_lt rfl)
theorem vbfi (f : FV) : Statement (.vbfi f) := FV.toWord_lt f _ (op_lt rfl)
theorem vpopc (f : FV) : Statement (.vpopc f) := FV.toWord_lt f _ (op_lt rfl)
theorem vclz (f : FV) : Statement (.vclz f) := FV.toWord_lt f _ (op_lt rfl)
theorem vfadd (f : FV) : Statement (.vfadd f) := FV.toWord_lt f _ (op_lt rfl)
theorem vfaddImm (f : FVI) : Statement (.vfaddImm f) := FVI.toWord_lt f _ (op_lt rfl)
theorem vfsub (f : FV) : Statement (.vfsub f) := FV.toWord_lt f _ (op_lt rfl)
theorem vfsubImm (f : FVI) : Statement (.vfsubImm f) := FVI.toWord_lt f _ (op_lt rfl)
theorem vfmul (f : FV) : Statement (.vfmul f) := FV.toWord_lt f _ (op_lt rfl)
theorem vfmulImm (f : FVI) : Statement (.vfmulImm f) := FVI.toWord_lt f _ (op_lt rfl)
theorem vfma (f : FV) : Statement (.vfma f) := FV.toWord_lt f _ (op_lt rfl)
theorem vfmin (f : FV) : Statement (.vfmin f) := FV.toWord_lt f _ (op_lt rfl)
theorem vfminImm (f : FVI) : Statement (.vfminImm f) := FVI.toWord_lt f _ (op_lt rfl)
theorem vfmax (f : FV) : Statement (.vfmax f) := FV.toWord_lt f _ (op_lt rfl)
theorem vfmaxImm (f : FVI) : Statement (.vfmaxImm f) := FVI.toWord_lt f _ (op_lt rfl)
theorem vfrnd (f : FV) : Statement (.vfrnd f) := FV.toWord_lt f _ (op_lt rfl)
theorem vfrcp (f : FV) : Statement (.vfrcp f) := FV.toWord_lt f _ (op_lt rfl)
theorem vfrsq (f : FV) : Statement (.vfrsq f) := FV.toWord_lt f _ (op_lt rfl)
theorem vfsqrt (f : FV) : Statement (.vfsqrt f) := FV.toWord_lt f _ (op_lt rfl)
theorem vfexp2 (f : FV) : Statement (.vfexp2 f) := FV.toWord_lt f _ (op_lt rfl)
theorem vflog2 (f : FV) : Statement (.vflog2 f) := FV.toWord_lt f _ (op_lt rfl)
theorem vftrig (f : FV) : Statement (.vftrig f) := FV.toWord_lt f _ (op_lt rfl)
theorem vftanh (f : FV) : Statement (.vftanh f) := FV.toWord_lt f _ (op_lt rfl)
theorem vcmp (f : FV) : Statement (.vcmp f) := FV.toWord_lt f _ (op_lt rfl)
theorem vcmpImm (f : FVI) : Statement (.vcmpImm f) := FVI.toWord_lt f _ (op_lt rfl)
theorem vfcmp (f : FV) : Statement (.vfcmp f) := FV.toWord_lt f _ (op_lt rfl)
theorem vfcmpImm (f : FVI) : Statement (.vfcmpImm f) := FVI.toWord_lt f _ (op_lt rfl)
theorem vsel (f : FV) : Statement (.vsel f) := FV.toWord_lt f _ (op_lt rfl)
theorem vcvt (f : FV) : Statement (.vcvt f) := FV.toWord_lt f _ (op_lt rfl)
theorem vpack (f : FV) : Statement (.vpack f) := FV.toWord_lt f _ (op_lt rfl)
theorem vunpack (f : FV) : Statement (.vunpack f) := FV.toWord_lt f _ (op_lt rfl)
theorem vrq (f : FV) : Statement (.vrq f) := FV.toWord_lt f _ (op_lt rfl)
theorem vmov (f : FV) : Statement (.vmov f) := FV.toWord_lt f _ (op_lt rfl)
theorem vmovi (f : FVI) : Statement (.vmovi f) := FVI.toWord_lt f _ (op_lt rfl)
theorem vbcast (f : FV) : Statement (.vbcast f) := FV.toWord_lt f _ (op_lt rfl)
theorem vlane (f : FV) : Statement (.vlane f) := FV.toWord_lt f _ (op_lt rfl)
theorem vshfl (f : FV) : Statement (.vshfl f) := FV.toWord_lt f _ (op_lt rfl)
theorem vvote (f : FV) : Statement (.vvote f) := FV.toWord_lt f _ (op_lt rfl)
theorem vmatch (f : FV) : Statement (.vmatch f) := FV.toWord_lt f _ (op_lt rfl)
theorem vscan (f : FV) : Statement (.vscan f) := FV.toWord_lt f _ (op_lt rfl)
theorem vreduce (f : FV) : Statement (.vreduce f) := FV.toWord_lt f _ (op_lt rfl)
theorem vrand (f : FV) : Statement (.vrand f) := FV.toWord_lt f _ (op_lt rfl)
theorem xmov (f : FV) : Statement (.xmov f) := FV.toWord_lt f _ (op_lt rfl)
theorem xset (f : FV) : Statement (.xset f) := FV.toWord_lt f _ (op_lt rfl)
theorem xmaxe (f : FV) : Statement (.xmaxe f) := FV.toWord_lt f _ (op_lt rfl)
theorem vld (f : FM) : Statement (.vld f) := FM.toWord_lt f _ (op_lt rfl)
theorem vst (f : FM) : Statement (.vst f) := FM.toWord_lt f _ (op_lt rfl)
theorem vlds (f : FM) : Statement (.vlds f) := FM.toWord_lt f _ (op_lt rfl)
theorem vsts (f : FM) : Statement (.vsts f) := FM.toWord_lt f _ (op_lt rfl)
theorem sld (f : FM) : Statement (.sld f) := FM.toWord_lt f _ (op_lt rfl)
theorem sst (f : FM) : Statement (.sst f) := FM.toWord_lt f _ (op_lt rfl)
theorem vldx (f : FM) : Statement (.vldx f) := FM.toWord_lt f _ (op_lt rfl)
theorem vstx (f : FM) : Statement (.vstx f) := FM.toWord_lt f _ (op_lt rfl)
theorem vatom (f : FM) : Statement (.vatom f) := FM.toWord_lt f _ (op_lt rfl)
theorem vfatom (f : FM) : Statement (.vfatom f) := FM.toWord_lt f _ (op_lt rfl)
theorem vatoms (f : FM) : Statement (.vatoms f) := FM.toWord_lt f _ (op_lt rfl)
theorem satom (f : FM) : Statement (.satom f) := FM.toWord_lt f _ (op_lt rfl)
theorem vred (f : FM) : Statement (.vred f) := FM.toWord_lt f _ (op_lt rfl)
theorem ldrsv (f : FM) : Statement (.ldrsv f) := FM.toWord_lt f _ (op_lt rfl)
theorem stcnd (f : FM) : Statement (.stcnd f) := FM.toWord_lt f _ (op_lt rfl)
theorem fence (f : FM) : Statement (.fence f) := FM.toWord_lt f _ (op_lt rfl)
theorem pref (f : FM) : Statement (.pref f) := FM.toWord_lt f _ (op_lt rfl)
theorem lpin (f : FS) : Statement (.lpin f) := FS.toWord_lt f _ (op_lt rfl)
theorem lunpin (f : FS) : Statement (.lunpin f) := FS.toWord_lt f _ (op_lt rfl)
theorem drain (f : FM) : Statement (.drain f) := FM.toWord_lt f _ (op_lt rfl)
theorem presq (f : FM) : Statement (.presq f) := FM.toWord_lt f _ (op_lt rfl)
theorem stash (f : FE) : Statement (.stash f) := FE.toWord_lt f _ (op_lt rfl)
theorem spjoin (f : FS) : Statement (.spjoin f) := FS.toWord_lt f _ (op_lt rfl)
theorem tshape (f : FV) : Statement (.tshape f) := FV.toWord_lt f _ (op_lt rfl)
theorem tscl (f : FV) : Statement (.tscl f) := FV.toWord_lt f _ (op_lt rfl)
theorem tzero (f : FX) : Statement (.tzero f) := FX.toWord_lt f _ (op_lt rfl)
theorem tlds (f : FM) : Statement (.tlds f) := FM.toWord_lt f _ (op_lt rfl)
theorem tsts (f : FM) : Statement (.tsts f) := FM.toWord_lt f _ (op_lt rfl)
theorem tmov (f : FV) : Statement (.tmov f) := FV.toWord_lt f _ (op_lt rfl)
theorem mma (f : FX) : Statement (.mma f) := FX.toWord_lt f _ (op_lt rfl)
theorem mmas (f : FX) : Statement (.mmas f) := FX.toWord_lt f _ (op_lt rfl)
theorem mmad (f : FX) : Statement (.mmad f) := FX.toWord_lt f _ (op_lt rfl)
theorem mmaf (f : FX) : Statement (.mmaf f) := FX.toWord_lt f _ (op_lt rfl)
theorem mmai (f : FX) : Statement (.mmai f) := FX.toWord_lt f _ (op_lt rfl)
theorem czero (f : FX) : Statement (.czero f) := FX.toWord_lt f _ (op_lt rfl)
theorem clds (f : FM) : Statement (.clds f) := FM.toWord_lt f _ (op_lt rfl)
theorem csts (f : FM) : Statement (.csts f) := FM.toWord_lt f _ (op_lt rfl)
theorem crq (f : FV) : Statement (.crq f) := FV.toWord_lt f _ (op_lt rfl)
theorem ctov (f : FV) : Statement (.ctov f) := FV.toWord_lt f _ (op_lt rfl)
theorem vtoc (f : FV) : Statement (.vtoc f) := FV.toWord_lt f _ (op_lt rfl)
theorem cscale (f : FV) : Statement (.cscale f) := FV.toWord_lt f _ (op_lt rfl)
theorem tcopy (f : FE) : Statement (.tcopy f) := FE.toWord_lt f _ (op_lt rfl)
theorem tcopys (f : FE) : Statement (.tcopys f) := FE.toWord_lt f _ (op_lt rfl)
theorem tcqry (f : FE) : Statement (.tcqry f) := FE.toWord_lt f _ (op_lt rfl)
theorem tokclr (f : FE) : Statement (.tokclr f) := FE.toWord_lt f _ (op_lt rfl)
theorem rpush (f : FE) : Statement (.rpush f) := FE.toWord_lt f _ (op_lt rfl)
theorem rpop (f : FE) : Statement (.rpop f) := FE.toWord_lt f _ (op_lt rfl)
theorem rwait (f : FE) : Statement (.rwait f) := FE.toWord_lt f _ (op_lt rfl)
theorem rrel (f : FE) : Statement (.rrel f) := FE.toWord_lt f _ (op_lt rfl)
theorem gcopy (f : FE) : Statement (.gcopy f) := FE.toWord_lt f _ (op_lt rfl)
theorem gflush (f : FE) : Statement (.gflush f) := FE.toWord_lt f _ (op_lt rfl)
theorem gsig (f : FE) : Statement (.gsig f) := FE.toWord_lt f _ (op_lt rfl)
theorem gbar (f : FE) : Statement (.gbar f) := FE.toWord_lt f _ (op_lt rfl)
theorem gslot (f : FE) : Statement (.gslot f) := FE.toWord_lt f _ (op_lt rfl)
theorem nrmadd (f : FE) : Statement (.nrmadd f) := FE.toWord_lt f _ (op_lt rfl)
theorem nrmrd (f : FE) : Statement (.nrmrd f) := FE.toWord_lt f _ (op_lt rfl)
theorem mirror (f : FE) : Statement (.mirror f) := FE.toWord_lt f _ (op_lt rfl)
theorem srd (f : FY) : Statement (.srd f) := FY.toWord_lt f _ (op_lt rfl)
theorem swr (f : FY) : Statement (.swr f) := FY.toWord_lt f _ (op_lt rfl)
theorem tret (f : FY) : Statement (.tret f) := FY.toWord_lt f _ (op_lt rfl)
theorem ctxsv (f : FY) : Statement (.ctxsv f) := FY.toWord_lt f _ (op_lt rfl)
theorem ctxld (f : FY) : Statement (.ctxld f) := FY.toWord_lt f _ (op_lt rfl)
theorem tlbinv (f : FY) : Statement (.tlbinv f) := FY.toWord_lt f _ (op_lt rfl)
theorem cinv (f : FY) : Statement (.cinv f) := FY.toWord_lt f _ (op_lt rfl)
theorem heatrd (f : FY) : Statement (.heatrd f) := FY.toWord_lt f _ (op_lt rfl)
theorem dbgrd (f : FY) : Statement (.dbgrd f) := FY.toWord_lt f _ (op_lt rfl)
theorem dbgwr (f : FY) : Statement (.dbgwr f) := FY.toWord_lt f _ (op_lt rfl)
theorem qpost (f : FY) : Statement (.qpost f) := FY.toWord_lt f _ (op_lt rfl)
theorem loadDataReturn (op reg : Nat) (lanes : Lanes) : Statement (.loadDataReturn op reg lanes) := zero rfl
theorem storePerformed (op : Nat) (lanes : Lanes) : Statement (.storePerformed op lanes) := zero rfl
theorem tileMoveComplete (op : Nat) (units : Option (List Nat)) : Statement (.tileMoveComplete op units) := zero rfl
theorem laneFault (op : Nat) : Statement (.laneFault op) := zero rfl
theorem accessViolation (op : Nat) : Statement (.accessViolation op) := zero rfl
theorem teamSave (park : List Nat) : Statement (.teamSave park) := zero rfl
theorem releasePull (asid : Nat) (va : VA) : Statement (.releasePull asid va) := zero rfl
theorem pullAck (asid : Nat) (va : VA) : Statement (.pullAck asid va) := zero rfl
theorem homeRequest (r : HomeReq) : Statement (.homeRequest r) := zero rfl
theorem directoryInvalidate (asid : Nat) (va : VA) : Statement (.directoryInvalidate asid va) := zero rfl
theorem l1WriteBack (asid : Nat) (va : VA) (evict : Bool) : Statement (.l1WriteBack asid va evict) := zero rfl
theorem homeAtomic (op : Nat) (lanes : Lanes) : Statement (.homeAtomic op lanes) := zero rfl
theorem migrateWaitTimeout (op : Nat) : Statement (.migrateWaitTimeout op) := zero rfl
theorem normDeposit (answer : Bool) : Statement (.normDeposit answer) := zero rfl
theorem timingMark (n : Nat) (ok : Bool) : Statement (.timingMark n ok) := zero rfl
theorem alignmentLoss (exceeded : Bool) : Statement (.alignmentLoss exceeded) := zero rfl
theorem deviceLost (dev : Nat) : Statement (.deviceLost dev) := zero rfl
theorem frameReceive (f : GalFrame) : Statement (.frameReceive f) := zero rfl
theorem endToEndAck (id : FrameId) : Statement (.endToEndAck id) := zero rfl
theorem gcmResend (id : FrameId) : Statement (.gcmResend id) := zero rfl
theorem sessionEstablish (peer number : Nat) (key : Option (List Byte)) : Statement (.sessionEstablish peer number key) := zero rfl
theorem hostMemAccess (pa : Nat) (op : HostOp) : Statement (.hostMemAccess pa op) := zero rfl
theorem sidebandWindowAccess (pa : Nat) (op : HostOp) : Statement (.sidebandWindowAccess pa op) := zero rfl
theorem snoopResponse (x : SnoopAnswer) : Statement (.snoopResponse x) := zero rfl
theorem crwpDoorbell (wp : W32) : Statement (.crwpDoorbell wp) := zero rfl
theorem crEnable (v : W32) : Statement (.crEnable v) := zero rfl
theorem registerWrite (off : Nat) (v : W64) : Statement (.registerWrite off v) := zero rfl
theorem heatctlWrite (f : FY) : Statement (.heatctlWrite f) := FY.toWord_lt f _ (op_lt rfl)
theorem barstWrite (f : FY) : Statement (.barstWrite f) := FY.toWord_lt f _ (op_lt rfl)
theorem ringstWrite (f : FY) : Statement (.ringstWrite f) := FY.toWord_lt f _ (op_lt rfl)
theorem pcbrkWrite (f : FY) : Statement (.pcbrkWrite f) := FY.toWord_lt f _ (op_lt rfl)
theorem sampctlWrite (f : FY) : Statement (.sampctlWrite f) := FY.toWord_lt f _ (op_lt rfl)
theorem normboxWrite (f : FY) : Statement (.normboxWrite f) := FY.toWord_lt f _ (op_lt rfl)
theorem pcSample (core k : Nat) : Statement (.pcSample core k) := zero rfl
theorem gateHold (held : Bool) : Statement (.gateHold held) := zero rfl
theorem powerOn (p : PowerUp) : Statement (.powerOn p) := zero rfl
theorem p1Enter (die temp watts : Nat) : Statement (.p1Enter die temp watts) := zero rfl
theorem p1Exit (die temp watts : Nat) : Statement (.p1Exit die temp watts) := zero rfl
theorem thermalShutdown (temp : Nat) : Statement (.thermalShutdown temp) := zero rfl
theorem powerStateSelect (p : Nat) : Statement (.powerStateSelect p) := zero rfl
theorem attestationReport (nonce : BitVec 384) : Statement (.attestationReport nonce) := zero rfl
theorem mrExtend (n : Nat) (data : List Byte) : Statement (.mrExtend n data) := zero rfl
theorem softError (site : SoftSite) : Statement (.softError site) := zero rfl
theorem nop : Statement .nop := one rfl rfl
theorem ret : Statement .ret := one rfl rfl
theorem join : Statement .join := one rfl rfl
theorem widen : Statement .widen := one rfl rfl
theorem narrow : Statement .narrow := one rfl rfl
theorem yield : Statement .yield := one rfl rfl
theorem spleave : Statement .spleave := one rfl rfl
theorem errclr : Statement .errclr := one rfl rfl
theorem icinv : Statement .icinv := one rfl rfl
theorem clauseBegin : Statement (.clauseBegin) := zero rfl
theorem pendingEnter : Statement (.pendingEnter) := zero rfl
theorem forcedSwap : Statement (.forcedSwap) := zero rfl
theorem pathSwitch : Statement (.pathSwitch) := zero rfl
theorem faultRecordEnqueue : Statement (.faultRecordEnqueue) := zero rfl
theorem absentLineReissue : Statement (.absentLineReissue) := zero rfl
theorem regroupExchange : Statement (.regroupExchange) := zero rfl
theorem groupRetire : Statement (.groupRetire) := zero rfl
theorem gridEnd : Statement (.gridEnd) := zero rfl
theorem teamPlacement : Statement (.teamPlacement) := zero rfl
theorem preemptPoint : Statement (.preemptPoint) := zero rfl
theorem teamLeaveCore : Statement (.teamLeaveCore) := zero rfl
theorem resumeRestore : Statement (.resumeRestore) := zero rfl
theorem wcbAgeExpiry : Statement (.wcbAgeExpiry) := zero rfl
theorem wcbAck : Statement (.wcbAck) := zero rfl
theorem remoteRequest : Statement (.remoteRequest) := zero rfl
theorem remoteTranslationRequest : Statement (.remoteTranslationRequest) := zero rfl
theorem moved : Statement (.moved) := zero rfl
theorem remoteInvalidate : Statement (.remoteInvalidate) := zero rfl
theorem engineSlotGrant : Statement (.engineSlotGrant) := zero rfl
theorem recordReadComplete : Statement (.recordReadComplete) := zero rfl
theorem copyWriteLand : Statement (.copyWriteLand) := zero rfl
theorem engineOpFault : Statement (.engineOpFault) := zero rfl
theorem engineOpComplete : Statement (.engineOpComplete) := zero rfl
theorem ringOpEffect : Statement (.ringOpEffect) := zero rfl
theorem rwaitRelease : Statement (.rwaitRelease) := zero rfl
theorem matrixChunkComplete : Statement (.matrixChunkComplete) := zero rfl
theorem normTotalReceive : Statement (.normTotalReceive) := zero rfl
theorem gbarArrival : Statement (.gbarArrival) := zero rfl
theorem gbarCompletion : Statement (.gbarCompletion) := zero rfl
theorem mirroredWrite : Statement (.mirroredWrite) := zero rfl
theorem mirrorAck : Statement (.mirrorAck) := zero rfl
theorem galleryStep : Statement (.galleryStep) := zero rfl
theorem ctxCreate : Statement (.ctxCreate) := zero rfl
theorem ctxDestroy : Statement (.ctxDestroy) := zero rfl
theorem map : Statement (.map) := zero rfl
theorem replay : Statement (.replay) := zero rfl
theorem budget : Statement (.budget) := zero rfl
theorem gparam : Statement (.gparam) := zero rfl
theorem arm : Statement (.arm) := zero rfl
theorem ovfpool : Statement (.ovfpool) := zero rfl
theorem budgetPeriod : Statement (.budgetPeriod) := zero rfl
theorem heatDecay : Statement (.heatDecay) := zero rfl

end Sys2Proof.Laws.Fits
end

