-- ==== Sys2Proof/Laws/Registers.lean ====
section
/-! SUPPORT. Reading the registers of a group after writing them (05 R48, R49, R52; 27 R280). -/

namespace Sys2Proof.Machine

@[simp] theorem Group.rs_zero (g : Group) : g.rs 0 = 0xFFFFFFFF := rfl
@[simp] theorem Group.ws_zero (g : Group) (x : W32) : g.ws 0 x = g := rfl
@[simp] theorem Group.inBank_ws (g : Group) (n m : Nat) (x : W32) : (g.ws n x).inBank m = g.inBank m := by simp [Group.inBank]

/-- A scalar register reads what was last written to it; s0 reads all ones (05 R48). -/
theorem Group.rs_ws (g : Group) (n m : Nat) (x : W32) : (g.ws n x).rs m = if n = m ∧ n ≠ 0 then x else g.rs m := by
  by_cases hn : n = 0
  · subst hn; simp
  by_cases hm : m = 0
  · subst hm; simp [hn]
  unfold Group.rs
  simp only [Group.inBank_ws, hm, if_false, Group.ws_mode]
  unfold Group.ws
  simp only [hn, if_false, ne_eq, not_false_eq_true, and_true]
  by_cases hb : g.inBank n = true
  · simp only [hb, if_true]
    have hbn := hb
    simp only [Group.inBank, Bool.and_eq_true, decide_eq_true_eq, bne_iff_ne, ne_eq] at hbn
    by_cases hmo : (g.mode == Mode.userHandler) = true
    · simp only [hmo, if_true, tgetD_tset]
      by_cases h : n = m
      · subst h; simp [hb]
      · by_cases hbm : g.inBank m = true
        · have hbm' := hbm
          simp only [Group.inBank, Bool.and_eq_true, decide_eq_true_eq, bne_iff_ne, ne_eq] at hbm'
          simp [hbm, h, show ¬ n - 120 = m - 120 by omega]
        · simp [hbm, h]
    · simp only [hmo, if_false, Bool.false_eq_true, tgetD_tset]
      by_cases h : n = m
      · subst h; simp [hb]
      · by_cases hbm : g.inBank m = true
        · have hbm' := hbm
          simp only [Group.inBank, Bool.and_eq_true, decide_eq_true_eq, bne_iff_ne, ne_eq] at hbm'
          simp [hbm, h, show ¬ n - 120 = m - 120 by omega]
        · simp [hbm, h]
  · simp only [hb, Bool.false_eq_true, if_false, tgetD_tset]
    by_cases h : n = m
    · subst h; simp [hb]
    · by_cases hbm : g.inBank m = true <;> simp [hbm, h]

theorem Group.rs_ws_self (g : Group) (n : Nat) (x : W32) (h : n ≠ 0) : (g.ws n x).rs n = x := by simp [Group.rs_ws, h]
theorem Group.rs_ws_ne (g : Group) {n m : Nat} (x : W32) (h : n ≠ m) : (g.ws n x).rs m = g.rs m := by simp [Group.rs_ws, h]

@[simp] theorem Group.rv_ws (g : Group) (n m : Nat) (x : W32) : (g.ws n x).rv m = g.rv m := by simp [Group.rv]
@[simp] theorem Group.rl_ws (g : Group) (n m l : Nat) (x : W32) : (g.ws n x).rl m l = g.rl m l := by simp [Group.rl]
@[simp] theorem Group.rx_ws (g : Group) (n m : Nat) (x : W32) : (g.ws n x).rx m = g.rx m := by simp [Group.rx]
@[simp] theorem Group.rs_wv (g : Group) (n : Nat) (s : Lanes) (x : Nat → W32) (m : Nat) : (g.wv n s x).rs m = g.rs m := rfl
@[simp] theorem Group.rx_wv (g : Group) (n : Nat) (s : Lanes) (x : Nat → W32) (m : Nat) : (g.wv n s x).rx m = g.rx m := rfl
@[simp] theorem Group.rs_wxb (g : Group) (n j : Nat) (x : Byte) (p : Bool) (m : Nat) : (g.wxb n j x p).rs m = g.rs m := rfl
@[simp] theorem Group.rv_wxb (g : Group) (n j : Nat) (x : Byte) (p : Bool) (m : Nat) : (g.wxb n j x p).rv m = g.rv m := rfl
@[simp] theorem Group.rs_flag (g : Group) (f : BitVec 3) (m : Nat) : (g.flag f).rs m = g.rs m := rfl
@[simp] theorem Group.rv_flag (g : Group) (f : BitVec 3) (m : Nat) : (g.flag f).rv m = g.rv m := rfl
@[simp] theorem Group.rx_flag (g : Group) (f : BitVec 3) (m : Nat) : (g.flag f).rx m = g.rx m := rfl

/-- A write of a vector register changes the lanes of its set alone (13 R133). -/
theorem Group.rl_wv (g : Group) (n m : Nat) (s : Lanes) (x : Nat → W32) (l : Nat) (hl : l < 32) :
    (g.wv n s x).rl m l = if n = m ∧ inSet s l then x l else g.rl m l := by
  simp only [Group.rl, Group.rv, Group.wv, tgetD_tset]
  by_cases h : n = m
  · subst h; simp [lane_mapLanes _ _ _ _ hl]
  · simp [h]

/-- It clears the poison of the lanes that it writes (05 R49). -/
theorem Group.rvp_wv (g : Group) (n m : Nat) (s : Lanes) (x : Nat → W32) :
    (g.wv n s x).rvp m = if n = m then g.rvp m &&& ~~~s else g.rvp m := by
  simp only [Group.rvp, Group.wv, tgetD_tset]
  by_cases h : n = m
  · subst h; simp
  · simp [h]

theorem Group.rv_wv_ne (g : Group) {n m : Nat} (s : Lanes) (x : Nat → W32) (h : n ≠ m) : (g.wv n s x).rv m = g.rv m := by
  simp [Group.rv, Group.wv, tgetD_tset, h]

/-- A write of one lane (09 R88). -/
theorem Group.rl_wl (g : Group) (n m l k : Nat) (x : W32) (p : Bool) (hl : l < 32) (hk : k < 32) :
    (g.wl n l x p).rl m k = if n = m ∧ l = k then x else g.rl m k := by
  simp only [Group.rl, Group.rv, Group.wl, tgetD_tset]
  by_cases h : n = m
  · subst h
    by_cases h2 : l = k
    · subst h2; simp [hl]
    · simp [h2, lane_setLane_ne _ _ _ _ hk h2]
  · simp [h]

/-- A write of a whole scale register. -/
theorem Group.rx_wx (g : Group) (n m : Nat) (x : W64) : (g.wx n x).rx m = if n = m then x else g.rx m := by
  simp [Group.rx, Group.wx, tgetD_tset]

/-- A write of one byte of a scale register. -/
theorem Group.xbyte_wxb (g : Group) (n m j k : Nat) (x : Byte) (p : Bool) (hj : j < 8) (hk : k < 8) :
    xbyte ((g.wxb n j x p).rx m) k = if n = m ∧ j = k then x else xbyte (g.rx m) k := by
  simp only [Group.rx, Group.wxb, tgetD_tset]
  by_cases h : n = m
  · subst h
    simp only [if_true, true_and]
    by_cases h2 : j = k
    · subst h2
      simp only [if_true, xbyte, getBits_eq]
      exact extract_putBits_self _ _ _ (by omega)
    · simp only [if_neg h2, xbyte, getBits_eq]
      exact extract_putBits_ne _ _ _ _ _ (by omega) (by omega)
  · simp [h]

end Sys2Proof.Machine
end

