-- ==== Sys2Proof/Machine/Gyas.lean ====
section
/-! DEFINITION. What the assembler gyas makes of a source given as data: names, expressions and immediates, modifiers, the forming of clauses and their waits, branch offsets, launch templates, data and layout records (09_encoding.md R103 to R108; 19 R221; 21 R228). `none` stands for a source that gyas rejects. The characters of a line stay outside (assumption log 49). -/

namespace Sys2Proof.Machine

/-! ### Names, expressions, immediates (09 R103, R104, R108) -/

/-- The register files of an operand and how many registers the syntax names (R104). -/
def regNames : List (Char × Nat) := [('v', 256), ('x', 256), ('s', 128), ('m', 16), ('c', 8), ('t', 8)]

/-- A register name, in either case (R103, R104). -/
def isRegName (n : String) : Bool :=
  match n.toList with
  | c :: ds => regNames.any fun p => c.toLower == p.1 && (List.range p.2).any fun k => ds == (toString k).toList
  | [] => false

/-- A name: letters, digits, underscore and point, not beginning with a digit, and no register name (R103). -/
def nameOk (n : String) : Bool :=
  n.toList.all (fun c => c.isAlphanum || c == '_' || c == '.') && (match n.toList with | c :: _ => !c.isDigit | [] => false) && !isRegName n

/-- Expressions over integers and names (R104). -/
inductive GExpr where
  | lit (n : Int)
  | name (n : String)
  | add (a b : GExpr)
  | sub (a b : GExpr)
  | mul (a b : GExpr)
  | shl (a b : GExpr)
  | shr (a b : GExpr)
  | and (a b : GExpr)
  | or (a b : GExpr)
deriving DecidableEq, Repr

/-- Both values of a pair of options, through a function. -/
def both (f : Int → Int → Int) : Option Int → Option Int → Option Int
  | some a, some b => some (f a b)
  | _, _ => none

/-- The value of an expression where `env` gives names their values: exact, the bitwise operators in two's complement (R104). -/
def GExpr.eval (env : String → Option Int) : GExpr → Option Int
  | .lit n => some n
  | .name n => env n
  | .add a b => both (· + ·) (a.eval env) (b.eval env)
  | .sub a b => both (· - ·) (a.eval env) (b.eval env)
  | .mul a b => both (· * ·) (a.eval env) (b.eval env)
  | .shl a b => both (fun x y => x * 2 ^ y.toNat) (a.eval env) (b.eval env)
  | .shr a b => both (fun x y => x / 2 ^ y.toNat) (a.eval env) (b.eval env)
  | .and a b => both (fun x y => (BitVec.ofInt 128 x &&& BitVec.ofInt 128 y).toInt) (a.eval env) (b.eval env)
  | .or a b => both (fun x y => (BitVec.ofInt 128 x ||| BitVec.ofInt 128 y).toInt) (a.eval env) (b.eval env)

/-- An immediate in a field of `w` bits; one that does not fit is rejected (R104). -/
def immOf (w : Nat) (x : Int) : Option (BitVec w) := if -(2 ^ (w - 1)) ≤ x && x < 2 ^ w then some (BitVec.ofInt w x) else none

/-- A value in an unsigned field. -/
def natOf (w : Nat) (x : Int) : Option Nat := if 0 ≤ x && x < 2 ^ w then some x.toNat else none

/-- A decimal literal: (−1)^neg × digits × 10^exp10 (R104). -/
structure GFloat where
  neg    : Bool
  digits : Nat
  exp10  : Int
deriving DecidableEq, Repr

/-- The value of a format nearest a literal, ties to even (R104, R108). -/
def GFloat.round (x : GFloat) (f : Fmt) : Nat :=
  let n := x.digits * 10 ^ x.exp10.toNat
  let d := 10 ^ (-x.exp10).toNat
  let k := 64 + bitLen d
  (f.finish .rne true x.neg (n * 2 ^ k / d) (-(k : Int)) (n * 2 ^ k % d != 0)).1

/-- A floating immediate in an IMM24 field: FP32 bits [7:0] must be zero (R93, R104). -/
def GFloat.imm24 (x : GFloat) : Option (BitVec 24) :=
  let w := x.round fmtF32
  if w % 256 = 0 then some (BitVec.ofNat 24 (w / 256)) else none

/-- A floating immediate in an IMM32 field (R104). -/
def GFloat.imm32 (x : GFloat) : W32 := BitVec.ofNat 32 (x.round fmtF32)

/-! ### Modifiers (09 R105) -/

/-- The fields that modifiers of R105 set. -/
inductive GField where
  | ty | rm | sat | sco | col
deriving DecidableEq, Repr

/-- The modifiers of R105 with their fields and codes. `sr` takes the place of a rounding mode. -/
def modifiers : List (String × GField × Nat) :=
  [("i8", .ty, 0), ("i16", .ty, 1), ("i32", .ty, 2), ("i64", .ty, 3), ("n8", .ty, 4), ("n16", .ty, 5), ("n32", .ty, 6), ("n64", .ty, 7)] ++
  [("f32", .ty, 8), ("f16", .ty, 9), ("bf16", .ty, 10), ("e5m2", .ty, 11), ("e4m3", .ty, 12), ("e3m2", .ty, 13), ("e2m3", .ty, 14), ("e2m1", .ty, 15)] ++
  [("rne", .rm, 0), ("rtz", .rm, 1), ("rdn", .rm, 2), ("rup", .rm, 3), ("sr", .rm, 0), ("sat", .sat, 1)] ++
  [("grp", .sco, 0), ("tm", .sco, 1), ("shr", .sco, 2), ("dev", .sco, 3), ("dom", .sco, 4), ("sys", .sco, 5)] ++
  (List.range 8).map fun n => ("col" ++ toString n, .col, n)

/-- The modifier of a name, in either case (R103, R105). -/
def modifierOf (n : String) : Option (String × GField × Nat) := modifiers.find? fun m => m.1.toList == n.toList.map Char.toLower

/-- Modifiers that an instruction may bear together: each once, and no two of one field (R105). -/
def modifiersOk (l : List String) : Bool :=
  let fields := (l.filterMap modifierOf).map (·.2.1)
  fields.all fun f => (fields.filter (· == f)).length == 1

/-- The code of a field under a list of modifiers; the default where none sets it (R105). -/
def fieldCode (l : List String) (f : GField) (dflt : Nat) : Nat := (((l.filterMap modifierOf).find? fun m => m.2.1 == f).map (·.2.2)).getD dflt

/-! ### Clauses (09 R106, R107) -/

/-- The keys of `.clause`; one that is omitted takes its no-wait value (R106). -/
structure ClauseKeys where
  wld : Option Nat := none
  wst : Option Nat := none
  wcp : Option Nat := none
  wtl : Option Nat := none
  tok : Nat := 0
  yld : Bool := false
deriving DecidableEq, Repr

/-- An instruction of a source, with the labels that stand for its TGT, RCV or IMM32 field (R104). -/
structure GWord where
  i   : Instr
  tgt : Option String := none
  rcv : Option String := none
  imm : Option GExpr := none
deriving DecidableEq, Repr

/-- The lines of a text section (R103, R106, R108). -/
inductive GLine where
  | label (name : String)
  | word (w : GWord)
  | clause (cls : Class) (keys : ClauseKeys)
  | endc
  | align (n : Nat)
deriving DecidableEq, Repr

/-- A clause of a source, before its waits are known: the labels that name its header, the alignment asked for, its class and waits where it is explicit, its words. -/
structure RawClause where
  labels : List String := []
  align  : Nat := 8
  keys   : Option (Class × ClauseKeys) := none
  words  : List GWord := []
deriving DecidableEq, Repr

/-- The words keep R89 in a clause of a class. -/
def keepsR89 (cls : Class) (l : List GWord) : Bool :=
  ((List.range l.length).zip l).all fun p =>
    let i := p.2.i.info
    i.isWord && (match i.cls with | some c => c == cls | none => true) &&
    (match i.pos with | .any => true | .first => p.1 == 0 | .last => p.1 + 1 == l.length)

/-- The class of a clause that gyas forms: that of its first instruction outside the scalar and control family, else VEC (R107). -/
def formedClass (l : List GWord) : Option Class := l.findSome? fun w => w.i.info.cls

/-- A word opens a new clause after these (R107). -/
def breaksBefore (l : List GWord) (w : GWord) : Bool :=
  l.length == 16 || (match l.getLast? with | some x => x.i.info.pos == .last | none => false) ||
  (match formedClass l, w.i.info.cls with | some a, some b => a != b | _, _ => false)

/-- What has been read of a section: the clauses closed, the one open, the labels and the alignment that wait for the next clause. -/
structure GScan where
  done   : List RawClause := []
  open_  : Option RawClause := none
  labels : List String := []
  align  : Nat := 8
deriving DecidableEq, Repr

/-- An explicit clause is open. -/
def GScan.explicit (s : GScan) : Bool := match s.open_ with | some c => c.keys.isSome | none => false

/-- The open clause ends. -/
def GScan.close (s : GScan) : GScan := match s.open_ with | some c => { s with done := s.done ++ [c], open_ := none } | none => s

/-- A clause opens: the labels and the alignment before it are its own. -/
def GScan.begin (s : GScan) (keys : Option (Class × ClauseKeys)) (ws : List GWord) : GScan :=
  { s with open_ := some { labels := s.labels, align := s.align, keys := keys, words := ws }, labels := [], align := 8 }

/-- One line of the text section (R106, R107). -/
def GScan.line (s : GScan) : GLine → Option GScan
  | .label n => if s.explicit || !nameOk n then none else some { s.close with labels := s.labels ++ [n] }
  | .align n => if s.explicit || n < 8 || n != 2 ^ Nat.log2 n then none else some { s.close with align := max s.align n }
  | .clause cls keys => if s.explicit then none else some (s.close.begin (some (cls, keys)) [])
  | .endc =>
    match s.open_ with
    | some c =>
      match c.keys with
      | some (cls, _) => if c.words.isEmpty || 16 < c.words.length || !keepsR89 cls c.words then none else some s.close
      | none => none
    | none => none
  | .word w =>
    if !w.i.info.isWord || !w.i.info.mbz then none
    else
      match s.open_ with
      | none => some (s.begin none [w])
      | some c =>
        if c.keys.isNone && breaksBefore c.words w then some (s.close.begin none [w])
        else some { s with open_ := some { c with words := c.words ++ [w] } }

/-- The lines of a section, in order. -/
def GScan.lines (s : GScan) : List GLine → Option GScan
  | [] => if s.explicit || !s.labels.isEmpty && s.open_.isNone then none else some s.close
  | l :: t => match s.line l with | some s1 => s1.lines t | none => none

/-- A unit that an outstanding operation may write: a register of a file, a tile or an accumulator (R87, R88). -/
inductive GReg where
  | v (n : Nat) | x (n : Nat) | s (n : Nat) | m (n : Nat) | c (n : Nat)
deriving DecidableEq, Repr

/-- The tiles that an instruction names (23 R241). -/
def tilesOf : Instr → List Nat
  | .tshape f => [f.vd.toNat]
  | .tscl f => [f.vd.toNat]
  | .tlds f => [f.vd.toNat]
  | .tsts f => [f.vd.toNat]
  | .tmov f => [f.va.toNat]
  | .tzero f => [f.ta.toNat]
  | .mma f => (opA f).tiles ++ (opBt f).tiles
  | .mmaf f => (opA f).tiles ++ (opBt f).tiles
  | .mmai f => (opA f).tiles ++ (opBt f).tiles
  | .mmad f => (opA f).tiles ++ (opBt f).tiles ++ (opG f).tiles
  | .mmas f => (opA f).tiles ++ (opBt f).tiles ++ [f.tg.toNat]
  | .crq f => if f.mod.getLsbD 0 then [] else [f.vd.toNat]
  | _ => []

/-- The scale registers that a TMOV moves where its tile has scales, which the text does not say (23 R249). -/
def rowScales (f : FV) : List GReg := ((regSpan f.vd.toNat (f.vc.toNat + 1)).filter (· < 256)).map .x

/-- The units that an instruction reads or writes; s0 is no register that anything writes (05 R48). -/
def unitsOf (i : Instr) : List GReg :=
  let f := i.info
  (f.vr ++ f.vd ++ f.vw).map .v ++ (f.xr ++ f.xw).map .x ++ ((f.sr ++ f.sd ++ f.sw).filter (· != 0)).map .s ++ (tilesOf i).map .m ++ f.cr.map .c ++
  (match i with | .tmov f => rowScales f | .regroup f => .v f.va.toNat :: (regSpan f.vb.toNat (f.vc.toNat + 1 - f.vb.toNat)).map .v | _ => [])

/-- The units that a load-counter operation writes later (05 R53). -/
def loadUnits (i : Instr) : List GReg :=
  let f := i.info
  if f.cls == some .mem then f.vw.map .v ++ f.xw.map .x ++ (f.sw.filter (· != 0)).map .s else []

/-- The units that a tile-counter operation writes later (05 R53). -/
def moveUnits : Instr → List GReg
  | .tlds f => [.m f.vd.toNat]
  | .clds f => [.c f.vd.toNat]
  | .tmov f => if f.mod == 0 then [.m f.va.toNat] else (Instr.info (.tmov f)).vw.map .v ++ rowScales f
  | _ => []

/-- The tile counter counts the instruction (05 R53). -/
def movesTiles : Instr → Bool
  | .tlds _ | .tsts _ | .tmov _ | .clds _ | .csts _ => true
  | _ => false

/-- The units of each operation of a list of words that a counter counts, in issue order. -/
def issued (counts : Instr → Bool) (units : Instr → List GReg) (l : List GWord) : List (List GReg) :=
  (l.filter fun w => counts w.i).map fun w => units w.i

/-- The load counter counts the instruction, and it writes registers (05 R53). -/
def loadsRegs (i : Instr) : Bool := loadUnits i != []

/-- The operations of one counter that may be outstanding: those of the text since, and with `any` those of whatever a CALL ran before them, which may be any of the kernel. -/
structure GOut where
  any : Bool := false
  ops : List (List GReg) := []
deriving DecidableEq, Repr

/-- A wait with a limit leaves the most recent operations (R86); `all` is the value for no wait. -/
def GOut.leaves (limit all : Nat) (o : GOut) : GOut :=
  if limit = all then o else { any := o.any && o.ops.length < limit, ops := o.ops.drop (o.ops.length - limit) }

/-- The operations that may be outstanding, of a kernel's `whole`. -/
def GOut.list (whole : List (List GReg)) (o : GOut) : List (List GReg) := if o.any then whole else o.ops

/-- A clause has run: its own operations follow; after a CALL the subroutine's, which may stand anywhere in the kernel. -/
def GOut.ran (o : GOut) (calls : Bool) (l : List (List GReg)) : GOut := if calls then { any := true } else { o with ops := o.ops ++ l }

/-- A clause ends in a CALL. -/
def endsInCall (ws : List GWord) : Bool := match ws.getLast? with | some { i := .call _, .. } => true | _ => false

/-- A word of the clause reads or writes a unit of these operations. -/
def touches (ops : List (List GReg)) (ws : List GWord) : Bool := ws.any fun w => (unitsOf w.i).any fun r => ops.any fun o => o.contains r

/-- A wait's limits in a header; the fields hold what fits (R106). -/
def keysWait (k : ClauseKeys) : Option FW :=
  let a := k.wld.getD 63
  let b := k.wst.getD 63
  let c := k.wcp.getD 15
  let d := k.wtl.getD 15
  if 63 < a || 63 < b || 15 < c || 15 < d || 255 < k.tok then none
  else some { wld := BitVec.ofNat 6 a, wst := BitVec.ofNat 6 b, wcp := BitVec.ofNat 4 c, wtl := BitVec.ofNat 4 d, tokw := BitVec.ofNat 8 k.tok }

/-- The waits that a WAIT at the end of a clause adds to the next one (R85). -/
def waitAfter (ws : List GWord) : FW := match ws.getLast? with | some { i := .wait f, .. } => f | _ => noWait

/-- The headers of the clauses of a kernel, in order. `allL` and `allT` are the operations of the whole kernel, which a clause at a label takes as possibly outstanding; `l` and `t` those issued before in the text and not covered since; `p` the waits of a WAIT before (R106, R107). -/
def headers (allL allT : List (List GReg)) (l t : GOut) (p : FW) : List RawClause → Option (List (RawClause × Header))
  | [] => some []
  | c :: rest =>
    let l1 := l.leaves p.wld.toNat 63
    let t1 := t.leaves p.wtl.toNat 15
    let h : Option (Class × FW × Bool) :=
      match c.keys with
      | some (cls, k) => (keysWait k).map fun w => (cls, w, k.yld)
      | none =>
        let wl := touches (if c.labels.isEmpty then l1.list allL else allL) c.words
        let wt := touches (if c.labels.isEmpty then t1.list allT else allT) c.words
        some ((formedClass c.words).getD .vec, { noWait with wld := if wl then 0 else 63, wtl := if wt then 0 else 15 }, false)
    match h with
    | none => none
    | some (cls, w, y) =>
      let l2 := (l1.leaves w.wld.toNat 63).ran (endsInCall c.words) (issued loadsRegs loadUnits c.words)
      let t2 := (t1.leaves w.wtl.toNat 15).ran (endsInCall c.words) (issued movesTiles moveUnits c.words)
      (headers allL allT l2 t2 (waitAfter c.words) rest).map fun r => (c, { cnt := BitVec.ofNat 4 (c.words.length - 1), cls := cls, wait := w, yld := y }) :: r

/-- The clauses of a text section with their headers (R106, R107). -/
def formClauses (ls : List GLine) : Option (List (RawClause × Header)) :=
  match ({} : GScan).lines ls with
  | none => none
  | some s =>
    let ws := s.done.flatMap (·.words)
    headers (issued loadsRegs loadUnits ws) (issued movesTiles moveUnits ws) {} {} noWait s.done

/-! ### Placement and branch offsets (09 R95, R104) -/

/-- The next multiple of `n`. -/
def alignUp (n a : Nat) : Nat := (a + n - 1) / n * n

/-- The clauses with the addresses of their headers, from an address on (R82, R108). -/
def placed (at_ : Nat) : List (RawClause × Header) → List (Nat × RawClause × Header)
  | [] => []
  | (c, h) :: t => let a := alignUp c.align at_; (a, c, h) :: placed (a + 8 * (c.words.length + 1)) t

/-- Blocks of clauses one after the other, from an address on. -/
def placedAll (at_ : Nat) : List (List (RawClause × Header)) → List (List (Nat × RawClause × Header))
  | [] => []
  | b :: t =>
    let p := placed at_ b
    p :: placedAll (match p.getLast? with | some x => x.1 + 8 * (x.2.1.words.length + 1) | none => at_) t

/-- Every label of placed clauses with its address. -/
def labelsOf (l : List (Nat × RawClause × Header)) : List (String × Nat) := l.flatMap fun p => p.2.1.labels.map fun n => (n, p.1)

/-- Instructions with a TGT field, with an RCV field and with an IMM32 field (R91, R95). -/
def hasTgt : Instr → Bool
  | .bra _ | .brd _ | .call _ => true
  | _ => false
def hasRcv : Instr → Bool
  | .brd _ => true
  | _ => false
def hasImm32 : Instr → Bool
  | .smovi _ | .saddImm _ | .ssubImm _ | .smulImm _ | .sandImm _ | .sorImm _ | .sxorImm _ | .sshlImm _ | .sshrImm _ | .ssarImm _ | .sminImm _ | .smaxImm _
  | .scmpImm _ | .sget _ | .trap _ => true
  | _ => false

/-- The offset in words from a header to a label's header, in a field of `w` bits at bit `lo`; a label that begins no clause, or lies beyond the field's reach, is rejected (R95, R104). -/
def offField (labels : List (String × Nat)) (from_ w lo : Nat) : Option String → Option Nat
  | none => some 0
  | some n =>
    match labels.find? (·.1 == n) with
    | none => none
    | some p =>
      let d := ((p.2 : Int) - from_) / 8
      if -(2 ^ (w - 1)) ≤ d && d < 2 ^ (w - 1) then some ((BitVec.ofInt w d).toNat * 2 ^ lo) else none

/-- The value that an expression leaves in an IMM32 field, labels standing for addresses (R104). -/
def immField (env : String → Option Int) : Option GExpr → Option Nat
  | none => some 0
  | some e => ((e.eval env).bind (immOf 32)).map (·.toNat)

/-- The word of an instruction at a header's offset, its labels resolved. -/
def resolve (labels : List (String × Nat)) (env : String → Option Int) (from_ : Nat) (w : GWord) : Option W64 :=
  if (w.tgt.isSome && !hasTgt w.i) || (w.rcv.isSome && !hasRcv w.i) || (w.imm.isSome && !hasImm32 w.i) then none
  else
    match offField labels from_ 24 20 w.tgt, offField labels from_ 20 0 w.rcv, immField env w.imm with
    | some a, some b, some c => some (encode w.i ||| BitVec.ofNat 64 (a + b + c))
    | _, _, _ => none

/-- Collects the values of a list of options. -/
def allSome {α : Type} : List (Option α) → Option (List α)
  | [] => some []
  | some a :: t => (allSome t).map (a :: ·)
  | none :: _ => none

/-- No name stands twice. -/
def distinctNames : List String → Bool
  | [] => true
  | a :: t => !t.contains a && distinctNames t

/-- The value of a name among labels with their addresses and the names of `.equ`. -/
def nameValue (labels : List (String × Nat)) (equ : List (String × Int)) (n : String) : Option Int :=
  match labels.find? (·.1 == n) with
  | some x => some (x.2 : Int)
  | none => (equ.find? (·.1 == n)).map (·.2)

/-- The words of placed clauses by address, headers among them. -/
def wordsAt (labels : List (String × Nat)) (env : String → Option Int) (p : List (Nat × RawClause × Header)) : Option (List (Nat × W64)) :=
  (allSome (p.map fun c => (allSome (c.2.1.words.map (resolve labels env c.1))).map fun ws =>
    (c.1, encodeHeader c.2.2) :: ((List.range ws.length).zip ws).map fun x => (c.1 + 8 * (x.1 + 1), x.2))).map List.flatten

/-- The code of a kernel placed at a VA: the words of its clauses by address, headers among them. Labels are global names with the addresses of their headers (R83, R103, R106 to R108). -/
def assemble (base : Nat) (equ : List (String × Int)) (ls : List GLine) : Option (List (Nat × W64)) :=
  match formClauses ls with
  | none => none
  | some cs =>
    let p := placed base cs
    let labels := labelsOf p
    if !distinctNames (labels.map (·.1) ++ equ.map (·.1)) || !equ.all (fun e => nameOk e.1) then none
    else wordsAt labels (nameValue labels equ) p

/-! ### Kernels (09 R108; 21 R228) -/

/-- The directives that set up a kernel. Role counts that are all omitted give vec = 1 (R108). -/
structure GKernel where
  vec   : Option Nat := none
  feed  : Option Nat := none
  mtx   : Option Nat := none
  spare : Nat := 0
  cores : Nat := 0
  prio  : Nat := 0
  spill : Nat := 0
  /-- `.regs` by role: v, x and s. -/
  regV  : Option (Nat × Nat × Nat) := none
  regF  : Option (Nat × Nat × Nat) := none
  regM  : Option (Nat × Nat × Nat) := none
  /-- `.pool`: rf, sp, ts, spt, tgm. -/
  rf    : Nat := 0
  sp    : Nat := 0
  ts    : Nat := 0
  spt   : Nat := 0
  tgm   : Nat := 0
  /-- `.ring`: n, stages, and `rel` where it is given. -/
  rings : List (Nat × Nat × Option Nat) := []
  code  : List GLine := []
deriving DecidableEq, Repr

/-- The groups of each role. -/
def GKernel.vecN (k : GKernel) : Nat := k.vec.getD (if k.feed.isNone && k.mtx.isNone then 1 else 0)
def GKernel.feedN (k : GKernel) : Nat := k.feed.getD 0
def GKernel.mtxN (k : GKernel) : Nat := k.mtx.getD 0

/-- The code of a role's budget; values that are no multiples of 16 within R48 are rejected (R19, R108). -/
def budgetCode : Option (Nat × Nat × Nat) → Option Nat
  | none => some 0
  | some (v, x, s) =>
    let b := s / 16 * 1024 + x / 16 * 32 + v / 16
    if v % 16 = 0 && x % 16 = 0 && s % 16 = 0 && s ≤ 128 && x ≤ 256 && v ≤ 256 && budgetOk b then some b else none

/-- POOLW of `.pool` (05 R50). -/
def GKernel.poolw (k : GKernel) : Nat := k.rf + k.sp * 2 ^ 6 + k.ts * 2 ^ 12 + k.spt * 2 ^ 18 + k.tgm * 2 ^ 24

/-- Every value of a directive fits its field, every role with groups has a budget, and every ring is declared once with 1 to 16 stages and releases (R108, 21 R228). -/
def GKernel.fits (k : GKernel) : Bool :=
  k.vecN < 64 && k.feedN < 64 && k.mtxN < 64 && k.spare < 64 && k.cores < 2 && k.prio < 4 && k.spill < 2 ^ 16 &&
  k.rf < 64 && k.sp < 64 && k.ts < 64 && k.spt < 64 && k.tgm < 16 &&
  (k.regV.isSome || (k.vecN == 0 && k.spare == 0)) && (k.regF.isSome || k.feedN == 0) && (k.regM.isSome || k.mtxN == 0) &&
  k.rings.all (fun r => r.1 < 8 && 1 ≤ r.2.1 && r.2.1 ≤ 16 && 1 ≤ r.2.2.getD 1 && r.2.2.getD 1 ≤ 16 && (k.rings.filter (·.1 == r.1)).length == 1)

/-- The launch template that `.endk` emits: ENTRY is a relocation, and ARGS, the grid and SPILLB are zero for the driver (R19, R108). -/
def GKernel.template (k : GKernel) : Option (BitVec 512) :=
  match budgetCode k.regV, budgetCode k.regF, budgetCode k.regM with
  | some bv, some bf, some bm =>
    let n := k.poolw * 2 ^ 128 +
      (k.vecN + k.feedN * 2 ^ 6 + k.mtxN * 2 ^ 12 + k.spare * 2 ^ 18 + k.prio * 2 ^ 24 + k.cores * 2 ^ 26) * 2 ^ 256 +
      (bv + bf * 2 ^ 16 + bm * 2 ^ 32) * 2 ^ 288 + k.spill * 2 ^ 352
    let l : BitVec 512 := BitVec.ofNat 512 n
    let r51 := ((launchFaults l {}).drop 6).take 2
    if k.fits && !(r51.any id) then some l else none
  | _, _, _ => none

/-- The reset value of a ring that `.ring` declares (21 R227, R228). -/
def ringReset (stages rel : Nat) : W64 := ({ en := true, reln := BitVec.ofNat 4 (rel - 1), nst := BitVec.ofNat 4 (stages - 1) } : Ring).word

/-- The rings of a kernel by number with their reset values, `rel` 1 where it is not given (R228): what the host gives the device for an ENTRY of a context (assumption log 8). -/
def GKernel.ringWords (k : GKernel) : List (Nat × W64) := k.rings.map fun r => (r.1, ringReset r.2.1 (r.2.2.getD 1))

/-! ### Data and layout records (09 R108; 19 R221) -/

/-- A value of a data directive: an expression, or a literal of the two floating types that `.half` and `.word` accept (R108). -/
inductive GValue where
  | int (e : GExpr)
  | float (x : GFloat)
deriving DecidableEq, Repr

/-- The bytes of a value in a directive of `n` bytes, little-endian (R1, R108). -/
def valueBytes (env : String → Option Int) (n : Nat) : GValue → Option (List Byte)
  | .int e => ((e.eval env).bind (immOf (8 * n))).map fun w => bytesOf n w.toNat
  | .float x => if n = 2 then some (bytesOf 2 (x.round (fmtOf 9))) else if n = 4 then some (bytesOf 4 (x.round fmtF32)) else none

/-- FILL of a record: an FP32 literal with bits [15:0] zero, or an integer (19 R221). -/
inductive GFill where
  | int (n : Int)
  | float (x : GFloat)
deriving DecidableEq, Repr

/-- The keys of `.record`; an omitted key is zero, and a box size 1 (19 R221). Formats stand as their codes, 16 and 17 for `e3m2p` and `e2m3p`. -/
structure GRecord where
  base   : GExpr := .lit 0
  base2  : GExpr := .lit 0
  ext    : List (Option Nat) := []
  stride : List Nat := []
  box    : List (Option Nat) := []
  mode   : Nat := 0
  mfmt   : Nat := 0
  sfmt   : Nat := 0
  scm    : Nat := 0
  scale  : Nat := 0
  trn    : Bool := false
  swz    : Bool := false
  col    : Nat := 0
  pitch  : Nat := 0
  scloff : Nat := 0
  fill   : GFill := .int 0
  padw   : Nat := 0
  padh   : Nat := 0
deriving DecidableEq, Repr

/-- The bits of FILL (19 R206, R221). -/
def GFill.bits : GFill → Option Nat
  | .int n => (immOf 16 n).map (·.toNat)
  | .float x => let w := x.round fmtF32; if w % 65536 = 0 then some (w / 65536) else none

/-- NDIM: the highest n for which `extN` is given (19 R221). -/
def GRecord.ndim (r : GRecord) : Nat := ((List.range 5).filter fun n => ((r.ext[n]?).getD none).isSome).getLast?.getD 0

def GRecord.extN (r : GRecord) (n : Nat) : Nat := ((r.ext[n]?).getD none).getD 0
def GRecord.boxN (r : GRecord) (n : Nat) : Nat := ((r.box[n]?).getD none).getD 1
def GRecord.strideN (r : GRecord) (n : Nat) : Nat := (r.stride[n]?).getD 0

/-- Every key within its values (19 R206, R221). -/
def GRecord.fits (r : GRecord) : Bool :=
  (List.range 5).all (fun n => r.extN n < 2 ^ 32 && 1 ≤ r.boxN n && r.boxN n ≤ 256) &&
  (List.range 4).all (fun n => r.strideN n % 16 == 0 && r.strideN n / 16 < 2 ^ 32) && r.mode < 4 && r.mfmt < 18 && r.sfmt < 16 && r.scm < 4 &&
  r.scale < 0xFF && r.col < 8 && r.pitch % 4 == 0 && r.pitch / 4 < 2 ^ 14 && r.scloff < 2 ^ 19 && r.padw < 256 && r.padh < 256

/-- The 64 bytes of a record with its addresses and FILL (19 R206). -/
def GRecord.bits (r : GRecord) (base base2 fill : Nat) : BitVec 512 :=
  BitVec.ofNat 512 (base +
    ((List.range 5).map fun n => r.extN n * 2 ^ (64 + 32 * n)).foldl (· + ·) 0 +
    ((List.range 4).map fun n => r.strideN n / 16 * 2 ^ (224 + 32 * n)).foldl (· + ·) 0 +
    ((List.range 4).map fun n => (r.boxN n - 1) * 2 ^ (352 + 8 * n)).foldl (· + ·) 0 +
    (r.scloff + r.pitch / 4 * 2 ^ 19 + (r.boxN 4 - 1) * 2 ^ 33 + r.col * 2 ^ 41 + r.ndim * 2 ^ 44 + r.swz.toNat * 2 ^ 47 + r.trn.toNat * 2 ^ 48 +
      r.scm * 2 ^ 49 + r.sfmt * 2 ^ 51 + r.mfmt * 2 ^ 56 + r.mode * 2 ^ 61) * 2 ^ 384 +
    (if r.mode = 3 then base2 else fill * 2 ^ 48 + r.scale * 2 ^ 40 + r.padw * 2 ^ 32 + r.padh * 2 ^ 24) * 2 ^ 448)

/-- The largest scratchpad of a team: SPT is at most 32 granules of 64 KiB (05 R50). -/
def maxScratch : Nat := 0x200000

/-- A key names a field that the mode's record does not have: BASE2 outside stash mode, and in it FILL, SCALE, PADW and PADH (R206). -/
def GRecord.strays (r : GRecord) (base2 fill : Nat) : Bool :=
  if r.mode = 3 then fill != 0 || r.scale != 0 || r.padw != 0 || r.padh != 0 else base2 != 0

/-- The record of a `.record` directive. One that fails R215 in every direction, at coordinates 0 and SP 0 in the largest scratchpad of a team, fails with any operands and is rejected (19 R221). -/
def GRecord.record (env : String → Option Int) (r : GRecord) : Option (BitVec 512) :=
  match (r.base.eval env).bind (natOf 57), (r.base2.eval env).bind (natOf 57), r.fill.bits with
  | some base, some base2, some fill =>
    let b := r.bits base base2 fill
    if !r.fits || r.strays base2 fill || [EngKind.load, .store, .stash].all (fun k => ((layOf b).check k [0, 0, 0, 0, 0] 0 maxScratch).isSome) then none
    else some b
  | _, _, _ => none

/-! ### A whole source (09 R108) -/

/-- The sections. -/
inductive GSect where
  | text | rodata | data
deriving DecidableEq, Repr

/-- What `rodata` and `data` hold. -/
inductive GDatum where
  | label (name : String)
  | align (n : Nat)
  /-- `.byte`, `.half`, `.word` or `.dword` by its size in bytes. -/
  | values (size : Nat) (l : List GValue)
  | record (name : String) (r : GRecord)
deriving DecidableEq, Repr

/-- The lines of a source: directives of R108, and `code` for labels, `.align`, instructions and clauses. -/
inductive GTop where
  | kernel (name : String)
  | endk
  | team (vec feed mtx : Option Nat) (spare cores prio spill : Nat)
  /-- Role 0 vec, 1 feed, 2 mtx; then v, x and s. -/
  | regs (role : Nat) (b : Nat × Nat × Nat)
  | pool (rf sp ts spt tgm : Nat)
  | ring (n stages : Nat) (rel : Option Nat)
  | section_ (s : GSect)
  | equ (name : String) (e : GExpr)
  | code (l : GLine)
  | data (d : GDatum)
deriving DecidableEq, Repr

/-- A run of text: a kernel's, with its name, or the clauses between kernels. -/
structure GBlock where
  name   : Option String := none
  k      : GKernel := {}
  /-- `.team` and `.pool` have been read. -/
  team   : Bool := false
  pool   : Bool := false
deriving DecidableEq, Repr

/-- What has been read of a source. The last block is open; it is a kernel's between `.kernel` and `.endk`. -/
structure GSource where
  sect   : GSect := .text
  done   : List GBlock := []
  open_  : GBlock := {}
  rodata : List GDatum := []
  data   : List GDatum := []
  equ    : List (String × GExpr) := []
deriving DecidableEq, Repr

/-- A directive of a kernel may stand here: inside one and before its first clause (R108). -/
def GBlock.heads (b : GBlock) : Bool := b.name.isSome && b.k.code.all fun l => match l with | .label _ | .align _ => true | _ => false

/-- The kernel of the open block changes. -/
def GSource.setK (s : GSource) (k : GKernel) : GSource := { s with open_ := { s.open_ with k := k } }

/-- A directive that sets up the open kernel; each stands at most once per kernel, role or ring (R108). -/
def GSource.setup (s : GSource) (k : GKernel) : GTop → Option GSource
  | .team v f m spare cores prio spill =>
    if s.open_.team then none
    else some { s with open_ := { s.open_ with team := true, k := { k with vec := v, feed := f, mtx := m, spare := spare, cores := cores, prio := prio, spill := spill } } }
  | .pool rf sp ts spt tgm =>
    if s.open_.pool then none else some { s with open_ := { s.open_ with pool := true, k := { k with rf := rf, sp := sp, ts := ts, spt := spt, tgm := tgm } } }
  | .regs 0 b => if k.regV.isSome then none else some (s.setK { k with regV := some b })
  | .regs 1 b => if k.regF.isSome then none else some (s.setK { k with regF := some b })
  | .regs 2 b => if k.regM.isSome then none else some (s.setK { k with regM := some b })
  | .ring n stages rel => if k.rings.any (·.1 == n) then none else some (s.setK { k with rings := k.rings ++ [(n, stages, rel)] })
  | _ => none

/-- An item of the current section, which is not text. -/
def GSource.put (s : GSource) (d : GDatum) : Option GSource :=
  match s.sect with
  | .text => none
  | .rodata => some { s with rodata := s.rodata ++ [d] }
  | .data => some { s with data := s.data ++ [d] }

/-- One line of a source (R108). -/
def GSource.line (s : GSource) : GTop → Option GSource
  | .kernel n => if s.open_.name.isSome || !nameOk n then none else some { s with done := s.done ++ [s.open_], open_ := { name := some n } }
  | .endk => if s.open_.name.isSome then some { s with done := s.done ++ [s.open_], open_ := {} } else none
  | .section_ x => some { s with sect := x }
  | .equ n e => if nameOk n then some { s with equ := s.equ ++ [(n, e)] } else none
  | .code l =>
    match s.sect, l with
    | .text, l => some (s.setK { s.open_.k with code := s.open_.k.code ++ [l] })
    | _, .label n => if nameOk n then s.put (.label n) else none
    | _, .align n => if n != 2 ^ Nat.log2 n then none else s.put (.align n)
    | _, _ => none
  | .data d => s.put d
  | t => if s.open_.heads then s.setup s.open_.k t else none

/-- The lines of a source, in order; a kernel left open is an error. -/
def GSource.lines (s : GSource) : List GTop → Option GSource
  | [] => if s.open_.name.isSome then none else some { s with done := s.done ++ [s.open_] }
  | l :: t => match s.line l with | some s1 => s1.lines t | none => none

/-- The labels of a data section from an address on, and the names of its records. -/
def dataLabels (at_ : Nat) : List GDatum → List (String × Nat)
  | [] => []
  | .label n :: t => (n, at_) :: dataLabels at_ t
  | .align n :: t => dataLabels (alignUp n at_) t
  | .values size l :: t => dataLabels (at_ + size * l.length) t
  | .record n _ :: t => (n, alignUp 64 at_) :: dataLabels (alignUp 64 at_ + 64) t

/-- The bytes of a data section from an address on. -/
def dataBytes (env : String → Option Int) (at_ : Nat) : List GDatum → Option (List Byte)
  | [] => some []
  | .label _ :: t => dataBytes env at_ t
  | .align n :: t => (dataBytes env (alignUp n at_) t).map fun r => List.replicate (alignUp n at_ - at_) 0 ++ r
  | .values size l :: t =>
    match allSome (l.map (valueBytes env size)), dataBytes env (at_ + size * l.length) t with
    | some a, some r => if size ∈ [1, 2, 4, 8] then some (a.flatten ++ r) else none
    | _, _ => none
  | .record _ r :: t =>
    match r.record env, dataBytes env (alignUp 64 at_ + 64) t with
    | some b, some rest => some (List.replicate (alignUp 64 at_ - at_) 0 ++ bytesOf 64 b.toNat ++ rest)
    | _, _ => none

/-- The values of the names of `.equ`, each over the labels and the names before it. -/
def equValues (labels : List (String × Nat)) (seen : List (String × Int)) : List (String × GExpr) → Option (List (String × Int))
  | [] => some seen
  | (n, e) :: t => match e.eval (nameValue labels seen) with | some x => equValues labels (seen ++ [(n, x)]) t | none => none

/-- What gyas makes of a source: the words of text by address, the bytes of the two data sections, and each kernel's launch template with ENTRY, its relocation, filled in. -/
structure GObject where
  text      : List (Nat × W64)
  rodata    : List Byte
  data      : List Byte
  templates : List (String × BitVec 512)
deriving DecidableEq, Repr

/-- The template of a kernel's block with its first clause as ENTRY; a kernel without a clause has none (R108). -/
def GBlock.emits (b : GBlock) (p : List (Nat × RawClause × Header)) : Option (List (String × BitVec 512)) :=
  match b.name, b.k.template, p with
  | none, _, _ => some []
  | some n, some l, c :: _ => some [(n, l ||| BitVec.ofNat 512 c.1)]
  | _, _, _ => none

/-- The object of a source whose sections stand at these addresses; a source with any error produces none (R108). -/
def objectOf (text rodata data : Nat) (src : List GTop) : Option GObject :=
  match ({} : GSource).lines src with
  | none => none
  | some s =>
    match allSome (s.done.map fun b => formClauses b.k.code) with
    | none => none
    | some cs =>
      let ps := placedAll text cs
      let tl := labelsOf ps.flatten
      let labels := tl ++ dataLabels rodata s.rodata ++ dataLabels data s.data
      match equValues labels [] s.equ with
      | none => none
      | some equ =>
        let env := nameValue labels equ
        let names := labels.map (·.1) ++ equ.map (·.1)
        if !distinctNames names || !names.all nameOk || text % 8 != 0 then none
        else
          match wordsAt tl env ps.flatten, dataBytes env rodata s.rodata, dataBytes env data s.data, allSome ((s.done.zip ps).map fun b => b.1.emits b.2) with
          | some w, some r, some d, some t => some { text := w, rodata := r, data := d, templates := t.flatten }
          | _, _, _, _ => none

end Sys2Proof.Machine
end

