-- ==== Sys2Proof/Tests/Slice0.lean ====
section
/-! SUPPORT. Tests: the checks of WellFormed, words written out from the manual's encodings, one step on small states, and states that meet the hypotheses of the statements. The expected values stand in the manual's tables or follow from them by hand. -/

section

set_option Elab.async false

open Sys2Proof Sys2Proof.Machine

/-! ### WellFormed refuses, check by check (09 R101) -/

theorem test_wellFormed_accepts : (Instr.sadd ⟨0, 12, 3, 4, 0, 0⟩).wellFormed = true := by decide
/-- An event is no instruction word (check 2). -/
theorem test_wellFormed_refuses_event : Instr.clauseBegin.wellFormed = false := by decide
/-- SC of SADD must be zero (check 3). -/
theorem test_wellFormed_refuses_mbz : (Instr.sadd ⟨0, 12, 3, 4, 1, 0⟩).wellFormed = false := by decide
/-- SYSREG 0xFFF is reserved (check 8). -/
theorem test_wellFormed_refuses_sysreg : (Instr.srd ⟨0, 6, 0, 0xFFF⟩).isEncodable = true ∧ (Instr.srd ⟨0, 6, 0, 0xFFF⟩).wellFormed = false := by decide
/-- Type 7 is reserved for VADD (check 9). -/
theorem test_wellFormed_refuses_type : (Instr.vadd ⟨0, 0, false, 1, 2, 3, 0, 7, 0, false, false, false⟩).isEncodable = true ∧
    (Instr.vadd ⟨0, 0, false, 1, 2, 3, 0, 7, 0, false, false, false⟩).wellFormed = false := by decide
/-- REGROUP with vA above vB is an illegal use (check 11; 03 R42). -/
theorem test_wellFormed_refuses_use : (Instr.regroup ⟨0, 0, false, 20, 9, 7, 0, 0, 0, false, false, false⟩).isEncodable = true ∧
    (Instr.regroup ⟨0, 0, false, 20, 9, 7, 0, 0, 0, false, false, false⟩).wellFormed = false := by decide

/-! ### Decoding: words that the manual writes out, with the fields that it lists -/

/-- The decoder reads `i` from the word. -/
def decodesTo (w : W64) (i : Instr) : Bool := match decodeWord w with | .ok j => j == i | .error _ => false
/-- The decoder refuses the word. -/
def decodesNot (w : W64) : Bool := match decodeWord w with | .ok _ => false | .error _ => true

/-- 10_encoding_notes.md: VEC clause of 4 words, WLD 2, TOKW 0x05, YLD 1. -/
theorem test_decode_header : decodeHeader 0xC3017FFE0B000000 = some ⟨3, .vec, ⟨2, 63, 15, 15, 5⟩, true⟩ := by decide
/-- 10_encoding_notes.md: F-SI, the immediate 0x80. -/
theorem test_decode_scalar_imm : decodesTo 0x0481830000000080 (.saddImm ⟨8, 12, 12, 0x80⟩) = true := by decide
/-- 11_isa_control.md: SCMP.lt s9, s3, #100; SSEL s4, s5, s6, s7; SGET s7, gid. -/
theorem test_decode_scalar : decodesTo 0x10A120C000000064 (.scmpImm ⟨10, 9, 3, 0x64⟩) = true ∧ decodesTo 0x1100814307000000 (.ssel ⟨0, 4, 5, 6, 7, 0⟩) = true ∧
    decodesTo 0x1500E00000000002 (.sget ⟨0, 7, 0, 2⟩) = true := by decide
/-- 10_encoding_notes.md and 11_isa_control.md: branches with the sign of TGT, PRS and PNEG. -/
theorem test_decode_branches : decodesTo 0x1600FFFFFF500000 (.bra ⟨0, 7, true, 0xFFFFF5, 0⟩) = true ∧ decodesTo 0x1700800000800010 (.brd ⟨0, 4, false, 8, 16⟩) = true ∧
    decodesTo 0x1900000001800000 (.call ⟨0, 0, false, 24, 0⟩) = true ∧ decodesTo 0x2201600000000000 (.exit ⟨0, 11, false, 0, 0⟩) = true := by decide
/-- 11_isa_control.md: WAIT, BAR, REGROUP and TRAP. -/
theorem test_decode_control : decodesTo 0x1E03FFF010000000 (.wait ⟨0, 63, 15, 15, 1⟩) = true ∧ decodesTo 0x2020000000000000 (.bar ⟨2, 0, 0, 0, 0, 0⟩) = true ∧
    decodesTo 0x2300014090007000 (.regroup ⟨0, 0, false, 20, 9, 0, 7, 0, 0, false, false, false⟩) = true ∧ decodesTo 0x240000000000002A (.trap ⟨0, 0, 0, 0x2A⟩) = true := by decide
/-- 09_encoding.md and 10_encoding_notes.md: floating words, a rounding mode, an immediate of 24 bits. -/
theorem test_decode_vector : decodesTo 0x4500A04030100840 (.vfmul ⟨0, 5, false, 4, 3, 1, 0, 8, 1, false, false, false⟩) = true ∧
    decodesTo 0x460000A04050A800 (.vfma ⟨0, 0, false, 10, 4, 5, 10, 8, 0, false, false, false⟩) = true ∧
    decodesTo 0x308000B0B2FFFFFF (.vaddImm ⟨8, 0, false, 11, 11, 2, 0xFFFFFF⟩) = true := by decide
/-- 13_isa_vector.md: compare, shuffle, the three-input function, scale set. -/
theorem test_decode_lanes : decodesTo 0x5221814050600800 (.vfcmp ⟨2, 12, false, 20, 5, 6, 0, 8, 0, false, false, false⟩) = true ∧
    decodesTo 0x5C20009030A00010 (.vshfl ⟨2, 0, false, 9, 3, 10, 0, 0, 0, false, true, false⟩) = true ∧
    decodesTo 0x3B80001020304E00 (.vbfn3 ⟨8, 0, false, 1, 2, 3, 4, 14, 0, false, false, false⟩) = true ∧
    decodesTo 0x6300004000900018 (.xset ⟨0, 0, false, 4, 0, 9, 0, 0, 0, false, true, true⟩) = true := by decide
/-- 13_isa_vector.md: conversions with their OPT in VC. -/
theorem test_decode_conversions : decodesTo 0x57C0028080004800 (.vrq ⟨12, 0, false, 40, 8, 0, 4, 8, 0, false, false, false⟩) = true ∧
    decodesTo 0x54C0005040001800 (.vcvt ⟨12, 0, false, 5, 4, 0, 1, 8, 0, false, false, false⟩) = true := by decide
/-- 17_isa_memory.md and 18_memory_notes.md: memory, fences, pins and stashes. -/
theorem test_decode_memory : decodesTo 0x8040001021001000 (.vld ⟨4, 0, false, 1, 2, 8, 0x40, 0, 0⟩) = true ∧ decodesTo 0x8140003021400000 (.vst ⟨4, 0, false, 3, 2, 10, 0, 0, 0⟩) = true ∧
    decodesTo 0x8F20002000000003 (.fence ⟨2, 0, false, 2, 0, 0, 0, 0, 3⟩) = true ∧ decodesTo 0x9101210000000000 (.lpin ⟨0, 9, 4, 0, 0, 0⟩) = true := by decide
/-- 21_isa_engines.md: copies, tokens, rings and the Gallery. -/
theorem test_decode_engines : decodesTo 0xC0028104B0000000 (.tcopy ⟨0, 20, 8, 1, 22, 0⟩) = true ∧ decodesTo 0xC200800400000000 (.tcqry ⟨0, 4, 0, 1, 0, 0⟩) = true ∧
    decodesTo 0xC410000448100000 (.rpush ⟨1, 0, 0, 1, 9, 2⟩) = true ∧ decodesTo 0xC511200000100000 (.rpop ⟨1, 9, 0, 0, 0, 2⟩) = true ∧
    decodesTo 0xC8B28108B0000000 (.gcopy ⟨0xB, 20, 8, 2, 22, 0⟩) = true ∧ decodesTo 0xCA028008B0080000 (.gsig ⟨0, 20, 0, 2, 22, 1⟩) = true ∧
    decodesTo 0xCF00000000180000 (.mirror ⟨0, 0, 0, 0, 0, 3⟩) = true := by decide
/-- 23_isa_matrix.md: tiles, products and accumulators. -/
theorem test_decode_matrix : decodesTo 0xA000003000900010 (.tshape ⟨0, 0, false, 3, 0, 9, 0, 0, 0, false, true, false⟩) = true ∧
    decodesTo 0xA3100030A1004001 (.tlds ⟨1, 0, false, 3, 10, 8, 0x100, 0, 1⟩) = true ∧ decodesTo 0xA510008030907010 (.tmov ⟨1, 0, false, 8, 3, 9, 7, 0, 0, false, true, false⟩) = true ∧
    decodesTo 0xA870409000000000 (.mmad ⟨7, 0, 1, 0, 2, 4, 0, 0, 0, false⟩) = true ∧ decodesTo 0xA70211A241000000 (.mmas ⟨0, 1, 0, 4, 6, 8, 4, 4, 0, true⟩) = true ∧
    decodesTo 0xAB14C00000000000 (.czero ⟨1, 2, 3, 0, 0, 0, 0, 0, 0, false⟩) = true ∧
    decodesTo 0xAE20002010900C10 (.crq ⟨2, 0, false, 2, 1, 9, 0, 12, 0, false, true, false⟩) = true := by decide
/-- 22_engines_notes.md: SRD s6, XSTAT. -/
theorem test_decode_system : decodesTo 0xE000C00008000000 (.srd ⟨0, 6, 0, 2⟩) = true := by decide
/-- 09 R99: OPC 0x00 and 0xF0 are reserved, whatever follows; a word that fills them with ones is refused. -/
theorem test_decode_reserved : decodesNot 0 = true ∧ decodesNot 0xF0FFFFFFFFFFFFFF = true := by decide

/-! ### States that meet the hypotheses of the statements about words -/

/-- The conditions of `Issues`, as a check. -/
def issuesCheck (i : Instr) (s : State) (c : Clause) : Bool :=
  s.cur.status == .live && s.cur.clause == some c && !s.cur.acqHeld && s.parkOf s.cur == .free &&
  (checkWord i.info s.cur c).isNone && !readsPoison i.info s.cur && !ownPoisoned i s s.cur

theorem issues_of_check {i : Instr} {s : State} {c : Clause} (h : issuesCheck i s c = true) : Issues i s c := by
  simp only [issuesCheck, Bool.and_eq_true, beq_iff_eq, Bool.not_eq_true', Option.isNone_iff_eq_none] at h
  obtain ⟨⟨⟨⟨⟨⟨h1, h2⟩, h3⟩, h4⟩, h5⟩, h6⟩, h7⟩ := h
  exact ⟨⟨h1, h2, h3, h4⟩, h5, h6, h7⟩

/-- The state that a word is placed in, and the clause that holds it. -/
def wordState (i : Instr) : State := State.reset.withFetchWord 64 (encodeNat i)
def wordClause (i : Instr) : Clause := ((wordState i).cur.clause).getD ⟨⟨0, .vec, noWait, false⟩, [], 0⟩

/-- The well-formed word issues there with ACTIVE non-empty. -/
def issuesThere (i : Instr) : Bool := i.wellFormed && issuesCheck i (wordState i) (wordClause i) && (wordState i).activeOf i != 0

theorem issues_there {i : Instr} (h : issuesThere i = true) : Issues i (wordState i) (wordClause i) ∧ (wordState i).activeOf i ≠ 0 := by
  simp only [issuesThere, Bool.and_eq_true, bne_iff_ne, ne_eq] at h
  exact ⟨issues_of_check h.1.2, h.2⟩

def words0 : List Instr :=
  [.smov ⟨0, 12, 8, 0, 0, 0⟩, .smovi ⟨0, 12, 0, 5⟩, .sadd ⟨0, 12, 8, 6, 0, 0⟩, .saddImm ⟨8, 12, 8, 5⟩,
   .ssub ⟨0, 12, 8, 6, 0, 0⟩, .ssubImm ⟨8, 12, 8, 5⟩, .smul ⟨0, 12, 8, 6, 0, 0⟩, .smulImm ⟨8, 12, 8, 5⟩,
   .smulhi ⟨0, 12, 8, 6, 0, 0⟩, .sand ⟨0, 12, 8, 6, 0, 0⟩, .sandImm ⟨8, 12, 8, 5⟩, .sor ⟨0, 12, 8, 6, 0, 0⟩,
   .sorImm ⟨8, 12, 8, 5⟩, .sxor ⟨0, 12, 8, 6, 0, 0⟩, .sxorImm ⟨8, 12, 8, 5⟩, .sshl ⟨0, 12, 8, 6, 0, 0⟩,
   .sshlImm ⟨8, 12, 8, 5⟩, .sshr ⟨0, 12, 8, 6, 0, 0⟩, .sshrImm ⟨8, 12, 8, 5⟩]
/-- From smov to sshrImm: each issues. -/
theorem witness_words0 : words0.all issuesThere = true := by decide +kernel

def words1 : List Instr :=
  [.ssar ⟨0, 12, 8, 6, 0, 0⟩, .ssarImm ⟨8, 12, 8, 5⟩, .smin ⟨0, 12, 8, 6, 0, 0⟩, .sminImm ⟨8, 12, 8, 5⟩,
   .smax ⟨0, 12, 8, 6, 0, 0⟩, .smaxImm ⟨8, 12, 8, 5⟩, .scmp ⟨0, 12, 8, 6, 0, 0⟩, .scmpImm ⟨8, 12, 8, 5⟩,
   .ssel ⟨0, 12, 8, 6, 10, 0⟩, .spopc ⟨0, 12, 8, 0, 0, 0⟩, .sclz ⟨0, 12, 8, 0, 0, 0⟩, .sbfx ⟨0, 12, 8, 6, 10, 0⟩,
   .sget ⟨0, 12, 0, 5⟩, .bra ⟨0, 0, false, 8, 0⟩, .brd ⟨0, 0, false, 8, 16⟩, .bri ⟨0, 0, 8, 0, 0, 0⟩,
   .call ⟨0, 0, false, 8, 0⟩, .wait ⟨0, 63, 15, 15, 1⟩, .bar ⟨0, 0, 0, 0, 0, 0⟩]
/-- From ssar to bar: each issues. -/
theorem witness_words1 : words1.all issuesThere = true := by decide +kernel

def words2 : List Instr :=
  [.barrive ⟨0, 0, 0, 0, 0, 0⟩, .exit ⟨0, 0, false, 0, 0⟩, .regroup ⟨0, 0, false, 4, 8, 0, 0, 0, 0, false, false, false⟩, .trap ⟨0, 0, 0, 5⟩,
   .vadd ⟨0, 0, false, 4, 8, 12, 0, 0, 0, false, false, false⟩, .vaddImm ⟨8, 0, false, 4, 8, 0, 5⟩, .vsub ⟨0, 0, false, 4, 8, 12, 0, 0, 0, false, false, false⟩, .vsubImm ⟨8, 0, false, 4, 8, 0, 5⟩,
   .vmul ⟨0, 0, false, 4, 8, 12, 0, 0, 0, false, false, false⟩, .vmulImm ⟨8, 0, false, 4, 8, 0, 5⟩, .vmad ⟨0, 0, false, 4, 8, 12, 9, 0, 0, false, false, false⟩, .vmin ⟨0, 0, false, 4, 8, 12, 0, 0, 0, false, false, false⟩,
   .vminImm ⟨8, 0, false, 4, 8, 0, 5⟩, .vmax ⟨0, 0, false, 4, 8, 12, 0, 0, 0, false, false, false⟩, .vmaxImm ⟨8, 0, false, 4, 8, 0, 5⟩, .vabs ⟨0, 0, false, 4, 8, 0, 0, 0, 0, false, false, false⟩,
   .vand ⟨0, 0, false, 4, 8, 12, 0, 0, 0, false, false, false⟩, .vandImm ⟨8, 0, false, 4, 8, 0, 5⟩, .vor ⟨0, 0, false, 4, 8, 12, 0, 0, 0, false, false, false⟩]
/-- From barrive to vor: each issues. -/
theorem witness_words2 : words2.all issuesThere = true := by decide +kernel

def words3 : List Instr :=
  [.vorImm ⟨8, 0, false, 4, 8, 0, 5⟩, .vxor ⟨0, 0, false, 4, 8, 12, 0, 0, 0, false, false, false⟩, .vxorImm ⟨8, 0, false, 4, 8, 0, 5⟩, .vnot ⟨0, 0, false, 4, 8, 0, 0, 0, 0, false, false, false⟩,
   .vbfn3 ⟨0, 0, false, 4, 8, 12, 9, 0, 0, false, false, false⟩, .vshl ⟨0, 0, false, 4, 8, 12, 0, 0, 0, false, false, false⟩, .vshlImm ⟨8, 0, false, 4, 8, 0, 5⟩, .vshr ⟨0, 0, false, 4, 8, 12, 0, 0, 0, false, false, false⟩,
   .vshrImm ⟨8, 0, false, 4, 8, 0, 5⟩, .vsar ⟨0, 0, false, 4, 8, 12, 0, 0, 0, false, false, false⟩, .vsarImm ⟨8, 0, false, 4, 8, 0, 5⟩, .vbfx ⟨0, 0, false, 4, 8, 12, 9, 0, 0, false, false, false⟩,
   .vbfi ⟨0, 0, false, 4, 8, 12, 9, 0, 0, false, false, false⟩, .vpopc ⟨0, 0, false, 4, 8, 0, 0, 0, 0, false, false, false⟩, .vclz ⟨0, 0, false, 4, 8, 0, 0, 0, 0, false, false, false⟩, .vfadd ⟨0, 0, false, 4, 8, 12, 0, 8, 0, false, false, false⟩,
   .vfaddImm ⟨8, 0, false, 4, 8, 8, 5⟩, .vfsub ⟨0, 0, false, 4, 8, 12, 0, 8, 0, false, false, false⟩, .vfsubImm ⟨8, 0, false, 4, 8, 8, 5⟩]
/-- From vorImm to vfsubImm: each issues. -/
theorem witness_words3 : words3.all issuesThere = true := by decide +kernel

def words4 : List Instr :=
  [.vfmul ⟨0, 0, false, 4, 8, 12, 0, 8, 0, false, false, false⟩, .vfmulImm ⟨8, 0, false, 4, 8, 8, 5⟩, .vfma ⟨0, 0, false, 4, 8, 12, 9, 8, 0, false, false, false⟩, .vfmin ⟨0, 0, false, 4, 8, 12, 0, 8, 0, false, false, false⟩,
   .vfminImm ⟨8, 0, false, 4, 8, 8, 5⟩, .vfmax ⟨0, 0, false, 4, 8, 12, 0, 8, 0, false, false, false⟩, .vfmaxImm ⟨8, 0, false, 4, 8, 8, 5⟩, .vfrnd ⟨0, 0, false, 4, 8, 0, 0, 8, 0, false, false, false⟩,
   .vfrcp ⟨0, 0, false, 4, 8, 0, 0, 8, 0, false, false, false⟩, .vfrsq ⟨0, 0, false, 4, 8, 0, 0, 8, 0, false, false, false⟩, .vfsqrt ⟨0, 0, false, 4, 8, 0, 0, 8, 0, false, false, false⟩, .vfexp2 ⟨0, 0, false, 4, 8, 0, 0, 8, 0, false, false, false⟩,
   .vflog2 ⟨0, 0, false, 4, 8, 0, 0, 8, 0, false, false, false⟩, .vftrig ⟨0, 0, false, 4, 8, 0, 0, 8, 0, false, false, false⟩, .vftanh ⟨0, 0, false, 4, 8, 0, 0, 8, 0, false, false, false⟩, .vcmp ⟨0, 0, false, 4, 8, 12, 0, 2, 0, false, false, false⟩,
   .vcmpImm ⟨8, 0, false, 4, 8, 2, 5⟩, .vfcmp ⟨0, 0, false, 4, 8, 12, 0, 8, 0, false, false, false⟩, .vfcmpImm ⟨8, 0, false, 4, 8, 8, 5⟩]
/-- From vfmul to vfcmpImm: each issues. -/
theorem witness_words4 : words4.all issuesThere = true := by decide +kernel

def words5 : List Instr :=
  [.vsel ⟨0, 0, false, 4, 8, 12, 9, 0, 0, false, false, false⟩, .vcvt ⟨0, 0, false, 4, 8, 0, 0, 0, 0, false, false, false⟩, .vpack ⟨9, 0, false, 4, 8, 0, 0, 8, 0, false, false, false⟩, .vunpack ⟨0, 0, false, 4, 8, 0, 0, 9, 0, false, false, false⟩,
   .vrq ⟨11, 0, false, 4, 8, 0, 0, 8, 0, false, false, false⟩, .vmov ⟨0, 0, false, 4, 8, 0, 0, 0, 0, false, false, false⟩, .vmovi ⟨0, 0, false, 4, 0, 2, 5⟩, .vbcast ⟨0, 0, false, 4, 8, 0, 0, 0, 0, false, false, false⟩,
   .vlane ⟨0, 0, false, 4, 0, 0, 0, 0, 0, false, false, false⟩, .vshfl ⟨0, 0, false, 4, 8, 12, 0, 0, 0, false, false, false⟩, .vvote ⟨0, 0, false, 4, 8, 0, 0, 0, 0, false, false, false⟩, .vmatch ⟨0, 0, false, 4, 8, 0, 0, 6, 0, false, false, false⟩,
   .vscan ⟨0, 0, false, 4, 8, 0, 0, 2, 0, false, false, false⟩, .vreduce ⟨0, 0, false, 4, 8, 0, 0, 2, 0, false, false, false⟩, .vrand ⟨0, 0, false, 4, 0, 0, 0, 0, 0, false, false, false⟩, .xmov ⟨0, 0, false, 4, 8, 0, 0, 0, 0, false, false, false⟩,
   .xset ⟨0, 0, false, 4, 0, 12, 0, 0, 0, false, true, true⟩, .xmaxe ⟨11, 0, false, 4, 8, 0, 0, 8, 0, false, false, false⟩, .vld ⟨0, 0, false, 4, 8, 12, 64, 0, 1⟩]
/-- From vsel to vld: each issues. -/
theorem witness_words5 : words5.all issuesThere = true := by decide +kernel

def words6 : List Instr :=
  [.vst ⟨0, 0, false, 4, 8, 12, 64, 0, 1⟩, .vlds ⟨0, 0, false, 4, 8, 12, 64, 0, 1⟩, .vsts ⟨0, 0, false, 4, 8, 12, 64, 0, 1⟩, .sld ⟨0, 0, false, 4, 0, 0, 0, 0, 1⟩,
   .sst ⟨0, 0, false, 4, 0, 0, 0, 0, 1⟩, .vldx ⟨0, 0, false, 4, 8, 12, 64, 0, 1⟩, .vstx ⟨0, 0, false, 4, 8, 12, 64, 0, 1⟩, .vatom ⟨0, 0, false, 4, 8, 12, 64, 0, 1⟩,
   .vfatom ⟨0, 0, false, 4, 8, 12, 64, 0, 1⟩, .vatoms ⟨0, 0, false, 4, 8, 12, 64, 0, 1⟩, .satom ⟨0, 0, false, 4, 0, 0, 0, 0, 1⟩, .vred ⟨0, 0, false, 4, 8, 12, 64, 0, 1⟩,
   .ldrsv ⟨4, 0, false, 4, 8, 12, 64, 0, 1⟩, .stcnd ⟨4, 0, false, 4, 8, 12, 64, 0, 1⟩, .fence ⟨1, 0, false, 4, 0, 0, 0, 0, 1⟩, .pref ⟨0, 0, false, 0, 8, 12, 0, 0, 0⟩,
   .lpin ⟨0, 12, 8, 0, 0, 0⟩, .lunpin ⟨0, 0, 8, 0, 0, 0⟩, .drain ⟨3, 0, false, 2, 0, 0, 0, 0, 0⟩]
/-- From vst to drain: each issues. -/
theorem witness_words6 : words6.all issuesThere = true := by decide +kernel

def words7 : List Instr :=
  [.presq ⟨0, 0, false, 0, 8, 12, 0, 0, 0⟩, .stash ⟨0, 20, 8, 1, 22, 0⟩, .spjoin ⟨0, 12, 8, 0, 0, 0⟩, .tshape ⟨0, 0, false, 4, 0, 12, 0, 0, 0, false, true, false⟩,
   .tscl ⟨0, 0, false, 4, 8, 12, 9, 0, 0, false, true, false⟩, .tzero ⟨0, 0, 0, 5, 0, 0, 0, 0, 0, false⟩, .tlds ⟨0, 0, false, 4, 8, 12, 64, 0, 1⟩, .tsts ⟨0, 0, false, 4, 8, 12, 64, 0, 1⟩,
   .tmov ⟨0, 0, false, 4, 8, 12, 9, 0, 0, false, true, false⟩, .mma ⟨0, 1, 0, 4, 6, 0, 0, 0, 0, false⟩, .mmas ⟨0, 1, 0, 4, 6, 8, 0, 0, 0, true⟩, .mmad ⟨0, 1, 2, 4, 6, 8, 0, 0, 0, false⟩,
   .mmaf ⟨0, 1, 0, 4, 6, 0, 0, 0, 0, false⟩, .mmai ⟨0, 1, 0, 4, 6, 0, 0, 0, 0, false⟩, .czero ⟨0, 1, 2, 0, 0, 0, 0, 0, 0, false⟩, .clds ⟨0, 0, false, 4, 8, 12, 64, 0, 1⟩,
   .csts ⟨0, 0, false, 4, 8, 12, 64, 0, 1⟩, .crq ⟨0, 0, false, 4, 0, 12, 0, 11, 0, false, true, false⟩, .ctov ⟨0, 0, false, 4, 0, 12, 0, 0, 0, false, true, false⟩]
/-- From presq to ctov: each issues. -/
theorem witness_words7 : words7.all issuesThere = true := by decide +kernel

def words8 : List Instr :=
  [.vtoc ⟨0, 0, false, 4, 8, 12, 9, 0, 0, false, true, false⟩, .cscale ⟨0, 0, false, 4, 0, 12, 0, 0, 0, false, true, false⟩, .tcopy ⟨0, 20, 8, 1, 22, 0⟩, .tcopys ⟨0, 20, 8, 1, 22, 0⟩,
   .tcqry ⟨0, 20, 0, 1, 0, 0⟩, .tokclr ⟨0, 0, 0, 1, 0, 0⟩, .rpush ⟨0, 0, 0, 0, 22, 2⟩, .rpop ⟨0, 20, 0, 0, 0, 2⟩,
   .rwait ⟨0, 0, 0, 0, 22, 2⟩, .rrel ⟨0, 0, 0, 0, 22, 2⟩, .gcopy ⟨0, 20, 8, 1, 0, 0⟩, .gflush ⟨0, 0, 0, 1, 22, 0⟩,
   .gsig ⟨0, 20, 0, 1, 22, 2⟩, .gbar ⟨0, 0, 0, 0, 22, 2⟩, .gslot ⟨0, 20, 0, 0, 22, 0⟩, .nrmadd ⟨0, 20, 0, 0, 22, 0⟩,
   .nrmrd ⟨0, 20, 0, 0, 0, 0⟩, .mirror ⟨0, 0, 0, 0, 0, 2⟩, .srd ⟨0, 12, 0, 0⟩]
/-- From vtoc to srd: each issues. -/
theorem witness_words8 : words8.all issuesThere = true := by decide +kernel

def words9 : List Instr :=
  [.swr ⟨0, 0, 8, 2⟩, .tret ⟨0, 0, 0, 0⟩, .ctxsv ⟨0, 0, 8, 0⟩, .ctxld ⟨0, 0, 8, 0⟩,
   .tlbinv ⟨0, 0, 8, 0⟩, .cinv ⟨1, 0, 8, 0⟩, .heatrd ⟨0, 12, 8, 0⟩, .dbgrd ⟨0, 12, 8, 0⟩,
   .dbgwr ⟨0, 12, 8, 0⟩, .qpost ⟨0, 12, 8, 0⟩, .heatctlWrite ⟨0, 0, 8, 96⟩, .barstWrite ⟨0, 0, 8, 32⟩,
   .ringstWrite ⟨0, 0, 8, 48⟩, .pcbrkWrite ⟨0, 0, 8, 256⟩, .sampctlWrite ⟨0, 0, 8, 272⟩, .normboxWrite ⟨0, 0, 8, 64⟩,
   .nop, .ret, .join]
/-- From swr to join: each issues. -/
theorem witness_words9 : words9.all issuesThere = true := by decide +kernel

def words10 : List Instr :=
  [.widen, .narrow, .yield, .spleave,
   .errclr, .icinv]
/-- From widen to icinv: each issues. -/
theorem witness_words10 : words10.all issuesThere = true := by decide +kernel

/-! ### States that meet the hypotheses of the other statements, by their clauses -/

/-- `s` with its current group changed. -/
def edit (s : State) (f : Group → Group) : State := s.setCur (f s.cur)
/-- `s` with context 0 changed. -/
def editCtx (s : State) (f : Ctx → Ctx) : State := s.setCtx 0 (f (s.ctx 0))
/-- `s` with team 0 changed. -/
def editTeam (s : State) (f : Team → Team) : State := s.setTeam 0 (f (s.team 0))
/-- A group at a NOP. -/
def nopState : State := wordState .nop
/-- The same with a word more in its clause. -/
def longState (i : Instr) : State := edit (wordState i) fun g => { g with clause := g.clause.map fun c => { c with words := c.words ++ c.words } }

theorem witness_DecodeOfEncode : (Instr.sadd ⟨0, 12, 3, 4, 0, 0⟩).isEncodable = true ∧ (Instr.vst ⟨0xD, 127, true, 255, 255, 127, 0x7FFF, 7, 3⟩).isEncodable = true := by decide
theorem witness_EncodeOfDecode : decodesTo 0x81D0C040A100000B (.vst ⟨0xD, 6, false, 4, 10, 8, 0, 1, 3⟩) = true := by decide
theorem witness_StepRunsDecoded_word : nopState.agenda = .issue 0 0 :: [] ∧ State.schedDue { nopState with agenda := [] } 0 0 = none ∧
    State.chosen { nopState with agenda := [] } 0 0 = some 0 ∧
    (State.group { nopState with agenda := [] } 0).clause = some (wordClause .nop) ∧ (wordClause .nop).words[0]? = some (encode .nop) ∧
    (State.runs { nopState with agenda := [] } 0).hits 0 = [] ∧ decodesTo (encode .nop) .nop = true ∧ decodesNot 0x65FFFFFFFFFFFFFF = true := by decide +kernel
theorem witness_StepRunsDecoded_event : (({ State.reset with agenda := [.event 3 .galleryStep] } : State).agenda = .event 3 .galleryStep :: []) := rfl
theorem witness_StepKeepsMemory : State.reset.memOk = true ∧ nopState.memOk = true ∧ (match step nopState with | .next _ => true | _ => false) = true := by decide +kernel

/-- CheckOrder, clause by clause: a class mismatch, a place, a role, a privilege, and a register just beyond the allocation. -/
theorem witness_FailedChecks :
    (let i := Instr.vadd ⟨0, 0, false, 1, 2, 3, 0, 2, 0, false, false, false⟩
     let g := (wordState i).cur
     let c := wordClause i
     checkWord i.info g { c with hdr := { c.hdr with cls := .mem } } = some 1 ∧ checkWord i.info { g with role := .feed } c = some 1 ∧
     checkWord i.info { g with nv := 3 } c = some 1 ∧ checkWord i.info { g with nv := 4 } c = none) ∧
    checkWord (Instr.info (.bar ⟨2, 0, 0, 0, 0, 0⟩)) (longState (.bar ⟨2, 0, 0, 0, 0, 0⟩)).cur (((longState (.bar ⟨2, 0, 0, 0, 0, 0⟩)).cur.clause).getD (wordClause .nop)) = some 1 ∧
    (let i := Instr.ctxsv ⟨0, 0, 0, 0⟩
     checkWord i.info { nopState.cur with mode := .user } { wordClause .nop with hdr := { (wordClause .nop).hdr with cls := .sys } } = some 2) := by decide +kernel
/-- The group of a failed check stands at the word: AtWord. -/
theorem witness_FailedChecks_at : let s := edit (wordState (.vadd ⟨0, 0, false, 1, 2, 3, 0, 2, 0, false, false, false⟩)) fun g => { g with nv := 3 }
    s.cur.status = .live ∧ s.cur.acqHeld = false ∧ s.parkOf s.cur = .free := by decide +kernel
theorem witness_KillAndError : (2 ^ 31 - 1 : Nat) < 2 ^ 31 ∧ ({} : Ctx).errstat.getLsbD 63 = false ∧
    ((({} : Ctx).recordErr (2 ^ 31 - 1) 31 255 (2 ^ 57 - 1)).errstat.getLsbD 63 = true) := by decide +kernel
/-- A first event, a second in its cycle from a lower core, and one in a later cycle. -/
theorem witness_KillAndError_order : (let c := ({} : Ctx).recordAt 7 3 5 1 3 64
    c.errstat.getLsbD 63 = true ∧ c.errFirst = some (7, 3, 5, 1) ∧ (2 < 3 ∨ (2 = 3 ∧ (9 < 5 ∨ (9 = 5 ∧ 1 < 1)))) ∧ (7 : Nat) ≠ 8) := by decide +kernel
theorem witness_PoisonAndSoftware :
    (let i := Instr.sadd ⟨0, 12, 8, 6, 0, 0⟩
     let s := edit (wordState i) fun g => { g with sp := 1#128 <<< 8 }
     ownIllegal i = false ∧ checkWord i.info s.cur (wordClause i) = none ∧ readsPoison i.info s.cur = true ∧ s.parkOf s.cur = .free) ∧
    (let i := Instr.trap ⟨0, 0, 0, 0x2A⟩
     (wordState i).cur.mask ≠ 0 ∧ (edit (wordState i) fun g => { g with exited := 0xFFFFFFFF }).cur.mask = 0 ∧
     issuesCheck i (edit (wordState i) fun g => { g with exited := 0xFFFFFFFF }) (wordClause i) = true) := by decide +kernel
theorem witness_TrapEntry :
    (let s := editCtx nopState fun c => { c with userEntry := 8 }
     (s.group 0).mode = .user ∧ (s.ctxOf (s.group 0)).userEntry ≠ 0) ∧
    (nopState.group 0).mode ≠ .sysHandler ∧ (nopState.ctxOf (nopState.group 0)).userEntry = 0 ∧
    ((edit nopState fun g => { g with mode := .userHandler }).group 0).mode = .userHandler := by decide +kernel
/-- A handler at its TRET, with a frame of each shape. -/
def tretState (m : BitVec 4) (f : Frame) : State :=
  edit (wordState (.tret ⟨m, 0, 0, 0⟩)) fun g => { g with mode := .userHandler, frameU := some f, widen := f.widen }
theorem witness_TretEffect :
    [((0 : BitVec 4), ({} : Frame)), (0, { inside := true }), (1, { inside := true }), (1, { inside := true, endsClause := true })].all (fun p =>
      let s := tretState p.1 p.2
      issuesCheck (.tret ⟨p.1, 0, 0, 0⟩) s (wordClause (.tret ⟨p.1, 0, 0, 0⟩)) && s.cur.frame == some p.2 && !tretBad ⟨p.1, 0, 0, 0⟩ s s.cur && s.cur.mask != 0) = true := by decide +kernel
/-- The same in the system handler: the resume handler, and `.park` after a save. -/
theorem witness_TretEffect_system :
    [((0 : BitVec 4), ({ resume := true } : Frame)), (2, { cause := 0x0A })].all (fun p =>
      let i := Instr.tret ⟨p.1, 0, 0, 0⟩
      let s := edit (wordState i) fun g => { g with mode := .sysHandler, frameS := some p.2, staged := some 0, saved := true }
      issuesCheck i s (wordClause i) && s.cur.frame == some p.2 && !tretBad ⟨p.1, 0, 0, 0⟩ s s.cur && s.cur.mask != 0) = true := by decide +kernel

/-- A word issues at an edited state. -/
def okAt (i : Instr) (f : Group → Group) (more : State → Bool) : Bool :=
  let s := edit (wordState i) f
  issuesCheck i s (wordClause i) && more s
/-- Stack entries. -/
def ent (pc rcv mask : Nat) : StackEntry := { pc := BitVec.ofNat 64 pc, rcv := BitVec.ofNat 64 rcv, mask := BitVec.ofNat 32 mask }

/-- SBFX with position 32 and width 0; the eight conditions of SCMP; every selector of SGET with a lane left, and with none. -/
theorem witness_ScalarOperations :
    okAt (.sbfx ⟨0, 12, 8, 6, 10, 0⟩) (fun g => { g with s := [(6, 32), (10, 0)] }) (fun s => s.cur.rs 6 == 32 && s.cur.rs 10 == 0) = true ∧
    okAt (.smov ⟨0, 0, 8, 0, 0, 0⟩) id (fun _ => true) = true ∧
    (List.range 8).all (fun m => BitVec.toNat (BitVec.ofNat 4 (m + 8)) % 8 == m) = true := by decide +kernel
theorem witness_ScalarReadsAndWrites :
    (List.range 13).all (fun k => okAt (.sget ⟨0, 7, 0, BitVec.ofNat 32 k⟩) id (fun s => s.cur.mask != 0)) = true ∧
    okAt (.sget ⟨0, 7, 0, 0⟩) (fun g => { g with exited := 0xFFFFFFFF }) (fun s => s.cur.mask == 0) = true ∧ (127 : Nat) < 128 := by decide +kernel
theorem witness_ControlAndBrackets :
    okAt .widen id (fun s => s.cur.widen.isNone) = true ∧ okAt .widen (fun g => { g with widen := some 1 }) (fun s => s.cur.widen.isSome) = true ∧
    okAt .narrow (fun g => { g with widen := some 1 }) (fun s => s.cur.widen.isSome) = true ∧ okAt .narrow id (fun s => s.cur.widen.isNone) = true := by decide +kernel
/-- BRI: in a bracket; the pair at 2^57; a misaligned pair; the highest good pair. BRD: an empty side, the other, a split on chip, beyond the depth, and into a spill area of one entry. JOIN at its entry and elsewhere. -/
theorem witness_BranchesAndJoins :
    (let i := Instr.bri ⟨0, 0, 8, 6, 0, 0⟩
     okAt i (fun g => { g with widen := some 1 }) (fun s => s.cur.widen.isSome) && okAt i (fun g => { g with s := [(6, 0x2000000)] }) (fun s => (s.cur.rs 6).toNat == 2 ^ 25) &&
     okAt i (fun g => { g with s := [(8, 4), (6, 1)] }) (fun s => (s.cur.rs 8).toNat % 8 != 0) && okAt i (fun g => { g with s := [(8, 8), (6, 0x1FFFFFF)] }) (fun s => (s.cur.rs 6).toNat < 2 ^ 25)) = true ∧
    (let i := Instr.brd ⟨0, 4, false, 8, 16⟩
     let deep := fun (n : Nat) => List.replicate n (ent 0 1 0xFFFFFFFF)
     okAt i (fun g => { g with s := [(4, 0)] }) (fun s => s.cur.mask &&& s.cur.rs 4 == 0) && okAt i (fun g => { g with s := [(4, 0xFFFFFFFF)] }) (fun s => s.cur.mask &&& ~~~(s.cur.rs 4) == 0) &&
     okAt i (fun g => { g with s := [(4, 0xFF)], stack := deep 30 }) (fun s => (s.cur.stack.drop 1).length + 3 == 32) &&
     okAt i (fun g => { g with s := [(4, 0xFF)], stack := deep 31 }) (fun s => decide (32 + lrecSpillN (s.lrecOf s.cur) < (s.cur.stack.drop 1).length + 3)) &&
     okAt i (fun g => { g with s := [(4, 0xFF)], stack := deep 30 }) (fun s =>
       let g := s.cur.issuing
       match (s.setCur g).spillWrites g [(29, s.cur.top), (30, s.cur.top), (31, s.cur.top)] with | .ok (s1, _) => s1.cur.status == .live && s1.who == s.who | .error _ => false)) = true ∧
    okAt .join id (fun s => decide (s.cur.stack.length ≤ 1)) = true ∧
    okAt .join (fun g => { g with stack := [ent 0 0 0xF, ent 8 1 0xFF] }) (fun s => s.cur.top.rcv == s.cur.pc.setWidth 64) = true := by decide +kernel
/-- CALL at the last depth and beyond; RET with and without a frame entry; EXIT with no lane, some lanes, the path's last, the group's last. -/
theorem witness_CallsAndExits :
    (let i := Instr.call ⟨0, 0, false, 24, 0⟩
     let deep := fun (n : Nat) => List.replicate n (ent 0 1 0xFFFFFFFF)
     okAt i (fun g => { g with stack := deep 31 }) (fun s => (s.cur.stack.drop 1).length + 2 == 32) &&
     okAt i (fun g => { g with stack := deep 32 }) (fun s => decide (32 + lrecSpillN (s.lrecOf s.cur) < (s.cur.stack.drop 1).length + 2))) = true ∧
    okAt .ret id (fun s => s.cur.stack.all fun e => e.rcv != 3) = true ∧
    okAt .ret (fun g => { g with stack := [ent 0 3 0xF, ent 8 1 0xFF] }) (fun s => decide (s.cur.stack = [] ++ ent 0 3 0xF :: [ent 8 1 0xFF])) = true ∧
    (let i := Instr.exit ⟨0, 11, false, 0, 0⟩
     okAt i (fun g => { g with s := [(11, 0)] }) (fun s => s.cur.mask &&& s.cur.rs 11 == 0) && okAt i (fun g => { g with s := [(11, 1)] }) (fun s => s.cur.mask &&& s.cur.rs 11 == 1) &&
     okAt i (fun g => { g with s := [(11, 0xF)], stack := [ent 0 1 0xF, ent 8 1 0xFF], exited := 0xFFFFFF00 }) (fun s => s.cur.mask == 0xF && s.cur.mask &&& ~~~(s.cur.rs 11) == 0) &&
     okAt i (fun g => { g with s := [(11, 0xFFFFFFFF)] }) (fun s => s.cur.exited ||| (s.cur.mask &&& s.cur.rs 11) == 0xFFFFFFFF)) = true := by decide +kernel
theorem witness_TeamBarriers :
    (let b : Barrier := { e := 3 }
     b.arr.length + 1 + b.gone.length < b.e ∧ ({ b with arr := [0, 1] } : Barrier).arr.length + 1 + b.gone.length = b.e ∧
     (b.e ≤ ({ b with arr := [0, 1], carried := [0] } : Barrier).arr.length + 1 + b.gone.length) ∧ 1 ∈ ({ b with arr := [0, 1] } : Barrier).arr ∧
     (({ b with arr := [0, 1], carried := [1] } : Barrier).arrive 1) = none) ∧
    [Instr.bar ⟨2, 0, 0, 0, 0, 0⟩, .barrive ⟨2, 0, 0, 0, 0, 0⟩].all (fun i =>
      okAt i (fun g => { g with exited := 0xFFFFFFFF }) (fun s => s.cur.mask == 0) && okAt i id (fun s => !s.cur.unperformed && ((s.teamOf s.cur).bar 2).arrive s.cur.gid != none) &&
      okAt i (fun g => { g with pend := [{ id := 1, ctr := .store, kind := .store, lanes := [{ lane := 0, addr := 0 }] }] }) (fun s => s.cur.unperformed && !s.cur.faultParked) &&
      (let s := editTeam (wordState i) fun t => { t with bars := [(2, { e := 5, arr := [0], carried := [0] })] }
       issuesCheck i s (wordClause i) && ((s.teamOf s.cur).bar 2).arrive s.cur.gid == none) &&
      (let s := editTeam (wordState i) fun t => { t with barDone := [(2, (0, true))] }
       issuesCheck i s (wordClause i) && tget (s.teamOf s.cur).barDone 2 == some (s.cycle, true))) = true := by decide +kernel

theorem witness_LaneWrites : (31 : Nat) < 32 ∧ (0x80000000#32).getLsbD 31 = true := by decide
theorem witness_PackedElements : [(0 : Nat), 1, 2, 4, 5, 6].all (fun k => let ty := BitVec.ofNat 4 k; ty.toNat ∈ [0, 1, 2, 4, 5, 6] && 32 / tyBits ty - 1 < 32 / tyBits ty) = true := by decide
theorem witness_VectorWords_empty : (words2 ++ words3 ++ words4).all (fun i => (edit (wordState i) fun g => { g with exited := 0xFFFFFFFF }).activeOf i == 0) = true := by decide +kernel
/-- A scale byte of 0xFF, with and without SCALETRAP, for VPACK and VUNPACK. -/
theorem witness_ConversionsAndBlocks :
    [Instr.vpack ⟨12, 0, false, 4, 8, 0, 8, 8, 0, false, false, false⟩, .vunpack ⟨0, 0, false, 4, 8, 0, 8, 12, 0, false, false, false⟩].all (fun i =>
      okAt i (fun g => { g with x := [(4, 0xFF), (8, 0xFF)], gctl := 1 }) (fun s => s.activeOf i != 0 && s.cur.gctl.getLsbD 0 && xbyte (s.cur.rx 4) 0 == 0xFF) &&
      okAt i (fun g => { g with x := [(4, 0xFF), (8, 0xFF)] }) (fun s => s.activeOf i != 0 && !s.cur.gctl.getLsbD 0) && okAt i id (fun s => xbyte (s.cur.rx 4) 0 != 0xFF)) = true ∧
    (let i := Instr.vrq ⟨12, 0, false, 40, 8, 0, 4, 8, 0, false, false, false⟩
     okAt i id (fun s => s.activeOf i != 0) && okAt i (fun g => { g with exited := 0xFFFFFFFE }) (fun s => s.activeOf i == 1)) = true := by decide +kernel
theorem witness_RoundingAndExponents :
    (8 ≤ (8 : BitVec 4).toNat ∧ 0x3F800000 < 2 ^ (fmtOf 8).bits ∧ (match (fmtOf 8).decode 0x3F800000 with | .fin _ _ _ => true | _ => false) = true) ∧
    (11 ≤ (12 : BitVec 4).toNat ∧ (amaxOf [.fin false 1 0, .fin true 3 2]).1 ≠ 0) := by decide +kernel
/-- The global words: nothing active; a refused address; a misaligned one; a full counter; none of these. -/
theorem witness_GlobalWords :
    [Instr.vld ⟨4, 0, false, 4, 8, 0, 0, 0, 0⟩, .vst ⟨4, 0, false, 4, 8, 0, 0, 0, 0⟩, .vldx ⟨0, 0, false, 4, 8, 0, 0, 0, 0⟩].all (fun i =>
      let at_ := fun (v : VReg) (hi : VReg) (more : State → GlobalForm → Bool) => okAt i (fun g => { g with v := [(8, v), (9, hi)] }) (fun s => match globalForm s i with | some m => more s m | none => false)
      let bad := fun (s : State) (m : GlobalForm) => (m.heads.filter fun p => m.refuses s p.2) != []
      let off := fun (m : GlobalForm) => (m.heads.filter fun p => p.2.toNat % m.align != 0) != []
      at_ 0 (mapLanes 0xFFFFFFFF (fun _ => 0x02000000) 0) (fun s m => s.activeOf i != 0 && bad s m) && at_ (mapLanes 0xFFFFFFFF (fun _ => 2) 0) 0 (fun s m => !bad s m && off m) &&
      at_ 0 0 (fun s m => !bad s m && !off m && s.activeOf i != 0) &&
      okAt i (fun g => { g with pend := (List.range 63).map fun k => { id := k + 1, ctr := .load, kind := .load, lanes := [] } }) (fun s => decide (63 ≤ s.cur.pend.countP fun q => q.ctr == .load)) &&
      okAt i (fun g => { g with exited := 0xFFFFFFFF }) (fun s => s.activeOf i == 0 && (globalForm s i).isSome)) = true := by decide +kernel
/-- A team with a scratchpad of one granule of 64 KiB, in the grid of a task whose record says so. -/
def padState (i : Instr) : State := { wordState i with tasks := [(0, { ctx := 0, tcb := 0x1000, lrec := (1 : BitVec 512) <<< 146 })] }
/-- The scratchpad words: nothing active; past the end; a window of a group not joined; misaligned; an absent line; a full counter; none of these. -/
theorem witness_ScratchpadWords :
    [Instr.vlds ⟨4, 0, false, 4, 8, 0, 0, 0, 1⟩, .vsts ⟨4, 0, false, 4, 8, 0, 0, 0, 1⟩, .vatoms ⟨0, 0, false, 4, 8, 0, 0, 0, 1⟩].all (fun i =>
      let at_ := fun (a : W32) (t : Team → Team) (n : Nat) (more : State → Bool) =>
        let s := editTeam (edit (padState i) fun g => { g with v := [(8, mapLanes 0xFFFFFFFF (fun _ => a) 0)], pend := (List.range n).map fun k => { id := k + 1, ctr := if n = 63 then .load else .store, kind := .load, lanes := [] } }) t
        issuesCheck i s (wordClause i) && (spadForm s i).isSome && s.activeOf i != 0 && more s
      at_ 0x10000 id 0 (fun s => s.spadMap 0 0x10000 == .nothing) && at_ 0x80000000 id 0 (fun s => s.spadMap 0 0x80000000 == .revoked) &&
      at_ 2 id 0 (fun s => s.spadMap 0 2 == .at 0 2) && at_ 0xFFFC (fun t => { t with absent := [511] }) 0 (fun s => (s.team 0).absent.contains (0xFFFC / 128)) &&
      at_ 0xFFFC id 63 (fun s => s.cur.pend.length == 63) && at_ 0xFFFC id 0 (fun s => s.spadMap 0 0xFFFC == .at 0 0xFFFC)) = true := by decide +kernel
theorem witness_ScratchpadMap : (padState .nop).spadSize 0 = 65536 ∧ ((padState .nop).team 0).share = none ∧
    ((editTeam (padState .nop) fun t => { t with share := some (5, 7) }).team 0).share = some (5, 7) := by decide +kernel
/-- PRESQ at each answer; SPJOIN into a free slot, a full group, a core with a member, a team that shares; SPLEAVE idle and busy. -/
theorem witness_PresenceAndSharing :
    (let i := Instr.presq ⟨1, 0, false, 4, 8, 0, 0, 0, 0⟩
     let at_ := fun (a : W32) (more : State → Bool) =>
       let s := edit (padState i) fun g => { g with v := [(8, mapLanes 0xFFFFFFFF (fun _ => a) 0)] }
       issuesCheck i s (wordClause i) && s.activeOf i != 0 && more s
     at_ 0x10000 (fun s => s.spadMap 0 0x10000 == .nothing) && at_ 0x80000000 (fun s => s.spadMap 0 0x80000000 == .revoked) && at_ 4 (fun s => s.spadMap 0 4 == .at 0 4) &&
     at_ 0xF080 (fun s => decide (s.spadSize 0 < 0xF080 + 4096)) && at_ 0xF000 (fun s => s.spadMap 0 0xF000 == .at 0 0xF000 && decide (0xF000 + 4096 ≤ s.spadSize 0))) = true ∧
    (let i := Instr.spjoin ⟨0, 12, 8, 0, 0, 0⟩
     let with_ := fun (m : Tbl Nat) (sh : Option (W32 × Nat)) => editTeam (editCtx (padState i) fun c => { c with shares := [(0, m)] }) fun t => { t with share := sh.map fun p => (p.1.toNat, p.2) }
     [with_ [] none, with_ ((List.range 8).map fun k => (k, 5)) none, with_ [(0, 7)] none, with_ [] (some (0, 0))].all fun s => issuesCheck i s (wordClause i) && s.activeOf i != 0) = true ∧
    (let s := editTeam (padState .spleave) fun t => { t with share := some (0, 0) }
     issuesCheck .spleave s (wordClause .spleave) && !(s.setCur s.cur.issuing).spadBusy 0 &&
     (let s1 := edit s fun g => { g with pend := [{ id := 1, ctr := .load, kind := .load, spad := true, lanes := [{ lane := 0, addr := 0 }] }] }
      issuesCheck .spleave s1 (wordClause .spleave) && (s1.setCur s1.cur.issuing).spadBusy 0 && !s1.cur.faultParked)) = true := by decide +kernel

/-- `s` with `n` lines of zeros from VA 0 at their home. -/
def lined (n : Nat) (s : State) : State := { s with llc := (List.range n).map fun k => (llcKey 0 (lineKey 1 (128 * k)), {}) }
/-- An access that is still to be performed. -/
def openPend (w : Bool) : PendOp := { id := 1, ctr := if w then .store else .load, kind := if w then .store else .load, lanes := [{ lane := 0, addr := 0 }] }
/-- What a fence's or a drain's actions answered. -/
def okTo (x : MemR α) (q : α → Bool) : Bool := match x with | .ok (_, a) => q a | .error _ => false
def okEnd (x : Except (Nat × MemErr) α) (q : α → Bool) : Bool := match x with | .ok a => q a | .error _ => false
/-- FENCE of each MOD that waits, that is inside the core, and that makes its release and acquire; DRAIN of each MOD, with the entries sent and with one still in the buffer; ICINV. -/
theorem witness_CacheWords :
    [(1 : BitVec 4), 2, 3].all (fun m => [(1 : BitVec 3), 2, 4, 5].all fun sc =>
      let i := Instr.fence ⟨m, 0, false, 0xFF, 0, 0, 0, 0, sc⟩
      okAt i id (fun s => s.activeOf i != 0 && !(writesOpen s.cur.pend 0xFF) && !(readsOpen s.cur.pend) &&
        okTo ((s.setCur s.cur.issuing).releaseAt s.cur.issuing sc.toNat 0xFF) (fun b => b) &&
        (match (s.setCur s.cur.issuing).releaseAt s.cur.issuing sc.toNat 0xFF with | .ok (s1, _) => okTo (s1.acquireAt s.cur.issuing sc.toNat 0xFF) (fun _ => true) | .error _ => false)) &&
      okAt i (fun g => { g with pend := [openPend true, { openPend false with id := 2 }] }) (fun s => s.activeOf i != 0 && writesOpen s.cur.pend 0xFF && readsOpen s.cur.pend && !s.cur.faultParked)) = true ∧
    [(1 : BitVec 4), 2, 3].all (fun m =>
      let i := Instr.drain ⟨m, 0, false, 0xFF, 0, 0, 0, 0, 0⟩
      okAt i id (fun s => s.activeOf i != 0 && okTo ((s.setCur s.cur.issuing).flushL1 0 0 1 0xFF) (fun _ => true) && (s.core 0).wcb.isEmpty && okTo (s.acquireL1 0 0 1 0xFF) (fun _ => true)) &&
      (let s := { wordState i with cores := [(0, { wcb := [{ id := 1, peer := 1, line := 0, mask := 1, data := 0, colour := 7, ctx := 0, task := 0, limit := 9, born := 0, sent := true }] })] }
       let s1 := match (s.setCur s.cur.issuing).flushL1 0 0 1 0xFF with | .ok (s1, _) => s1 | .error _ => s
       let s2 := s1.wcbSendAll 0 fun e => e.ctx == 0 && (0xFF#8).getLsbD e.colour
       issuesCheck i s (wordClause i) && (s2.core 0).wcb.any (fun e => e.ctx == 0 && (0xFF#8).getLsbD e.colour) && !s2.cur.faultParked)) = true ∧
    okAt .icinv id (fun s => s.activeOf .icinv != 0 && !(writesOpen s.cur.pend 0xFF) && okTo ((s.setCur s.cur.issuing).releaseAt s.cur.issuing 3 0xFF) (fun b => b)) = true ∧
    okAt .icinv (fun g => { g with pend := [openPend true] }) (fun s => writesOpen s.cur.pend 0xFF && !s.cur.faultParked) = true := by decide +kernel
/-- TLBINV of each MOD at 2^56 - 1 and at 2^56; CINV at both, done and held. -/
theorem witness_CacheMaintenance :
    [(0 : BitVec 4), 1, 2].all (fun m =>
      let i := Instr.tlbinv ⟨m, 0, if m = 2 then 0 else 8, 0⟩
      okAt i (fun g => { g with s := [(8, 0xFFFFFFFF), (9, 0xFFFFFF)] }) (fun s => s.activeOf i != 0) && okAt i (fun g => { g with s := [(9, 0x1000000)] }) (fun s => s.activeOf i != 0)) = true ∧
    [(1 : BitVec 4), 2, 3, 5, 9].all (fun m =>
      let i := Instr.cinv ⟨m, 0, 8, 0⟩
      let size := if m.toNat / 4 = 0 then 128 else if m.toNat / 4 = 1 then 2 ^ 16 else 2 ^ 21
      okAt i (fun g => { g with s := [(8, 0xFFFFFFFF), (9, 0xFFFFFF)] }) (fun s => okTo ((s.setCur s.cur.issuing).cinvLines 0 (m.getLsbD 0) (m.getLsbD 1) true ((s.setCur s.cur.issuing).cachedKeys 1 ((2 ^ 56 - 1) / size * size) size)) (fun _ => true)) &&
      okAt i (fun g => { g with s := [(9, 0x1000000)] }) (fun s => s.activeOf i != 0) &&
      (let s := { wordState i with cores := [(0, { l1 := [(lineKey 1 0, { dirty := 1, cols := 1 })] })] }
       issuesCheck i s (wordClause i) && !s.cur.faultParked &&
       (!m.getLsbD 0 || !okTo ((s.setCur s.cur.issuing).cinvLines 0 (m.getLsbD 0) (m.getLsbD 1) true ((s.setCur s.cur.issuing).cachedKeys 1 0 size)) (fun _ => true)))) = true := by decide +kernel
theorem witness_CacheRules :
    [0, 1].all (fun sc => okTo ((lined 1 nopState).storeLine ⟨0, 0, 1, 0⟩ sc 3 (byteMask 0 4) 0x12345678) (fun _ => true)) = true ∧
    okTo ((lined 1 nopState).acquireL1 0 0 1 0xFF) (fun _ => true) = true := by decide +kernel

/-- Every system register that SRD reads, in both halves, and SWR writes; the boundary numbers of the barrier, ring and comparator registers. -/
theorem witness_SystemReads : ([0, 1, 2, 3, 4, 5, 6, 7, 8, 0x10, 0x20, 0x2F, 0x30, 0x37, 0x40, 0x41, 0x50, 0x60, 0x100, 0x107, 0x110] : List Nat).all (fun r =>
    [(0 : BitVec 4), 1].all fun m => okAt (.srd ⟨m, 12, 0, BitVec.ofNat 12 r⟩) id (fun s => s.activeOf (.srd ⟨m, 12, 0, BitVec.ofNat 12 r⟩) != 0)) = true := by decide +kernel
theorem witness_SystemWrites : ([(Instr.swr, [2, 3, 4, 5, 6, 7, 8, 0x10, 0x41, 0x50]), (.heatctlWrite, [0x60]), (.barstWrite, [0x20, 0x2F]), (.ringstWrite, [0x30, 0x37]),
      (.pcbrkWrite, [0x100, 0x107]), (.sampctlWrite, [0x110]), (.normboxWrite, [0x40])] : List ((FY → Instr) × List Nat)).all (fun p => p.2.all fun r =>
    [(0 : BitVec 4), 1].all fun m =>
      let i := p.1 ⟨m, 0, 8, BitVec.ofNat 12 r⟩
      okAt i id (fun s => s.activeOf i != 0) && okAt i (fun g => { g with exited := 0xFFFFFFFF }) (fun s => s.activeOf i == 0)) = true := by decide +kernel
/-- A write of E, and ERRCLR, in the cycle of a completion and of an event. -/
theorem witness_SystemWrites_cycle :
    ((let i := Instr.barstWrite ⟨0, 0, 8, 0x2F⟩
      let s := editTeam (wordState i) fun t => { t with barDone := [(15, (0, false))] }
      issuesCheck i s (wordClause i) && s.activeOf i != 0 && tget (s.teamOf s.cur).barDone 15 == some (s.cycle, false)) &&
     (let s := editCtx (wordState .errclr) fun c => { c with errAt := some 0 }
      issuesCheck .errclr s (wordClause .errclr) && s.activeOf .errclr != 0 && (s.ctxOf s.cur).errAt == some s.cycle) &&
     okAt .errclr id (fun s => (s.ctxOf s.cur).errAt != some s.cycle)) = true := by decide +kernel
/-- A write of BARST at the count that has arrived, and beyond it; HEATCTL as it stands at reset. -/
theorem witness_SystemWrites_clauses : (let b : Barrier := { arr := [0, 1], gone := [2] }
    b.arr.length + b.gone.length < 4 ∧ 3 ≤ b.arr.length + b.gone.length ∧ b.carried = []) ∧ 16 ≤ (({} : Ctx).heatctl.extractLsb' 4 5).toNat := by decide

/-- A register pair's value in s8, s9. -/
def at8 (a : Nat) (more : Tbl W32) (g : Group) : Group := { g with s := (8, BitVec.ofNat 32 a) :: (9, BitVec.ofNat 32 (a / 2 ^ 32)) :: more }
/-- The block of the group that runs at `nopState`, with its CRC. -/
def goodBlock : BitVec 32768 := putBits (hiddenOf (nopState.blockFields nopState.cur {})) 0 (0x6bada8a0 : W32)
/-- `s` with a block in its 32 lines from VA 0. -/
def blockLines (b : BitVec 32768) (p : Bool) (s : State) : State :=
  { s with llc := (List.range 32).map fun k => (llcKey 0 (lineKey 1 (128 * k)), { data := BitVec.ofNat 1088 (natField b.toNat (1024 * k) 1024), poison := p }) }
/-- The CRC of R14 with each byte's value computed before the next. -/
def crcRun : List Byte → Nat → Nat
  | [], c => c
  | b :: t, c => Nat.casesOn (crcByte (BitVec.ofNat 32 c) b).toNat (crcRun t 0) fun n => crcRun t (n + 1)
theorem crcRun_eq (l : List Byte) (c : W32) : (l.foldl crcByte c).toNat = crcRun l c.toNat := by
  induction l generalizing c with
  | nil => rfl
  | cons b t ih =>
    rw [List.foldl_cons, ih, crcRun, BitVec.ofNat_toNat, BitVec.setWidth_eq]
    cases (crcByte c b).toNat <;> rfl
theorem goodBlock_crc : BitVec.ofNat 32 goodBlock.toNat = crc32c (bytesOf 4092 (goodBlock.toNat / 2 ^ 32)) := by
  have h : crcRun (bytesOf 4092 (goodBlock.toNat / 2 ^ 32)) 0xFFFFFFFF = 0xFFFFFFFF - 0x6bada8a0 := by decide +kernel
  have e : BitVec.ofNat 32 goodBlock.toNat = 0x6bada8a0#32 := by decide +kernel
  have k : (List.foldl crcByte 0xFFFFFFFF (bytesOf 4092 (goodBlock.toNat / 2 ^ 32))).toNat = 0xFFFFFFFF - 0x6bada8a0 := (crcRun_eq _ _).trans h
  rw [e, crc32c, BitVec.eq_of_toNat_eq (y := 0x9452575F#32) k]; decide
theorem goodBlock_ok (s : State) (g : Group) (h : g.gid = 0) : s.blockOk g goodBlock = true := by
  have n : blkField goodBlock 0x068 16 16 = 0 := by decide +kernel
  simp only [State.blockOk, Bool.and_eq_true, beq_iff_eq, h, n]
  exact ⟨⟨⟨⟨⟨⟨⟨⟨⟨⟨goodBlock_crc, by decide +kernel⟩, by decide +kernel⟩, by decide +kernel⟩, by decide +kernel⟩, by simp⟩, by decide +kernel⟩, by decide +kernel⟩, by decide +kernel⟩, by decide +kernel⟩, by decide +kernel⟩
/-- A block of zeros states no version, so it is bad. -/
theorem zeroBlock_bad (s : State) (g : Group) : s.blockOk g 0 = false := by
  rw [Bool.eq_false_iff]; intro h
  simp only [State.blockOk, Bool.and_eq_true] at h
  exact absurd h.1.1.1.1.1.1.1.1.1.2 (by decide +kernel)
/-- CTXSV and CTXLD at a bad and at a misaligned address; a save that goes through; a block that is poisoned, good and bad. -/
theorem witness_SystemBlocks_save :
    [Instr.ctxsv ⟨0, 0, 8, 0⟩, .ctxld ⟨0, 0, 8, 0⟩].all (fun i => [2 ^ 56, 4096 * 5 + 4095].all fun a => okAt i (at8 a []) (fun s => s.activeOf i != 0)) = true ∧
    (let i := Instr.ctxsv ⟨0, 0, 8, 0⟩
     okAt i id (fun s => s.cur.frameS.isSome && okEnd ((lined 32 (s.setCur s.cur.issuing)).storeLines s.cur.issuing ((List.range 32).map fun k => (128 * k, BitVec.ofNat 1088 ((sealBlock 0).toNat / 2 ^ (1024 * k) % 2 ^ 1024), byteMask 0 128))) (fun _ => true))) = true ∧
    [(goodBlock, true), (goodBlock, false), (0, false)].all (fun p =>
      let s := blockLines p.1 p.2 (wordState (.ctxld ⟨0, 0, 8, 0⟩))
      issuesCheck (.ctxld ⟨0, 0, 8, 0⟩) s (wordClause (.ctxld ⟨0, 0, 8, 0⟩)) &&
      okEnd ((s.setCur s.cur.issuing).loadLines s.cur.issuing 0 32) (fun x => x.2.2 == p.2 && BitVec.ofNat 32768 x.2.1 == p.1)) = true := by decide +kernel
/-- HEATRD: too many entries and the last of the table, a bad and a misaligned address, no entry, two entries. -/
theorem witness_SystemBlocks_heat : (let i := Instr.heatrd ⟨0, 12, 8, 0⟩
    let at_ := fun (a e n : Nat) (more : State → Bool) =>
      let s := { edit (wordState i) (at8 a [(10, BitVec.ofNat 32 e), (11, BitVec.ofNat 32 n)]) with heat := [(524287, { ctx := 0, region := 1, count := 7 })] }
      issuesCheck i (lined 1 s) (wordClause i) && s.activeOf i != 0 && more (lined 1 s)
    at_ 0 0 4097 (fun _ => true) && at_ 0 524287 2 (fun _ => true) && at_ (2 ^ 57) 0 1 (fun s => s.badGlobal true (2 ^ 57)) && at_ 8 0 1 (fun s => !s.badGlobal true 8) &&
    at_ 0 524288 0 (fun _ => true) && at_ 0 524286 2 (fun s => !s.badGlobal true 0 && (match (s.setCur s.cur.issuing).heatReady s.cur.issuing [0, 16] with
      | (s1, true) => (match s1.decayed.heatStores s.cur.issuing [] [(0, (s.decayed.heatRecord 0 524286).1), (16, (s.decayed.heatRecord 0 524287).1)] with | .all _ [] => true | _ => false)
      | _ => false))) = true := by decide +kernel
/-- DBGRD and DBGWR: a reserved class and an index beyond; no target; each class of a live target, in user and in system-handler mode. -/
theorem witness_SystemBlocks_debug : [Instr.dbgrd ⟨0, 12, 8, 0⟩, .dbgwr ⟨0, 12, 8, 0⟩].all (fun i =>
    let w := i == .dbgwr ⟨0, 12, 8, 0⟩
    let f : FY := ⟨0, 12, 8, 0⟩
    let at_ := fun (cls n gid : Nat) (more : State → W32 → Bool) =>
      let a : W32 := BitVec.ofNat 32 (gid * 2 ^ 27 + cls * 2 ^ 24 + n)
      okAt i (fun g => { g with s := [(8, a)], nv := 4, nx := 1 }) (fun s => more s a)
    at_ 4 0 0 (fun s _ => debugBad w f s s.cur) && at_ 3 1024 0 (fun s _ => debugBad w f s s.cur) && at_ 0 0 31 (fun s a => !debugBad w f s s.cur && s.debugTarget s.cur a == none) &&
    [(0, 0), (0, 15), (1, 127), (2, 1)].all (fun p => at_ p.1 p.2 0 fun s a => !debugBad w f s s.cur && s.debugTarget s.cur a == some 0 && (s.group 0).mode == .sysHandler) &&
    (w || at_ 3 1023 0 (fun s a => !debugBad w f s s.cur && s.debugTarget s.cur a == some 0 && (s.group 0).frameS.isSome))) = true := by decide +kernel
/-- QPOST: a bad and a misaligned address; open writes; PRED at 0, at 1, and poisoned. -/
theorem witness_SystemBlocks_post : (let i := Instr.qpost ⟨0, 12, 8, 0⟩
    okAt i (at8 (2 ^ 56) []) (fun s => s.activeOf i != 0) && okAt i (at8 (2 ^ 56 - 64) []) (fun s => s.activeOf i != 0) &&
    okAt i (fun g => { g with pend := [openPend true] }) (fun s => writesOpen s.cur.pend 0xFF && !s.cur.faultParked) &&
    [((0 : Line), false), (lineSet 0 0x40 4 1, false), (0, true)].all (fun p =>
      let s := { wordState i with llc := [(llcKey 0 (lineKey 1 0), { data := p.1, poison := p.2 })] }
      issuesCheck i s (wordClause i) && (match (s.setCur s.cur.issuing).releaseAt s.cur.issuing 3 0xFF with
        | .ok (s1, b) => b && (match s1.homeLine (s1.reqOf s.cur.issuing 0x40) with | .ok (s2, l) => l.attrs.w && l.poison == p.2 && l.data == p.1 && !s2.pageFull 1 0x40 | .error _ => false)
        | .error _ => false))) = true := by decide +kernel

/-- A shape word from its fields (R243). -/
def shp (cols rows : Nat) (fmt : Nat) (cmp sq : Bool) : W32 :=
  BitVec.ofNat 32 (2 ^ 31 + (cols - 1) * 2 ^ 16 + (rows - 1) * 2 ^ 8 + (if cmp then 32 else 0) + (if sq then 16 else 0) + fmt)
/-- TSHAPE of a legal and an illegal shape, and .rd; TSCL at the last entry, one beyond, and of an unshaped tile. -/
theorem witness_TileWords :
    (let i := Instr.tshape ⟨0, 0, false, 4, 0, 12, 0, 0, 0, false, true, false⟩
     okAt i (fun g => { g with s := [(12, shp 32 32 11 false false)] }) (fun s => shapeLegal (s.cur.rs 12)) && okAt i (fun g => { g with s := [(12, shp 24 32 11 false false)] }) (fun s => !shapeLegal (s.cur.rs 12))) = true ∧
    okAt (.tshape ⟨1, 0, false, 4, 0, 12, 0, 0, 0, false, true, false⟩) id (fun _ => true) = true ∧
    (let i := Instr.tscl ⟨0, 0, false, 4, 8, 12, 1, 0, 0, false, true, false⟩
     let at_ := fun (q : W32) => okAt i (fun g => { g with s := [(12, q)], tiles := [(4, { shape := shp 32 32 11 false false })] }) fun s => shpEntries (s.cur.tile 4).shape == 32
     at_ 30 && at_ 31 && okAt i id (fun s => !shpOn (s.cur.tile 4).shape)) = true ∧
    [Instr.tzero ⟨0, 0, 0, 5, 0, 0, 0, 0, 0, false⟩, .czero ⟨0, 1, 0, 0, 0, 0, 0, 0, 0, false⟩, .czero ⟨1, 1, 2, 0, 0, 0, 0, 0, 0, false⟩, .cscale ⟨0, 0, false, 4, 0, 12, 0, 0, 0, false, true, false⟩].all (fun i => okAt i id fun _ => true) = true := by decide +kernel
/-- CTOV, VTOC and CRQ at the last row and one beyond; VTOC of every row; CRQ in both forms and formats. -/
theorem witness_AccumulatorWords :
    [Instr.ctov ⟨0, 0, false, 4, 0, 12, 0, 0, 0, false, true, false⟩, .vtoc ⟨0, 0, false, 4, 8, 12, 0, 0, 0, false, true, false⟩, .crq ⟨1, 0, false, 4, 0, 12, 0, 11, 0, false, true, false⟩].all (fun i =>
      okAt i (fun g => { g with s := [(12, 127)] }) (fun s => s.cur.rs 12 == 127) && okAt i (fun g => { g with s := [(12, 128)] }) (fun s => s.cur.rs 12 == 128)) = true ∧
    (let i := Instr.crq ⟨5, 0, false, 4, 0, 12, 0, 15, 0, false, true, false⟩
     okAt i (fun g => { g with s := [(12, 126)] }) (fun s => s.cur.rs 12 == 126) && okAt i (fun g => { g with s := [(12, 127)] }) (fun s => s.cur.rs 12 == 127)) = true ∧
    (let i := Instr.crq ⟨0, 0, false, 4, 0, 12, 0, 11, 0, false, true, false⟩
     okAt i id (fun s => !shpOn (s.cur.tile 4).shape) &&
     okAt i (fun g => { g with s := [(12, 96)], tiles := [(4, { shape := shp 128 32 11 false false })] }) (fun s =>
       let w := (s.cur.tile 4).shape
       shpOn w && shpFmt w == 11 && !shpCmp w && !shpSq w && shpCols w == 128 && (s.cur.rs 12).toNat + shpRows w == 128)) = true := by decide +kernel

/-- The tile and accumulator moves: an illegal form; past the end; a revoked window; a misaligned base; an absent line; a full counter; none of these. -/
theorem witness_MoveWords :
    [Instr.tlds ⟨0, 0, false, 4, 8, 12, 0, 0, 1⟩, .tsts ⟨0, 0, false, 4, 8, 12, 0, 0, 1⟩, .clds ⟨0, 0, false, 4, 8, 12, 0, 0, 1⟩, .csts ⟨0, 0, false, 4, 8, 12, 0, 0, 1⟩].all (fun i =>
      let at_ := fun (pitch a : W32) (t : Team → Team) (n : Nat) (more : State → Bool) =>
        let s := editTeam (edit (padState i) fun g => { g with
          s := [(8, pitch), (12, a)], tiles := [(4, { shape := shp 32 1 0 false false })], moves := (List.range n).map fun k => { id := k + 1, kind := .tlds, dest := 0 } }) t
        issuesCheck i s (wordClause i) && s.cur.rs 12 == a && more s
      at_ 2 0 id 0 (fun _ => true) && at_ 32 0x10000 id 0 (fun s => s.spadMap 0 0x10000 == .nothing) && at_ 32 0x80000000 id 0 (fun s => s.spadMap 0 0x80000000 == .revoked) &&
      at_ 32 2 id 0 (fun s => s.spadMap 0 2 == .at 0 2) && at_ 32 0 (fun t => { t with absent := [0] }) 0 (fun s => (s.team 0).absent == [0]) &&
      at_ 32 0 id 15 (fun s => s.cur.moves.length == 15) && at_ 32 0xFFE0 id 14 (fun s => s.spadMap 0 0xFFFF == .at 0 0xFFFF)) = true ∧
    (let i := Instr.tmov ⟨0, 0, false, 4, 8, 12, 0, 0, 0, false, true, false⟩
     let at_ := fun (q : W32) (n : Nat) (more : State → Bool) => okAt i (fun g => { g with s := [(12, q)], tiles := [(8, { shape := shp 32 32 0 false false })], moves := (List.range n).map fun k => { id := k + 1, kind := .tlds, dest := 0 } }) more
     at_ 32 0 (fun s => (s.cur.rs 12).toNat + 1 == 33) && at_ 31 15 (fun s => shpRows (s.cur.tile 8).shape == 32) && at_ 31 14 (fun s => s.cur.moves.length == 14)) = true := by decide +kernel
/-- A unit of each kind of move, and the rest of one. -/
theorem witness_MoveCompletion : [MoveKind.tlds, .tsts, .clds, .csts, .tmovIn, .tmovOut].all (fun k =>
    let m : TileMove := { id := 1, kind := k, dest := 1, shape := shp 32 1 0 false false, rows := 1, locs := if k == .tmovIn || k == .tmovOut then [] else [(0, 0), (7, 28)] }
    let s := edit (padState .nop) fun g => { g with moves := [m] }
    s.memOk && s.cur.moves.find? (·.id == 1) == some m && !s.cur.moveHeld m && m.units.contains 7 && !m.landed.contains 7) = true := by decide +kernel

/-- The matrix words with unsuitable operands; with suitable ones from chunk 0, from the chunk that MPROG names, with none left, and with a NaN scale that traps. -/
theorem witness_ProductWords :
    (let tl := fun (w : W32) (sc : BitVec 8192) => ({ shape := w, scol := sc } : Tile)
     let cases : List (Instr × W32 × W32 × W32 × Nat × Bool) :=
       [(.mma ⟨0, 1, 0, 4, 6, 0, 0, 0, 0, false⟩, shp 32 1 12 false false, shp 32 1 12 false false, 0, 1, true), (.mmas ⟨0, 1, 0, 4, 6, 8, 0, 0, 0, true⟩, shp 48 1 12 true false, shp 96 1 12 false false, shp 16 1 4 false false, 3, true),
        (.mmad ⟨0, 1, 2, 4, 6, 8, 0, 0, 0, false⟩, shp 32 32 12 false true, shp 32 32 12 false false, shp 32 32 12 false true, 2, true),
        (.mmaf ⟨0, 1, 0, 4, 6, 0, 0, 0, 0, false⟩, shp 16 1 10 false false, shp 16 1 10 false false, 0, 1, false), (.mmai ⟨0, 1, 0, 4, 6, 0, 0, 0, 0, false⟩, shp 32 1 0 false false, shp 32 1 0 false false, 0, 1, false)]
     let bad := fun (i : Instr) (g : Group) => match i with
       | .mma f => mmaBad f (mxCode f.fa) (mxCode f.fb) 32 g | .mmas f => mmasBad f g | .mmad f => mmadBad f g
       | .mmaf f => mmaBad f (halfCode f.fa) (halfCode f.fb) 16 g | .mmai f => mmaBad f (intCode f.fa) (intCode f.fb) 32 g | _ => true
     cases.all fun p =>
       let i := p.1
       let tiles := fun (sc : BitVec 8192) => [(4, tl p.2.1 sc), (6, tl p.2.2.1 0), (8, tl p.2.2.2.1 0)]
       let n := p.2.2.2.2.1
       okAt i id (fun s => bad i s.cur) && okAt i (fun g => { g with tiles := tiles 0 }) (fun s => !bad i s.cur && !s.cur.mprog.getLsbD 63) &&
       okAt i (fun g => { g with tiles := tiles 0, mprog := 2 ^ 63 + BitVec.ofNat 64 n <<< 54 + 1 }) (fun s => (s.cur.mprog.extractLsb' 54 4).toNat == n && (s.cur.mprog.extractLsb' 0 54).toNat == (wordPc s.cur (wordClause i)).toNat / 8) &&
       (!p.2.2.2.2.2 || okAt i (fun g => { g with tiles := tiles 0xFF, gctl := 1 }) (fun s => !bad i s.cur && s.cur.gctl.getLsbD 0 && ((⟨4, false⟩ : MatOp).scale s.cur 0 0 == 0xFF)))) = true := by decide +kernel
/-- Each matrix word in its array queue, before its last chunk and at it. -/
theorem witness_MatrixChunk :
    [(Instr.mma ⟨0, 1, 0, 4, 6, 0, 0, 0, 0, false⟩, 0, 2), (.mmas ⟨0, 1, 0, 4, 6, 8, 0, 0, 0, true⟩, 2, 3), (.mmad ⟨0, 1, 2, 4, 6, 8, 0, 0, 0, false⟩, 0, 2), (.mmad ⟨0, 1, 2, 4, 6, 8, 0, 0, 0, false⟩, 1, 2),
     (.mmaf ⟨0, 1, 0, 4, 6, 0, 0, 0, 0, false⟩, 0, 1), (.mmai ⟨0, 1, 0, 4, 6, 0, 0, 0, 0, false⟩, 0, 1)].all (fun p =>
      let s0 := edit (wordState p.1) fun g => { g with wait := .product, product := some ⟨p.1, p.2.1, p.2.2⟩ }
      let s := s0.setCore 0 { s0.core 0 with arrayQ := [0] }
      s.cur.status == .live && s.cur.clause == some (wordClause p.1) && s.cur.product == some ⟨p.1, p.2.1, p.2.2⟩ && ((s.core (s.coreOf s.cur)).arrayQ.filter fun v => (s.group v).product.isSome) == s.who :: []) = true := by decide +kernel

/-- A layout record of 32 f32 elements of one dimension, with a pitch of `pitch` words (R206). -/
def copyRec (pitch : Nat) : Nat := 32 * 2 ^ 64 + 31 * 2 ^ (8 * 0x2C) + (8 * 2 ^ 56 + 8 * 2 ^ 51 + pitch * 2 ^ 19) * 2 ^ (8 * 0x30)
/-- The engine words: a bad and a misaligned record address, a full counter, a full token, a slot held, free, and none free. -/
theorem witness_CopyWords :
    [Instr.tcopy ⟨0, 20, 8, 1, 22, 0⟩, .tcopys ⟨0, 20, 8, 1, 22, 0⟩, .stash ⟨0, 20, 8, 1, 22, 0⟩].all (fun i =>
      let core := fun (k : Core) (more : State → Bool) => let s := { wordState i with cores := [(0, k)] }; issuesCheck i s (wordClause i) && s.activeOf i != 0 && more s
      okAt i (fun g => { g with s := [(21, 0x1000000)] }) (fun s => (s.cur.rs 21 ++ s.cur.rs 20 : W64).toNat == 2 ^ 56) && okAt i (fun g => { g with s := [(20, 32)] }) (fun s => s.cur.rs 20 == 32) &&
      okAt i (fun g => { g with copies := List.replicate 15 ⟨1, false⟩ }) (fun s => s.cur.copies.length == 15) && okAt i (fun g => { g with tokens := [(1, { count := 15 })] }) (fun s => (s.cur.tok 1).count == 15) &&
      core { held := some 0 } (fun s => (s.core 0).held == some s.who) && core {} (fun s => (s.setCur s.cur.issuing).usedSlots 0 == 0) &&
      (let s := { wordState i with ops := (List.range 16).map fun k => (k + 1, { newOp .load 1 with id := k + 1 }) }
       issuesCheck i s (wordClause i) && (s.setCur s.cur.issuing).usedSlots 0 == 16)) = true ∧
    (let i := Instr.tcopy ⟨0, 20, 8, 1, 22, 0⟩
     let f : FE := ⟨0, 20, 8, 1, 22, 0⟩
     [(copyRec 32, (0 : W32), true, none), (copyRec 0, 0, false, some 0x01), (copyRec 32, 2, false, some 0x03), (copyRec 32, 0xFF84, false, some 0x04), (copyRec 32, 0xFF80, false, (none : Option Nat))].all fun p =>
       let s := { edit (padState i) (fun g => { g with s := [(22, p.2.1)], wait := .record 0 f }) with llc := [(llcKey 0 (lineKey 1 0), { data := BitVec.ofNat 1088 p.1, poison := p.2.2.1 })] }
       okTo (s.loadLine (s.reqOf s.cur 0) 0 0) (fun x => x.2 == p.2.2.1 && (p.2.2.1 || (layOf (BitVec.ofNat 512 (lineNat x.1 0 64))).check .load (coordsOf (layOf (BitVec.ofNat 512 (lineNat x.1 0 64))) s.cur f) p.2.1.toNat (s.spadSize 0) == p.2.2.2))) = true := by decide +kernel
/-- TCQRY of a token that no operation named, of one whose operation is gone, and of one in flight and parked. -/
theorem witness_TokenWords : (let i := Instr.tcqry ⟨0, 20, 0, 1, 0, 0⟩
    okAt i id (fun s => tget s.cur.tokens 1 == none && s.op 0 == none) && okAt i (fun g => { g with tokens := [(1, { status := 3, oob := 5, last := 9 })] }) (fun s => s.op 9 == none) &&
    [EngStatus.running, .parked none].all (fun st =>
      let s := { edit (wordState i) (fun g => { g with tokens := [(1, { last := 9 })] }) with ops := [(9, { newOp .load 1 with id := 9, oob := 2 ^ 32, status := st })] }
      issuesCheck i s (wordClause i) && (s.op 9).isSome)) = true := by decide +kernel

/-- `s` with 16 operations in the slots of core 0. -/
def fullSlots (s : State) : State := { s with ops := (List.range 16).map fun k => (k + 1, { newOp .load 1 with id := k + 1 }) }
/-- `s` with an entry of context 0 sent and not yet acknowledged. -/
def sentEntry (s : State) : State :=
  s.setCore 0 { s.core 0 with wcb := [{ id := 1, peer := 1, line := 0, mask := 1, data := 0, colour := 7, ctx := 0, task := 0, limit := 9, born := 0, sent := true }] }
/-- The word issues in a changed state with ACTIVE non-empty. -/
def okIn (i : Instr) (h : State → State) (more : State → Bool) : Bool :=
  let s := h (wordState i)
  issuesCheck i s (wordClause i) && s.activeOf i != 0 && more s
/-- GCOPY: both sides here; a bad source, destination and flag; each misaligned; none of these. GSIG the same; each with a full token, a slot and none. -/
theorem witness_FabricWords_engine :
    (let at_ := fun (m : BitVec 4) (src dst n flag : Nat) (more : State → Bool) =>
       let i := Instr.gcopy ⟨m, 20, 8, 1, if m = 0 then 0 else 22, 0⟩
       okIn i (fun s => edit s fun g => { g with
         s := [(20, BitVec.ofNat 32 src), (21, BitVec.ofNat 32 (src / 2 ^ 32)), (22, BitVec.ofNat 32 flag), (23, BitVec.ofNat 32 (flag / 2 ^ 32))],
         v := [(8, mapLanes 0xFFFFFFFF (fun _ => BitVec.ofNat 32 dst) 0), (9, mapLanes 0xFFFFFFFF (fun _ => BitVec.ofNat 32 (dst / 2 ^ 32)) 0), (10, mapLanes 0xFFFFFFFF (fun _ => BitVec.ofNat 32 n) 0)] })
         (fun s => (s.cur.rl 9 0).toNat * 2 ^ 32 + (s.cur.rl 8 0).toNat == dst && more s)
     let r := 2 ^ 56
     at_ 0 0 0 16 0 (fun _ => true) && at_ 0 r (r + 16) 16 0 (fun _ => true) && at_ 0 (2 ^ 57) r 16 0 (fun s => s.badGlobal true (2 ^ 57)) && at_ 0 r (2 ^ 57) 16 0 (fun s => s.badGlobal true (2 ^ 57)) &&
     at_ 8 0 r 16 (2 ^ 57) (fun s => s.badGlobal true (2 ^ 57)) && at_ 0 8 r 16 0 (fun s => !s.badGlobal true 8 && !s.badGlobal true r) && at_ 0 0 (r + 8) 16 0 (fun s => !s.badGlobal true (r + 8)) &&
     at_ 0 0 r 8 0 (fun s => !s.badGlobal true 0) && at_ 8 0 r 16 4 (fun s => !s.badGlobal true 4) && at_ 15 0 r 16 8 (fun s => !s.badGlobal true 8)) = true ∧
    (let i := Instr.gsig ⟨0, 20, 0, 1, 22, 2⟩
     okIn i (fun s => edit s fun g => { g with s := [(21, 0x2000000)] }) (fun s => s.badGlobal true (2 ^ 57)) && okIn i (fun s => edit s fun g => { g with s := [(20, 4)] }) (fun s => !s.badGlobal true 4)) = true ∧
    [Instr.gsig ⟨0, 20, 0, 1, 22, 2⟩, .gflush ⟨0, 0, 0, 1, 22, 0⟩].all (fun i =>
      okIn i (fun s => edit s fun g => { g with tokens := [(1, { count := 15 })] }) (fun s => (s.cur.tok 1).count == 15) &&
      okIn i fullSlots (fun s => !((s.setCur s.cur.issuing).claimSlot s.cur.issuing).2) && okIn i id (fun s => ((s.setCur s.cur.issuing).claimSlot s.cur.issuing).2)) = true := by decide +kernel
/-- GSLOT: not aligned, beyond the domain, lost; itself; no direct port; one at the first step. -/
theorem witness_FabricWords_slot : (let i := Instr.gslot ⟨0, 20, 0, 0, 22, 0⟩
    let at_ := fun (p : W32) (g : Gallery) (more : State → Bool) => okIn i (fun s => { edit s (fun h => { h with s := [(22, p)] }) with gal := g }) more
    let d : Gallery := { devices := 2, caltab := [(5, 0x8001)] }
    at_ 1 { d with aligned := false } (fun _ => true) && at_ 2 d (fun s => s.gal.devices == 2) && at_ 1 { d with lost := [1] } (fun s => s.gal.lost.contains 1) &&
    at_ 0 d (fun s => s.gal.me == 0) && at_ 1 { d with caltab := [] } (fun s => s.gal.flight == 1) && at_ 1 d (fun s => s.gal.flight == 1)) = true := by decide +kernel
/-- NRMADD into an open collective, of one that is full, with two closed, and the first; NRMRD of the group's own, of the oldest, and of none. -/
theorem witness_FabricWords_norm :
    (let i := Instr.nrmadd ⟨0, 20, 0, 0, 22, 0⟩
     let at_ := fun (k : W32) (l : List Norm) => okIn i (fun s => editCtx (edit s fun g => { g with s := [(20, k)] }) fun c => { c with norms := l }) fun _ => true
     at_ 2 [{ seq := 0, want := 2 }] && at_ 2 [{ seq := 0, want := 2, count := 1 }] && at_ 1 [{ seq := 0, want := 1, closed := true }, { seq := 1, want := 1, closed := true }] &&
     at_ 0 [] && at_ 2 [{ seq := 0, want := 1, closed := true }]) = true ∧
    (let i := Instr.nrmrd ⟨0, 20, 0, 0, 0, 0⟩
     okIn i (fun s => edit s fun g => { g with norm := some 3 }) (fun s => s.cur.norm == some 3) &&
     okIn i (fun s => editCtx s fun c => { c with norms := [{ seq := 4, want := 1 }] }) (fun s => s.cur.norm.isNone) && okIn i id (fun s => s.cur.norm.isNone && (s.ctx 0).norms.isEmpty)) = true := by decide +kernel
/-- GBAR and MIRROR: open writes; an entry not yet acknowledged, and none; a broken pairing, no buddy, and a buddy. -/
theorem witness_FabricWords_release :
    (let i := Instr.gbar ⟨0, 0, 0, 0, 22, 2⟩
     let rel := fun (s : State) (b : Bool) => okTo ((s.setCur s.cur.issuing).releaseAt s.cur.issuing 4 0xFF) (· == b)
     okIn i (fun s => edit s fun g => { g with pend := [openPend true] }) (fun s => writesOpen s.cur.pend 0xFF && !s.cur.faultParked) &&
     okIn i sentEntry (fun s => rel s false) && okIn i id (fun s => rel s true)) = true ∧
    (let i := Instr.mirror ⟨0, 0, 0, 0, 0, 0xFF⟩
     let at_ := fun (f : Ctx → Ctx) (more : State → Bool) => okIn i (fun s => editCtx s f) more
     at_ (fun c => { c with broken := true }) (fun _ => true) && okIn i (fun s => edit s fun g => { g with pend := [openPend true] }) (fun s => writesOpen s.cur.pend 0xFF && !s.cur.faultParked) &&
     at_ id (fun s => okTo ((s.setCur s.cur.issuing).releaseAt s.cur.issuing 3 0xFF) id && (s.ctx 0).djob == 0) &&
     at_ (fun c => { c with djob := 7, buddy := 1 }) (fun s => okTo ((s.setCur s.cur.issuing).releaseAt s.cur.issuing 3 0xFF) id && (s.ctx 0).buddy == 1)) = true := by decide +kernel
/-- Arrivals: alone, the first, one in between, the last. Packets: an arrival, a completion, a return, totals before, at and after the last. -/
theorem witness_BarriersAndNorms :
    ((({} : GBar).arrive 1 0 9).2 = [(0, 9)] ∧ (({} : GBar).arrive 3 0 9).1.count = 1 ∧ (({ want := 3, count := 1 } : GBar).arrive 3 0 9).1.count = 2 ∧ (({ want := 3, count := 2, phases := 4 } : GBar).arrive 3 0 9).1.phases = 5) ∧
    (let at_ := fun (k : PktKind) (g : Gallery → Gallery) => editCtx { nopState with gal := g { nopState.gal with serve := [{ src := 1, dst := 0, djob := 7, tag := 3, kind := k }] } } (fun c => { c with djob := 7, nrmdev := 2 })
     [at_ (.gbarArrive 2 1) id, at_ (.gbarDone 2 [3]) id, at_ (.normReturn 0 0) id, at_ (.normTotal 0 0) id, at_ (.normTotal 0 0) fun g => { g with normHome := [(7 * 2 ^ 64, [(0, 0)])] },
      at_ (.normTotal 0 0) fun g => { g with normTot := [(7 * 2 ^ 64, 0)] }].all fun s => s.served.isSome && (s.ctxOfJob 7).map (·.1) == some 0) = true ∧
    (({ norms := [{ seq := 0, want := 1, closed := true }] } : Ctx).norms.all fun n => n.closed && !n.sent) = true := by decide +kernel

/-- The page of VA 0 as a leaf at level 2 with the flag bits `x`, on physical address 0. -/
def mapped (x : Nat) (s : State) : State := { editCtx s (fun c => { c with root := 0x1000 }) with hbm := [(0x1000, 0x01), (0x1001, 0x20), (0x2000, BitVec.ofNat 8 (x + 1)), (0x2001, 0x01)] }
/-- An engine operation of group 0. -/
def op1 (k : EngKind) : EngOp := { newOp k 1 with id := 5, groups := [0] }
def opState (o : EngOp) : State := { nopState with ops := [(5, o)], who := 5 }
theorem witness_EngineEvents_land :
    (let s := nopState.setCore 0 { nopState.core 0 with slotQ := [(0, 0)] }
     ((s.core s.who).held.filter s.atWord).isNone && ((s.core s.who).slotQ.filter fun q => s.atWord q.1) == [(0, 0)] && s.usedSlots 0 < 16) = true ∧
    (let o := { op1 .gsig with phase := 10 }
     let s := opState o
     s.opAwake o && s.mayProceed o && (match (s.setOp o).progress o with | .moved _ _ => true | _ => false)) = true ∧
    (let o := { op1 .gsig with phase := 11, flag := some 0 }
     let s := mapped 0x80 (opState o)
     s.opAwake o && s.mayProceed o && (match (s.setOp o).progress o with | .err .wait => true | _ => false)) = true := by decide +kernel
theorem witness_EngineEvents_fault :
    (let o := { op1 .gsig with phase := 11, flag := some 0 }
     let s := opState o
     s.forked o && (match s.progress o with | .err (.fault _) => true | _ => false) && (match (mapped 0 s).progress o with | .err .violation => true | _ => false)) = true ∧
    (let o := { op1 .gsig with status := .parked (some 3) }
     let s := editCtx (opState o) fun c => { c with released := [(3, true)] }
     (s.op s.who == some o) && (s.ctx o.ctx).released.contains (3, true)) = true ∧
    [{ op1 .gsig with phase := 13 }, { op1 .gsig with status := .cancelled, trap := some (4, 0) }].all (fun o => (opState o).opFinished o && (opState o).mayProceed o && o.groups == [0]) = true := by decide +kernel
/-- A wait of 65,536 cycles for the migrating page, of an operation and of an access. -/
theorem witness_EngineEvents_migrate :
    (let o := { op1 .gsig with phase := 11, flag := some 0, since := some 4 }
     let s := { mapped 0x80 (opState o) with cycle := 65540 }
     (s.opVas o).find? (fun a => s.migrating (s.opReq o a).asid a) == some 0) = true ∧
    (let s := { mapped 0x80 (edit nopState fun g => { g with pend := [{ openPend false with lanes := [{ lane := 0, addr := 0, since := some 4 }] }] }) with cycle := 65540 }
     s.op 1 == none && (match s.cur.pendOp 1 with
       | some p => p.lanes.all fun a => a.open && s.waitedLong a.since && s.migrating (tagAsid 1 a.addr) a.addr | none => false)) = true := by decide +kernel

/-- The ring words: no ring, a stage above NST; a ring with a stage at NST, and four operations deferred. -/
theorem witness_StageRings :
    [Instr.rpush ⟨0, 0, 0, 0, 22, 2⟩, .rpush ⟨1, 0, 0, 1, 22, 2⟩, .rrel ⟨0, 0, 0, 0, 22, 2⟩, .rpop ⟨0, 20, 0, 0, 0, 2⟩, .rpop ⟨1, 20, 0, 0, 0, 2⟩, .rwait ⟨0, 0, 0, 0, 22, 2⟩, .rwait ⟨1, 0, 0, 0, 22, 2⟩].all (fun i =>
      let at_ := fun (q : W32) (r : Ring) (n : Nat) => okIn i (fun s => editTeam (edit s fun g => { g with s := [(22, q)], ringOps := List.replicate n { rel := false, ring := 2, stage := 0, phase := false } }) fun t => { t with rings := [(2, r)] }) fun _ => true
      at_ 0 {} 0 && at_ 5 { en := true, nst := 4 } 0 && at_ 4 { en := true, nst := 4 } 0 && at_ 4 { en := true, nst := 4, pstg := 4, cstg := 4 } 3 && at_ 0 { en := true, nst := 0 } 4) = true ∧
    (let at_ := fun (w : GWait) (r : Ring) => editTeam (edit nopState fun g => { g with wait := w }) fun t => { t with rings := [(2, r)] }
     let s := at_ (.rwait 2 15 true true) { fph := 0x8000 }
     (s.teamOf s.cur).live && (tgetD (s.teamOf s.cur).rings 2 {}).fph.getLsbD 15 && (s.teamOf s.cur).save == .running) = true ∧
    (let s := edit nopState fun g => { g with ringOps := [{ rel := true, ring := 2, stage := 0, phase := false, waits := [9] }] }
     s.cur.ringOps.all fun o => o.waits.all (s.ringClear s.cur)) = true := by decide +kernel

/-- A unit of a load, of a vector and of a scalar destination; two lanes of a scratchpad store on one word; an atomic at its home; a lane that faults; one that is refused. -/
theorem witness_AccessEvents :
    [false, true].all (fun sc =>
      let p : PendOp := { openPend false with scalar := sc, dest := 5, lanes := [{ lane := 0, addr := 0, performed := true, val := [7], pois := [true] }] }
      let s := edit nopState fun g => { g with pend := [p], mode := .user }
      s.memOk && s.cur.pendOp 1 == some p && p.lanes.all (·.performed) && p.mode == s.cur.mode) = true ∧
    (let p : PendOp := { openPend true with spad := true, lanes := [{ lane := 0, addr := 4, data := [1] }, { lane := 31, addr := 4, data := [2] }] }
     let s := edit nopState fun g => { g with pend := [p] }
     s.memOk && p.lanes.all fun a => s.tryable s.cur p a && okTo (s.relGate 0 p a) id) = true ∧
    (let p : PendOp := { openPend false with kind := .atomic false true 0, scope := 3, lanes := [{ lane := 3, addr := 4, data := [1] }] }
     let s := lined 1 (edit nopState fun g => { g with pend := [p] })
     s.memOk && okTo (s.homeLine (s.reqOf s.cur 4)) (fun l => l.attrs.w && !l.poison) && p.lanes.all fun a => s.tryable s.cur p a && !a.remote p && okTo (s.relGate 0 p a) id && !lazyRelease p a) = true ∧
    [(nopState, some (MemErr.fault 1)), (mapped 0 nopState, some .violation)].all (fun x =>
      let s := edit x.1 fun g => { g with pend := [openPend true] }
      s.memOk && s.cur.armed.isEmpty && s.laneErr 0 (openPend true) { lane := 0, addr := 0 } == x.2) = true ∧
    (let s := editCtx (edit nopState fun g => { g with wait := .absent [(0, 3)] }) fun c => { c with queue := [{ va := 0, pc := 0, eseq := 0, team := 0, gid := 0, cause := 1, kind := 0, core := 0, agent := 0, owner := 0 }] }
     s.memOk && !(s.team 0).absent.contains 3 && s.logRoom (s.ctx s.who)) = true := by decide +kernel

/-- REGROUP: a register beyond the budget, a bracket, a deeper stack, another PC than the first arriver's; arrivals, the first and a later one. -/
theorem witness_RegroupExchange :
    (let at_ := fun (va vc : BitVec 8) (fg : Group → Group) (t : Team → Team) => okIn (.regroup ⟨0, 0, false, 4, va, 0, vc, 0, 0, false, false, false⟩) (fun s => editTeam (edit s fg) t) fun _ => true
     let pc := wordPc (wordState (.regroup ⟨0, 0, false, 4, 8, 0, 0, 0, 0, false, false, false⟩)).cur (wordClause (.regroup ⟨0, 0, false, 4, 8, 0, 0, 0, 0, false, false, false⟩))
     let i : Instr := .nop
     at_ 8 0 (fun g => { g with widen := some 1 }) id && at_ 8 0 (fun g => { g with stack := [{}, {}] }) id && at_ 8 0 id (fun t => { t with regroup := some (pc + 8, i) }) && at_ 8 0 id (fun t => { t with regroup := some (pc, i) }) &&
     at_ 8 15 (fun g => { g with nv := 16 }) id && at_ 8 16 (fun g => { g with nv := 16 }) id && at_ 16 0 (fun g => { g with nv := 16 }) id) = true ∧
    (let g := nopState.cur
     let ready := fun (gid : Nat) (v : W32) => ({ g with gid := gid, wait := .regroup, clause := none, exited := 0xFFFF0000, v := [(8, mapLanes 0xFFFFFFFF (fun _ => v) 0)] } : Group)
     let s := { (editTeam nopState fun t => { t with nvec := 2, nfeed := 0, nmtx := 0, spare := 0, groups := [(0, 0), (1, 1)], regroup := some (8, .regroup ⟨0, 0, false, 4, 8, 0, 0, 0, 0, false, false, false⟩), arrived := [0, 1] }) with
                groups := [(0, ready 0 5), (1, ready 1 7)], nextId := 9, who := 0 }
     s.participants (s.team 0) == [0, 1] && s.regroupReady (s.team 0) && (s.team 0).slots == 2) = true := by decide +kernel
/-- Movers of two keys in one group's lanes, merged where only one slot is there. -/
theorem witness_RegroupPacking :
    (let ms : List Mover := (List.range 8).map fun l => { key := l % 2, gid := 0, lane := l, uid := 0 }
     (packing 2 ms).map (fun p => (p.1, p.2.map (·.lane))) == [(0, [0, 2, 4, 6]), (1, [1, 3, 5, 7])] && (packing 1 ms).map (fun p => (p.1, p.2.map (·.lane))) == [(0xFFFFFFFF, [0, 2, 4, 6, 1, 3, 5, 7])]) = true := by decide +kernel

/-- A group at a clause boundary in user mode, with a line of code at its PC. -/
def boundary (l : Line) (f : Group → Group) : State :=
  { edit nopState (fun g => f { g with clause := none, mode := .user, pc := 0 }) with llc := [(llcKey 0 (lineKey 1 0), { data := l })] }
/-- A header of one word with a wait, and a NOP. -/
def codeLine (w : FW) : Line := BitVec.ofNat 1088 ((encodeHeader ⟨0, .vec, w, false⟩).toNat + encodeNat .nop * 2 ^ 64)
/-- CLAUSE_BEGIN: an armed trap; a bad header; a PC in the remote window; a clause whose waits are met, one to go on inside, one whose wait is not met and not long. -/
theorem witness_ClauseBegins :
    (let ok := fun (s : State) => s.atBoundary s.who && s.cur.wait == .none && !s.cur.faultParked && !s.cur.acqHeld
     let a := boundary 0 fun g => { g with armed := [⟨4, 0, 0⟩] }
     let b := boundary 0 id
     let r := boundary 0 fun g => { g with pc := 0x100000000000000 }
     let c := boundary (codeLine noWait) id
     let d := boundary (codeLine noWait) fun g => { g with resume := some 0 }
     let e := boundary (codeLine { noWait with wst := 0 }) fun g => { g with pend := [openPend true] }
     ok a && a.cur.armed != [] && ok b && (b.fetchClause b.cur matches .bad) && ok r && r.cur.pc.getLsbD 56 &&
     [c, d].all (fun s => ok s && (match s.fetchClause s.cur with | .clause s1 h ws => s.chosen 0 0 == some 0 && s1.who == 0 && ws.length == 1 && s1.waitsMet 0 (combine s.cur.waits h.wait) | _ => false)) &&
     ok e && (match e.fetchClause e.cur with | .clause s1 h _ => e.chosen 0 0 == none && !s1.waitsMet 0 (combine e.cur.waits h.wait) && !e.longWait 0 | _ => false)) = true := by decide +kernel
/-- A pending group that is ready enters the room of the set; one ready for 1,024 cycles, beside an active one that is not; a path that has issued PATHQ instructions. -/
theorem witness_ActiveSets :
    (let s := boundary (codeLine noWait) fun g => { g with active := false, gid := 4 }
     (s.pendings 0 0).contains s.who && (s.actives 0 0).length == 0 && s.oldestPending 0 0 == some s.who) = true ∧
    (let s0 := boundary (codeLine noWait) fun g => { g with active := false, gid := 4, readySince := some 1 }
     let s := { s0 with cycle := 1025, groups := s0.groups ++ [(1, { s0.cur with active := true, gid := 8, wait := .fault })] }
     (s.pendings 0 0).contains s.who && s.ready s.who && firstBy (fun u => (s.group u).age) ((s.actives 0 0).filter fun u => !s.ready u && !s.underWay u) == some 1 && !s.underWay 1) = true ∧
    (let s := boundary (codeLine noWait) fun g => { g with pathq := 16, pathCount := 16, stack := [ent 0 8 0xF, ent 8 8 0xF0, ent 0 1 0xFF] }
     s.atBoundary s.who && s.cur.wait == .none && decide (s.cur.pathq.toNat ≤ s.cur.pathCount) && s.cur.top.rcv == 8) = true := by decide +kernel
/-- A group all of whose lanes have exited: with another live group in its team, and as the last. -/
theorem witness_GroupRetires :
    (let s := edit nopState fun g => { g with clause := none, exited := 0xFFFFFFFF }
     let s1 := (s.setCur { s.cur with status := .retired, resv := [], wait := .none, armed := [] }).groupGone s.who
     let two := { s with groups := s.groups ++ [(1, { nopState.cur with gid := 1 })] }
     let two1 := (two.setCur { two.cur with status := .retired, resv := [], wait := .none, armed := [] }).groupGone two.who
     s.cur.status == .live && s.cur.pend.isEmpty && s.cur.moves.isEmpty && (s.team 0).live && (s1.groups.all fun p => p.2.status != .live && p.2.pend.isEmpty && p.2.moves.isEmpty) && (s.team 0).share.isNone && s.ops.isEmpty &&
     two1.groups.any fun p => p.2.team == 0 && p.2.status == .live) = true := by decide +kernel

/-- A launch record of two teams of one VECTOR group each, at ENTRY 8 (R19). -/
def launch : BitVec 512 := BitVec.ofNat 512 (8 + (16 + 32 * 2 ^ 6) * 2 ^ 128 + 2 * 2 ^ 160 + 2 ^ 192 + 2 ^ 224 + 2 ^ 256 + (1024 + 2) * 2 ^ 288)
/-- A machine with one context and one task whose gate is open. -/
def taskState (l : BitVec 512) (f : Task → Task) : State :=
  lined 1 { State.reset with ctxs := [(0, { asid := 1, savesz := 0xB2 })], tasks := [(1, f { ctx := 0, tcb := 0, lrec := l, gate := true })], who := 1, plat := { State.reset.plat with gates := false } }
theorem witness_TeamPlacement :
    (let s := taskState launch id
     s.waitingTasks == [1] && !s.plat.gates && refusal launch (s.ctx 0) == 0) = true ∧
    (let s := taskState 0 id
     s.waitingTasks == [1] && refusal 0 (s.ctx 0) == 2 &&
     ((((s.setTask 1 { s.task 1 with checked := true, refused := true }).setCtx 0 ((s.ctx 0).recordAt s.cycle 256 0 0 0x01 0)).tcbState 1 4 2).isSome)) = true ∧
    (let s := taskState launch fun t => { t with checked := true, placed := 1 }
     s.waitingTasks == [1] && !lrecCores launch && lrecTeams launch == 2 && s.placesFor 1 [(none, 1)] [] == some [0] && slotRole launch 0 == some .vector) = true := by decide +kernel
/-- The stops of pre-emption, a save, the leave and a resumption. -/
theorem witness_Preemption :
    (let p := fun (s : State) => (editTeam s fun t => { t with save := .preempting })
     let a := p (edit nopState fun g => { g with clause := none, mode := .user })
     let b := p (edit nopState fun g => { g with mode := .user, product := some ⟨.nop, 1, 2⟩ })
     let c := p (edit nopState fun g => { g with mode := .user, wait := .regroup })
     [a, b, c].all fun s => s.cur.status == .live && (s.team 0).live && (s.team 0).save == .preempting && !(s.team 0).stopped.contains s.cur.gid && s.cur.exited != 0xFFFFFFFF && !s.cur.faultParked) = true ∧
    (let s := lined 2 (editTeam nopState fun t => { t with save := .preempting, stopped := [0] })
     s.saveReady 0 [] && (s.team 0).share.isNone && okTo (s.areaWrite 0 (teamArea (s.ctx 0) (s.team 0).linear) (fun _ => 0) 2) (fun _ => true)) = true ∧
    (let s := editTeam (edit nopState fun g => { g with wait := .parked }) fun t => { t with save := .saving }
     (s.team 0).live && s.handlersIdle 0 && (s.membersOf 0).all fun p => p.2.wait == .parked) = true ∧
    (let s := editTeam (edit nopState fun g => { g with wait := .tretResume false, staged := some goodBlock }) fun t => { t with save := .resuming, kept := [(0, nopState.cur)] }
     let t1 := { s.team 0 with spad := [], absent := [], spadPoison := [], bars := [], rings := [] }
     (s.team 0).live && s.handlersIdle 0 && okTo (s.areaRead 0 (teamArea (s.ctx 0) 0) (s.spadSize 0 / 128)) (· == []) && okTo ((s.setTeam 0 t1).applyBlocks t1 [(0, nopState.cur)]) (fun _ => true)) = true := by decide +kernel
/-- The end of a grid: entries not yet acknowledged; no successor, a good one and a bad one; PRED at 0 and at 1. -/
theorem witness_GridEnds :
    (let s0 := { taskState launch fun t => { t with checked := true, placed := 2 } with cores := [(0, {})] }
     let with_ := fun (l : Nat) (tcb : Nat) => { s0 with llc := [(llcKey 0 (lineKey 1 0), { data := BitVec.ofNat 1088 (l * 2 ^ (8 * 0x4C) + 0x80 * 2 ^ (8 * 0x50)) }),
       (llcKey 0 (lineKey 1 0x80), { data := BitVec.ofNat 1088 tcb }), (llcKey 0 (lineKey 1 0x100), { data := lineSet 0 0x40 4 1 }), (llcKey 0 (lineKey 1 0x180), {})] }
     let ends := fun (s : State) => match (s.setTask 1 { s.task 1 with done := true }).tcbState 1 3 0 with
       | some s3 => (match s3.devRead 0 0x4C 2, s3.devRead 0 0x50 8 with
         | .ok (_, n), .ok (_, l) => (match s3.successors 0 l n with | .ok (s4, b) => some (n, l, b, (s4.tcbState 1 5 0).isSome) | .error _ => none)
         | _, _ => none)
       | none => none
     s0.gridOver 1 && okTo (s0.flushCores 0 [0]) (fun _ => true) && ((sentEntry s0).core 0).wcb.length == 1 &&
     ends (with_ 0 0) == some (0, 0x80, true, true) && ends (with_ 1 0x100) == some (1, 0x80, true, true) && ends (with_ 1 (2 ^ 57)) == some (1, 0x80, false, true) &&
     [(0x100, 1), (0x180, 0)].all fun p => okTo ((with_ 0 0).homeLine ((with_ 0 0).devReq 0 (p.1 + 0x40))) fun l => l.attrs.w && !l.poison && lineNat l.data ((p.1 + 0x40) % 128) 4 == p.2) = true := by decide +kernel

/-- Home requests of each kind, a pull with its acknowledgement, an invalidated sharer, a clean and a dirty write-back. Die 1 is the home of VA 2^21. -/
theorem witness_CacheEvents :
    (let s := lined 1 nopState
     (s.lineReq 0 1 0).isSome && (match s.lineReq 0 1 0 with | some q => okTo (s.llcRead q) (fun _ => true) && okTo (s.ownLine q) (·.attrs.w) | none => false)) = true ∧
    (let k := lineKey 1 (2 ^ 21)
     let s := { nopState with llc := [(llcKey 0 k, {})], dir := [(k, { st := .shared 1, rel := [{ core := 0, ctx := 0, cols := 0xFF, seq := 0 }] })] }
     (match s.lineReq 0 1 (2 ^ 21) with | some q => q.die != homeDie q.va && (s.llcAt q.die q.key).isSome && (s.dirAt q.key).st == .shared 1 | none => false) &&
     ((s.dirAt k).entryOf s.who).isSome && okTo (s.flushL1 0 0 1 0xFF) (fun _ => true) && (s.l1Covered 0 1 0xFF).isEmpty && homeDie (2 ^ 21) == 1) = true ∧
    [(0 : LineMask), 1].all (fun m =>
      let l : L1Line := { dirty := m, cols := 1 }
      let s := lined 1 (nopState.setCore 0 { nopState.core 0 with l1 := [(lineKey 1 0, l)] })
      s.l1At s.who (lineKey 1 0) == some l && okTo (s.llcWrite ⟨0, 0, 1, 0⟩ l.dirty l.data l.cols true l.poison l.byCtxs) (fun _ => true)) = true := by decide +kernel

/-- `s` with a packet of device 1 to serve, in a job that runs here with an export window of 64 KiB from VA 0. -/
def packetState (k : PktKind) (s : State) : State :=
  editCtx { s with gal := { s.gal with devices := 2, serve := [{ src := 1, dst := 0, djob := 7, tag := 3, kind := k }] } } fun c => { c with djob := 7, expsz := 1 }
theorem witness_PacketService :
    [PktKind.read 0x10000, .read 0, .write 0].all (fun k =>
      let s := packetState k (lined 1 nopState)
      (s.served.map s.inOrder == some true) && (match s.serveReq 7 (match k with | .read a => a | _ => 0) with | none => k == .read 0x10000 | some r => okTo (s.took.homeLine r) (·.attrs.w))) = true ∧
    (let s := packetState (.xlat 0) nopState
     let m := mapped 2 s
     (s.serveXlat 7 0 == .notPresent) && (s.serveXlat 7 1 == .refused) && (m.serveXlat 7 0 matches .xlatReply _ _ _) && s.gal.trackers.isEmpty &&
     !(s.movingUnit 7 0) && !(m.movingUnit 7 0) && (mapped 0x82 s).movingUnit 7 0) = true ∧
    [PktKind.moved, .inval 0, .performed].all (fun k => let s := packetState k (nopState.setCore 0 {}); (s.core 0).wcb.isEmpty && s.gal.reqs.isEmpty && s.served.isSome) = true ∧
    (let s := packetState .performed (nopState.setCore 0 { wcb := [{ id := 3, peer := 1, line := 0, mask := 1, data := 0, colour := 0, ctx := 0, task := 0, limit := 9, born := 0, sent := true }] })
     (s.wcbOf 3).isSome) = true ∧
    (let s := packetState (.mirror 0) (lined 1 nopState)
     s.served.map s.inOrder == some true && (s.ctxOfJob 7).isSome && okTo (s.took.homeStore ⟨noCore, 0, 1, 0⟩ 0 0 0 false) (fun _ => true)) = true ∧
    [PktKind.performed, .refused].all (fun k => let s := editCtx (packetState k nopState) fun c => { c with mirrors := [(3, 1, 0)] }; (s.mirrorOf 3).isSome && (s.wcbOf 3).isNone) = true := by decide +kernel

/-- A domain of three devices, with port 5 of each step to device 1 and a session with it. -/
def galState (g : Gallery → Gallery) : State :=
  { nopState with gal := g { nopState.gal with devices := 3, caltab := [(5, 0x8001)], sessions := [{ peer := 1, out := true, number := 1, key := 0, salt := 0 }, { peer := 1, out := false, number := 1, key := 0, salt := 0 }] } }
/-- The step's state in which packets are placed, as the statement has it. -/
def stepped (s : State) : State := { s with gal := { s.gal with sn := s.gal.stepAt s.cycle + 1, used := [], light := [], ackOut := [], hopAcks := [], out := [] } }
theorem witness_PortGroup :
    (let o := fun (d : Nat) => ({ pkt := { src := 0, dst := d, djob := 7, tag := 3, kind := .read 0 }, ctx := 0, w := 0 } : OutPkt)
     let s := galState fun g => { g with out := [o 1] }
     let r := galState fun g => { g with out := [o 2], sessions := [{ peer := 2, out := true, number := 1, key := 0, salt := 0 }] }
     s.gal.flight == 1 && decide (s.gal.epoch ≤ s.nowNs ∧ s.gal.sn ≤ s.gal.stepAt s.cycle) && s.gal.held.isEmpty && s.gal.owed.isEmpty && s.gal.aligned && (s.gal.sessionTo 1).isSome && !overBudget 0 0xFFFFFFFF &&
     (stepped s).portFor 0 1 == some 5 && (r.gal.sessionTo 2).isSome && ((stepped r).portFor 0 2).isNone && (r.gal.stepsUntil 0 2).isNone && (stepped r).relayFor 0 2 == some (5, 1)) = true ∧
    (let f : GalFrame := { src := 0, dst := 1, xmit := 0, relayed := false, retrans := false, session := 1, counter := 4, pkts := [], crcOk := true, tagOk := true, lineOk := true, hopAcks := [], credit := 0 }
     [6, 7].all fun n =>
       let h : HeldFrame := { frame := f, first := 0, sent := 1, via := 1, ctx := 0, tries := n, hopAck := true }
       let s := galState fun g => { g with held := [h], sn := 3 }
       (s.gal.held.find? fun x => frameId x.frame == frameId f) == some h && decide (h.sent + 2 * s.gal.flight ≤ s.gal.sn)) = true := by decide +kernel
/-- A frame in transit and one for this device: accepted before; with a failing tag, the first and the eighth time; the next in sequence, and a later one. -/
theorem witness_FramesAndSessions :
    (let p : Packet := { src := 1, dst := 0, djob := 7, tag := 3, kind := .read 0, seq := some 2 }
     let f : GalFrame := { src := 1, dst := 0, xmit := 1, relayed := false, retrans := false, session := 1, counter := 4, pkts := [p], crcOk := true, tagOk := true, lineOk := true, hopAcks := [], credit := 0 }
     let at_ := fun (x : Session → Session) (g : Gallery → Gallery) => galState fun y => g { y with sn := 1, sessions := y.sessions.map x }
     [at_ id id, at_ (fun x => { x with accepted := [4] }) id, at_ (fun x => { x with discards := [(4, 6)] }) id, at_ (fun x => { x with discards := [(4, 7)] }) id,
      at_ id fun g => { g with seqIn := [(16, 2)] }, at_ id fun g => { g with seqIn := [(16, 1)] }].all fun s =>
        s.gal.flight != 0 && s.gal.sn != 0 && s.gal.portsTo ((s.gal.sn - 1) % s.gal.flight) f.xmit == [5] && f.pkts != [] && s.gal.unacked.isEmpty && s.gal.reorder.isEmpty &&
        (s.gal.sessions.find? fun x => !x.out && x.peer == f.src && x.number == f.session).isSome) = true ∧
    (let s := galState id
     s.gal.devices == 3 && (s.gal.sessions.all fun x => x.number < 2) && !s.gal.lost.contains 1) = true := by decide +kernel

/-- A machine whose ports are up, with an entry in the command ring. -/
def ringState (e : Nat) (f : State → State) : State :=
  let s := { nopState with plat := { nopState.plat with step := 7 }, ring := { nopState.ring with en := true, base := 0, wp := 1 } }
  f { s with host := mwriteL noSide s.host 0 (bytesOf 64 e) }
theorem witness_CommandRing :
    [0, 9, 2, 2 + 2 ^ 48, 8 + 2 ^ 32].all (fun e => let s := ringState e id; s.portsUp && s.nextEntry == some e && Memory.wf noSide s.host) = true ∧
    (let s := { nopState with plat := { nopState.plat with step := 6 } }
     s.portsUp && !s.ring.en) = true := by decide +kernel
/-- A command entry from its code, context and further bytes. -/
def entry (code ctx : Nat) (l : List (Nat × Nat)) : Nat := l.foldl (fun e p => e + p.2 * 2 ^ (8 * p.1)) (code + ctx * 2 ^ 32)
theorem witness_Commands_contexts :
    [(entry 1 0 [(6, 2)], id), (entry 1 1 [(6, 0)], id), (entry 1 1 [(6, 1)], id), (entry 1 1 [(6, 2)], id), (entry 1 1 [(6, 2), (8, 2 ^ 40 - 2 ^ 20), (16, 6), (24, 0xB2), (48, 8), (56, 8)], id),
     (entry 2 0 [], id), (entry 2 0 [], fun s => editTeam s fun t => { t with live := false })].all (fun p => (ringState p.1 p.2).nextEntry == some p.1) = true ∧
    (let s := ringState (entry 1 1 [(6, 2)]) id
     (tget s.ctxs 1).isNone && (tget s.ctxs 0).isSome && (s.ctxOfAsid 1).isSome && (s.ctxOfAsid 2).isNone && (s.teams.any fun p => p.2.ctx == 0 && p.2.live)) = true := by decide +kernel
/-- MAP: beyond 2^56; no table above; a bad entry; a frame beyond HBM; one that is written. REPLAY, BUDGET, GPARAM, OVFPOOL at their bounds. -/
theorem witness_Commands_values :
    (let at_ := fun (va level p : Nat) (more : State → Bool) =>
       let e := entry 3 0 [(8, va), (16, level), (24, p)]
       let s := ringState e (mapped 0)
       s.nextEntry == some e && more s
     at_ (2 ^ 56) 2 0 (fun _ => true) && at_ 0 0 0 (fun s => (s.walkTo 1 0 0).isNone) &&
     [(0x801, true, false), (0x101 + 2 ^ 40, false, true), (0x103 + 2 ^ 30, false, false)].all fun x => at_ (2 ^ 30) 2 x.1 fun s => (match s.walkTo 1 (2 ^ 30) 2 with
       | some (pa, old) => pteBad 2 (BitVec.ofNat 64 x.1) false == x.2.1 && (x.2.1 || s.mapBad 0 (BitVec.ofNat 64 x.1) (s.writePte 0 1 (2 ^ 30) 2 pa (BitVec.ofNat 64 x.1)).rev == x.2.2) && !pteV old | none => false)) = true ∧
    [entry 4 0 [(12, 2)], entry 4 0 [(12, 1)], entry 5 0 [(8, 0)], entry 5 0 [(8, 1024)], entry 5 0 [(8, 1025)], entry 6 0 [], entry 6 0 [(36, 4096), (40, 0xFFFF)],
     entry 8 0 [(8, 1)], entry 8 0 [(8, 16384)]].all (fun e => let s := ringState e id; s.nextEntry == some e && s.gal.trackers.isEmpty) = true ∧
    (let s := ringState (entry 4 0 [(8, 9)]) fun s => editCtx s fun c => { c with open_ := [(9, 3)] }
     (s.ctx 0).open_.find? (fun r => r.1 == 9) == some (9, 3)) = true ∧
    (let s := ringState (entry 8 0 [(8, 16384)]) fun s => { s with rev := [{ asid := 1, va := 0, size := 65536, pte := 1#64 <<< 52 ||| 0x111, ctx := 0 }] }
     s.rev.any fun r => r.ctx == 0 && pteC r.pte && pteOvf r.pte != 0 && !pteTier r.pte) = true := by decide +kernel
/-- ARM: a misaligned TCB, one beyond 2^56, one that may not be written, one armed before, and a new one. -/
theorem witness_Commands_arm :
    (let at_ := fun (a : Nat) (f : State → State) (more : State → Bool) => (ringState (entry 7 0 [(8, a)]) f).nextEntry == some (entry 7 0 [(8, a)]) && more (ringState (entry 7 0 [(8, a)]) f)
     let has := fun (s : State) (w : Bool) => okTo (s.homeLine (s.devReq 0 0)) (fun l => l.attrs.w == w)
     at_ 64 id (fun _ => true) && at_ (2 ^ 56) id (fun _ => true) && at_ 0 (fun s => { s with llc := [(llcKey 0 (lineKey 1 0), { attrs := { w := false } })] }) (fun s => has s false) &&
     at_ 0 (fun s => { lined 1 s with tasks := [(4, { ctx := 0, tcb := 0 })] }) (fun s => has s true) && at_ 0 (fun s => { lined 1 s with tasks := [] }) (fun s => has s true)) = true := by decide +kernel
theorem witness_HostAccesses :
    (let s := ringState 0 id
     s.portsUp && (s.mappingOf 0xFF).isNone && !s.inCompressed 0xFF && decide (0xFF < Config.reservedBase)) = true ∧
    (let s := { nopState with cycle := 22400, ctxs := [(0, { nopState.ctx 0 with asid := 1 })], heat := [(0, { ctx := 0, region := 0, count := 3 }), (1, { ctx := 0, region := 1, count := 1 })] }
     (tget s.ctxs s.who).isSome && s.cycle / (1400 * 16) != (s.ctx 0).periodAt / (1400 * 16) && (let t := { s with cycle := 2 ^ 24 }; t.cycle / 2 ^ ((t.ctx 0).heatctl.extractLsb' 4 5).toNat != 0)) = true := by decide +kernel
theorem witness_PlatformEvents :
    (let s := nopState
     (s.teams.any fun t => t.2.live) && ((editTeam s fun t => { t with live := false }).teams.all fun t => !t.2.live) && State.reset.plat.step == 1 && (ringState 0 id).plat.step == 7) = true ∧
    (let s := nopState.setCore 0 { samp := 1#64 <<< 63 }
     (s.core s.who).samp.getLsbD 63 && s.cycle % sampInterval (s.core 0).samp == 0 && (tget (s.core 0).sampAt 0).isNone && s.sampled 0 0 == some 0 && (s.group 0).status == .live) = true ∧
    (let s := padState .nop
     (s.team 0).live && decide (4 * 16383 < s.spadSize 0)) = true := by decide +kernel
/-- A word steps in a machine with two groups. -/
theorem witness_OtherGroups : (let s := { nopState with groups := nopState.groups ++ [(1, nopState.cur)] }
    Instr.nop.info.isWord && s.who == 0 && (s.group 1).status == .live && (match exec .nop s with | .next _ => true | _ => false)) = true := by decide +kernel

/-! ### One step on small states: the expected values are worked by hand from the rules cited -/

/-- The word steps from a changed group, and the next state passes a check. -/
def after (i : Instr) (f : Group → Group) (q : State → Bool) : Bool :=
  match exec i (edit (wordState i) f) with | .next t => q t | _ => false
/-- The value in s12 after a scalar word on s8 = a, s6 = b, s10 = c. -/
def scalar (i : Instr) (a b c : W32) : Option W32 :=
  match exec i (edit (wordState i) fun g => { g with s := [(6, b), (8, a), (10, c)] }) with | .next t => some (t.cur.rs 12) | _ => none
/-- R111: wraps, products, shifts by 31 and 32. -/
theorem test_scalar_arithmetic :
    [scalar (.sadd ⟨0, 12, 8, 6, 0, 0⟩) 0xFFFFFFFF 2 0, scalar (.ssub ⟨0, 12, 8, 6, 0, 0⟩) 1 2 0, scalar (.smul ⟨0, 12, 8, 6, 0, 0⟩) 0x10001 0x10001 0,
     scalar (.smulhi ⟨0, 12, 8, 6, 0, 0⟩) 0xFFFFFFFF 2 0, scalar (.smulhi ⟨1, 12, 8, 6, 0, 0⟩) 0xFFFFFFFF 2 0,
     scalar (.sshl ⟨0, 12, 8, 6, 0, 0⟩) 3 31 0, scalar (.sshl ⟨0, 12, 8, 6, 0, 0⟩) 3 32 0, scalar (.ssar ⟨0, 12, 8, 6, 0, 0⟩) 0x80000000 32 0, scalar (.sshr ⟨0, 12, 8, 6, 0, 0⟩) 0x80000000 31 0] =
    [some 1, some 0xFFFFFFFF, some 0x20001, some 0xFFFFFFFF, some 1, some 0x80000000, some 0, some 0xFFFFFFFF, some 1] := by decide +kernel
/-- R111, R112: minima, conditions, selection, counts, fields. -/
theorem test_scalar_logic :
    [scalar (.smin ⟨0, 12, 8, 6, 0, 0⟩) 0xFFFFFFFF 2 0, scalar (.smin ⟨1, 12, 8, 6, 0, 0⟩) 0xFFFFFFFF 2 0, scalar (.smax ⟨0, 12, 8, 6, 0, 0⟩) 0xFFFFFFFF 2 0,
     scalar (.scmp ⟨2, 12, 8, 6, 0, 0⟩) 0xFFFFFFFF 2 0, scalar (.scmp ⟨4, 12, 8, 6, 0, 0⟩) 0xFFFFFFFF 2 0, scalar (.ssel ⟨0, 12, 8, 6, 10, 0⟩) 0xAAAA 0x5555 0xFF,
     scalar (.spopc ⟨0, 12, 8, 0, 0, 0⟩) 0xF0F0 0 0, scalar (.sclz ⟨0, 12, 8, 0, 0, 0⟩) 0 0 0, scalar (.sbfx ⟨1, 12, 8, 6, 10, 0⟩) 0xF0 4 4, scalar (.sbfx ⟨0, 12, 8, 6, 10, 0⟩) 0xF0000000 28 9] =
    [some 0xFFFFFFFF, some 2, some 2, some 0xFFFFFFFF, some 0, some 0x55AA, some 8, some 32, some 0xFFFFFFFF, some 15] := by decide +kernel
/-- R48: a write of s0 is discarded; R34: with ACTIVE empty nothing is written. -/
theorem test_scalar_s0_and_inactive :
    after (.smovi ⟨0, 0, 0, 5⟩) id (fun t => t.cur.rs 0 == 0xFFFFFFFF) = true ∧ after (.smovi ⟨0, 12, 0, 5⟩) (fun g => { g with exited := 0xFFFFFFFF }) (fun t => t.cur.rs 12 == 0) = true := by decide +kernel

/-- Lane 0 of v4 after a vector word on v8 = a, v12 = b, v9 = c in every lane. -/
def vector (i : Instr) (a b c : W32) : Option W32 :=
  let all := fun (x : W32) => mapLanes 0xFFFFFFFF (fun _ => x) 0
  match exec i (edit (wordState i) fun g => { g with v := [(8, all a), (9, all c), (12, all b)] }) with | .next t => some (t.cur.rl 4 0) | _ => none
/-- R138: packed elements wrap or clamp, a high half, a shift by the width, the fields. -/
theorem test_vector_integer :
    [vector (.vadd ⟨0, 0, false, 4, 8, 12, 0, 4, 0, false, false, false⟩) 0x01FF02FF 0x01010101 0, vector (.vadd ⟨0, 0, false, 4, 8, 12, 0, 4, 0, true, false, false⟩) 0x01FF02FF 0x01010101 0,
     vector (.vmul ⟨1, 0, false, 4, 8, 12, 0, 2, 0, false, false, false⟩) 0xFFFFFFFF 2 0, vector (.vmul ⟨1, 0, false, 4, 8, 12, 0, 6, 0, false, false, false⟩) 0xFFFFFFFF 2 0,
     vector (.vabs ⟨0, 0, false, 4, 8, 0, 0, 1, 0, false, false, false⟩) 0x8000FFFF 0 0, vector (.vabs ⟨0, 0, false, 4, 8, 0, 0, 1, 0, true, false, false⟩) 0x8000FFFF 0 0,
     vector (.vshl ⟨0, 0, false, 4, 8, 12, 0, 1, 0, false, false, false⟩) 0x00030003 0x0010000F 0, vector (.vbfi ⟨0, 0, false, 4, 8, 12, 9, 0, 0, false, false, false⟩) 0xFF 4 4,
     vector (.vbfn3 ⟨8, 0, false, 4, 8, 12, 9, 14, 0, false, false, false⟩) 0xF0F0 0xFF00 0xCCCC] =
    [some 0x02000300, some 0x02FF03FF, some 0xFFFFFFFF, some 1, some 0x80000001, some 0x7FFF0001, some 0x00008000, some 0xF0, some 0xFCC0] := by decide +kernel
/-- R140, R141: a product, a fused sum that rounds once, a minimum that returns the other operand for a NaN, a reciprocal of -0, 2^x. -/
theorem test_vector_float :
    [vector (.vfmul ⟨0, 0, false, 4, 8, 12, 0, 8, 0, false, false, false⟩) 0x40000000 0x40400000 0, vector (.vfma ⟨0, 0, false, 4, 8, 12, 9, 8, 0, false, false, false⟩) 0x3F800001 0x3F800001 0xBF800002,
     vector (.vfmin ⟨0, 0, false, 4, 8, 12, 0, 8, 0, false, false, false⟩) 0x7FC00000 0x80000000 0, vector (.vfrcp ⟨0, 0, false, 4, 8, 0, 0, 8, 0, false, false, false⟩) 0x80000000 0 0,
     vector (.vfexp2 ⟨0, 0, false, 4, 8, 0, 0, 8, 0, false, false, false⟩) 0x40400000 0 0, vector (.vfsqrt ⟨0, 0, false, 4, 8, 0, 0, 8, 0, false, false, false⟩) 0xBF800000 0 0] =
    [some 0x40C00000, some 0x28800000, some 0x80000000, some 0xFF800000, some 0x41000000, some 0x7FC00000] := by decide +kernel
/-- The outcomes of 13 for `VSHFL.down v9, v3, s10` with s10 = 1: lane 29 takes lane 30's value, lane 30 of an exited source 0, and a lane that is not active keeps its own. -/
theorem test_shuffle_outcomes :
    (let i := Instr.vshfl ⟨2, 12, false, 9, 3, 10, 0, 0, 0, false, true, false⟩
     let run := fun (act : W32) (l : Nat) => match exec i (edit (wordState i) fun g => { g with exited := 0x80000000, s := [(10, 1), (12, act)], v := [(3, mapLanes 0xFFFFFFFF (fun k => BitVec.ofNat 32 k) 0), (9, mapLanes 0xFFFFFFFF (fun _ => 99) 0)] }) with
       | .next t => some (t.cur.rl 9 l) | _ => none
     [run 0x3FFFFFFF 29, run 0x3FFFFFFF 30, run 0x7FFFFFFF 30]) = [some 30, some 99, some 0] := by decide +kernel
/-- R154, R155: a ballot of the active lanes; an exclusive sum; a saturating reduction. -/
theorem test_votes_and_folds :
    (let ls := mapLanes 0xFFFFFFFF (fun k => BitVec.ofNat 32 k) 0
     let run := fun (i : Instr) (q : Group → W32) => match exec i (edit (wordState i) fun g => { g with s := [(12, 0xF)], v := [(8, ls)] }) with | .next t => some (q t.cur) | _ => none
     [run (.vvote ⟨0, 12, false, 20, 8, 0, 0, 0, 0, false, false, false⟩) (·.rs 20), run (.vscan ⟨8, 12, false, 4, 8, 0, 0, 2, 0, false, false, false⟩) (·.rl 4 3), run (.vscan ⟨8, 12, false, 4, 8, 0, 0, 2, 0, false, false, false⟩) (·.rl 4 0),
      run (.vreduce ⟨2, 0, false, 20, 8, 0, 0, 2, 0, false, false, false⟩) (·.rs 20)]) = [some 0xE, some 3, some 0, some 31] := by decide +kernel
/-- R143: with an empty and a partial ACTIVE only the bits of active lanes are written. -/
theorem test_compare_merges :
    (let i := Instr.vcmp ⟨0, 12, false, 20, 8, 9, 0, 2, 0, false, false, false⟩
     after i (fun g => { g with s := [(12, 0xFF), (20, 0xF0F)] }) fun t => t.cur.rs 20 == 0xFFF) = true := by decide +kernel
/-- R146: f32 of -1, i32 of -2.5 truncated, e4m3 of 1.0, i8 of 1000. -/
theorem test_conversions :
    [vector (.vcvt ⟨8, 0, false, 4, 8, 0, 0, 2, 0, false, false, false⟩) 0xFFFFFFFF 0 0, vector (.vcvt ⟨2, 0, false, 4, 8, 0, 0, 8, 1, false, false, false⟩) 0xC0200000 0 0, vector (.vcvt ⟨12, 0, false, 4, 8, 0, 0, 8, 0, false, false, false⟩) 0x3F800000 0 0,
     vector (.vcvt ⟨0, 0, false, 4, 8, 0, 0, 2, 0, false, false, false⟩) 1000 0 0] = [some 0xBF800000, some 0xFFFFFFFE, some 0x38, some 0x7F] := by decide +kernel
/-- 11, the trace of CALL, BRD and two RETs: the stacks after the CALL, after the BRD, and after the first RET. -/
theorem test_call_brd_ret_trace :
    after (.call ⟨0, 0, false, 24, 0⟩) id (fun t => t.cur.stack.map (fun e => (e.mask, e.rcv)) == [(0xFFFFFFFF, 3), (0xFFFFFFFF, 1)]) = true ∧
    after (.brd ⟨0, 5, false, 8, 16⟩) (fun g => { g with s := [(5, 0xFF)] }) (fun t => t.cur.stack.map (·.mask) == [0xFFFFFF00, 0xFF, 0xFFFFFFFF] && t.cur.pc == 16) = true ∧
    after .ret (fun g => { g with stack := [ent 24 40 0xFFFFFF00, ent 16 40 0xFF, ent 40 3 0xFFFFFFFF, ent 64 1 0xFFFFFFFF] })
      (fun t => t.cur.stack.map (fun e => (e.mask, e.rcv)) == [(0xFF, 40), (0xFF, 3), (0xFFFFFFFF, 1)] && t.cur.pc == 16) = true := by decide +kernel
/-- 11 R115, the table for a split predicate: BRA and its negation both move the whole path to 5 words from the header (R95). -/
theorem test_bra_split : [false, true].all (fun n => after (.bra ⟨0, 5, n, 5, 0⟩) (fun g => { g with s := [(5, 0xFF)] }) fun t => t.cur.pc == 40 && t.cur.mask == 0xFFFFFFFF) = true := by decide +kernel
/-- 23 R260: contributions of 25.0 under CLIP 1.0 give 0x3E4CCCCD and NORMBOX 0x800000013E4CCCCD. -/
theorem test_norm_collective : normMult 0x41C80000 0x3F800000 = 0x3E4CCCCD ∧ (({ normclip := 0x3F800000 } : Ctx).deposit 0 0 0x41C80000).normbox = 0x800000013E4CCCCD := by decide +kernel
/-- 23 R256: a product at PC 0x400208 stopped after its first chunk has MPROG 0x8040000000080041. -/
theorem test_mprog : mprogOf 1 (0x400208 / 8) = 0x8040000000080041 := by decide
/-- 21, the trace of ring 2 with two stages: RPOP.prod from stage 1 of lap 0 returns 1, and from stage 0 of lap 1 returns 0x10. -/
theorem test_rpop_trace :
    (let run := fun (p : BitVec 4) (lap : Bool) => match exec (.rpop ⟨0, 20, 0, 0, 0, 2⟩) (editTeam (wordState (.rpop ⟨0, 20, 0, 0, 0, 2⟩)) fun t => { t with rings := [(2, { en := true, nst := 1, pstg := p, plap := lap })] }) with
       | .next t => some (t.cur.rs 20, (tgetD (t.team 0).rings 2 {}).pstg, (tgetD (t.team 0).rings 2 {}).plap) | _ => none
     [run 1 false, run 0 true]) = [some (1, 0, true), some (0x10, 1, true)] := by decide +kernel
/-- 27 R281, R282: TRAP with a user handler enters it with its operand in TARG and cause 9; without one the group is killed; a handler's TRET returns behind the word. -/
theorem test_trap_and_return :
    (match exec (.trap ⟨0, 0, 0, 0x2A⟩) (editCtx (wordState (.trap ⟨0, 0, 0, 0x2A⟩)) fun c => { c with userEntry := 8, sysEntry := 16 }) with | .next t => t.cur.mode == .userHandler && t.cur.pc == 8 && t.cur.targ == 0x2A && t.cur.cause == 9 | _ => false) = true ∧
    (match exec (.trap ⟨0, 0, 0, 0x2A⟩) (editCtx (wordState (.trap ⟨0, 0, 0, 0x2A⟩)) fun c => { c with sysEntry := 16 }) with | .next t => t.cur.status == .killed && ((t.ctx 0).errstat.getLsbD 63) | _ => false) = true ∧
    (match exec (.tret ⟨1, 0, 0, 0⟩) (tretState 1 { pc := 0x40, inside := true, idx := 0, endsClause := true, hdrWords := 1 }) with | .next t => t.cur.mode == .user && t.cur.pc == 0x50 && t.cur.clause.isNone | _ => false) = true := by decide +kernel
/-- 17 R186, R189: a 16-bit signed load of 0x8000 in lane 3, and an atomic addition at the home. -/
theorem test_load_and_atomic :
    (let s := { edit nopState (fun g => { g with pend := [{ openPend false with bytes := 2, signed := true, dest := 5, lanes := [{ lane := 3, addr := 4 }] }] }) with llc := [(llcKey 0 (lineKey 1 0), { data := 0x80000000000000 >>> 8 })] }
     let s1 := s.tryLane 0 1 3
     match exec (.loadDataReturn 1 0 8) s1 with | .next t => t.cur.rl 5 3 == 0xFFFF8000 && t.cur.pend.isEmpty | _ => false) = true ∧
    (let s := lined 1 (edit nopState fun g => { g with pend := [{ openPend false with kind := .atomic false true 0, scope := 3, dest := 5, lanes := [{ lane := 3, addr := 4, data := [7] }] }] })
     match exec (.homeAtomic 1 8) s with | .next t => ((t.llcAt 0 (lineKey 1 0)).map fun l => lineNat l.data 4 4) == some 7 | _ => false) = true := by decide +kernel
/-- 31 R324: CRRP 30 of a ring of 16 with CRWP 47 stops with OVERRUN; CRRP stays. -/
theorem test_lapped_ring : (match exec (.crwpDoorbell 47) (let s := ringState 0 id; { s with ring := { s.ring with rp := 30, wp := 40 } }) with | .next t => t.ring.overrun && t.ring.rp == 30 | _ => false) = true := by decide +kernel
/-- 05 R58: of two events in one cycle the one from the lower core counts as first, and both are counted; the next cycle's does not displace it. -/
theorem test_first_event : (let c := (({} : Ctx).recordAt 7 3 5 1 3 64).recordAt 7 2 9 4 1 128
    c.errstat == 0x8000000900020401 && c.errpc == 128 && (c.recordAt 8 0 0 0 1 0).errstat == 0x8000000900030401) = true := by decide +kernel
/-- 05 R60's outcomes: E = 3 and two arrivals; the third group's BAR completes the phase, so a write of E in the same cycle waits, and takes its place in the next cycle. -/
theorem test_barst_after_bar : (let s := editTeam (edit (wordState (.barstWrite ⟨0, 0, 8, 0x24⟩)) fun g => { g with s := [(8, 4)] }) fun t =>
      { t with bars := [(4, { e := 3, phases := 1 })], barDone := [(4, (0, false))] }
    match exec (.barstWrite ⟨0, 0, 8, 0x24⟩) s, exec (.barstWrite ⟨0, 0, 8, 0x24⟩) { s with cycle := 1 } with
    | .next t, .next u => ((t.team 0).bar 4).e == 3 && t.cur.clause.isSome && ((u.team 0).bar 4).e == 4 && u.cur.clause.isNone
    | _, _ => false) = true := by decide +kernel

/-! ### What gyas makes of a source (09 R103 to R108) -/

/-- 10_encoding_notes.md, "How gyas forms clauses": the loop body gives three clauses with the headers of the table, and BRA its way back to `top`. -/
def loopBody : List GLine :=
  [.label "top", .word { i := .vfadd ⟨0, 0, false, 6, 6, 5, 0, 8, 0, false, false, false⟩ }, .word { i := .saddImm ⟨8, 10, 10, 1⟩ },
   .word { i := .vld ⟨4, 0, false, 1, 2, 8, 0, 0, 0⟩ }, .word { i := .vld ⟨4, 0, false, 3, 2, 9, 0, 0, 0⟩ },
   .word { i := .vfmul ⟨0, 0, false, 5, 1, 3, 0, 8, 0, false, false, false⟩ }, .word { i := .bra ⟨0, 6, false, 0, 0⟩, tgt := some "top" }]
theorem test_gyas_clauses :
    ((assemble 0 [] loopBody).getD []).map (·.1) = [0, 8, 16, 24, 32, 40, 48, 56, 64] ∧
    (((assemble 0 [] loopBody).getD []).filter fun w => w.1 ∈ [0, 24, 48]).map (·.2) = [0xC11FFFFE00000000, 0xC13FFFFE00000000, 0xC1007FFE00000000] ∧
    ((((assemble 0 [] loopBody).getD []).getLast?).map (·.2)) = some 0x1600CFFFFFA00000 := by decide +kernel
/-- 10_encoding_notes.md: an explicit clause keeps its waits as written; a label inside it is an error (R106). -/
theorem test_gyas_explicit :
    ((assemble 0 [] [.clause .vec { wld := some 2, tok := 5, yld := true }, .word { i := .saddImm ⟨8, 12, 12, 128⟩ }, .word { i := .nop }, .word { i := .nop }, .word { i := .nop }, .endc]).getD []).head?
      = some (0, 0xC3017FFE0B000000) ∧
    assemble 0 [] [.clause .vec {}, .label "a", .word { i := .nop }, .endc] = none ∧ assemble 0 [] [.clause .mtx {}, .word { i := .vld ⟨4, 0, false, 1, 2, 8, 0, 0, 0⟩ }, .endc] = none := by decide +kernel
/-- 10_encoding_notes.md, "Directives": the launch template of the preamble; rf = 6, a missing budget and v = 120 give no object. -/
def fwdTile : GKernel :=
  { vec := some 4, feed := some 1, mtx := some 1, prio := 1, spill := 8, regV := some (128, 32, 64), regF := some (32, 0, 32), regM := some (32, 0, 32),
    rf := 5, sp := 15, ts := 28, spt := 3, tgm := 7 }
theorem test_gyas_template :
    fwdTile.template.map (fun l => (lrecNat l 128 32, lrecNat l 256 32, lrecNat l 288 64, lrecNat l 352 32)) = some (0x070DC3C5, 0x01001044, 0x0000080208021048, 8) ∧
    { fwdTile with rf := 6 }.template = none ∧ { fwdTile with regF := none }.template = none ∧ { fwdTile with regV := some (120, 32, 64) }.template = none := by decide +kernel
/-- 21 R227: RINGSTn of `.ring 2 stages=2` holds EN and NST = 1. 09 R104: `#1.1` as an IMM32 is FP32 0x3F8C_CCCD and no IMM24. -/
theorem test_gyas_values : ringReset 2 1 = 0x101 ∧ (GFloat.mk false 11 (-1)).imm32 = 0x3F8CCCCD ∧ (GFloat.mk false 11 (-1)).imm24 = none ∧
    (GFloat.mk false 15 (-1)).imm24 = some 0x3FC000 := by decide +kernel

/-! ### States in which words complete, and their steps -/

/-- `GoneOn`, as a check. -/
def goneOn (s t : State) (c : Clause) : Bool :=
  t.who == s.who && t.cur.status == .live && t.cur.mode == s.cur.mode && t.cur.frameU == s.cur.frameU && t.cur.frameS == s.cur.frameS &&
  ((c.idx + 1 < c.words.length && t.cur.clause == some { c with idx := c.idx + 1 }) || (c.words.length ≤ c.idx + 1 && t.cur.clause == none))
/-- The word issues in a changed state that meets a condition, and its step completes it. -/
def completesIn (i : Instr) (h : State → State) (ready : State → Bool) : Bool :=
  let s := h (wordState i)
  let c := wordClause i
  issuesCheck i s c && ready s && (match exec i s with | .next t => goneOn s t c | _ => false)
/-- `GlobalReady` and `SpadReady`, as checks. -/
def globalReady (i : Instr) (s : State) : Bool :=
  match globalForm s i with
  | some m => m.heads.all (fun p => !m.refuses s p.2 && p.2.toNat % m.align == 0) && s.cur.pend.countP (fun q => q.ctr == m.op.ctr) < 63
  | none => false
def spadReady (i : Instr) (s : State) : Bool :=
  match spadForm s i with
  | some (p, ls) => s.cur.pend.countP (fun q => q.ctr == p.ctr) < 63 && ls.all fun x => x.2.1.toNat % p.bytes == 0 &&
      (match s.spadMap s.cur.team x.2.1.toNat with
       | .at t o => o + p.bytes ≤ 2 ^ 32 && !(s.team t).absent.contains (o / 128) && !(s.team t).absent.contains ((o + p.bytes - 1) / 128)
       | _ => false)
  | none => false
/-- A state changed through its group. -/
def onCur (f : Group → Group) (s : State) : State := s.setCur (f s.cur)
/-- The team of a word with the scratchpad of `padState`. -/
def withPad (s : State) : State := { s with tasks := (padState .nop).tasks }
/-- One vector register holds `a` in every lane. -/
def laneReg (n : Nat) (a : W32) (g : Group) : Group := { g with v := [(n, mapLanes 0xFFFFFFFF (fun _ => a) 0)] }

/-- Words without conditions of their own, YIELD and WAIT among them; VPACK with traps off; WIDEN, NARROW and JOIN. -/
theorem witness_WordsComplete_plain :
    (words0 ++ [Instr.yield, .wait ⟨0, 63, 15, 15, 1⟩, .vpack ⟨9, 0, false, 4, 8, 0, 0, 8, 0, false, false, false⟩, .vfadd ⟨0, 0, false, 4, 8, 12, 0, 8, 0, false, false, false⟩]).all
      (fun i => completesIn i id fun s => !s.cur.gctl.getLsbD 0) = true ∧
    completesIn .widen id (fun s => s.cur.widen == none) = true ∧
    completesIn .narrow (onCur fun g => { g with widen := some 0xFFFFFFFF }) (fun s => s.cur.widen != none) = true ∧
    completesIn .join id (fun s => s.cur.widen == none && s.cur.stack.length ≤ 1) = true := by decide +kernel
/-- A load, a store, an atomic, a line move and a reservation in global memory; the scratchpad words, PRESQ, SPJOIN and SPLEAVE. -/
theorem witness_WordsComplete_memory :
    [Instr.vld ⟨0, 0, false, 4, 8, 12, 64, 0, 1⟩, .vst ⟨0, 0, false, 4, 8, 12, 64, 0, 1⟩, .vatom ⟨0, 0, false, 4, 8, 12, 64, 0, 1⟩, .vldx ⟨0, 0, false, 4, 8, 12, 64, 0, 1⟩,
     .ldrsv ⟨4, 0, false, 4, 8, 12, 64, 0, 1⟩].all (fun i => completesIn i (onCur (laneReg 8 0x40)) (globalReady i)) = true ∧
    [Instr.vlds ⟨4, 0, false, 4, 8, 0, 0, 0, 1⟩, .vsts ⟨4, 0, false, 4, 8, 0, 0, 0, 1⟩, .vatoms ⟨0, 0, false, 4, 8, 0, 0, 0, 1⟩].all
      (fun i => completesIn i (fun s => withPad (onCur (laneReg 8 0xFFFC) s)) (spadReady i)) = true ∧
    (let i := Instr.presq ⟨1, 0, false, 4, 8, 0, 0, 0, 0⟩
     completesIn i (fun s => withPad (onCur (laneReg 8 0xF000) s)) fun s => decide (0xF000 + 4096 ≤ s.spadSize 0)) = true ∧
    completesIn (.spjoin ⟨0, 12, 8, 0, 0, 0⟩) withPad (fun s => (tget (s.ctxOf s.cur).joinAt (s.cur.rs 8).toNat).isNone) = true ∧
    completesIn .spleave id (fun s => (s.teamOf s.cur).share == none) = true := by decide +kernel
/-- A release with nothing outstanding; MIRROR; a ring word with a stage; NRMADD, ERRCLR, the writes of BARST and NORMBOX; TLBINV and CINV; HEATRD of no entry; QPOST. -/
theorem witness_WordsComplete_rest :
    [Instr.fence ⟨1, 0, false, 4, 0, 0, 0, 0, 1⟩, .drain ⟨3, 0, false, 2, 0, 0, 0, 0, 0⟩, .icinv, .mirror ⟨0, 0, 0, 0, 0, 2⟩, .gbar ⟨0, 0, 0, 0, 22, 2⟩].all (fun i =>
      completesIn i id fun s => s.cur.pend.isEmpty && s.cur.moves.isEmpty && (s.core 0).l1.isEmpty && (s.core 0).wcb.isEmpty && !(s.ctxOf s.cur).broken) = true ∧
    [Instr.rpush ⟨0, 0, 0, 0, 22, 2⟩, .rrel ⟨0, 0, 0, 0, 22, 2⟩, .rwait ⟨0, 0, 0, 0, 22, 2⟩, .rpop ⟨0, 20, 0, 0, 0, 2⟩].all (fun i =>
      completesIn i (fun s => editTeam s fun t => { t with rings := [(2, { en := true, nst := 3 })] })
        fun s => (tgetD (s.teamOf s.cur).rings 2 {}).en && ((s.cur.rs 22).extractLsb' 0 4).toNat ≤ 3 && s.cur.ringOps.isEmpty) = true ∧
    [Instr.errclr, .tlbinv ⟨0, 0, 8, 0⟩, .cinv ⟨1, 0, 8, 0⟩, .heatrd ⟨0, 12, 8, 0⟩, .gflush ⟨0, 0, 0, 1, 22, 0⟩].all (fun i =>
      completesIn i id fun s => pairAt s.cur 8 == 0 && (s.ctxOf s.cur).errAt != some s.cycle && s.llc.isEmpty && s.dir.isEmpty && s.heat.isEmpty) = true ∧
    (let i := Instr.qpost ⟨0, 12, 8, 0⟩
     completesIn i (fun s => lined 1 s) (fun s => (s.llcAt 0 (lineKey 1 (pairAt s.cur 8 + 0x40))).isSome && (s.dirAt (lineKey 1 0)) == {} && s.plat.hostOwn.isEmpty)) = true := by decide +kernel
/-- Tile and accumulator words with legal shapes; a move of one row; a handler's block on its own die. -/
theorem witness_WordsComplete_tiles :
    (let tiled := fun (w : W32) (k : Nat) (l : Tbl W32) => onCur fun g => { g with s := l, tiles := [(k, { shape := w })] }
     completesIn (.tshape ⟨0, 0, false, 4, 0, 12, 0, 0, 0, false, true, false⟩) (tiled 0 4 [(12, shp 32 32 11 false false)]) (fun s => shapeLegal (s.cur.rs 12)) &&
     completesIn (.tscl ⟨0, 0, false, 4, 8, 12, 1, 0, 0, false, true, false⟩) (tiled (shp 32 32 11 false false) 4 [(12, 30)]) (fun s => shpMx (s.cur.tile 4).shape && shpEntries (s.cur.tile 4).shape == 32) &&
     completesIn (.tmov ⟨0, 0, false, 4, 8, 12, 0, 0, 0, false, true, false⟩) (tiled (shp 32 32 0 false false) 8 [(12, 31)]) (fun s => shpRows (s.cur.tile 8).shape == 32 && s.cur.moves.isEmpty) &&
     completesIn (.crq ⟨0, 0, false, 4, 0, 12, 0, 11, 0, false, true, false⟩) (tiled (shp 128 32 11 false false) 4 [(12, 96)]) (fun s => shpFmt (s.cur.tile 4).shape == 11 && shpCols (s.cur.tile 4).shape == 128)) = true ∧
    [Instr.tlds ⟨0, 0, false, 4, 8, 12, 0, 0, 1⟩, .tsts ⟨0, 0, false, 4, 8, 12, 0, 0, 1⟩, .clds ⟨0, 0, false, 4, 8, 12, 0, 0, 1⟩, .csts ⟨0, 0, false, 4, 8, 12, 0, 0, 1⟩].all (fun i =>
      completesIn i (fun s => withPad (onCur (fun g => { g with s := [(8, 32), (12, 0xFFE0)], tiles := [(4, { shape := shp 32 1 0 false false })] }) s))
        (fun s => (s.team 0).absent.isEmpty && s.cur.moves.isEmpty && s.spadSize 0 == 65536)) = true ∧
    [Instr.ctov ⟨0, 0, false, 4, 0, 12, 0, 0, 0, false, true, false⟩, .vtoc ⟨0, 0, false, 4, 8, 12, 0, 0, 0, false, true, false⟩].all
      (fun i => completesIn i (onCur fun g => { g with s := [(12, 127)] }) fun s => s.cur.rs 12 == 127) = true ∧
    (let s := lined 32 (wordState (.ctxsv ⟨0, 0, 8, 0⟩))
     issuesCheck (.ctxsv ⟨0, 0, 8, 0⟩) s (wordClause (.ctxsv ⟨0, 0, 8, 0⟩)) && pairAt s.cur 8 == 0 && s.cur.pend.isEmpty &&
     (List.range 32).all fun k => let r := s.reqOf s.cur (128 * k); (s.llcAt 0 r.key).isSome && s.dirAt r.key == {} && r.die == 0 && homeDie r.va == 0) = true := by decide +kernel

/-- `AtHome`, as a check. -/
def atHome (s : State) (r : Req) (l : LlcLine) : Bool :=
  s.llcAt (homeDie r.va) r.key == some l && s.dirAt r.key == {} && (s.l1At r.core r.key).isNone && l.attrs.w && !l.attrs.m && !s.pageFull r.asid r.va && s.plat.hostOwn.isEmpty
/-- TCOPY with its record in L1, and RECORD_READ_COMPLETE; MMA and MMAI of one chunk and their MATRIX_CHUNK_COMPLETE. -/
theorem witness_EventsCompleteWords :
    (let f : FE := ⟨0, 20, 8, 1, 22, 0⟩
     let i := Instr.tcopy f
     let s0 := onCur (fun g => { g with s := [(22, 0)] }) (withPad (wordState i))
     let l : L1Line := { data := BitVec.ofNat 1088 (copyRec 32), cols := 1 }
     let s := s0.setL1 0 (s0.reqOf s0.cur 0).key l
     let r := layOf (BitVec.ofNat 512 (lineNat l.data 0 64))
     issuesCheck i s (wordClause i) && s.activeOf i != 0 && (s.core 0).slotQ.isEmpty && (s.core 0).held.isNone && (s.setCur s.cur.issuing).usedSlots 0 == 0 &&
     (s.l1At (s.coreOf s.cur) (s.reqOf s.cur (pairAt s.cur 20)).key) == some l && r.check (copyKind 0) (coordsOf r s.cur f) 0 (s.spadSize 0) == none &&
     (match exec i s with | .next t => t.cur.wait == .record 0 f && (match exec .recordReadComplete t with | .next u => goneOn s u (wordClause i) && u.cur.copies.length == 1 | _ => false) | _ => false)) = true ∧
    [(Instr.mma ⟨0, 1, 0, 4, 6, 0, 0, 0, 0, false⟩, shp 32 1 12 false false), (.mmai ⟨0, 1, 0, 4, 6, 0, 0, 0, 0, false⟩, shp 32 1 0 false false)].all (fun p =>
      let s := onCur (fun g => { g with tiles := [(4, { shape := p.2 }), (6, { shape := p.2 })] }) (wordState p.1)
      issuesCheck p.1 s (wordClause p.1) && (match p.1 with | .mma f => !mmaBad f (mxCode f.fa) (mxCode f.fb) 32 s.cur | .mmai f => !mmaBad f (intCode f.fa) (intCode f.fb) 32 s.cur | _ => false) &&
      !s.cur.mprog.getLsbD 63 && (s.core 0).arrayQ.isEmpty && s.cur.product.isNone && ((⟨4, false⟩ : MatOp).cols s.cur) / 32 == 1 &&
      (match exec p.1 s with | .next t => (match again .matrixChunkComplete 1 t with | .next u => goneOn s u (wordClause p.1) | _ => false) | _ => false)) = true := by decide +kernel
/-- A fill, a write-back, a pull of a clean core, an atomic and remote requests at home, a mirrored write, a flush, ARM, the end of a grid, a save. -/
theorem witness_HomesComplete :
    (let s := mapped 0 nopState
     (match s.lineReq 0 1 0 with | some q => q.die == homeDie q.va && (s.llcAt q.die q.key).isNone && s.tlb.isEmpty && (match s.pageOf q.asid q.va with | some x => !pteMig x.pte | none => false) && s.llcRoom q.die q.key | none => false)) = true ∧
    (let l : L1Line := { dirty := 1, cols := 1 }
     let k := lineKey 1 0
     let s := lined 1 (nopState.setCore 0 { nopState.core 0 with l1 := [(k, l)] })
     s.l1At s.who k == some l && l.dirty != 0 && (s.llcAt 0 k).isSome && s.dirAt k == {} && dieOf s.who == homeDie (keyVa k)) = true ∧
    (let e : RelEntry := { core := 0, ctx := 0, cols := 1, seq := 0 }
     let s := { nopState with dir := [(lineKey 1 0, { rel := [e] })] }
     (s.dirAt (lineKey 1 0)).entryOf s.who == some e && !(s.core 0).pulled e && (s.core 0).l1.isEmpty) = true ∧
    (let a : LaneAcc := { lane := 0, addr := 0, data := [1] }
     let p : PendOp := { id := 1, ctr := .load, kind := .atomic false true 0, lanes := [a] }
     let s := lined 1 (onCur (fun g => { g with pend := [p] }) nopState)
     s.cur.pendOp 1 == some p && s.tryable s.cur p a && !a.remote p && atHome s (s.reqOf s.cur 0) {}) = true ∧
    [PktKind.read 0x10, .write 0x10].all (fun k =>
      let s := packetState k (lined 1 nopState)
      (s.served.map s.inOrder == some true) && (match s.serveReq 7 0x10 with | some r => atHome s.took r {} | none => false)) = true ∧
    (let s := packetState (.mirror 0) (lined 1 nopState)
     s.served.map s.inOrder == some true && (s.ctxOfJob 7).isSome && atHome s.took ⟨noCore, 0, 1, 0⟩ {}) = true ∧
    (let s := opState (op1 .gflush)
     s.op s.who == some (op1 .gflush) && s.opAwake (op1 .gflush) && s.mayProceed (op1 .gflush)) = true ∧
    (let s := lined 1 (ringState (entry 7 0 []) id)
     s.nextEntry == some (entry 7 0 []) && atHome s (s.devReq 0 0) {} && s.tasks.isEmpty) = true ∧
    (let s := taskState launch fun t => { t with checked := true, placed := 2 }
     s.gridOver 1 && s.cores.isEmpty && atHome s (s.devReq 0 0x44) {}) = true ∧
    (let s := lined 2 (editTeam nopState fun t => { t with save := .preempting, stopped := [0] })
     s.saveReady 0 [] && s.ops.isEmpty && s.spadSize 0 == 0 && teamArea (s.ctx 0) (s.team 0).linear == 0 && [0, 1].all fun n => atHome s (s.devReq 0 (128 * n)) {}) = true := by decide +kernel
/-- Operands of each class in each format: finite ones, an infinity, a NaN, zeros of both signs, a power of two, a negative number, an integer and half an odd one. -/
theorem witness_FloatingResults :
    [((8 : BitVec 4), 0x3F800000, 0x7F800000, 0x7FC00000, 0x80000000, 0xBF800000, 0x3F000000), (9, 0x3C00, 0x7C00, 0x7E00, 0x8000, 0xBC00, 0x3800), (10, 0x3F80, 0x7F80, 0x7FC0, 0x8000, 0xBF80, 0x3F00)].all (fun p =>
      let f := fmtOf p.1
      let one := (f.decode p.2.1 matches .fin false _ _)
      let minus := match f.decode p.2.2.2.2.2.1 with | .fin true m _ => m != 0 | _ => false
      let half := match f.decode p.2.2.2.2.2.2 with | .fin false m e => decide (e < 0) && 2 * m % 2 ^ (-e).toNat == 0 && 2 * m / 2 ^ (-e).toNat % 2 == 1 | _ => false
      one && f.decode p.2.2.1 == .inf false && f.decode p.2.2.2.1 == .nan && (match f.decode p.2.2.2.2.1 with | .fin true 0 _ => true | _ => false) && minus && half) = true := by decide +kernel
/-- Events of one cycle in the wrong order: RPOP after a higher gid, SPJOIN after a later place, SWR NORMBOX after a deposit; and an RWAIT beside a flip of its cycle. -/
theorem witness_SameCycle :
    completesIn (.rpop ⟨0, 20, 0, 0, 0, 2⟩) (fun s => editTeam s fun t => { t with rings := [(2, { en := true, nst := 3, popAt := [(1, (s.cycle + 1, 9))] })] }) (fun s => (s.cur.gid < 9)) = true ∧
    (let i := Instr.rpop ⟨0, 20, 0, 0, 0, 2⟩
     let s := editTeam (wordState i) fun t => { t with rings := [(2, { en := true, nst := 3, popAt := [(1, ((wordState i).cycle, 9))] })] }
     issuesCheck i s (wordClause i) && tget (tgetD (s.team 0).rings 2 {}).popAt 1 == some (s.cycle, 9) && s.cur.gid < 9) = true ∧
    (let i := Instr.spjoin ⟨0, 12, 8, 0, 0, 0⟩
     let s := editCtx (wordState i) fun c => { c with joinAt := [(0, ((wordState i).cycle, 40))] }
     issuesCheck i s (wordClause i) && s.joinLate s.cur 0) = true ∧
    (let i := Instr.normboxWrite ⟨0, 0, 8, 64⟩
     let s := editCtx (wordState i) fun c => { c with normAt := some (wordState i).cycle }
     issuesCheck i s (wordClause i) && (s.ctxOf s.cur).normAt == some s.cycle) = true ∧
    (let r : Ring := { en := true, nst := 3, flipAt := some nopState.cycle, fph := 1, fph0 := 0 }
     let s := editTeam (edit nopState fun g => { g with clause := none, wait := .rwait 2 0 true true }) fun t => { t with rings := [(2, r)] }
     (tgetD (s.team 0).rings 2 {}).flipAt == some s.cycle && r.fph.getLsbD 0 && !r.fph0.getLsbD 0) = true := by decide +kernel

/-! ### States that meet the further hypotheses of the statements -/

/-- An armed comparator that hits the next word, with and without TRC, and one written in this cycle. -/
theorem witness_ComparatorHits :
    (let armed := 0x8C00000000000000 ||| ((wordPc nopState.cur (wordClause .nop)).toNat / 8)
     let user := edit nopState fun g => { g with mode := .user }
     let k : Core := { nopState.core 0 with brk := [(1, BitVec.ofNat 64 armed)], brkOwner := [(1, 0)] }
     let s1 := { user.setCore 0 k with agenda := [] }
     [k, { k with samp := 1#64 <<< 45 }].all (fun k => let s := { user.setCore 0 k with agenda := [] }
       (tget (s.core 0).sampAt 0).isNone && (s.schedDue 0 0).isNone && s.chosen 0 0 == some 0 && (s.runs 0).hits 0 == [1]) &&
     (let s := s1.setCore 0 { k with brkOld := [(1, ((0, none), s1.cycle))] }
      s.hits 0 == [] && (tget (s.core 0).brkOld 1).isSome) && sampTrc (1#64 <<< 45)) = true := by decide +kernel
/-- Units of TMOV into a tile, of its scale bytes, of a tile's scale column; a move none of whose units is left. -/
theorem witness_MoveCompletion_units :
    (let at_ := fun (m : TileMove) (k : Nat) =>
       let s := edit (padState .nop) fun g => { g with moves := [m] }
       s.memOk && s.cur.moves.find? (·.id == 1) == some m && !s.cur.moveHeld m && !m.done && (m.units.filter fun k => !m.landed.contains k).contains k
     let mx := shp 32 1 12 false false
     at_ { id := 1, kind := .tmovIn, dest := 1, shape := mx, rows := 1, regs := [(0, 0)] } 7 && at_ { id := 1, kind := .tmovIn, dest := 1, shape := mx, rows := 1, regs := [(0, 0)] } 8199 &&
     at_ { id := 1, kind := .tmovOut, dest := 1, shape := mx, rows := 1 } 8199 && at_ { id := 1, kind := .tlds, dest := 1, shape := mx, rows := 1, locs := [(0, 0), (2048, 64)] } 2048 &&
     (let m : TileMove := { id := 1, kind := .tlds, dest := 1, shape := mx, locs := [(0, 0)], landed := [0] }
      (m.units.filter fun k => !m.landed.contains k).isEmpty && !m.done)) = true := by decide +kernel
/-- Operations restored without a slot, at home and away; one whose record is released with FAIL. -/
theorem witness_EngineEvents_slot :
    (let o := { op1 .load with slot := false, status := .parked none }
     let s := opState o
     s.op s.who == some o && (s.team 0).save == .running && s.usedSlots 0 < 16 &&
     (let a := editTeam s fun t => { t with save := .saving }
      a.op a.who == some o && (a.team 0).save == .saving)) = true ∧
    (let o := { op1 .gsig with status := .parked (some 3) }
     let s := editCtx (opState o) fun c => { c with released := [(3, true)] }
     (s.ctx 0).released.contains (3, true) && (s.team 0).save == .running && !o.absentThere && s.op s.who == some o) = true := by decide +kernel
/-- A load of f32 elements, of f32 to E4M3 by CVT, and of a block of 32 by REQ; a store of f32, of one outside, and of E4M3 elements to MX lines. -/
theorem witness_LoadLanding :
    [(copyRec 32, 1), (31 * 2 ^ (8 * 0x2C) + 32 * 2 ^ 64 + (8 * 2 ^ 56 + 12 * 2 ^ 51 + 2 ^ 49 + 32 * 2 ^ 19 + 128) * 2 ^ (8 * 0x30), 4), (31 * 2 ^ (8 * 0x2C) + 32 * 2 ^ 64 + (8 * 2 ^ 56 + 12 * 2 ^ 51 + 2 ^ 50 + 32 * 2 ^ 19 + 128) * 2 ^ (8 * 0x30), 32)].all (fun p =>
      let o := { op1 .load with record := BitVec.ofNat 512 p.1 }
      let s := lined 2 (withPad (opState o))
      let l := layOf o.record
      let mx := decide (11 ≤ l.sfmt)
      let n := if mx && decide (2 ≤ l.scm) then 32 else min (32 / placeBits l.sfmt) l.L
      s.op s.who == some o && s.opAwake o && s.mayProceed o && decide (l.sfmt ≤ 15) && decide (o.next < l.rows * l.L) && s.memOk && n == p.2 &&
      ((s.ctx 0).inPeriod s.cycle).budget.copy == 0xFFFFFFFF && (!mx || decide (l.spadScale 0 0 0 / 4 ≠ l.spadByte 0 0 0 / 4 ∧ l.spadScale 0 0 0 < 2 ^ 32)) &&
      ((List.range n).foldl (fun (x : Option State) k => x.bind fun t => match t.loadElem o l (l.pos 0 k) with | .ok (t1, _) => some t1 | .error _ => none) (some (s.setOp o))).isSome) = true := by decide +kernel
theorem witness_StoreLanding :
    (let o := { op1 .store with record := BitVec.ofNat 512 (copyRec 32) }
     let s := lined 2 (withPad (opState o))
     let l := layOf o.record
     let ps := l.storePieces o.coords 0
     s.op s.who == some o && s.opAwake o && s.mayProceed o && decide (o.next < l.rows * l.L) && ps == [([(0, 0)], 1)] && l.inside (coordsAt o.coords (l.pos 0 0)) &&
     s.present (0, 0) && okTo (s.storePiece o ([(0, 0)], 1)) (fun o2 => o2.next == 1) &&
     (List.range 4).all (fun k => okTo (s.opBytes o k 1) fun _ => true) &&
     (let q := { o with coords := [1000] }
      !l.inside (coordsAt q.coords (l.pos 0 0)) && okTo (s.storePiece q ([(0, 0)], 1)) (fun o2 => o2.oob == 1)) &&
     (let a := editTeam s fun t => { t with absent := [0] }
      !a.present (0, 0))) = true ∧
    (let o := { op1 .store with record := BitVec.ofNat 512 (127 * 2 ^ (8 * 0x2C) + 128 * 2 ^ 64 + (12 * 2 ^ 56 + 12 * 2 ^ 51 + 32 * 2 ^ 19 + 128) * 2 ^ (8 * 0x30)) }
     let s := lined 2 (withPad (opState o))
     let l := layOf o.record
     let a := fun (b : Nat) => l.memAt (coordsAt o.coords (l.pos 0 (32 * b)))
     !l.trn && l.mfmt == 12 && l.inside (coordsAt o.coords (l.pos 0 0)) && ([0, 1, 2, 3].all fun b => decide ((a b).va = 0 ∧ (a b).bit = 256 * b ∧ (a b).block = b)) &&
     okTo (s.storePiece o ((List.range 128).map fun k => (0, k), 128)) (fun o2 => o2.next == 128)) = true := by decide +kernel
/-- A copy to the window at its first piece and once it has been answered; one from the window, and once its line has come. -/
theorem witness_GalleryLanding :
    (let s0 := { opState (op1 .gcopy) with gal := { nopState.gal with devices := 2, xlats := [{ die := 0, dev := 1, djob := 7, unit := 0, server := 1, w := true }] } }
     let go := fun (o : EngOp) (more : State → Bool) => let s := lined 2 (editCtx { s0 with ops := [(5, o)] } fun c => { c with djob := 7 })
       s.op s.who == some o && s.opAwake o && s.mayProceed o && decide (o.next < o.len) && (s.core 0).wcb.isEmpty && more s
     let win := 2 ^ 56 + 2 ^ 44
     go { op1 .gcopy with dst := win, len := 256 } (fun s => okTo (s.opLine (op1 .gcopy) 0) (fun _ => true) && ((s.remoteTry 0 0 (remotePeer win) (remoteOffset win) true).2 matches .go _)) &&
     go { op1 .gcopy with dst := win, len := 256, phase := 2 } (fun _ => isRemote win) &&
     go { op1 .gcopy with src := win, len := 16 } (fun s => ((s.remoteTry 0 0 (remotePeer win) (remoteOffset win) false).2 matches .go _)) &&
     go { op1 .gcopy with src := win, len := 16, got := some (0, true) } (fun s => okTo (s.putLine (s.opReq (op1 .gcopy) 0) 3 0 0 0 true) fun _ => true)) = true := by decide +kernel
/-- Places inside, outside and beside an image; values of each kind for the conversions; an element read from an MX line. -/
theorem witness_Elements :
    (let l : Lay := { layOf (BitVec.ofNat 512 (copyRec 32)) with mode := 0 }
     let inside := fun (l : Lay) (c : Int) => decide (0 ≤ c ∧ c < (l.e 0 : Int))
     l.ndim ≤ 4 && l.mfmt == 8 && inside l 31 && !inside l 32 && !inside l (-1) && (l.source [31] [0] matches .mem _) && (l.source [32] [0] matches .zero true)) = true ∧
    (let es := List.replicate 32 (Elem.bits 0x3F800000 0)
     es.length == 32 && ((es.map fun _ => Elem.zero).all fun e => e == .zero)) = true ∧
    (let o := op1 .load
     let s := lined 2 (opState o)
     okTo (s.opLine o 0) (fun _ => true) && okTo (s.opBytes o 4 4) (fun _ => true) && (match s.opLine o (2 ^ 56) with | .error .violation => true | _ => false)) = true := by decide +kernel
/-- CLAUSE_BEGIN: a page without X, a poisoned line, a page that is not there, a clause whose wait is not met; a group in a long wait beside a ready pending one. -/
theorem witness_ClauseBegins_fetch :
    (let ok := fun (s : State) => s.atBoundary s.who && s.cur.wait == .none && !s.cur.faultParked && !s.cur.acqHeld && !s.switchNow s.who && !s.swapsOut s.who && s.cur.armed.isEmpty &&
       (s.core 0).loops.isEmpty && (s.core 0).icache.isEmpty && !s.cur.pc.getLsbD 56
     let b := boundary (codeLine noWait) id
     let with_ := fun (l : LlcLine) => { b with llc := [(llcKey 0 (lineKey 1 0), l)] }
     [(with_ { attrs := { x := false } }, false, false), (with_ { poison := true }, true, true)].all (fun p => ok p.1 && okTo (p.1.llcRead (p.1.reqOf p.1.cur 0)) fun l => l.attrs.x == p.2.1 && l.poison == p.2.2) &&
     ok { b with llc := [] } && (match ({ b with llc := [] } : State).llcRead (b.reqOf b.cur 0) with | .error (.fault _) => true | _ => false) &&
     (let e := boundary (codeLine { noWait with wst := 0 }) fun g => { g with pend := [openPend true] }
      ok e && (match e.fetchClause e.cur with | .clause s1 h _ => !s1.waitsMet 0 (combine e.cur.waits h.wait) | _ => false))) = true ∧
    (let s0 := boundary (codeLine { noWait with wld := 0 }) fun g => { g with pend := [openPend false] }
     let s := { s0 with groups := s0.groups ++ [(1, { s0.cur with pend := [], gid := 4, active := false })] }
     s.oldestPending 0 0 == some 1 && s.cur.status == .live && s.cur.active && !s.cur.faultParked && !s.switchNow 0 && s.cur.loads == 1 && s.cur.armed.isEmpty && (s.fetchClause s.cur matches .clause _ _ _) &&
     (let a := { s with groups := (0, { s0.cur with clause := some (wordClause .nop), wait := .absent [(0, 0)] }) :: s.groups.drop 1 }
      a.oldestPending 0 0 == some 1 && a.cur.wait == .absent [(0, 0)])) = true := by decide +kernel
/-- TEAM_SAVE with the system handler entered; lines of the area at home; a resumption with an operation. -/
theorem witness_Preemption_save :
    (let s := lined 2 (editTeam nopState fun t => { t with save := .preempting, stopped := [0] })
     s.saveReady 0 [] && (tkeys s.groups).Nodup && s.cur.mode != .sysHandler && s.tasks.all (fun p => s.tcbKey p.2 != (s.devReq 0 0).key && s.tcbKey p.2 != (s.devReq 0 128).key) &&
     (match exec (.teamSave []) s with | .next y => (y.team 0).save == .saving && y.cur.mode == .sysHandler && y.cur.cause == 0x0A && y.cur.pc == BitVec.ofNat 57 (s.ctx 0).sysEntry | _ => false)) = true ∧
    (let o := { op1 .load with status := .parked none, slot := false }
     let s := { nopState with ops := [(5, o)] }
     (tkeys s.ops).Nodup && s.usedSlots 0 == 0 && ((s.resumeOps 0).op 5 == some { o with slot := true, status := .running })) = true := by decide +kernel
/-- Successors at a remote and at a local address; a busy ring; a snoop answered with data; a session between two devices, and its failure. -/
theorem witness_HostSide :
    (let s := lined 1 (taskState launch id)
     okTo (s.successors 0 0 0) (fun _ => true) && isRemote (2 ^ 56) && isCanonical 0 && !isRemote 0 && okTo (s.devRead 0 0 8) (fun x => x == 0)) = true ∧
    (let s := ringState (entry 5 0 []) fun s => { s with ring := { s.ring with busy := true, entry := entry 7 0 [] } }
     s.ring.busy && s.nextEntry == some (entry 7 0 [])) = true ∧
    (let s := { ringState 0 id with plat := { (ringState 0 id).plat with hostOwn := [2] } }
     let x : SnoopAnswer := { pa := 0x100, data := [7] }
     s.plat.hostOwn.contains (x.pa / 128) && (s.mappingOf 0x100).isNone && !s.inCompressed 0x100 && decide (0x100 < Config.reservedBase) && x.data != []) = true ∧
    (let s := galState id
     let t := { s with plat := { s.plat with eph := some 0 } }
     s.plat.eph.isNone && t.plat.eph == some 0 && decide (1 < t.gal.devices) && t.gal.me == 0 && t.gal.sessions.all fun x => x.number < 2) = true ∧
    (let s := nopState.setCore 3 { samp := 0 }
     !(s.core 3).samp.getLsbD 63 && s.plat.step != 0) = true := by decide +kernel

end
end

section
/-! O7, the canonical form of the memories (R1, R169, R343). What a step can do to device memory, the CXL tier, host memory and the scratchpads goes through the writes of Laws/Memory, each of which keeps the form. One lemma for each function of the model that returns a state says that it keeps the form; it bears the function's name and is assembled from the lemmas about the functions that it calls, up to `exec` and `nextMove`. -/

namespace Sys2Proof.Machine

/-! ### The form as a proposition about a state -/

/-- The canonical form of three memories and of the scratchpads of a table of teams. -/
structure MemsOk (hbm cxl host : Memory) (teams : Tbl Team) : Prop where
  hbm : memWf hbmSide hbm = true
  cxl : memWf cxlSide cxl = true
  host : memWf noSide host = true
  spad : ∀ p ∈ teams, memWf noSide p.2.spad = true

/-- `State.memOk` as a proposition. It unfolds to the four fields that it speaks of, so a change of any other field keeps it by definition. -/
def State.MemOk (s : State) : Prop := MemsOk s.hbm s.cxl s.host s.teams

theorem State.memOk_iff (s : State) : s.memOk = true ↔ s.MemOk := by
  simp only [State.memOk, Bool.and_eq_true, List.all_eq_true]
  exact ⟨fun ⟨⟨⟨h1, h2⟩, h3⟩, h4⟩ => ⟨h1, h2, h3, h4⟩, fun h => ⟨⟨⟨h.hbm, h.cxl⟩, h.host⟩, h.spad⟩⟩

/-! ### The form for what the model's functions return

A result that carries no state keeps the form. -/

def MemROk {ε α : Type} : Except ε (State × α) → Prop
  | .ok (t, _) => t.MemOk
  | .error _ => True

def ExcOk {ε : Type} : Except ε State → Prop
  | .ok t => t.MemOk
  | .error _ => True

def OptOk : Option State → Prop
  | some t => t.MemOk
  | none => True

def OptPairOk {α : Type} : Option (State × α) → Prop
  | some (t, _) => t.MemOk
  | none => True

def Eff.MemOk : Eff → Prop
  | .done s | .goto s _ | .stall s | .fail s _ _ | .soft s _ _ | .leave s => s.MemOk
  | .trap _ _ | .kill _ => True

def OutOk : Host.Outcome State Fault Refusal → Prop
  | .next t => t.MemOk
  | _ => True

def Did.MemOk : Did → Prop
  | .done s | .waits s => s.MemOk
  | .refused _ => True

def Move.MemOk : Move → Prop
  | .stay s | .run _ s => s.MemOk

def Fetched.MemOk : Fetched → Prop
  | .clause s _ _ => s.MemOk
  | _ => True

def Served.MemOk : Served → Prop
  | .done s _ _ _ => s.MemOk
  | .wait => True

def Perf.MemOk : Perf → Prop
  | .did s _ | .kept s _ => s.MemOk
  | .err _ => True

def Prog.MemOk : Prog → Prop
  | .moved s _ => s.MemOk
  | _ => True

def HeatRun.MemOk : HeatRun → Prop
  | .all s _ => s.MemOk
  | _ => True

theorem OptOk.getD {o : Option State} {s : State} (ho : OptOk o) (h : s.MemOk) : (o.getD s).MemOk := by
  cases o
  · exact h
  · exact ho

theorem MemROk.map {α β ε : Type} {r : Except ε (State × α)} {f : State × α → State × β} (hr : MemROk r) (hf : ∀ x, (f x).1 = x.1) :
    MemROk (r.map f) := by
  cases r with
  | error => trivial
  | ok x => exact (hf x ▸ hr : (f x).1.MemOk)

theorem MemROk.perf {r : MemR LaneAcc} (hr : MemROk r) : (Perf.ofMem r).MemOk := by
  cases r <;> exact hr

/-! ### The rules of the four memories -/

theorem mem_tset {α : Type} {p : Nat × α} {t : Tbl α} {k : Nat} {x : α} (h : p ∈ tset t k x) : p = (k, x) ∨ p ∈ t := by
  induction t with
  | nil => simpa [tset] using h
  | cons q t ih =>
    obtain ⟨j, y⟩ := q
    unfold tset at h
    grind

theorem tgetD_spad_wf {t : Tbl Team} (k : Nat) (h : ∀ p ∈ t, memWf noSide p.2.spad = true) : memWf noSide (tgetD t k {}).spad = true := by
  induction t with
  | nil => rfl
  | cons p t ih =>
    simp only [tgetD, tget]
    split <;> grind [tgetD, tget]

theorem Team.foldl_barsGo_spad (f : Nat → Nat) (l : List Nat) (t : Team) : (l.foldl (fun t u => t.barsGo (f u)) t).spad = t.spad :=
  List.foldlRecOn (motive := fun u : Team => u.spad = t.spad) l _ rfl fun u hu _ _ => by
    dsimp only [Team.barsGo]
    exact hu

namespace State.MemOk
variable {s : State}

theorem reset : State.reset.MemOk := ⟨rfl, rfl, rfl, by simp [State.reset]⟩

theorem setHbm {m p} (h : s.MemOk) (hm : memWf hbmSide m = true) : ({ s with hbm := m, memPoison := p } : State).MemOk :=
  ⟨hm, h.cxl, h.host, h.spad⟩

theorem setHost {m} (h : s.MemOk) (hm : memWf noSide m = true) : ({ s with host := m } : State).MemOk :=
  ⟨h.hbm, h.cxl, hm, h.spad⟩

theorem setTeam {k : Nat} {x : Team} (h : s.MemOk) (hx : memWf noSide x.spad = true) : (s.setTeam k x).MemOk :=
  ⟨h.hbm, h.cxl, h.host, fun p hp => by
    rcases mem_tset hp with rfl | hp
    · exact hx
    · exact h.spad p hp⟩

theorem team_spad (h : s.MemOk) (k : Nat) : memWf noSide (s.team k).spad = true := tgetD_spad_wf k h.spad

theorem teamOf_spad (h : s.MemOk) (g : Group) : memWf noSide (s.teamOf g).spad = true := h.team_spad _

theorem foldl {β : Type} {f : State → β → State} (hf : ∀ t b, t.MemOk → (f t b).MemOk) (l : List β) (h : s.MemOk) : (l.foldl f s).MemOk :=
  List.foldlRecOn l f h fun t ht b _ => hf t b ht

/-! ### Ops -/

theorem setGroup {u g} (h : s.MemOk) : (s.setGroup u g).MemOk := h

theorem setCore {k x} (h : s.MemOk) : (s.setCore k x).MemOk := h

theorem setCtx {c x} (h : s.MemOk) : (s.setCtx c x).MemOk := h

theorem setTask {t' x} (h : s.MemOk) : (s.setTask t' x).MemOk := h

theorem setOp {o} (h : s.MemOk) : (s.setOp o).MemOk := h

theorem setCur {g} (h : s.MemOk) : (s.setCur g).MemOk := h.setGroup

theorem fresh (h : s.MemOk) : (s.fresh).2.MemOk := h

theorem groupGone {u} (h : s.MemOk) : (s.groupGone u).MemOk :=
  h.setTeam (by dsimp only [Team.barsGo]; exact h.team_spad _)

theorem kill {u cause pc} (h : s.MemOk) : (s.kill u cause pc).MemOk := h.setGroup.setCtx.groupGone

theorem trap {u cause targ pc r} (h : s.MemOk) : (s.trap u cause targ pc r).MemOk := by
  fun_cases State.trap <;> grind [setGroup, kill]

theorem advance {u c} (h : s.MemOk) : (Machine.advance s u c).MemOk := by
  fun_cases Machine.advance <;> exact h

theorem issue {i illegal poison eff} (h : s.MemOk) (he : ∀ s g, s.MemOk → (eff s g).MemOk) :
    OutOk (Machine.issue i illegal poison eff s) := by
  have h1 := he _ (s.setCur s.cur.issuing).cur (h.setCur (g := s.cur.issuing))
  fun_cases Machine.issue <;> grind [OutOk, Eff.MemOk, setCur, setGroup, advance, trap, kill]

theorem whenActive {i f g} (h : s.MemOk) (hf : (f s g).MemOk) : (Machine.whenActive i f s g).MemOk := by
  unfold Machine.whenActive
  split
  · exact h
  · exact hf

theorem onGroup {f g} (h : s.MemOk) : (Machine.onGroup f s g).MemOk := h.setCur

/-! ### Writes of the CXL tier -/

theorem cxlWrite {pa l} (h : s.MemOk) : (s.cxlWrite pa l).MemOk := by
  unfold State.cxlWrite
  split <;> dsimp only [State.MemOk]
  · exact ⟨h.hbm, memWf_physWrite _ _ _ h.cxl, h.host, h.spad⟩
  · exact ⟨h.hbm, memWf_physWrite _ _ _ h.cxl, memWf_mwriteL _ _ h.host, h.spad⟩

/-! ### Fault records -/

theorem raiseVector {v} (h : s.MemOk) : (s.raiseVector v).MemOk := h

theorem writeHeader {ctx} (h : s.MemOk) : (s.writeHeader ctx).MemOk :=
  h.setHost (memWf_mwriteL _ _ (memWf_mwriteL _ _ h.host))

theorem writeRecord {ctx r} (h : s.MemOk) : (s.writeRecord ctx r).MemOk :=
  raiseVector (writeHeader (setCtx (h.setHost (memWf_mwriteL _ _ h.host))))

theorem logRecord {ctx r} (h : s.MemOk) : (s.logRecord ctx r).MemOk := by
  fun_cases State.logRecord <;> grind [writeHeader, writeRecord, setCtx]

theorem groupFault {u agent cause kind va pc eseq} (h : s.MemOk) : (s.groupFault u agent cause kind va pc eseq).2.MemOk := h.fresh.logRecord

theorem memoryFault {ctx cause kind va core} (h : s.MemOk) : (s.memoryFault ctx cause kind va core).MemOk := h.logRecord

theorem deferred {kind asid va core} (h : s.MemOk) : (s.deferred kind asid va core).MemOk := by
  fun_cases State.deferred <;> grind [memoryFault]

theorem softError {die} (h : s.MemOk) : (s.softError die).MemOk := h

/-! ### The memory hierarchy -/

theorem crossOne {b die l p} (h : s.MemOk) : (s.crossOne b die l p).1.MemOk := by
  fun_cases State.crossOne <;> exact h

theorem crossAll {l p rest} (h : s.MemOk) : (s.crossAll l p rest).1.MemOk := by
  fun_induction State.crossAll <;> grind [crossOne]

theorem cross {a b l p} (h : s.MemOk) : (s.cross a b l p).1.MemOk := h.crossAll

theorem crossDirty {a b asid va l p} (h : s.MemOk) : (s.crossDirty a b asid va l p).1.MemOk := by
  fun_cases State.crossDirty <;> grind [cross, deferred]

theorem decayed (h : s.MemOk) : s.decayed.MemOk := h

theorem sampleHeat {ctx slice va} (h : s.MemOk) : (s.sampleHeat ctx slice va).MemOk := by
  fun_cases State.sampleHeat <;> exact h

theorem keepXlat {e} (h : s.MemOk) : (s.keepXlat e).MemOk := by
  fun_cases State.keepXlat <;> exact h

theorem translate {r} (h : s.MemOk) : MemROk (s.translate r) := by
  fun_cases State.translate <;> grind [MemROk, sampleHeat, keepXlat]

theorem setMemLine {x va l poison} (h : s.MemOk) : OptOk (s.setMemLine x va l poison) := by
  fun_cases State.setMemLine
  · exact h
  · trivial
  · exact h.cxlWrite
  · exact h.setHbm (memWf_physWrite _ _ _ h.hbm)

theorem charge {ctx tier n} (h : s.MemOk) : (s.charge ctx tier n).MemOk := h.setCtx

theorem setLlc {die key l} (h : s.MemOk) : (s.setLlc die key l).MemOk := h

theorem dropLlc {die key} (h : s.MemOk) : (s.dropLlc die key).MemOk := h

theorem setDir {key d} (h : s.MemOk) : (s.setDir key d).MemOk := h

theorem clearResv {key} (h : s.MemOk) : (s.clearResv key).MemOk := h

theorem homeFillFor {back r} (h : s.MemOk) : MemROk (s.homeFillFor back r) := by
  fun_cases State.homeFillFor <;> grind [MemROk, translate, crossAll, setLlc, charge]

theorem homeFill {r} (h : s.MemOk) : MemROk (s.homeFill r) := h.homeFillFor

theorem recallOwner {key} (h : s.MemOk) : MemROk (s.recall key) := by
  fun_cases State.recall <;> grind [MemROk, setLlc, crossDirty, dropLlc, setDir]

theorem recallFor {key die} (h : s.MemOk) : MemROk (s.recallFor key die) := by
  fun_cases State.recallFor <;> grind [MemROk, recallOwner]

theorem dropSharers {key die} (h : s.MemOk) : (s.dropSharers key die).MemOk := by
  unfold State.dropSharers
  split
  · refine setDir (foldl (fun t d ht => ?_) _ h)
    split
    · exact ht.dropLlc
    · exact ht
  · exact h

theorem sendPkt {ctx p} (h : s.MemOk) : (s.sendPkt ctx p).MemOk := by
  fun_cases State.sendPkt <;> exact h

theorem mirrorBreaks {owner writers} (h : s.MemOk) : (s.mirrorBreaks owner writers).MemOk := by
  refine foldl (fun t d ht => ?_) _ h.setCtx
  split <;> exact ht

theorem mirrorOut {die ctx writers key mask data cols poison attrs} (h : s.MemOk) : (s.mirrorOut die ctx writers key mask data cols poison attrs).MemOk := by
  fun_cases State.mirrorOut <;> grind [fresh, setCtx, sendPkt, mirrorBreaks]

theorem openGate {key old new} (h : s.MemOk) : (s.openGate key old new).1.MemOk := by
  fun_cases State.openGate <;> exact h

theorem mergeAt {die r l mask data cols poison writers} (h : s.MemOk) : (s.mergeAt die r l mask data cols poison writers).MemOk := h.clearResv.openGate.setLlc.mirrorOut

theorem llcWrite {r mask data cols back poison writers} (h : s.MemOk) : MemROk (s.llcWrite r mask data cols back poison writers) := by
  fun_cases State.llcWrite <;> grind [MemROk, cross, dropSharers, recallFor, setDir, mergeAt, homeFillFor, crossDirty]

theorem setL1 {core key l} (h : s.MemOk) : (s.setL1 core key l).MemOk := h.setCore

theorem dropL1 {core key} (h : s.MemOk) : (s.dropL1 core key).MemOk := by
  fun_cases State.dropL1 <;> exact h

theorem writeBack {core ctx key} (h : s.MemOk) : MemROk (s.writeBack core ctx key) := by
  fun_cases State.writeBack <;> grind [MemROk, llcWrite, setL1]

theorem writeBacks {core ctx rest} (h : s.MemOk) : MemROk (s.writeBacks core ctx rest) := by
  fun_induction State.writeBacks <;> grind [MemROk, writeBack]

theorem noteFlush {core ctx cols} (h : s.MemOk) : (s.noteFlush core ctx cols).MemOk := by
  fun_cases State.noteFlush <;> exact h

theorem flushL1 {core ctx asid cols} (h : s.MemOk) : MemROk (s.flushL1 core ctx asid cols) := by
  fun_cases State.flushL1 <;> grind [MemROk, writeBacks, noteFlush]

theorem acquireL1 {core ctx asid cols} (h : s.MemOk) : MemROk (s.acquireL1 core ctx asid cols) := by
  have hd := fun l => foldl (s := l) (fun t k (ht : t.MemOk) => ht.dropL1 (core := core) (key := k))
  fun_cases State.acquireL1 <;> grind [MemROk, flushL1]

theorem pullEntry {e} (h : s.MemOk) : MemROk (s.pullEntry e) := by
  fun_cases State.pullEntry <;> grind [MemROk, flushL1]

theorem retire {key e} (h : s.MemOk) : (s.retire key e).MemOk := h.setDir

theorem pullOthers {core key rest} (h : s.MemOk) : MemROk (s.pullOthers core key rest) := by
  fun_induction State.pullOthers <;> grind [MemROk, retire, pullEntry]

theorem pulls {core key} (h : s.MemOk) : MemROk (s.pulls core key) := h.pullOthers

theorem llcRead {r} (h : s.MemOk) : MemROk (s.llcRead r) := by
  fun_cases State.llcRead <;> grind [MemROk, cross, homeFill, pulls, recallFor, setDir, setLlc]

theorem l1Colour {r colour} (h : s.MemOk) : MemROk (s.l1Colour r colour) := by
  fun_cases State.l1Colour <;> grind [MemROk, dropL1, writeBack]

theorem l1Fill {r colour} (h : s.MemOk) : MemROk (s.l1Fill r colour) := by
  fun_cases State.l1Fill <;> grind [MemROk, llcRead, setL1, l1Colour]

theorem renewL1 {core key l} (h : s.MemOk) : (s.renewL1 core key l).MemOk := by
  fun_cases State.renewL1 <;> grind [setL1]

theorem loadLine {r scope colour} (h : s.MemOk) : MemROk (s.loadLine r scope colour) := by
  fun_cases State.loadLine <;> grind [MemROk, llcRead, l1Fill, writeBack, renewL1]

theorem putLine {r scope colour mask data poison} (h : s.MemOk) : MemROk (s.putLine r scope colour mask data poison) := by
  fun_cases State.putLine <;> grind [MemROk, llcWrite, pulls, l1Fill, setL1, clearResv, l1Colour]

theorem storeLine {r scope colour mask data} (h : s.MemOk) : MemROk (s.storeLine r scope colour mask data) := h.putLine

theorem seen {r} (h : s.MemOk) : (s.seen r).MemOk := by
  fun_cases State.seen <;> grind [MemROk, llcRead]

theorem homeLineFor {host r} (h : s.MemOk) : MemROk (s.homeLineFor host r) := by
  fun_cases State.homeLineFor <;> grind [MemROk, homeFill, pulls, recallOwner, dropL1, writeBack]

theorem homeLine {r} (h : s.MemOk) : MemROk (s.homeLine r) := h.homeLineFor

theorem homeLineW {r} (h : s.MemOk) : MemROk (s.homeLineW r) := by
  fun_cases State.homeLineW <;> grind [MemROk, homeLine]

theorem homeMerge {r l mask data cols poison} (h : s.MemOk) : (s.homeMerge r l mask data cols poison).MemOk := h.dropSharers.mergeAt

theorem homeWrite {r l mask data colour poison} (h : s.MemOk) : (s.homeWrite r l mask data colour poison).MemOk := h.homeMerge

theorem recordRelease {r cols} (h : s.MemOk) : MemROk (s.recordRelease r cols) := by
  fun_cases State.recordRelease <;> grind [MemROk, retire, pullEntry, setCore, setDir]

theorem lineOut {r l x keep} (h : s.MemOk) (hk : ∀ t, t.MemOk → (keep t).MemOk) : (s.lineOut r l x keep).1.MemOk := by
  fun_cases State.lineOut <;> grind [State.MemOk, OptOk, crossAll, deferred, setMemLine, charge, setLlc]

theorem evict {r} (h : s.MemOk) : MemROk (s.evict r) := by
  have hg : ∀ t : State, t.MemOk → (((t.dropSharers r.key (homeDie r.va)).dropLlc (homeDie r.va) r.key).clearResv r.key).MemOk :=
    fun t ht => ht.dropSharers.dropLlc.clearResv
  have hl := fun (t : State) (ht : t.MemOk) l x => ht.lineOut (r := r) (l := l) (x := x) hg
  fun_cases State.evict <;> grind [MemROk, pullOthers, recallOwner]

theorem ownLine {r} (h : s.MemOk) : MemROk (s.ownLine r) := by
  fun_cases State.ownLine <;> grind [MemROk, llcRead, dropSharers, recallFor, setDir]

theorem loadAt {r scope colour n} (h : s.MemOk) : MemROk (s.loadAt r scope colour n) := by
  fun_cases State.loadAt <;> grind [MemROk, loadLine]

theorem storeAt {r scope colour n x} (h : s.MemOk) : MemROk (s.storeAt r scope colour n x) := h.storeLine

/-! ### Scalar operations -/

theorem scalarOp {i sd r} (h : s.MemOk) : OutOk (Machine.scalarOp i sd r s) := h.issue fun _ _ h => h.whenActive h

theorem scalarBin {i f op} (h : s.MemOk) : OutOk (Machine.scalarBin i f op s) := h.scalarOp

theorem scalarBinI {i f op} (h : s.MemOk) : OutOk (Machine.scalarBinI i f op s) := h.scalarOp

/-! ### Branches and the divergence stack -/

theorem spillWrite {g idx e} (h : s.MemOk) : MemROk (s.spillWrite g idx e) := by
  fun_cases State.spillWrite <;> grind [MemROk, storeAt]

theorem spillWrites {g rest} (h : s.MemOk) : MemROk (s.spillWrites g rest) := by
  fun_induction State.spillWrites <;> grind [MemROk, spillWrite]

theorem spillRead {g idx} (h : s.MemOk) : MemROk (s.spillRead g idx) := by
  fun_cases State.spillRead <;> grind [MemROk, loadAt]

theorem settle {g rest} (h : s.MemOk) : MemROk (s.settle g rest) := by
  fun_induction State.settle <;> grind [MemROk, spillRead]

theorem restack {g out rest k} (h : s.MemOk) : MemROk (s.restack g out rest k) := by
  fun_induction State.restack <;> grind [MemROk, spillRead, spillWrites]

theorem spillStop {pc e} (h : s.MemOk) : (Machine.spillStop s pc e).MemOk := by
  fun_cases Machine.spillStop <;> grind [Eff.MemOk, groupFault, seen, setCur]

theorem pushStack {g stack changed pc target} (h : s.MemOk) : (Machine.pushStack s g stack changed pc target).MemOk := by
  fun_cases Machine.pushStack <;> grind [Eff.MemOk, MemROk, spillWrites, spillStop, setCur]

theorem popStack {s1 g f stack pc} (h : s.MemOk) (h1 : s1.MemOk) : (Machine.popStack s s1 g f stack pc).MemOk := by
  fun_cases Machine.popStack <;> grind [Eff.MemOk, MemROk, spillStop, settle, setCur]

theorem execBrd {f} (h : s.MemOk) : OutOk (Machine.execBrd f s) := by
  refine h.issue fun s g h => ?_
  dsimp only
  repeat' split
  all_goals grind [Eff.MemOk, pushStack]

theorem execBri {f} (h : s.MemOk) : OutOk (Machine.execBri f s) := by
  refine h.issue fun s g h => ?_
  dsimp only
  repeat' split
  all_goals grind [Eff.MemOk]

theorem execRet (h : s.MemOk) : OutOk (Machine.execRet s) := by
  refine h.issue fun s g h => ?_
  split
  · trivial
  · split <;> grind [MemROk, restack, spillStop, popStack]

theorem execJoin (h : s.MemOk) : OutOk (Machine.execJoin s) := by
  refine h.issue fun s g h => ?_
  split
  · exact h.popStack h
  · exact h

theorem execBar {f} (h : s.MemOk) : OutOk (Machine.execBar f s) := by
  refine h.issue fun s g h => h.whenActive ?_
  dsimp only
  repeat' split
  all_goals grind [Eff.MemOk, teamOf_spad, setTeam, setCur]

theorem execBarrive {f} (h : s.MemOk) : OutOk (Machine.execBarrive f s) := by
  refine h.issue fun s g h => h.whenActive ?_
  dsimp only
  repeat' split
  all_goals grind [Eff.MemOk, teamOf_spad, setTeam, setCur]

theorem execExit {f} (h : s.MemOk) : OutOk (Machine.execExit f s) := by
  refine h.issue fun s g h => ?_
  dsimp only
  split
  · exact h
  split
  · exact h.setCur
  split <;> split <;> grind [Eff.MemOk, MemROk, restack, spillStop, setCur, popStack]

theorem execRegroup {f} (h : s.MemOk) : OutOk (Machine.execRegroup f s) := by
  refine h.issue fun s g h => ?_
  dsimp only
  repeat' split
  all_goals grind [Eff.MemOk, teamOf_spad, setTeam, setCur]

/-! ### Samples, fetch and the schedulers -/

theorem sampStore {core va x} (h : s.MemOk) : OptOk (s.sampStore core va x) := by
  fun_cases State.sampStore <;> grind [OptOk, MemROk, storeAt, charge]

theorem sampLoad {core va} (h : s.MemOk) : OptPairOk (s.sampLoad core va) := by
  fun_cases State.sampLoad <;> grind [OptPairOk, MemROk, loadAt]

theorem unbudgeted {ctx f} (h : s.MemOk) (hf : ∀ t : State, t.MemOk → (f t).MemOk) : (s.unbudgeted ctx f).MemOk :=
  setCtx (hf _ h.setCtx)

theorem countDrops {core} (h : s.MemOk) : (s.countDrops core).MemOk := by
  unfold State.countDrops
  dsimp only
  split
  · exact h
  · refine h.unbudgeted fun t ht => ?_
    split
    · exact ht
    · split <;> grind [OptOk, OptPairOk, sampLoad, sampStore, setCore]

theorem writeSample {core lo hi} (h : s.MemOk) : (s.writeSample core lo hi).MemOk := by
  have hd := (h.setCore (k := core) (x := { s.core core with sampLost := (s.core core).sampLost + 1 })).countDrops (core := core)
  fun_cases State.writeSample
  · exact hd
  all_goals grind [OptOk, OptPairOk, OptOk.getD, sampLoad, sampStore]

theorem traceRecord {u cmp} (h : s.MemOk) : (s.traceRecord u cmp).MemOk := h.writeSample

theorem keepCode {core key l} (h : s.MemOk) : (s.keepCode core key l).MemOk := by
  fun_cases State.keepCode <;> exact h

theorem fetchLine {r} (h : s.MemOk) : MemROk (s.fetchLine r) := by
  fun_cases State.fetchLine <;> grind [MemROk, llcRead, keepCode]

theorem fetchWord {g pc} (h : s.MemOk) : MemROk (s.fetchWord g pc) := by
  fun_cases State.fetchWord <;> grind [MemROk, fetchLine]

theorem fetchWords {g pc rest} (h : s.MemOk) : MemROk (s.fetchWords g pc rest) := by
  fun_induction State.fetchWords <;> grind [MemROk, fetchWord]

theorem fetchClause {g} (h : s.MemOk) : (s.fetchClause g).MemOk := by
  fun_cases State.fetchClause <;> grind [Fetched.MemOk, MemROk, fetchWord, setCore, fetchWords]

theorem switched {u} (h : s.MemOk) : OptOk (s.switched u) := by
  fun_cases State.switched <;> grind [OptOk, MemROk, setGroup, spillWrites, settle]

theorem enterActive {u} (h : s.MemOk) : (s.enterActive u).MemOk := h.fresh.setGroup

theorem leaveActive {u} (h : s.MemOk) : (s.leaveActive u).MemOk := h.fresh.setGroup

theorem swapOut {u} (h : s.MemOk) : (s.swapOut u).MemOk := by
  fun_cases State.swapOut <;> grind [enterActive, leaveActive]

theorem execPendingEnter (h : s.MemOk) : OutOk (Machine.execPendingEnter s) := by
  fun_cases Machine.execPendingEnter <;> grind [OutOk, enterActive]

theorem execForcedSwap (h : s.MemOk) : OutOk (Machine.execForcedSwap s) := by
  fun_cases Machine.execForcedSwap <;> grind [OutOk, enterActive, leaveActive]

theorem execPathSwitch (h : s.MemOk) : OutOk (Machine.execPathSwitch s) := by
  unfold Machine.execPathSwitch
  split
  · exact h.switched.getD h
  · exact h

theorem clearStreaks {u} (h : s.MemOk) : (s.clearStreaks u).MemOk := by
  refine foldl (fun t v ht => ?_) _ h
  split
  · exact ht
  · exact ht.setGroup

theorem runs {u} (h : s.MemOk) : (s.runs u).MemOk := by
  fun_cases State.runs <;> grind [clearStreaks, setCore]

theorem enterClause {u h' ws idx} (h : s.MemOk) : (s.enterClause u h' ws idx).MemOk := h.setGroup.clearStreaks.runs

theorem passGbar {u tag} (h : s.MemOk) : (s.passGbar u tag).MemOk := by
  fun_cases State.passGbar <;> grind [MemROk, setGroup, acquireL1, setCtx]

theorem execClauseBegin (h : s.MemOk) : OutOk (Machine.execClauseBegin s) := by
  fun_cases Machine.execClauseBegin <;> grind [OutOk, Fetched.MemOk, teamOf_spad, setGroup, fetchClause, passGbar, kill, groupFault, enterClause, swapOut, setTeam, setCtx, seen, setCur, trap]

/-! ### Remote accesses and the write-combining buffer -/

theorem remoteTry {die ctx dev o write} (h : s.MemOk) : (s.remoteTry die ctx dev o write).1.MemOk := by
  fun_cases State.remoteTry <;> grind [State.MemOk, fresh, sendPkt]

theorem wcbUpdate {core f} (h : s.MemOk) : (s.wcbUpdate core f).MemOk := h.setCore

theorem armWriters {cause e} (h : s.MemOk) : (Machine.armWriters s cause e).MemOk := by
  refine foldl (fun t k ht => ?_) _ h
  dsimp only
  split
  · exact ht.setGroup
  · exact ht

theorem wcbPark {core e} (h : s.MemOk) : (s.wcbPark core e).MemOk :=
  foldl (fun _ _ ht => ht.groupFault.wcbUpdate) _ h

theorem wcbSend {core e} (h : s.MemOk) : (s.wcbSend core e).MemOk := by
  fun_cases State.wcbSend <;> grind [armWriters, wcbUpdate, wcbPark, remoteTry, sendPkt]

theorem wcbSendAll {core p} (h : s.MemOk) : (s.wcbSendAll core p).MemOk :=
  foldl (fun _ _ ht => ht.wcbSend) _ h

theorem wcbAdd {core e} (h : s.MemOk) : (s.wcbAdd core e).1.MemOk := by
  fun_cases State.wcbAdd <;> grind [fresh, wcbSendAll, wcbUpdate, wcbSend]

theorem wcbStore {core ctx task peer line colour mask data red w} (h : s.MemOk) : (s.wcbStore core ctx task peer line colour mask data red w).1.MemOk := by
  fun_cases State.wcbStore <;> grind [wcbSendAll, wcbUpdate, wcbAdd]

theorem wcbClear {core peer line} (h : s.MemOk) : (s.wcbClear core peer line).1.MemOk := h.wcbSendAll

theorem answerLane {tag f} (h : s.MemOk) : (s.answerLane tag f).MemOk := h

theorem remoteSend {die ctx named server colour kind line mask poison} (h : s.MemOk) : (s.remoteSend die ctx named server colour kind line mask poison).2.MemOk := h.fresh.sendPkt

/-! ### The scratchpad -/

theorem spadWrite {loc n x poison} (h : s.MemOk) : (s.spadWrite loc n x poison).MemOk :=
  h.setTeam (memWf_mwriteL _ _ (h.team_spad _))

/-! ### Outstanding memory operations -/

theorem releaseAt {g scope cols} (h : s.MemOk) : MemROk (s.releaseAt g scope cols) := by
  fun_cases State.releaseAt <;> grind [MemROk, flushL1, wcbSendAll]

theorem acquireAt {g scope cols} (h : s.MemOk) : MemROk (s.acquireAt g scope cols) := by
  fun_cases State.acquireAt <;> grind [MemROk, acquireL1]

theorem relGate {u p a} (h : s.MemOk) : MemROk (s.relGate u p a) := by
  fun_cases State.relGate <;> grind [MemROk, releaseAt]

theorem freeWords {n} (h : s.MemOk) : (s.freeWords n).2.MemOk := h

theorem performStore {r p lazy_ mask data} (h : s.MemOk) : MemROk (s.performStore r p lazy_ mask data) := by
  fun_cases State.performStore <;> grind [MemROk, homeWrite, homeLineW, recordRelease, storeLine]

theorem performAtomic {r p a fl ret op} (h : s.MemOk) : MemROk (s.performAtomic r p a fl ret op) := by
  fun_cases State.performAtomic <;> grind [MemROk, deferred, homeWrite, homeLineW, recordRelease, freeWords]

theorem performStcnd {u r p a} (h : s.MemOk) : MemROk (s.performStcnd u r p a) := by
  fun_cases State.performStcnd <;> grind [MemROk, setGroup, homeWrite, homeLineW, recordRelease]

theorem homeCopy {r} (h : s.MemOk) : MemROk (s.homeCopy r) := by
  fun_cases State.homeCopy <;> grind [MemROk, homeFill, recallFor]

theorem performLpin {r a} (h : s.MemOk) : MemROk (s.performLpin r a) := by
  fun_cases State.performLpin <;> grind [MemROk, homeCopy, setCtx]

theorem performLocal {u p a} (h : s.MemOk) : MemROk (s.performLocal u p a) := by
  fun_cases State.performLocal <;> grind [MemROk, performAtomic, setGroup, performStore, loadAt, performLpin, homeCopy, loadLine, setCtx, performStcnd]

theorem performSpad {p a} (h : s.MemOk) : (s.performSpad p a).1.MemOk := by
  fun_cases State.performSpad <;> grind [spadWrite, freeWords]

theorem performSpads {p rest} (h : s.MemOk) : (s.performSpads p rest).1.MemOk := by
  fun_induction State.performSpads <;> grind [performSpad]

theorem remoteStore {u p a mask data} (h : s.MemOk) : (s.remoteStore u p a mask data).MemOk := by
  fun_cases State.remoteStore <;> grind [Perf.MemOk, wcbStore, remoteTry]

theorem remoteAsk {u p a} (h : s.MemOk) : (s.remoteAsk u p a).MemOk := by
  fun_cases State.remoteAsk <;> grind [Perf.MemOk, remoteSend, remoteTry, wcbClear]

theorem tryOne {u p a} (h : s.MemOk) : (s.tryOne u p a).MemOk := by
  unfold State.tryOne
  split
  · split
    · exact h.remoteStore
    · exact h.remoteAsk
  split
  · refine MemROk.perf ?_
    split
    · trivial
    next e => exact (e ▸ h.performStore :)
  · exact h.performLocal.perf

theorem putLane {u id a} (h : s.MemOk) : (s.putLane u id a).MemOk := h.setGroup

theorem putWhole {u id p a line} (h : s.MemOk) : (s.putWhole u id p a line).MemOk := h.setGroup

theorem tryLane {u id l} (h : s.MemOk) : (s.tryLane u id l).MemOk := by
  fun_cases State.tryLane <;> grind [Perf.MemOk, MemROk, putWhole, setGroup, tryOne, performSpads, relGate, putLane, loadLine]

theorem tryLanes {u id pick} (h : s.MemOk) : (s.tryLanes u id pick).MemOk := by
  unfold State.tryLanes
  split
  · exact h
  · exact foldl (fun _ _ ht => ht.tryLane) _ h

theorem finishOp {u id} (h : s.MemOk) : (s.finishOp u id).MemOk := by
  fun_cases State.finishOp <;> grind [MemROk, setGroup, acquireAt]

theorem execLoadDataReturn {op reg lanes} (h : s.MemOk) : OutOk (Machine.execLoadDataReturn op reg lanes s) := by
  fun_cases Machine.execLoadDataReturn <;> grind [OutOk, setGroup, tryLanes, finishOp]

theorem execStorePerformed {op lanes} (h : s.MemOk) : OutOk (Machine.execStorePerformed op lanes s) := by
  fun_cases Machine.execStorePerformed <;> grind [OutOk, tryLanes, finishOp]

theorem execHomeAtomic {op lanes} (h : s.MemOk) : OutOk (Machine.execHomeAtomic op lanes s) := by
  fun_cases Machine.execHomeAtomic <;> grind [OutOk, tryLanes, finishOp]

theorem markFault {u id rec ls} (h : s.MemOk) : (s.markFault u id rec ls).MemOk := h.setGroup

theorem recordPages {u p ls} (h : s.MemOk) : (s.recordPages u p ls).MemOk :=
  foldl (fun _ _ ht => ht.groupFault.markFault) _ h

theorem parkNow {u} (h : s.MemOk) : (s.parkNow u).MemOk := by
  fun_cases State.parkNow <;> grind [setGroup, swapOut]

theorem execLaneFault {op} (h : s.MemOk) : OutOk (Machine.execLaneFault op s) := by
  fun_cases Machine.execLaneFault <;> grind [OutOk, recordPages, parkNow]

theorem failLanes {u p cause ls} (h : s.MemOk) : (s.failLanes u p cause ls).MemOk := by
  fun_cases State.failLanes <;> grind [setGroup, finishOp]

theorem violated {u kind pc vas} (h : s.MemOk) : (s.violated u kind pc vas).MemOk :=
  List.foldlRecOn (motive := fun a : State × List Nat => a.1.MemOk) vas _ h fun a ha va _ => by
    split
    · exact ha
    · exact ha.groupFault

theorem execAccessViolation {op} (h : s.MemOk) : OutOk (Machine.execAccessViolation op s) := by
  fun_cases Machine.execAccessViolation
  · exact h
  · exact h
  · exact MemOk.failLanes (MemOk.failLanes (MemOk.violated (foldl (fun _ _ ht => ht.seen) _ h)))

theorem execAbsentLineReissue (h : s.MemOk) : OutOk (Machine.execAbsentLineReissue s) := by
  fun_cases Machine.execAbsentLineReissue <;> exact h

theorem execFaultRecordEnqueue (h : s.MemOk) : OutOk (Machine.execFaultRecordEnqueue s) := by
  fun_cases Machine.execFaultRecordEnqueue <;> grind [OutOk, writeRecord, setCtx]

/-! ### Memory instructions -/

theorem pushOp {g p mask lanes} (h : s.MemOk) : (Machine.pushOp s g p mask lanes).MemOk := by
  fun_cases Machine.pushOp <;> grind [Eff.MemOk, fresh, setCur]

theorem issueGlobal {i p remoteOk align heads lanes g} (h : s.MemOk) : (Machine.issueGlobal i p remoteOk align heads lanes s g).MemOk := by
  fun_cases Machine.issueGlobal <;> grind [Eff.MemOk, pushOp]

theorem execVldx {f} (h : s.MemOk) : OutOk (Machine.execVldx f s) := by
  unfold Machine.execVldx
  exact h.issue fun _ _ h => h.issueGlobal

theorem execVstx {f} (h : s.MemOk) : OutOk (Machine.execVstx f s) := by
  unfold Machine.execVstx
  exact h.issue fun _ _ h => h.issueGlobal

theorem absentPark {g lines} (h : s.MemOk) : (Machine.absentPark s g lines).MemOk := h.setCur.swapOut

theorem issueSpad {i p f data g} (h : s.MemOk) : (Machine.issueSpad i p f data s g).MemOk := by
  fun_cases Machine.issueSpad <;> grind [Eff.MemOk, absentPark, pushOp]

theorem execPresq {f} (h : s.MemOk) : OutOk (Machine.execPresq f s) := by
  unfold Machine.execPresq
  refine h.issue fun s g h => ?_
  dsimp only
  split
  · exact h
  split
  · trivial
  · trivial
  split
  · trivial
  split
  · trivial
  have hp := fun p m (l : List LaneAcc) => h.pushOp (g := g) (p := p) (mask := m) (lanes := l)
  split
  next hd =>
    have h1 := hd ▸ hp _ _ _
    exact setTeam h1 (team_spad h1 _)
  next => exact hp _ _ _

theorem hold (h : s.MemOk) : (Machine.hold s).MemOk := by
  fun_cases Machine.hold <;> grind [Eff.MemOk, swapOut, setCur]

theorem execFence {f} (h : s.MemOk) : OutOk (Machine.execFence f s) := by
  refine h.issue fun s g h => h.whenActive ?_
  dsimp only
  repeat' split
  all_goals grind [Eff.MemOk, MemROk, hold, releaseAt, acquireAt]

theorem execDrain {f} (h : s.MemOk) : OutOk (Machine.execDrain f s) := by
  refine h.issue fun s g h => h.whenActive ?_
  dsimp only
  repeat' split
  all_goals grind [MemROk, Eff.MemOk, flushL1, acquireL1, wcbSendAll, hold]

theorem prefLane {g sco colour excl a} (h : s.MemOk) : (s.prefLane g sco colour excl a).MemOk := by
  fun_cases State.prefLane <;> grind [MemROk, llcRead, ownLine, l1Fill]

theorem execPref {f} (h : s.MemOk) : OutOk (Machine.execPref f s) := by
  unfold Machine.execPref
  exact h.issue fun _ _ h => foldl (fun _ _ ht => ht.prefLane) _ h

theorem joinShare {team key slot} (h : s.MemOk) : (s.joinShare team key slot).MemOk := by
  fun_cases State.joinShare
  grind [team_spad, setTeam, setCtx]

theorem noteJoin {g key} (h : s.MemOk) : (s.noteJoin g key).MemOk := h.setCtx

theorem execSpjoin {f} (h : s.MemOk) : OutOk (Machine.execSpjoin f s) := by
  refine h.issue fun s g h => h.whenActive ?_
  dsimp only
  repeat' split
  all_goals grind [Eff.MemOk, joinShare, pushOp, noteJoin]

theorem leaveShare {team} (h : s.MemOk) : (s.leaveShare team).1.MemOk := by
  fun_cases State.leaveShare <;> grind [team_spad, setTeam, setCtx]

theorem execSpleave (h : s.MemOk) : OutOk (Machine.execSpleave s) := by
  refine h.issue fun s g h => h.whenActive ?_
  have hl := h.leaveShare (team := g.team)
  split <;> grind [Eff.MemOk, hold]

/-! ### Vector instructions -/

theorem vecOp {i vd r} (h : s.MemOk) : OutOk (Machine.vecOp i vd r s) := h.issue fun _ _ h => h.whenActive h

theorem intV {i f op} (h : s.MemOk) : OutOk (Machine.intV i f op s) := h.vecOp

theorem intVI {i f op} (h : s.MemOk) : OutOk (Machine.intVI i f op s) := h.vecOp

theorem bitV {i f op} (h : s.MemOk) : OutOk (Machine.bitV i f op s) := h.vecOp

theorem bitVI {i f op} (h : s.MemOk) : OutOk (Machine.bitVI i f op s) := h.vecOp

theorem fpV {i f op} (h : s.MemOk) : OutOk (Machine.fpV i f op s) := h.vecOp

theorem fpVI {i f op} (h : s.MemOk) : OutOk (Machine.fpVI i f op s) := h.vecOp

theorem cmpOp {i vd c} (h : s.MemOk) : OutOk (Machine.cmpOp i vd c s) := h.issue fun _ _ h => h.whenActive h

theorem counted {i sr k g} (h : s.MemOk) (hk : ∀ act, (k s g act).MemOk) : (Machine.counted i sr k s g).MemOk := by
  fun_cases Machine.counted
  · exact h.setCur
  · exact hk _

theorem execVcvt {f} (h : s.MemOk) : OutOk (Machine.execVcvt f s) := by
  unfold Machine.execVcvt
  exact h.issue fun _ _ h => h.counted fun _ => h.setCur

theorem execVpack {f} (h : s.MemOk) : OutOk (Machine.execVpack f s) := by
  unfold Machine.execVpack
  refine h.issue fun _ _ h => h.counted fun _ => ?_
  dsimp only
  split
  · trivial
  · exact h.setCur

theorem execVunpack {f} (h : s.MemOk) : OutOk (Machine.execVunpack f s) := by
  refine h.issue fun s g h => h.whenActive ?_
  dsimp only
  repeat' split
  all_goals grind [Eff.MemOk, setCur]

theorem execVrq {f} (h : s.MemOk) : OutOk (Machine.execVrq f s) := by
  unfold Machine.execVrq
  exact h.issue fun _ _ h => h.counted fun _ => h.setCur

theorem execVrand {f} (h : s.MemOk) : OutOk (Machine.execVrand f s) := by
  unfold Machine.execVrand
  exact h.issue fun _ _ h => h.counted fun _ => h.setCur

/-! ### Tiles and accumulators -/

theorem execTshape {f} (h : s.MemOk) : OutOk (Machine.execTshape f s) := by
  unfold Machine.execTshape
  exact h.issue fun _ _ h => h.onGroup

theorem execTscl {f} (h : s.MemOk) : OutOk (Machine.execTscl f s) := by
  unfold Machine.execTscl
  exact h.issue fun _ _ h => h.onGroup

theorem issueMoveEff {base m units g} (h : s.MemOk) : (Machine.issueMove base m units s g).MemOk := by
  fun_cases Machine.issueMove <;> grind [Eff.MemOk, fresh, absentPark, setCur]

theorem execTmov {f} (h : s.MemOk) : OutOk (Machine.execTmov f s) := by
  refine h.issue fun s g h => ?_
  dsimp only
  repeat' split
  all_goals grind [Eff.MemOk, fresh, setCur]

theorem landUnit {u m k} (h : s.MemOk) : (s.landUnit u m k).1.MemOk := by
  unfold State.landUnit
  dsimp only
  split
  case h_1 | h_3 => exact h.setGroup
  case h_2 | h_4 => exact h.spadWrite
  all_goals
    split <;> exact h.setGroup

theorem landUnits {u m l} (h : s.MemOk) : (s.landUnits u m l).1.MemOk := by
  fun_induction State.landUnits <;> grind [landUnit]

theorem execTileMoveComplete {op units} (h : s.MemOk) : OutOk (Machine.execTileMoveComplete op units s) := by
  fun_cases Machine.execTileMoveComplete <;> grind [OutOk, setGroup, landUnits]

theorem execCtov {f} (h : s.MemOk) : OutOk (Machine.execCtov f s) := by
  unfold Machine.execCtov
  exact h.issue fun _ _ h => h.onGroup

theorem execVtoc {f} (h : s.MemOk) : OutOk (Machine.execVtoc f s) := by
  unfold Machine.execVtoc
  exact h.issue fun _ _ h => h.onGroup

/-! ### Matrix products -/

theorem startProduct {i n g} (h : s.MemOk) : (Machine.startProduct i n s g).MemOk := by
  fun_cases Machine.startProduct <;> exact h

theorem scaledProduct {i n nan g} (h : s.MemOk) : (Machine.scaledProduct i n nan s g).MemOk := by
  fun_cases Machine.scaledProduct <;> grind [Eff.MemOk, startProduct]

theorem execMatrixChunkComplete (h : s.MemOk) : OutOk (Machine.execMatrixChunkComplete s) := by
  fun_cases Machine.execMatrixChunkComplete <;> grind [OutOk, setGroup, advance, setCore]

/-! ### Engine operations -/

theorem claimSlot {g} (h : s.MemOk) : (s.claimSlot g).1.MemOk := by
  fun_cases State.claimSlot <;> exact h

theorem execEngineSlotGrant (h : s.MemOk) : OutOk (Machine.execEngineSlotGrant s) := by
  fun_cases Machine.execEngineSlotGrant <;> exact h

theorem startOp {g copy o} (h : s.MemOk) : (s.startOp g copy o).MemOk := h.fresh.setCur.setOp

theorem landLines {o ls} (h : s.MemOk) : (s.landLines o ls).MemOk := by
  fun_cases State.landLines
  grind [team_spad, setTeam]

theorem flushScales {o} (h : s.MemOk) : (s.flushScales o).1.MemOk := by
  fun_cases State.flushScales <;> grind [spadWrite]

theorem putScale {o loc x poison last} (h : s.MemOk) : (s.putScale o loc x poison last).1.MemOk := by
  fun_cases State.putScale <;> grind [flushScales]

theorem cancelOp {o trap} (h : s.MemOk) : (s.cancelOp o trap).MemOk := h.flushScales.setOp.landLines

theorem completeOp {o} (h : s.MemOk) : (s.completeOp o).MemOk := by
  have h1 (f : State → Nat → State) (hf : ∀ t b, t.MemOk → (f t b).MemOk) :
      (o.groups.foldl f { s with ops := tdel s.ops o.id }).MemOk := foldl hf _ h
  fun_cases State.completeOp
  · exact h1 _ fun _ _ ht => ht.setGroup
  · exact setGroup (h1 _ fun _ _ ht => ht.setGroup)
  · exact h1 _ fun _ _ ht => ht.setGroup

theorem issueCopy {kind f g} (h : s.MemOk) : (Machine.issueCopy kind f s g).MemOk := by
  fun_cases Machine.issueCopy <;> grind [Eff.MemOk, setCur, claimSlot]

theorem execTcopy {f} (h : s.MemOk) : OutOk (Machine.execTcopy f s) := by
  unfold Machine.execTcopy
  exact h.issue fun _ _ h => h.whenActive h.issueCopy

theorem execTcopys {f} (h : s.MemOk) : OutOk (Machine.execTcopys f s) := by
  unfold Machine.execTcopys
  exact h.issue fun _ _ h => h.whenActive h.issueCopy

theorem execStash {f} (h : s.MemOk) : OutOk (Machine.execStash f s) := by
  unfold Machine.execStash
  exact h.issue fun _ _ h => h.whenActive h.issueCopy

theorem issueOp {g kind f lrec} (h : s.MemOk) : (s.issueOp g kind f lrec).MemOk := by
  fun_cases State.issueOp
  grind [team_spad, setTeam, startOp]

theorem execRecordReadComplete (h : s.MemOk) : OutOk (Machine.execRecordReadComplete s) := by
  fun_cases Machine.execRecordReadComplete <;> grind [OutOk, MemROk, setGroup, issueOp, advance, kill, groupFault, loadLine, seen, setCur, trap]

theorem opLine {o va} (h : s.MemOk) : MemROk (s.opLine o va) := by
  fun_cases State.opLine <;> grind [MemROk, loadLine]

theorem opBytes {o va n} (h : s.MemOk) : MemROk (s.opBytes o va n) := by
  fun_cases State.opBytes <;> grind [MemROk, opLine]

theorem maskRank {o tile q n} (h : s.MemOk) : MemROk (s.maskRank o tile q n) := by
  fun_induction State.maskRank <;> grind [MemROk, opBytes]

theorem memElem {o l a} (h : s.MemOk) : MemROk (s.memElem o l a) := by
  have hl (t : State) (ht : t.MemOk) va : MemROk (t.opLine o va) := ht.opLine
  have hb (va n) : MemROk (s.opBytes o va n) := h.opBytes
  fun_cases State.memElem
  case case4 s1 _ _ e1 s2 _ _ e2 s3 _ _ e3 _ =>
    have h1 : s1.MemOk := by grind [MemROk]
    have h2 : s2.MemOk := by
      have := hl s1 h1
      split at e2 <;> grind [MemROk]
    exact (e3 ▸ hl s2 h2 _ :)
  all_goals grind [MemROk]

theorem loadElem {o l b} (h : s.MemOk) : MemROk (s.loadElem o l b) := by
  fun_cases State.loadElem <;> grind [MemROk, maskRank, opBytes, memElem]

theorem loadRun {o l i rest} (h : s.MemOk) : (s.loadRun o l i rest).1.MemOk := by
  fun_induction State.loadRun <;> grind [MemROk, loadElem]

theorem spadBits {o l i bit n x poison} (h : s.MemOk) : (s.spadBits o l i bit n x poison).MemOk := h.spadWrite

theorem spadRun {o l i j w xs poison} (h : s.MemOk) : (s.spadRun o l i j w xs poison).MemOk :=
  foldl (fun _ _ ht => ht.spadBits) _ h

theorem landed {o n} (h : s.MemOk) : (s.landed o n).1.MemOk := h.setOp.landLines

theorem landLoad {o} (h : s.MemOk) : (s.landLoad o).MemOk := by
  fun_cases State.landLoad <;> grind [Prog.MemOk, putScale, spadRun, landed, loadRun]

theorem storeBytes {o poison bs} (h : s.MemOk) : MemROk (s.storeBytes o poison bs) := by
  refine List.foldlRecOn (motive := MemROk) _ _ h fun r hr va _ => ?_
  split
  · trivial
  split
  · trivial
  · exact putLine hr

theorem mergeBits {o va bit n x} (h : s.MemOk) : MemROk (s.mergeBits o va bit n x) := by
  refine List.foldlRecOn (motive := MemROk) _ _ h fun r hr k _ => ?_
  split
  · trivial
  next s1 bs =>
    have h1 : s1.MemOk := hr
    have h2 := h1.opBytes (o := o) (va := (va + bit / 8 + k) % 2 ^ 64) (n := 1)
    dsimp only
    split <;> grind [MemROk]

theorem pieceBytes {o l es xs} (h : s.MemOk) : MemROk (s.pieceBytes o l es xs) := by
  fun_cases State.pieceBytes <;> grind [MemROk, mergeBits]

theorem storePiece {o p} (h : s.MemOk) : MemROk (s.storePiece o p) := by
  fun_cases State.storePiece <;> grind [MemROk, pieceBytes, setOp, storeBytes]

theorem storeRun {o rest} (h : s.MemOk) : (s.storeRun o rest).1.MemOk := by
  fun_induction State.storeRun <;> grind [MemROk, storePiece]

theorem landStore {o} (h : s.MemOk) : (s.landStore o).MemOk := by
  fun_cases State.landStore <;> grind [Prog.MemOk, storeRun]

theorem turnRun {o l i rest} (h : s.MemOk) : (s.turnRun o l i rest).1.MemOk := by
  fun_induction State.turnRun <;> grind [MemROk, setOp, mergeBits, storeBytes]

theorem landTransposed {o} (h : s.MemOk) : (s.landTransposed o).MemOk := by
  fun_cases State.landTransposed <;> grind [Prog.MemOk, turnRun]

theorem landCopy {o} (h : s.MemOk) : (s.landCopy o).MemOk := by
  fun_cases State.landCopy <;> grind [Prog.MemOk, landStore, landLoad, landTransposed, setCtx]

/-! ### The steps of an engine operation -/

theorem opRefused {o} (h : s.MemOk) : (s.opRefused o).MemOk := h.cancelOp

theorem opAsk {o va write kind line mask poison} (h : s.MemOk) : (s.opAsk o va write kind line mask poison).MemOk := by
  fun_cases State.opAsk <;> grind [Prog.MemOk, opRefused, setOp, remoteSend, remoteTry]

theorem pieceDone {o} (h : s.MemOk) : (s.pieceDone o).MemOk := h.setOp

theorem opStore {o va mask data poison} (h : s.MemOk) : MemROk (s.opStore o va mask data poison) := h.putLine

theorem galCopy {o} (h : s.MemOk) : (s.galCopy o).MemOk := by
  fun_cases State.galCopy <;> grind [Prog.MemOk, MemROk, opLine, opAsk, pieceDone, opStore]

theorem forkDrain {o} (h : s.MemOk) : (s.forkDrain o).1.MemOk := h.wcbSendAll

theorem opDrain {o} (h : s.MemOk) : (s.opDrain o).1.MemOk := h.wcbSendAll

theorem incFlag {r inc colour} (h : s.MemOk) : MemROk (s.incFlag r inc colour) := by
  fun_cases State.incFlag <;> grind [MemROk, deferred, homeWrite, homeLineW]

theorem signalStep {o flag} (h : s.MemOk) : (s.signalStep o flag).MemOk := by
  fun_cases State.signalStep <;> grind [Prog.MemOk, MemROk, opAsk, flushL1, setOp, opDrain, incFlag]

theorem galStep {o} (h : s.MemOk) : (s.galStep o).MemOk := by
  fun_cases State.galStep <;> grind [Prog.MemOk, forkDrain, signalStep, galCopy]

theorem progress {o} (h : s.MemOk) : (s.progress o).MemOk := by
  fun_cases State.progress <;> grind [Prog.MemOk, galStep, landCopy, opDrain]

theorem execCopyWriteLand (h : s.MemOk) : OutOk (Machine.execCopyWriteLand s) := by
  fun_cases Machine.execCopyWriteLand <;> grind [OutOk, Prog.MemOk, setOp, progress]

theorem parkOp {o cause va} (h : s.MemOk) : (s.parkOp o cause va).MemOk := h.groupFault.flushScales.setOp

theorem opViolates {o} (h : s.MemOk) : (s.opViolates o).MemOk := h.seen.groupFault.cancelOp

theorem execEngineOpFault (h : s.MemOk) : OutOk (Machine.execEngineOpFault s) := by
  fun_cases Machine.execEngineOpFault <;> grind [OutOk, Prog.MemOk, opViolates, parkOp, progress, cancelOp]

theorem execEngineOpComplete (h : s.MemOk) : OutOk (Machine.execEngineOpComplete s) := by
  fun_cases Machine.execEngineOpComplete <;> grind [OutOk, completeOp]

theorem execMigrateWaitTimeout {op} (h : s.MemOk) : OutOk (Machine.execMigrateWaitTimeout op s) := by
  fun_cases Machine.execMigrateWaitTimeout <;> grind [OutOk, setGroup, groupFault, parkOp, recordPages, parkNow]

theorem issueGallery {o g} (h : s.MemOk) : (Machine.issueGallery o s g).MemOk := by
  fun_cases Machine.issueGallery <;> grind [Eff.MemOk, startOp, claimSlot]

theorem execGcopy {f} (h : s.MemOk) : OutOk (Machine.execGcopy f s) := by
  unfold Machine.execGcopy
  refine h.issue fun _ _ h => h.whenActive ?_
  dsimp only
  split
  · trivial
  · exact h.issueGallery

theorem execGsig {f} (h : s.MemOk) : OutOk (Machine.execGsig f s) := by
  refine h.issue fun s g h => h.whenActive ?_
  dsimp only
  repeat' split
  all_goals grind [Eff.MemOk, issueGallery]

/-! ### Stage rings, the domain barrier and norm collectives -/

theorem setRing {team n r} (h : s.MemOk) : (s.setRing team n r).MemOk := by
  fun_cases State.setRing
  grind [team_spad, setTeam]

theorem deferRing {rel f tok g} (h : s.MemOk) : (Machine.deferRing rel f tok s g).MemOk := by
  fun_cases Machine.deferRing <;> exact h

theorem execRpop {f} (h : s.MemOk) : OutOk (Machine.execRpop f s) := by
  refine h.issue fun s g h => h.whenActive ?_
  dsimp only
  repeat' split
  all_goals grind [Eff.MemOk, setRing, setCur]

theorem execRingOpEffect (h : s.MemOk) : OutOk (Machine.execRingOpEffect s) := by
  fun_cases Machine.execRingOpEffect <;> grind [OutOk, setRing, setCur]

theorem execRwaitRelease (h : s.MemOk) : OutOk (Machine.execRwaitRelease s) := by
  fun_cases Machine.execRwaitRelease <;> exact h

theorem gbarArrive {g n count} (h : s.MemOk) : (s.gbarArrive g n count).MemOk := by
  fun_cases State.gbarArrive <;> grind [fresh, setCtx, sendPkt, setCur]

theorem execGbar {f} (h : s.MemOk) : OutOk (Machine.execGbar f s) := by
  refine h.issue fun s g h => h.whenActive ?_
  repeat' split
  all_goals grind [Eff.MemOk, MemROk, gbarArrive, hold, releaseAt]

theorem normClose {ctx n} (h : s.MemOk) : (s.normClose ctx n).MemOk := by
  fun_cases State.normClose <;> grind [setCtx, sendPkt]

theorem execNrmadd {f} (h : s.MemOk) : OutOk (Machine.execNrmadd f s) := by
  refine h.issue fun s g h => h.whenActive ?_
  dsimp only
  repeat' split
  all_goals grind [Eff.MemOk, normClose, setCtx, setCur]

theorem execNrmrd {f} (h : s.MemOk) : OutOk (Machine.execNrmrd f s) := by
  refine h.issue fun s g h => h.whenActive ?_
  dsimp only
  repeat' split
  all_goals grind [Eff.MemOk, setCur]

theorem normDeposit {ctx} (h : s.MemOk) : (s.normDeposit ctx).MemOk := by
  fun_cases State.normDeposit <;> exact h

theorem execMirror {f} (h : s.MemOk) : OutOk (Machine.execMirror f s) := by
  refine h.issue fun s g h => h.whenActive ?_
  dsimp only
  repeat' split
  all_goals grind [Eff.MemOk, MemROk, hold, releaseAt, setCur]

/-! ### System instructions -/

theorem modCtx {g f} (h : s.MemOk) : (s.modCtx g f).MemOk := h.setCtx

theorem execSwr {f} (h : s.MemOk) : OutOk (Machine.execSwr f s) := by
  refine h.issue fun s g h => h.whenActive ?_
  dsimp only
  repeat' split
  all_goals grind [Eff.MemOk, modCtx, setCur]

theorem execBarstWrite {f} (h : s.MemOk) : OutOk (Machine.execBarstWrite f s) := by
  refine h.issue fun s g h => h.whenActive ?_
  dsimp only
  repeat' split
  all_goals grind [Eff.MemOk, teamOf_spad, setTeam]

theorem execNormboxWrite {f} (h : s.MemOk) : OutOk (Machine.execNormboxWrite f s) := by
  refine h.issue fun s g h => h.whenActive ?_
  dsimp only
  repeat' split
  all_goals grind [Eff.MemOk, modCtx]

theorem execErrclr (h : s.MemOk) : OutOk (Machine.execErrclr s) := by
  refine h.issue fun s g h => h.whenActive ?_
  repeat' split
  all_goals grind [Eff.MemOk, modCtx]

theorem execTret {f} (h : s.MemOk) : OutOk (Machine.execTret f s) := by
  refine h.issue fun s g h => h.whenActive ?_
  repeat' split
  all_goals grind [Eff.MemOk, setCur]

theorem opPark {kind va cause} (h : s.MemOk) : (Machine.opPark s kind va cause).MemOk := h.groupFault.setCur.swapOut

theorem opStop {priv kind va e} (h : s.MemOk) : (Machine.opStop priv s kind va e).MemOk := by
  fun_cases Machine.opStop <;> grind [Eff.MemOk, opPark, groupFault, seen, setCur]

theorem storeLines {g rest} (h : s.MemOk) : ExcOk (s.storeLines g rest) := by
  fun_induction State.storeLines <;> grind [ExcOk, MemROk, storeLine]

theorem execCtxsv {f} (h : s.MemOk) : OutOk (Machine.execCtxsv f s) := by
  refine h.issue fun s g h => h.whenActive ?_
  dsimp only
  repeat' split
  all_goals grind [Eff.MemOk, ExcOk, opStop, storeLines, hold, setCur]

theorem loadLines {g a n} (h : s.MemOk) : MemROk (s.loadLines g a n) := by
  fun_induction State.loadLines <;> grind [MemROk, loadLine]

theorem execCtxld {f} (h : s.MemOk) : OutOk (Machine.execCtxld f s) := by
  refine h.issue fun s g h => h.whenActive ?_
  dsimp only
  repeat' split
  all_goals grind [Eff.MemOk, MemROk, opStop, loadLines, hold, setCur]

theorem execTlbinv {f} (h : s.MemOk) : OutOk (Machine.execTlbinv f s) := by
  refine h.issue fun s g h => h.whenActive ?_
  dsimp only
  repeat' split
  all_goals grind [Eff.MemOk, State.MemOk]

theorem writeBackAll {ctx key rest} (h : s.MemOk) : MemROk (s.writeBackAll ctx key rest) := by
  fun_induction State.writeBackAll <;> grind [MemROk, writeBack]

theorem cleanHome {r} (h : s.MemOk) : MemROk (s.cleanHome r) := by
  fun_cases State.cleanHome <;> grind [MemROk, recallOwner, memoryFault, lineOut, setLlc]

theorem cinvLine {ctx key wb inv keep} (h : s.MemOk) : MemROk (s.cinvLine ctx key wb inv keep) := by
  have hw (p : Bool) : MemROk (if p then s.writeBackAll ctx key (tkeys s.cores) else .ok (s, ())) := by
    split
    · exact h.writeBackAll
    · exact h
  unfold State.cinvLine
  dsimp only
  split
  · trivial
  next s1 _ e1 =>
  have h1 : State.MemOk s1 := (e1 ▸ hw _ :)
  have hc (p : Bool) : MemROk (if p then s1.cleanHome ⟨noCore, s.ctxOfKey ctx key, keyAsid key, keyVa key⟩ else .ok (s1, ())) := by
    split
    · exact h1.cleanHome
    · exact h1
  split
  · trivial
  next s2 _ e2 =>
  have h2 : State.MemOk s2 := (e2 ▸ hc _ :)
  split
  · exact h2
  split
  · split
    · exact h2
    · trivial
  have hp (t : State) (ht : t.MemOk) rel : MemROk (t.pullOthers noCore key rel) := ht.pullOthers
  split
  · trivial
  next e4 =>
    have h4 := e4 ▸ hp _ (foldl (fun _ _ ht => ht.dropL1) _ h2) _
    exact clearResv (setDir (foldl (fun _ _ ht => ht.dropLlc) _ h4))

theorem cinvLines {ctx wb inv keep rest} (h : s.MemOk) : MemROk (s.cinvLines ctx wb inv keep rest) := by
  fun_induction State.cinvLines <;> grind [MemROk, cinvLine]

theorem execCinv {f} (h : s.MemOk) : OutOk (Machine.execCinv f s) := by
  refine h.issue fun s g h => h.whenActive ?_
  dsimp only
  repeat' split
  all_goals grind [MemROk, Eff.MemOk, cinvLines, hold]

theorem execIcinv (h : s.MemOk) : OutOk (Machine.execIcinv s) := by
  refine h.issue fun s g h => h.whenActive ?_
  dsimp only
  repeat' split
  all_goals grind [Eff.MemOk, MemROk, State.MemOk, hold, releaseAt]

theorem heatPut {g va x} (h : s.MemOk) : (s.heatPut g va x).1.MemOk := by
  fun_cases State.heatPut <;> grind [MemROk, storeAt, wcbStore, remoteTry]

theorem heatStores {g bad rest} (h : s.MemOk) : (s.heatStores g bad rest).MemOk := by
  fun_induction State.heatStores <;> grind [HeatRun.MemOk, heatPut]

theorem heatReady {g vas} (h : s.MemOk) : (s.heatReady g vas).1.MemOk :=
  List.foldlRecOn (motive := fun a : State × Bool => a.1.MemOk) vas _ h fun a ha va _ => by
    have hr := ha.remoteTry (die := dieOf (s.teamOf g).core) (ctx := (s.teamOf g).ctx) (dev := remotePeer va) (o := remoteOffset va) (write := true)
    dsimp only
    split
    · exact ha
    · refine wcbSendAll ?_
      split
      next e => exact (e ▸ hr :)
      · exact ha

theorem execHeatrd {f} (h : s.MemOk) : OutOk (Machine.execHeatrd f s) := by
  refine h.issue fun s g h => h.whenActive ?_
  have hr (l) : (s.heatReady g l).1.MemOk := h.heatReady
  have hs (t : State) (ht : t.MemOk) l : (t.decayed.heatStores g [] l).MemOk := ht.decayed.heatStores
  dsimp only
  split
  · exact h
  split
  · trivial
  split
  · trivial
  split
  · exact h.hold
  split
  next e => exact (e ▸ hr _ :)
  next s1 e =>
    have h1 : s1.MemOk := (e ▸ hr _ :)
    split
    · exact h1
    · exact h1.opStop
    next s2 bad e2 =>
      have h2 : s2.MemOk := (e2 ▸ hs _ h1 _ :)
      exact setCur (violated (foldl (fun _ _ ht => ht.seen) _ h2))

theorem execDbgwr {f} (h : s.MemOk) : OutOk (Machine.execDbgwr f s) := by
  refine h.issue fun s g h => h.whenActive ?_
  dsimp only
  repeat' split
  all_goals grind [Eff.MemOk, setGroup]

theorem execQpost {f} (h : s.MemOk) : OutOk (Machine.execQpost f s) := by
  refine h.issue fun s g h => h.whenActive ?_
  have hr := h.releaseAt (g := g) (scope := 3) (cols := 0xFF)
  dsimp only
  split
  · trivial
  split
  · trivial
  split
  · exact h.hold
  split
  · exact h.hold
  next e => exact hold (e ▸ hr :)
  next s1 e =>
  have h1 : s1.MemOk := (e ▸ hr :)
  have hl := h1.homeLineW (r := s1.reqOf g ((g.rpair f.sa.toNat).toNat + 0x40))
  split
  · exact h1.opStop
  next s2 l e2 =>
  have h2 : s2.MemOk := (e2 ▸ hl :)
  split
  · exact h1.opStop
  split
  · exact h1.opStop
  split
  · split
    · exact h2.deferred
    · exact h2.freeWords.setCur
  · refine setCur ?_
    split
    · exact h2
    · exact h2.homeWrite

/-! ### Teams and grids -/

theorem devRead {ctx va n} (h : s.MemOk) : MemROk (s.devRead ctx va n) := by
  fun_cases State.devRead <;> grind [MemROk, homeLine]

theorem devBytes {ctx va n} (h : s.MemOk) : MemROk (s.devBytes ctx va n) := by
  fun_cases State.devBytes <;> grind [MemROk, devRead]

theorem devWrite {ctx va n x} (h : s.MemOk) : MemROk (s.devWrite ctx va n x) := by
  fun_cases State.devWrite <;> grind [MemROk, homeWrite, homeLine]

theorem tcbState {k st reason} (h : s.MemOk) : OptOk (s.tcbState k st reason) := by
  fun_cases State.tcbState <;> grind [OptOk, MemROk, devWrite]

theorem seatGroup {u g} (h : s.MemOk) : (s.seatGroup u g).MemOk := h.fresh.setGroup

theorem startGroups {l team rest} (h : s.MemOk) : (s.startGroups l team rest).MemOk := by
  fun_induction State.startGroups <;> grind [team_spad, fresh, seatGroup, setTeam]

theorem partition {k pw} (h : s.MemOk) : (s.partition k pw).MemOk := h.setCore

theorem startTeam {task idx core} (h : s.MemOk) : (s.startTeam task idx core).MemOk :=
  MemOk.startGroups (MemOk.setTask (MemOk.setTeam h.fresh.partition rfl))

theorem resumeGroup {u} (h : s.MemOk) : (s.resumeGroup u).MemOk := h.seatGroup

theorem resumeTeam {t' core} (h : s.MemOk) : (s.resumeTeam t' core).MemOk := by
  unfold State.resumeTeam
  refine foldl (fun _ _ ht => ht.resumeGroup) _ (foldl (fun _ _ ht => ht.setGroup) _ (setTask (setTeam h.fresh.partition ?_)))
  exact h.fresh.team_spad _

theorem placeTeams {task ts} (h : s.MemOk) : OptOk (s.placeTeams task ts) := by
  have hf (t : State) (ht : t.MemOk) : (ts.foldl (fun s p => match p.1.1 with | none => s.startTeam task p.1.2 p.2 | some t => s.resumeTeam t p.2) t).MemOk := by
    refine foldl (fun u p hu => ?_) _ ht
    split
    · exact hu.startTeam
    · exact hu.resumeTeam
  unfold State.placeTeams
  dsimp only
  split
  · exact tcbState (hf _ h)
  · exact hf _ h

theorem preempt {task t'} (h : s.MemOk) : (s.preempt task t').MemOk := by
  fun_cases State.preempt
  grind [team_spad, setCore, setTeam]

theorem serve {task} (h : s.MemOk) : OptOk (s.serve task) := by
  unfold State.serve
  dsimp only
  split
  · split
    · exact h.setTask
    · exact h.setTask.setCtx.tcbState
  split
  · trivial
  split
  · exact h.placeTeams
  split
  · trivial
  split
  · trivial
  · exact foldl (fun _ _ ht => ht.preempt) _ h

theorem execTeamPlacement (h : s.MemOk) : OutOk (Machine.execTeamPlacement s) := by
  fun_cases Machine.execTeamPlacement
  · exact h
  · refine OptOk.getD ?_ h
    cases hf : (s.serviceOrder s.waitingTasks.length s.waitingTasks).findSome? s.serve with
    | none => trivial
    | some t =>
      obtain ⟨k, -, hk⟩ := List.exists_of_findSome?_eq_some hf
      exact hk ▸ h.serve

theorem seatNew {team rest} (h : s.MemOk) : (s.seatNew team rest).MemOk := by
  fun_induction State.seatNew <;> grind [team_spad, seatGroup, setTeam]

theorem execRegroupExchange (h : s.MemOk) : OutOk (Machine.execRegroupExchange s) := by
  have hf {l : List Nat} {n k : Nat} {g : State → Nat → Group} :
      (l.foldl (fun (s : State) u => s.setGroup u (g s u)) { s with nextId := n, free := k }).MemOk :=
    foldl (fun _ _ ht => ht.setGroup) _ h
  unfold Machine.execRegroupExchange
  dsimp only
  split
  · split
    · exact h
    · refine seatNew ?_
      refine setTeam (s := { (_ : State) with ops := _}) hf ?_
      exact team_spad hf _
  · exact h

theorem areaRead {ctx base n} (h : s.MemOk) : MemROk (s.areaRead ctx base n) := by
  fun_induction State.areaRead <;> grind [MemROk, devRead]

theorem resumeOps {team} (h : s.MemOk) : (s.resumeOps team).MemOk := h

theorem areaRead_image {ctx base n t} {m : Memory} (hr : s.areaRead ctx base n = .ok (t, m)) : memWf noSide m = true := by
  fun_induction State.areaRead generalizing t m <;> grind [memWf_nil, memWf_mwriteL]

theorem revive {team} (h : s.MemOk) : OptOk (s.revive team) := by
  have hr := h.areaRead (ctx := (s.team team).ctx) (base := teamArea (s.ctx (s.team team).ctx) (s.team team).linear) (n := s.spadSize team / 128)
  fun_cases State.revive
  · trivial
  next e => exact setTeam (resumeOps (e ▸ hr :)) (areaRead_image e)
  · exact h

theorem endTeam {team} (h : s.MemOk) : (s.endTeam team).MemOk := by
  have hc (l : List (Nat × EngOp)) : (l.foldl (fun s p => s.cancelOp p.2 none) s).MemOk := foldl (fun _ _ ht => ht.cancelOp) l h
  have hl {t u : State} {b} (ht : t.MemOk) (e : (t.revive team).map (fun s => s.leaveShare team) = some (u, b)) : u.MemOk := by
    obtain ⟨v, hv, e⟩ := Option.map_eq_some_iff.mp e
    have hv : v.MemOk := (hv ▸ ht.revive :)
    exact (e ▸ hv.leaveShare :)
  unfold State.endTeam
  dsimp only
  split
  · exact h
  split
  · exact hc _
  next e => exact hl (hc _) e
  next e =>
    split
    · exact hl (hc _) e
    · exact (hl (hc _) e).setTeam rfl

theorem execGroupRetire (h : s.MemOk) : OutOk (Machine.execGroupRetire s) := by
  fun_cases Machine.execGroupRetire <;> grind [OutOk, endTeam, groupGone, setCur]

theorem flushCores {ctx rest} (h : s.MemOk) : MemROk (s.flushCores ctx rest) := by
  fun_induction State.flushCores <;> grind [MemROk, flushL1]

theorem succeed {ctx tcb} (h : s.MemOk) : MemROk (s.succeed ctx tcb) := by
  fun_cases State.succeed <;> grind [MemROk, deferred, homeWrite, homeLine]

theorem successors {ctx list rest} (h : s.MemOk) : MemROk (s.successors ctx list rest) := by
  fun_induction State.successors <;> grind [MemROk, devBytes, succeed, setCtx]

theorem execGridEnd (h : s.MemOk) : OutOk (Machine.execGridEnd s) := by
  have hf := h.flushCores (ctx := (s.task s.who).ctx) (rest := tkeys s.cores)
  unfold Machine.execGridEnd
  dsimp only
  split
  · exact h
  split
  · exact h
  next s1 _ e =>
  have h2 (p) : ((tkeys s1.cores).foldl (fun s c => s.wcbSendAll c p) s1).MemOk := foldl (fun _ _ ht => ht.wcbSendAll) _ (e ▸ hf :)
  split
  · exact h2 _
  split
  · exact h2 _
  next s3 e =>
  have h3 : s3.MemOk := (e ▸ (h2 _).setTask.tcbState :)
  split
  · exact h2 _
  next e => exact (e ▸ h3.successors :)
  next s4 e =>
    have h4 : s4.MemOk := (e ▸ h3.successors :)
    exact h4.tcbState.getD h4

theorem execPreemptPoint (h : s.MemOk) : OutOk (Machine.execPreemptPoint s) := by
  fun_cases Machine.execPreemptPoint <;> grind [OutOk, team_spad, setCore, setTeam, setCur]

theorem areaWrite {ctx base f n} (h : s.MemOk) : MemROk (s.areaWrite ctx base f n) := by
  fun_induction State.areaWrite <;> grind [MemROk, devWrite]

theorem enterSave {u} (h : s.MemOk) : (s.enterSave u).MemOk := h.trap

theorem execTeamSave {park} (h : s.MemOk) : OutOk (Machine.execTeamSave park s) := by
  have hl := h.leaveShare (team := s.who)
  unfold Machine.execTeamSave
  dsimp only
  split
  · exact h
  split
  next e => exact (e ▸ hl :)
  next s0 e =>
  have h1 : ((s0.ops.filter fun p => p.2.team == s.who).foldl (fun s p => (s.flushScales p.2).1.setOp (s.flushScales p.2).2) s0).MemOk :=
    foldl (fun _ _ ht => ht.flushScales.setOp) _ (e ▸ hl :)
  split
  · exact h1
  next s2 _ e =>
    have h2 : s2.MemOk := (e ▸ h1.areaWrite :)
    exact foldl (fun _ _ ht => ht.setGroup.enterSave) _ (setTeam h2 (h1.team_spad _))

theorem execTeamLeaveCore (h : s.MemOk) : OutOk (Machine.execTeamLeaveCore s) := by
  fun_cases Machine.execTeamLeaveCore
  · exact setTask (h.setTeam rfl)
  · exact h

theorem spilledEntries {g rest} (h : s.MemOk) : MemROk (s.spilledEntries g rest) := by
  fun_induction State.spilledEntries <;> grind [MemROk, loadAt]

theorem applyBlocks {t' rest} (h : s.MemOk) : MemROk (s.applyBlocks t' rest) := by
  fun_induction State.applyBlocks <;> grind [MemROk, setGroup, spilledEntries]

theorem execResumeRestore (h : s.MemOk) : OutOk (Machine.execResumeRestore s) := by
  have hb {l : List Nat} {t : Team} (ht : memWf noSide t.spad = true) :
      memWf noSide (l.foldl (fun t u => t.barsGo (s.group u).gid) t).spad = true := by
    rwa [Team.foldl_barsGo_spad]
  unfold Machine.execResumeRestore
  dsimp only
  split
  · split
    · exact h
    next s1 m e =>
      have h1 : s1.MemOk := (e ▸ h.areaRead :)
      have hm : memWf noSide m = true := areaRead_image e
      split
      · exact h
      next e2 =>
        have h2 : MemROk (.ok (_, _)) := e2 ▸ MemOk.applyBlocks (h1.setTeam (hb hm))
        exact setTeam (resumeOps h2) (hb hm)
  · exact h

/-! ### Requests of a line's home -/

theorem evictFrom {r} (h : s.MemOk) : (s.evictFrom r).MemOk := by
  fun_cases State.evictFrom <;> grind [MemROk, recallOwner, memoryFault, evict, setDir, dropLlc]

theorem execHomeRequest {r} (h : s.MemOk) : OutOk (Machine.execHomeRequest r s) := by
  fun_cases Machine.execHomeRequest <;> grind [OutOk, MemROk, llcRead, ownLine, evictFrom]

theorem execReleasePull {asid va} (h : s.MemOk) : OutOk (Machine.execReleasePull asid va s) := by
  fun_cases Machine.execReleasePull <;> grind [OutOk, MemROk, pullEntry]

theorem execPullAck {asid va} (h : s.MemOk) : OutOk (Machine.execPullAck asid va s) := by
  fun_cases Machine.execPullAck <;> exact h

theorem execDirectoryInvalidate {asid va} (h : s.MemOk) : OutOk (Machine.execDirectoryInvalidate asid va s) := by
  fun_cases Machine.execDirectoryInvalidate <;> exact h

theorem execL1WriteBack {asid va evict} (h : s.MemOk) : OutOk (Machine.execL1WriteBack asid va evict s) := by
  fun_cases Machine.execL1WriteBack <;> grind [OutOk, MemROk, dropL1, writeBack]

/-! ### The Gallery -/

theorem took (h : s.MemOk) : s.took.MemOk := h

theorem haul {die p} (h : s.MemOk) : (s.haul die p).1.MemOk := by
  fun_cases State.haul <;> grind [cross]

theorem wcbAnswer {core e k} (h : s.MemOk) : (s.wcbAnswer core e k).MemOk := by
  fun_cases State.wcbAnswer <;> grind [armWriters, wcbUpdate, wcbPark, wcbSend]

theorem dropXlat {p} (h : s.MemOk) : (s.dropXlat p).MemOk := by
  fun_cases State.dropXlat <;> exact h

theorem mirrorAnswer {k c p} (h : s.MemOk) : (s.mirrorAnswer k c p).MemOk := by
  fun_cases State.mirrorAnswer <;> grind [setCtx, mirrorBreaks]

theorem answer {q} (h : s.MemOk) : (s.answer q).MemOk := by
  fun_cases State.answer <;> grind [State.MemOk, dropXlat, wcbAnswer, answerLane, mirrorAnswer, haul]

theorem passPacket {p} (h : s.MemOk) : (s.passPacket p).MemOk := by
  fun_cases State.passPacket <;> grind [State.MemOk, answer]

theorem reply {q kind line poison die} (h : s.MemOk) : (s.reply q kind line poison die).MemOk := by
  fun_cases State.reply <;> grind [passPacket, sendPkt]

theorem refuse {q} (h : s.MemOk) : (s.refuse q).MemOk := h.answer

theorem homeStore {r mask data cols poison} (h : s.MemOk) : MemROk (s.homeStore r mask data cols poison) := by
  fun_cases State.homeStore <;> grind [MemROk, homeMerge, homeLineW]

theorem serveAccess {r q} (h : s.MemOk) : MemROk (s.serveAccess r q) := by
  have h1 := h.haul (die := homeDie r.va) (p := q)
  unfold State.serveAccess
  dsimp only
  split
  · exact h1.homeStore.map fun _ => rfl
  · exact h1.homeLine.map fun _ => rfl
  · exact h1.performAtomic.map fun _ => rfl
  · exact h1.incFlag.map fun _ => rfl
  · trivial

theorem execRemoteRequest (h : s.MemOk) : OutOk (Machine.execRemoteRequest s) := by
  fun_cases Machine.execRemoteRequest <;> grind [OutOk, MemROk, reply, serveAccess, took]

theorem execRemoteTranslationRequest (h : s.MemOk) : OutOk (Machine.execRemoteTranslationRequest s) := by
  have ho {p : Prop} [Decidable p] {g} : (if p then { s.took with gal := g } else s.took : State).MemOk := by
    split <;> exact h
  unfold Machine.execRemoteTranslationRequest
  split
  · split
    · dsimp only
      split
      · exact h
      · exact ho.reply
    · exact h
  · exact h

theorem execMoved (h : s.MemOk) : OutOk (Machine.execMoved s) := by
  fun_cases Machine.execMoved <;> grind [OutOk, answer, took]

theorem execRemoteInvalidate (h : s.MemOk) : OutOk (Machine.execRemoteInvalidate s) := by
  have hf (p) : ((tkeys s.cores).foldl (fun s c => s.wcbSendAll c p) s).MemOk := foldl (fun _ _ ht => ht.wcbSendAll) _ h
  unfold Machine.execRemoteInvalidate
  split
  · split
    · dsimp only
      split
      · exact hf _
      split
      · exact hf _
      · exact reply (took (hf _))
    · exact h
  · exact h

theorem execWcbAck (h : s.MemOk) : OutOk (Machine.execWcbAck s) := by
  fun_cases Machine.execWcbAck <;> grind [OutOk, answer, took]

theorem execGbarArrival (h : s.MemOk) : OutOk (Machine.execGbarArrival s) := by
  fun_cases Machine.execGbarArrival
  · exact foldl (fun _ _ ht => ht.sendPkt) _ (s := { s.took with gal := _ }) h
  · exact h
  · exact h

theorem execGbarCompletion (h : s.MemOk) : OutOk (Machine.execGbarCompletion s) := by
  fun_cases Machine.execGbarCompletion <;> exact h

theorem execNormTotalReceive (h : s.MemOk) : OutOk (Machine.execNormTotalReceive s) := by
  have hf {l : List Nat} {f : State → Nat → Packet} {k g} : (l.foldl (fun (s : State) d => s.sendPkt k (f s d)) { s.took with gal := g }).MemOk :=
    foldl (fun _ _ ht => ht.sendPkt) _ h
  unfold Machine.execNormTotalReceive
  split
  · split
    · dsimp only
      split
      · exact h.took.sendPkt
      split
      · exact h
      · exact hf
    · exact h
  · exact h

theorem execNormDeposit {answer} (h : s.MemOk) : OutOk (Machine.execNormDeposit answer s) := by
  fun_cases Machine.execNormDeposit <;> grind [OutOk, normDeposit, took, setCtx]

theorem execMirroredWrite (h : s.MemOk) : OutOk (Machine.execMirroredWrite s) := by
  fun_cases Machine.execMirroredWrite <;> grind [OutOk, MemROk, reply, homeStore, took, haul]

theorem execMirrorAck (h : s.MemOk) : OutOk (Machine.execMirrorAck s) := by
  fun_cases Machine.execMirrorAck <;> grind [OutOk, answer, took]

theorem chargeGal {ctx} (h : s.MemOk) : (s.chargeGal ctx).MemOk := by
  fun_cases State.chargeGal <;> exact h

theorem resend {n h'} (h : s.MemOk) : (s.resend n h').MemOk := by
  fun_cases State.resend <;> grind [State.MemOk, chargeGal]

theorem sendNew {n port via o x} (h : s.MemOk) : (s.sendNew n port via o x).MemOk := MemOk.chargeGal h.haul

theorem placePackets {n rest k} (h : s.MemOk) : (s.placePackets n rest k).MemOk := by
  fun_induction State.placePackets <;> grind [State.MemOk, sendNew]

theorem emptyFrames {n} (h : s.MemOk) : (s.emptyFrames n).MemOk := by
  refine foldl (fun t r ht => ?_) _ h
  split
  · exact ht
  · exact ht

theorem execGalleryStep (h : s.MemOk) : OutOk (Machine.execGalleryStep s) := by
  have hs {p : Prop} [Decidable p] {g} : (if p then { s with gal := g } else s : State).MemOk := by
    split <;> exact h
  unfold Machine.execGalleryStep
  dsimp only
  split
  · exact h
  split
  · exact hs
  · exact emptyFrames (placePackets (foldl (fun _ _ ht => ht.resend) _ hs))

theorem execTimingMark {n ok} (h : s.MemOk) : OutOk (Machine.execTimingMark n ok s) := by
  fun_cases Machine.execTimingMark
  grind [OutOk, State.MemOk, softError]

theorem execAlignmentLoss {exceeded} (h : s.MemOk) : OutOk (Machine.execAlignmentLoss exceeded s) := by
  fun_cases Machine.execAlignmentLoss
  grind [OutOk, State.MemOk, softError]

theorem drainReorder {key rest} (h : s.MemOk) : (s.drainReorder key rest).MemOk := by
  fun_induction State.drainReorder <;> grind [State.MemOk, passPacket]

theorem ackPassed (h : s.MemOk) : s.ackPassed.MemOk := h

theorem acceptPacket {p} (h : s.MemOk) : (s.acceptPacket p).MemOk := by
  fun_cases State.acceptPacket <;> grind [State.MemOk, passPacket, drainReorder]

theorem endInbound {die x} (h : s.MemOk) : (s.endInbound die x).MemOk := MemOk.softError h

theorem acceptFrame {die f} (h : s.MemOk) : (s.acceptFrame die f).MemOk := by
  have hs {p : Prop} [Decidable p] {t : State} {die} (ht : t.MemOk) : (if p then t.softError die else t : State).MemOk := by
    split
    · exact ht.softError
    · exact ht
  have ha {l : List Packet} {t : State} {g} (ht : t.MemOk) : (l.foldl (fun (s : State) p => s.acceptPacket p) { t with gal := g }).MemOk :=
    foldl (fun _ _ ht => ht.acceptPacket) _ ht
  unfold State.acceptFrame
  dsimp only
  split
  · exact h
  split
  · split <;> exact h
  split
  · split
    · exact h.endInbound
    · exact h
  · exact ackPassed (ha (hs h))

theorem execFrameReceive {f} (h : s.MemOk) : OutOk (Machine.execFrameReceive f s) := by
  fun_cases Machine.execFrameReceive <;> grind [OutOk, State.MemOk, acceptFrame]

theorem refuseThose {mine} (h : s.MemOk) : (s.refuseThose mine).MemOk :=
  foldl (fun _ _ ht => ht.refuse) _ (s := { s with gal := _ }) h

theorem refuseAll {peer} (h : s.MemOk) : (s.refuseAll peer).MemOk := h.refuseThose

theorem endOutbound {peer number} (h : s.MemOk) : (s.endOutbound peer number).MemOk := by
  fun_cases State.endOutbound
  grind [State.MemOk, refuseThose, softError]

theorem execGcmResend {id} (h : s.MemOk) : OutOk (Machine.execGcmResend id s) := by
  fun_cases Machine.execGcmResend <;> grind [OutOk, State.MemOk, endOutbound]

theorem execSessionEstablish {peer number key} (h : s.MemOk) : OutOk (Machine.execSessionEstablish peer number key s) := by
  fun_cases Machine.execSessionEstablish <;> grind [OutOk, State.MemOk, refuseAll]

theorem execDeviceLost {dev} (h : s.MemOk) : OutOk (Machine.execDeviceLost dev s) := by
  unfold Machine.execDeviceLost
  dsimp only
  split
  · exact h
  · exact foldl (fun t c ht => foldl (fun _ _ hu => hu.wcbUpdate.armWriters) _ ht) _ (refuseAll (s := { s with gal := _ }) h)

/-! ### The host's side -/

theorem ringCheck (h : s.MemOk) : s.ringCheck.MemOk := by
  fun_cases State.ringCheck <;> exact h

theorem endCmd {reason} (h : s.MemOk) : (s.endCmd reason).MemOk :=
  ringCheck (raiseVector (s := { s with host := _, ring := _ }) (h.setHost (memWf_mwrite _ _ (memWf_mwrite _ _ h.host))))

theorem runCmd {code f} (h : s.MemOk) (hf : ∀ k c e, (f s k c e).MemOk) : OutOk (s.runCmd code f) := by
  unfold State.runCmd
  split
  · exact h
  next e _ =>
  dsimp only
  split
  · exact h.endCmd
  split
  · exact h
  split
  · exact h.endCmd
  split
  · exact h.endCmd
  have hd := hf (cmdCtx e) (s.ctx (cmdCtx e)) e
  split
  next e => exact endCmd (e ▸ hd :)
  · exact h.endCmd
  next e => exact (e ▸ hd :)

theorem execCrwpDoorbell {wp} (h : s.MemOk) : OutOk (Machine.execCrwpDoorbell wp s) := by
  fun_cases Machine.execCrwpDoorbell
  grind [OutOk, State.MemOk, ringCheck]

theorem execCrEnable {v} (h : s.MemOk) : OutOk (Machine.execCrEnable v s) := by
  fun_cases Machine.execCrEnable <;> grind [OutOk, State.MemOk, ringCheck]

theorem execRegisterWrite {off v} (h : s.MemOk) : OutOk (Machine.execRegisterWrite off v s) := by
  fun_cases Machine.execRegisterWrite <;> exact h

theorem execCtxCreate (h : s.MemOk) : OutOk (Machine.execCtxCreate s) :=
  h.runCmd fun k c e => by
    dsimp only
    split
    · trivial
    split
    · trivial
    split
    · trivial
    · exact h.setHost (memWf_mwriteL _ _ h.host)

theorem execCtxDestroy (h : s.MemOk) : OutOk (Machine.execCtxDestroy s) :=
  h.runCmd fun _ _ _ => by
    split
    · trivial
    · exact h

theorem invalidateUnits {hit} (h : s.MemOk) : (s.invalidateUnits hit).1.MemOk := by
  have hi {l : List (Nat × Nat)} {k : Nat} {f : State → Nat × Nat → Packet} {t : State} {n g} (ht : t.MemOk) :
      (l.foldl (fun (s : State) d => s.sendPkt k (f s d)) { t with nextId := n, gal := g }).MemOk :=
    foldl (fun _ _ hu => hu.sendPkt) _ ht
  fun_cases State.invalidateUnits
  · exact h
  · exact foldl (fun _ _ ht => hi ht) _ h

theorem writePte {ctx asid base level pa p} (h : s.MemOk) : (s.writePte ctx asid base level pa p).MemOk :=
  h.setHbm (p := s.memPoison) (memWf_mwriteL _ _ h.hbm)

theorem dropCode {asid base n} (h : s.MemOk) : (s.dropCode asid base n).MemOk := h

theorem dropPages {ctx rest} (h : s.MemOk) : MemROk (s.dropPages ctx rest) := by
  fun_induction State.dropPages <;> grind [MemROk, cinvLines, dropCode]

theorem keepFull {rev asid base} (h : s.MemOk) : (s.keepFull rev asid base).MemOk := h

theorem clearComp {p} (h : s.MemOk) : (s.clearComp p).MemOk := by
  fun_cases State.clearComp <;> exact h

theorem clearNew {old} (h : s.MemOk) : (s.clearNew old).MemOk :=
  foldl (fun _ _ ht => ht.clearComp) _ h

theorem readPage {old new n} (h : s.MemOk) : (s.readPage old new n).1.MemOk := by
  fun_induction State.readPage <;> grind [crossAll]

theorem writePage {x va l} (h : s.MemOk) : OptOk (s.writePage x va l) := by
  fun_induction State.writePage <;> grind [OptOk, setMemLine]

theorem copyPage {old new n} (h : s.MemOk) : OptOk (s.copyPage old new n) := h.readPage.clearComp.writePage

theorem writePinned {x rest} (h : s.MemOk) : OptOk (s.writePinned x rest) := by
  fun_induction State.writePinned <;> grind [OptOk, MemROk, deferred, crossAll, recallOwner, setMemLine, setLlc]

theorem execMap (h : s.MemOk) : OutOk (Machine.execMap s) :=
  h.runCmd fun k c e => by
    extract_lets va level p global asid span base leaf size x1 landed
    split
    · trivial
    split
    · trivial
    next pa old _ =>
    extract_lets oldLeaf rev x0 begins low
    clear_value rev low
    split
    · trivial
    split
    · trivial
    split
    · split
      · trivial
      split
      · trivial
      next s1 e1 =>
      have h1 : s1.MemOk := (e1 ▸ h.copyPage :)
      extract_lets s2 pins
      have h2 : s2.MemOk := h1.writePte
      clear_value s2
      split
      · trivial
      next s3 e3 => exact (e3 ▸ h2.writePinned :)
    split
    · trivial
    split
    · split
      next e1 => exact (e1 ▸ h.invalidateUnits :)
      next s1 e1 =>
        have h1 : s1.MemOk := (e1 ▸ h.invalidateUnits :)
        split
        · extract_lets s2 s3
          have h2 : s2.MemOk := h1.writePte
          exact h2
        split
        · exact h1
        next s2 _ e2 =>
          have h2 : s2.MemOk := (e2 ▸ h1.dropPages :)
          exact h2.writePte.keepFull.clearNew
    · exact h.writePte.keepFull.clearNew

theorem execReplay (h : s.MemOk) : OutOk (Machine.execReplay s) :=
  h.runCmd fun k c e => by
    dsimp only
    split
    · trivial
    split
    · exact h
    · exact h.setCtx

theorem execBudget (h : s.MemOk) : OutOk (Machine.execBudget s) :=
  h.runCmd fun k c e => by
    dsimp only
    split
    · trivial
    · exact h.setCtx

theorem execGparam (h : s.MemOk) : OutOk (Machine.execGparam s) :=
  h.runCmd fun k c e => by
    dsimp only
    split
    · trivial
    split <;> split
    · exact h.invalidateUnits
    · exact h.invalidateUnits.setCtx
    · exact h
    · exact h.setCtx

theorem execArm (h : s.MemOk) : OutOk (Machine.execArm s) :=
  h.runCmd fun k c e => by
    dsimp only
    split
    · trivial
    split
    · trivial
    split
    · exact h
    · trivial
    next s1 l e1 =>
    have h1 : s1.MemOk := (e1 ▸ h.homeLine :)
    split
    · trivial
    split
    · trivial
    split
    · exact h
    · exact h1.fresh.homeWrite

theorem execOvfpool (h : s.MemOk) : OutOk (Machine.execOvfpool s) :=
  h.runCmd fun k c e => by
    dsimp only
    split
    · trivial
    split
    · trivial
    · exact h.setCtx

theorem hostSees {n x} (h : s.MemOk) : (s.hostSees n x).MemOk := h

theorem hostGets {die j n l poison} (h : s.MemOk) : (s.hostGets die j n l poison).MemOk := h.crossOne.hostSees

theorem hostAccess {pa j op n} (h : s.MemOk) : OptOk (s.hostAccess pa j op n) := by
  have hs {b : Bool} {t u : State} (ht : t.MemOk) (hu : u.MemOk) : (if b then t else u).MemOk := by
    split
    · exact ht
    · exact hu
  unfold State.hostAccess
  extract_lets dropped hold d l old s1 m
  have hd : dropped.MemOk := (hs h.hostSees h).softError
  have hh {t : State} (ht : t.MemOk) : (hold t).MemOk := by
    dsimp only [hold]
    split <;> exact ht
  have h1 : s1.MemOk := hh (hs h.hostGets h)
  clear_value dropped hold s1
  split
  · exact hd
  split
  · split
    · exact h1
    · exact h1.crossOne.setHbm (memWf_physWrite _ _ _ h1.crossOne.hbm)
  extract_lets va r d' refused
  split
  · exact hd
  split
  · trivial
  next s3 l' e =>
  have h3 : s3.MemOk := (e ▸ h.homeLineFor (r := r) :)
  extract_lets old' s2
  have h2 : s2.MemOk := hh (hs h3.hostGets h3)
  clear_value s2
  split
  · exact h2
  split
  · exact h2.softError
  split
  · trivial
  · exact h2.crossOne.homeWrite

theorem ownBytes {a f n} (h : s.MemOk) : MemROk (s.ownBytes a f n) := by
  fun_induction State.ownBytes with
  | case1 | case2 => exact h
  | case3 _ _ _ _ _ ih => exact (ih h).map fun _ => rfl
  | case4 => trivial
  | case5 s a f n r _ s1 l e _ _ _ ih => exact (ih (MemOk.crossOne (e ▸ h.homeLine :))).map fun _ => rfl

theorem ownWrite {f a l} (h : s.MemOk) : MemROk (s.ownWrite f a l) := by
  fun_induction State.ownWrite with
  | case1 | case2 => exact h
  | case3 _ _ _ _ _ _ ih => exact ih (h.setHost (memWf_mwrite _ _ h.host))
  | case4 => trivial
  | case5 _ _ _ _ _ _ _ _ _ e _ _ _ _ ih => exact ih (MemOk.homeWrite (MemOk.crossOne (e ▸ h.homeLine :)))

theorem execHostMemAccess {pa op} (h : s.MemOk) : OutOk (Machine.execHostMemAccess pa op s) := by
  unfold Machine.execHostMemAccess
  split
  · exact h
  split
  · have hw {l} := h.ownWrite (f := l.length) (a := pa) (l := l)
    split
    next e => exact ringCheck (e ▸ hw :)
    · exact h
  · have hr {n} := h.ownBytes (a := pa) (f := n) (n := n)
    split
    next e => exact (e ▸ hr :)
    · exact h
  · exact h
  · exact h
  · split
    · trivial
    · exact h.hostAccess.getD h

theorem execSidebandWindowAccess {pa op} (h : s.MemOk) : OutOk (Machine.execSidebandWindowAccess pa op s) := by
  unfold Machine.execSidebandWindowAccess
  dsimp only
  split
  · exact h
  split
  iterate 5 exact h
  split
  · trivial
  · exact h.hostAccess.getD h

theorem execSnoopResponse {x} (h : s.MemOk) : OutOk (Machine.execSnoopResponse x s) := by
  fun_cases Machine.execSnoopResponse <;> grind [OutOk, OptOk, State.MemOk, hostAccess]

theorem execBudgetPeriod (h : s.MemOk) : OutOk (Machine.execBudgetPeriod s) := by
  fun_cases Machine.execBudgetPeriod <;> grind [OutOk, setCtx]

theorem execHeatDecay (h : s.MemOk) : OutOk (Machine.execHeatDecay s) := by
  fun_cases Machine.execHeatDecay
  grind [OutOk, decayed]

/-! ### Samples, soft errors and the management plane -/

theorem sample {core k} (h : s.MemOk) : (s.sample core k).MemOk := by
  fun_cases State.sample <;> grind [writeSample, setCore]

theorem sampleAll (h : s.MemOk) : s.sampleAll.MemOk := by
  refine foldl (fun t core ht => ?_) _ h
  split
  · exact foldl (fun _ _ hu => hu.sample) _ ht
  · exact ht

theorem hitRegister {u ok g} (h : s.MemOk) : (s.hitRegister u ok g).MemOk := by
  fun_cases State.hitRegister <;> exact h

theorem llcError {die key l} (h : s.MemOk) : (s.llcError die key l).MemOk := by
  fun_cases State.llcError <;> grind [MemROk, deferred, recallOwner, cleanHome, setLlc, softError]

theorem execSoftError {site} (h : s.MemOk) : OutOk (Machine.execSoftError site s) := by
  fun_cases Machine.execSoftError <;> grind [OutOk, MemROk, State.MemOk, team_spad, deferred, setL1, hitRegister, setTeam, writeBack, softError, llcError]

theorem execGateHold {held} (h : s.MemOk) : OutOk (Machine.execGateHold held s) := by
  fun_cases Machine.execGateHold
  grind [OutOk, State.MemOk]

theorem extendMr {n data} (h : s.MemOk) : (s.extendMr n data).MemOk := h

theorem powered (h : s.MemOk) : s.powered.MemOk :=
  ⟨reset.hbm, h.cxl, h.host, reset.spad⟩

theorem execPowerOn {p} (h : s.MemOk) : OutOk (Machine.execPowerOn p s) := by
  fun_cases Machine.execPowerOn <;> grind [OutOk, State.MemOk, powered, extendMr]

theorem execP1Enter {die temp watts} (h : s.MemOk) : OutOk (Machine.execP1Enter die temp watts s) := by
  fun_cases Machine.execP1Enter
  grind [OutOk, State.MemOk]

theorem execP1Exit {die temp watts} (h : s.MemOk) : OutOk (Machine.execP1Exit die temp watts s) := by
  fun_cases Machine.execP1Exit
  grind [OutOk, State.MemOk]

theorem execThermalShutdown {temp} (h : s.MemOk) : OutOk (Machine.execThermalShutdown temp s) := by
  fun_cases Machine.execThermalShutdown
  grind [OutOk, State.MemOk, reset, powered]

theorem execPowerStateSelect {p} (h : s.MemOk) : OutOk (Machine.execPowerStateSelect p s) := by
  fun_cases Machine.execPowerStateSelect <;> exact h

theorem execAttestationReport {nonce} (h : s.MemOk) : OutOk (Machine.execAttestationReport nonce s) := by
  fun_cases Machine.execAttestationReport <;> exact h

theorem execMrExtend {n data} (h : s.MemOk) : OutOk (Machine.execMrExtend n data s) := by
  fun_cases Machine.execMrExtend
  grind [OutOk, extendMr]

/-! ### The next move -/

theorem elapse {n} (h : s.MemOk) : (s.elapse n).MemOk := h

theorem passEach {n} (h : s.MemOk) : (s.passEach n).MemOk := by
  fun_induction State.passEach <;> grind [elapse, sampleAll]

theorem pass {n} (h : s.MemOk) : (s.pass n).MemOk := by
  fun_cases State.pass <;> grind [elapse, passEach]

theorem wordMove {u} (h : s.MemOk) : (s.wordMove u).MemOk := by
  fun_cases State.wordMove <;> grind [Move.MemOk, State.MemOk, setGroup, kill, traceRecord, trap]

theorem issueMove {core k} (h : s.MemOk) : (s.issueMove core k).MemOk := by
  fun_cases State.issueMove <;> grind [Move.MemOk, State.MemOk, wordMove, runs]

theorem nextMove {can} (h : s.MemOk) : (State.nextMove can s).MemOk := by
  fun_cases State.nextMove <;> grind [Move.MemOk, State.MemOk, pass, issueMove]

/-! ### The step -/

theorem exec {i} (h : s.MemOk) : OutOk (Machine.exec i s) := by
  cases i <;> dsimp only [Machine.exec]
  case sget | trap | xmaxe | xmov | xset | vlane | vshfl | vvote | vreduce | tcqry | tokclr | rwait | gslot | srd | heatctlWrite | pcbrkWrite |
    sampctlWrite | dbgrd => exact h.issue fun _ _ h => h.whenActive h
  case vfadd | vfsub | vfmul | vfma | vfmin | vfmax | vfrnd | vfrcp | vfrsq | vfsqrt | vfexp2 | vflog2 | vftrig | vftanh => exact h.fpV
  case sadd | ssub | smul | smulhi | sand | sor | sxor | sshl | sshr | ssar | smin | smax | scmp => exact h.scalarBin
  case saddImm | ssubImm | smulImm | sandImm | sorImm | sxorImm | sshlImm | sshrImm | ssarImm | sminImm | smaxImm | scmpImm => exact h.scalarBinI
  case vld | vst | sld | sst | vatom | vfatom | satom | vred | ldrsv | stcnd | lpin | lunpin => exact h.issue fun _ _ h => h.issueGlobal
  case nop | bra | widen | narrow | wait | yield | tzero | czero | cscale | crq => exact h.issue fun _ _ h => h
  case vadd | vsub | vmul | vmad | vmin | vmax | vabs | vshl | vshr | vsar => exact h.intV
  case vaddImm | vsubImm | vmulImm | vminImm | vmaxImm | vshlImm | vshrImm | vsarImm => exact h.intVI
  case vand | vor | vxor | vnot | vbfn3 | vbfx | vpopc | vclz => exact h.bitV
  case vbfi | vsel | vmov | vmovi | vbcast | vmatch | vscan => exact h.vecOp
  case smov | smovi | ssel | spopc | sclz | sbfx => exact h.scalarOp
  case vfaddImm | vfsubImm | vfmulImm | vfminImm | vfmaxImm => exact h.fpVI
  case vcmp | vcmpImm | vfcmp | vfcmpImm => exact h.cmpOp
  case tlds | tsts | clds | csts => exact h.issue fun _ _ h => h.issueMoveEff
  case vlds | vsts | vatoms => exact h.issue fun _ _ h => h.issueSpad
  case vandImm | vorImm | vxorImm => exact h.bitVI
  case mma | mmas | mmad => exact h.issue fun _ _ h => h.scaledProduct
  case mmaf | mmai => exact h.issue fun _ _ h => h.startProduct
  case rpush | rrel => exact h.issue fun _ _ h => h.whenActive h.deferRing
  case call => exact h.issue fun _ _ h => h.pushStack
  case wcbAgeExpiry => exact h.wcbSendAll
  case gflush => exact h.issue fun _ _ h => h.whenActive h.issueGallery
  case ringstWrite => exact h.issue fun _ _ h => h.whenActive h.setRing
  case endToEndAck => exact h
  case pcSample => exact h.sample
  case brd => exact h.execBrd
  case bri => exact h.execBri
  case bar => exact h.execBar
  case barrive => exact h.execBarrive
  case exit => exact h.execExit
  case regroup => exact h.execRegroup
  case vcvt => exact h.execVcvt
  case vpack => exact h.execVpack
  case vunpack => exact h.execVunpack
  case vrq => exact h.execVrq
  case vrand => exact h.execVrand
  case vldx => exact h.execVldx
  case vstx => exact h.execVstx
  case fence => exact h.execFence
  case pref => exact h.execPref
  case drain => exact h.execDrain
  case presq => exact h.execPresq
  case stash => exact h.execStash
  case spjoin => exact h.execSpjoin
  case tshape => exact h.execTshape
  case tscl => exact h.execTscl
  case tmov => exact h.execTmov
  case ctov => exact h.execCtov
  case vtoc => exact h.execVtoc
  case tcopy => exact h.execTcopy
  case tcopys => exact h.execTcopys
  case rpop => exact h.execRpop
  case gcopy => exact h.execGcopy
  case gsig => exact h.execGsig
  case gbar => exact h.execGbar
  case nrmadd => exact h.execNrmadd
  case nrmrd => exact h.execNrmrd
  case mirror => exact h.execMirror
  case swr => exact h.execSwr
  case tret => exact h.execTret
  case ctxsv => exact h.execCtxsv
  case ctxld => exact h.execCtxld
  case tlbinv => exact h.execTlbinv
  case cinv => exact h.execCinv
  case heatrd => exact h.execHeatrd
  case dbgwr => exact h.execDbgwr
  case qpost => exact h.execQpost
  case loadDataReturn => exact h.execLoadDataReturn
  case storePerformed => exact h.execStorePerformed
  case tileMoveComplete => exact h.execTileMoveComplete
  case laneFault => exact h.execLaneFault
  case accessViolation => exact h.execAccessViolation
  case teamSave => exact h.execTeamSave
  case releasePull => exact h.execReleasePull
  case pullAck => exact h.execPullAck
  case homeRequest => exact h.execHomeRequest
  case directoryInvalidate => exact h.execDirectoryInvalidate
  case l1WriteBack => exact h.execL1WriteBack
  case homeAtomic => exact h.execHomeAtomic
  case migrateWaitTimeout => exact h.execMigrateWaitTimeout
  case normDeposit => exact h.execNormDeposit
  case timingMark => exact h.execTimingMark
  case alignmentLoss => exact h.execAlignmentLoss
  case deviceLost => exact h.execDeviceLost
  case frameReceive => exact h.execFrameReceive
  case gcmResend => exact h.execGcmResend
  case sessionEstablish => exact h.execSessionEstablish
  case hostMemAccess => exact h.execHostMemAccess
  case sidebandWindowAccess => exact h.execSidebandWindowAccess
  case snoopResponse => exact h.execSnoopResponse
  case crwpDoorbell => exact h.execCrwpDoorbell
  case crEnable => exact h.execCrEnable
  case registerWrite => exact h.execRegisterWrite
  case barstWrite => exact h.execBarstWrite
  case normboxWrite => exact h.execNormboxWrite
  case gateHold => exact h.execGateHold
  case powerOn => exact h.execPowerOn
  case p1Enter => exact h.execP1Enter
  case p1Exit => exact h.execP1Exit
  case thermalShutdown => exact h.execThermalShutdown
  case powerStateSelect => exact h.execPowerStateSelect
  case attestationReport => exact h.execAttestationReport
  case mrExtend => exact h.execMrExtend
  case softError => exact h.execSoftError
  case ret => exact h.execRet
  case join => exact h.execJoin
  case spleave => exact h.execSpleave
  case errclr => exact h.execErrclr
  case icinv => exact h.execIcinv
  case clauseBegin => exact h.execClauseBegin
  case pendingEnter => exact h.execPendingEnter
  case forcedSwap => exact h.execForcedSwap
  case pathSwitch => exact h.execPathSwitch
  case faultRecordEnqueue => exact h.execFaultRecordEnqueue
  case absentLineReissue => exact h.execAbsentLineReissue
  case regroupExchange => exact h.execRegroupExchange
  case groupRetire => exact h.execGroupRetire
  case gridEnd => exact h.execGridEnd
  case teamPlacement => exact h.execTeamPlacement
  case preemptPoint => exact h.execPreemptPoint
  case teamLeaveCore => exact h.execTeamLeaveCore
  case resumeRestore => exact h.execResumeRestore
  case wcbAck => exact h.execWcbAck
  case remoteRequest => exact h.execRemoteRequest
  case remoteTranslationRequest => exact h.execRemoteTranslationRequest
  case moved => exact h.execMoved
  case remoteInvalidate => exact h.execRemoteInvalidate
  case engineSlotGrant => exact h.execEngineSlotGrant
  case recordReadComplete => exact h.execRecordReadComplete
  case copyWriteLand => exact h.execCopyWriteLand
  case engineOpFault => exact h.execEngineOpFault
  case engineOpComplete => exact h.execEngineOpComplete
  case ringOpEffect => exact h.execRingOpEffect
  case rwaitRelease => exact h.execRwaitRelease
  case matrixChunkComplete => exact h.execMatrixChunkComplete
  case normTotalReceive => exact h.execNormTotalReceive
  case gbarArrival => exact h.execGbarArrival
  case gbarCompletion => exact h.execGbarCompletion
  case mirroredWrite => exact h.execMirroredWrite
  case mirrorAck => exact h.execMirrorAck
  case galleryStep => exact h.execGalleryStep
  case ctxCreate => exact h.execCtxCreate
  case ctxDestroy => exact h.execCtxDestroy
  case map => exact h.execMap
  case replay => exact h.execReplay
  case budget => exact h.execBudget
  case gparam => exact h.execGparam
  case arm => exact h.execArm
  case ovfpool => exact h.execOvfpool
  case budgetPeriod => exact h.execBudgetPeriod
  case heatDecay => exact h.execHeatDecay

end State.MemOk

/-- Settles O7: `nextMove` keeps the form and hands an instruction or an event to `exec`, which keeps it. -/
theorem stepKeepsMemory : Obligations.StepKeepsMemory := by
  unfold Obligations.StepKeepsMemory
  intro s t hs ht
  rw [State.memOk_iff] at hs ⊢
  have hm := hs.nextMove (can := canRun s)
  unfold step at ht
  split at ht
  next e => exact Host.Outcome.next.inj ht ▸ (e ▸ hm :)
  next e =>
    have h1 : OutOk (.next t) := ht ▸ State.MemOk.exec (e ▸ hm :)
    exact h1

end Sys2Proof.Machine
end

section
/-! O49, the dispatcher's action for a single waiting task (R20, R21, R24, R320). Starting the groups of a team is one step per slot, `State.startSlot`; what a step changes is said once, and what all the steps leave behind follows by induction over the slots. -/

namespace Sys2Proof.Machine

/-! ### The fields of a launch record and the coordinates of a team (R19, R24) -/

theorem natField_lt (x lo len : Nat) : natField x lo len < 2 ^ len := Nat.mod_lt _ (Nat.two_pow_pos len)

theorem lrecEntry_lt (l : BitVec 512) : lrecEntry l < 2 ^ 57 := natField_lt ..
theorem lrecArgs_lt (l : BitVec 512) : lrecArgs l < 2 ^ 64 := natField_lt ..

/-- A gid that has a role is one of the team's slots (R17). -/
theorem slotRole_lt {l : BitVec 512} {n : Nat} {r : Role} (h : slotRole l n = some r) : n < lrecSlots l := by
  unfold slotRole at h
  simp only [lrecSlots] at h ⊢
  grind

/-- The coordinates of a team are the digits of its linear index (R24). -/
theorem coords_linear (i x y : Nat) : i % x + x * (i / x % y + y * (i / (x * y))) = i := by
  rw [← Nat.div_div_eq_div_mul, Nat.mod_add_div, Nat.mod_add_div]

/-! ### A group as it starts (R24, R48) -/

section
variable (l : BitVec 512) (team n : Nat) (r : Role)

theorem freshGroup_pc : (freshGroup l team n r).pc.toNat = lrecEntry l := by
  simpa [freshGroup] using Nat.mod_eq_of_lt (lrecEntry_lt l)

theorem freshGroup_args : ((freshGroup l team n r).rs 2 ++ (freshGroup l team n r).rs 1 : W64).toNat = lrecArgs l := by
  have h1 : (freshGroup l team n r).rs 1 = BitVec.ofNat 32 (lrecArgs l) := rfl
  have h2 : (freshGroup l team n r).rs 2 = BitVec.ofNat 32 (lrecArgs l / 2 ^ 32) := rfl
  have hl := lrecArgs_lt l
  rw [h1, h2, BitVec.toNat_append, BitVec.toNat_ofNat, BitVec.toNat_ofNat, ← Nat.shiftLeft_add_eq_or_of_lt (Nat.mod_lt _ (by decide)), Nat.shiftLeft_eq]
  omega

theorem freshGroup_rs_eq_zero {q : Nat} (hq : 2 < q) : (freshGroup l team n r).rs q = 0 := by
  have h1 : ¬ 1 = q := by omega
  have h2 : ¬ 2 = q := by omega
  simp [Group.rs, Group.inBank, freshGroup, tgetD, tget, h1, h2, show q ≠ 0 by omega]

theorem freshGroup_tids {j : Nat} (hj : j < 32) : lane (freshGroup l team n r).tids j = BitVec.ofNat 32 (32 * n + j) := by
  have hin : inSet 0xFFFFFFFF j = true := by
    revert j; decide
  exact (lane_mapLanes _ _ _ _ hj).trans (if_pos hin)

end

/-! ### Starting the group of one slot -/

/-- `State.startGroups` for one slot that has a role. -/
def State.startSlot (s : State) (l : BitVec 512) (team gid : Nat) (r : Role) : State :=
  (s.fresh.2.setTeam team { s.team team with groups := tset (s.team team).groups gid s.nextId }).seatGroup s.nextId (freshGroup l team gid r)

/-- The group of a slot once it has its place among its scheduler's groups (R25). -/
def seated (g : Group) (active : Bool) (age cycle : Nat) : Group := { g with active := active, age := age, mayIssue := cycle, readySince := none }

section
variable (s : State) (l : BitVec 512) (team gid : Nat) (rest : List Nat)

theorem State.startGroups_cons_none (h : slotRole l gid = none) : s.startGroups l team (gid :: rest) = s.startGroups l team rest := by
  simp [State.startGroups, h]

theorem State.startGroups_cons_some {r : Role} (h : slotRole l gid = some r) :
    s.startGroups l team (gid :: rest) = (s.startSlot l team gid r).startGroups l team rest := by
  simp only [State.startGroups, h]
  rfl

variable (r : Role)

@[simp] theorem State.startSlot_team :
    (s.startSlot l team gid r).team team = { s.team team with groups := tset (s.team team).groups gid s.nextId } :=
  State.team_setTeam_self ..

theorem State.startSlot_group_new : ∃ b, (s.startSlot l team gid r).group s.nextId = seated (freshGroup l team gid r) b (s.nextId + 1) s.cycle :=
  ⟨_, State.group_setGroup_self ..⟩

theorem State.startSlot_group_ne {u : Nat} (h : s.nextId ≠ u) : (s.startSlot l team gid r).group u = s.group u :=
  State.group_setGroup_ne _ _ h

end

/-! ### Starting the groups of a team -/

section
variable (s : State) (l : BitVec 512) (team : Nat) (gids : List Nat)

/-- What the start of every listed slot's group keeps, starting them all keeps. -/
theorem State.startGroups_induct {P : State → Prop} (h : P s) (hstep : ∀ t gid r, gid ∈ gids → P t → P (t.startSlot l team gid r)) :
    P (s.startGroups l team gids) := by
  induction gids generalizing s with
  | nil => exact h
  | cons gid rest ih =>
    have hrest : ∀ t a r, a ∈ rest → P t → P (t.startSlot l team a r) := fun t a r ha => hstep t a r (List.mem_cons_of_mem _ ha)
    cases hr : slotRole l gid with
    | none => exact State.startGroups_cons_none s l team gid rest hr ▸ ih s h hrest
    | some r => exact State.startGroups_cons_some s l team gid rest hr ▸ ih _ (hstep s gid r List.mem_cons_self h) hrest

/-- Starting groups changes no core, task or device memory. -/
theorem State.startGroups_frame :
    (s.startGroups l team gids).cores = s.cores ∧ (s.startGroups l team gids).tasks = s.tasks ∧ (s.startGroups l team gids).hbm = s.hbm :=
  State.startGroups_induct (P := fun t => t.cores = s.cores ∧ t.tasks = s.tasks ∧ t.hbm = s.hbm) s l team gids ⟨rfl, rfl, rfl⟩ fun _ _ _ _ h => h

@[simp] theorem State.startGroups_core (c : Nat) : (s.startGroups l team gids).core c = s.core c := by
  simp [State.core, s.startGroups_frame l team gids]
@[simp] theorem State.startGroups_task (k : Nat) : (s.startGroups l team gids).task k = s.task k := by
  simp [State.task, s.startGroups_frame l team gids]
@[simp] theorem State.startGroups_hbm : (s.startGroups l team gids).hbm = s.hbm := by
  simp [s.startGroups_frame l team gids]

/-- Groups of earlier names stay as they are. -/
theorem State.startGroups_group_old {u : Nat} (h : u < s.nextId) : (s.startGroups l team gids).group u = s.group u := by
  have hk : u < (s.startGroups l team gids).nextId ∧ (s.startGroups l team gids).group u = s.group u :=
    State.startGroups_induct (P := fun t => u < t.nextId ∧ t.group u = s.group u) s l team gids ⟨h, rfl⟩ fun t gid r _ ⟨hu, ht⟩ =>
      ⟨Nat.lt_add_right 2 hu, (t.startSlot_group_ne l team gid r hu.ne').trans ht⟩
  exact hk.2

/-- The team keeps all but its list of groups. -/
theorem State.startGroups_team : ∃ gs, (s.startGroups l team gids).team team = { s.team team with groups := gs } :=
  State.startGroups_induct (P := fun t => ∃ gs, t.team team = { s.team team with groups := gs }) s l team gids ⟨_, rfl⟩ fun t gid r _ ⟨gs, ht⟩ =>
    ⟨tset gs gid t.nextId, by rw [State.startSlot_team, ht]⟩

/-- A slot that is not among the started ones keeps its group. -/
theorem State.startGroups_slot_ne {gid : Nat} (h : gid ∉ gids) :
    tget ((s.startGroups l team gids).team team).groups gid = tget (s.team team).groups gid :=
  State.startGroups_induct (P := fun t => tget (t.team team).groups gid = tget (s.team team).groups gid) s l team gids rfl fun t a r ha ht => by
    rw [State.startSlot_team, tget_tset_ne _ _ (ne_of_mem_of_not_mem ha h), ht]

/-- Each started slot that has a role gets a group of a new name, fresh but for its place among its scheduler's groups (R24, R25). -/
theorem State.startGroups_slot (hn : gids.Nodup) {gid : Nat} {r : Role} (hg : gid ∈ gids) (hr : slotRole l gid = some r) :
    ∃ u, s.nextId ≤ u ∧ tget ((s.startGroups l team gids).team team).groups gid = some u ∧
      ∃ b age cycle, (s.startGroups l team gids).group u = seated (freshGroup l team gid r) b age cycle := by
  induction gids generalizing s with
  | nil => cases hg
  | cons a rest ih =>
    obtain ⟨ha, hrest⟩ := List.nodup_cons.1 hn
    by_cases h : gid = a
    · subst h
      rw [State.startGroups_cons_some _ _ _ _ _ hr]
      obtain ⟨b, hb⟩ := s.startSlot_group_new l team gid r
      refine ⟨s.nextId, le_rfl, ?_, b, s.nextId + 1, s.cycle, ?_⟩
      · rw [State.startGroups_slot_ne _ _ _ _ ha, State.startSlot_team]
        exact tget_tset_self ..
      · rw [State.startGroups_group_old _ _ _ _ (Nat.lt_add_of_pos_right (by decide : 0 < 2))]
        exact hb
    · have hg : gid ∈ rest := (List.mem_cons.1 hg).resolve_left h
      cases hra : slotRole l a with
      | none => simpa only [State.startGroups_cons_none _ _ _ _ _ hra] using ih s hrest hg
      | some q =>
        rw [State.startGroups_cons_some _ _ _ _ _ hra]
        obtain ⟨u, hu, hslot⟩ := ih (s.startSlot l team a q) hrest hg
        exact ⟨u, (Nat.le_add_right _ 2).trans hu, hslot⟩

end

/-! ### Starting a team -/

/-- A team of linear index `idx` with its coordinates, before any of its groups has started (R17, R24). -/
def State.newTeam (s : State) (task idx core : Nat) : Team :=
  let tk := s.task task
  let l := tk.lrec
  { ctx := tk.ctx, task := task, core := core, linear := idx, x := idx % lrecX l, y := idx / lrecX l % lrecY l, z := idx / (lrecX l * lrecY l),
    nvec := lrecV l, nfeed := lrecF l, nmtx := lrecM l, spare := lrecP l, live := true, rings := s.startRings tk.ctx (lrecEntry l), placed := s.nextId }

/-- `State.startTeam` before the groups start. -/
def State.seatTeam (s : State) (task idx core : Nat) : State :=
  ((s.fresh.2.partition core (lrecPoolw (s.task task).lrec)).setTeam s.nextId (s.newTeam task idx core)).setTask task
    { s.task task with placed := (s.task task).placed + 1 }

section
variable (s : State) (task idx core : Nat)

theorem State.startTeam_eq :
    s.startTeam task idx core = (s.seatTeam task idx core).startGroups (s.task task).lrec s.nextId (List.range (lrecSlots (s.task task).lrec)) := rfl

@[simp] theorem State.startTeam_poolw : ((s.startTeam task idx core).core core).poolw = lrecPoolw (s.task task).lrec := by
  rw [State.startTeam_eq, State.startGroups_core]
  exact congrArg Core.poolw (State.core_setCore_self ..)

@[simp] theorem State.startTeam_placed : ((s.startTeam task idx core).task task).placed = (s.task task).placed + 1 := by
  rw [State.startTeam_eq, State.startGroups_task, State.seatTeam, State.task_setTask, if_pos rfl]

@[simp] theorem State.startTeam_hbm : (s.startTeam task idx core).hbm = s.hbm := by
  rw [State.startTeam_eq, State.startGroups_hbm]
  rfl

theorem State.startTeam_team : ∃ gs, (s.startTeam task idx core).team s.nextId = { s.newTeam task idx core with groups := gs } := by
  have ht : (s.seatTeam task idx core).team s.nextId = s.newTeam task idx core := State.team_setTeam_self ..
  rw [State.startTeam_eq, ← ht]
  exact State.startGroups_team ..

/-- Every slot of the new team that has a role has a fresh group (R24). -/
theorem State.startTeam_slot {n : Nat} {r : Role} (hr : slotRole (s.task task).lrec n = some r) :
    ∃ u, s.nextId < u ∧ tget ((s.startTeam task idx core).team s.nextId).groups n = some u ∧
      ∃ b age cycle, (s.startTeam task idx core).group u = seated (freshGroup (s.task task).lrec s.nextId n r) b age cycle :=
  (s.seatTeam task idx core).startGroups_slot _ s.nextId _ List.nodup_range (List.mem_range.2 (slotRole_lt hr)) hr

end

/-! ### The dispatcher's action (R20, R21, R320, R321) -/

/-- Placing a team for a task releases the cores held for it (R21). -/
def State.releaseHeld (s : State) (task : Nat) : State :=
  { s with cores := s.cores.map fun p => (p.1, if p.2.heldFor == some task then { p.2 with heldFor := none } else p.2) }

section
variable {s : State} {k : Nat}

/-- With one task waiting and the gates not held, TEAM_PLACEMENT serves that task. -/
theorem execTeamPlacement_single (hw : s.waitingTasks = [k]) (hg : s.plat.gates = false) (hp : s.plat.pstate ≠ 3) :
    execTeamPlacement s = .next ((s.serve k).getD s) := by
  have ho : s.serviceOrder [k].length [k] = [k] := rfl
  simp only [execTeamPlacement, hg, hp, hw, ho]
  cases hs : s.serve k <;> simp [hs]

theorem State.serve_unchecked_accepted (hc : (s.task k).checked = false) (hr : refusal (s.task k).lrec (s.ctx (s.task k).ctx) = 0) :
    s.serve k = some (s.setTask k { s.task k with checked := true }) := by
  simp [State.serve, hc, hr]

theorem State.serve_unchecked_refused (hc : (s.task k).checked = false) (hr : refusal (s.task k).lrec (s.ctx (s.task k).ctx) ≠ 0) :
    s.serve k =
      ((s.setTask k { s.task k with checked := true, refused := true }).setCtx (s.task k).ctx
        ((s.ctx (s.task k).ctx).recordAt s.cycle 256 0 0 0x01 (s.task k).tcb)).tcbState k 4 (refusal (s.task k).lrec (s.ctx (s.task k).ctx)) := by
  simp only [State.serve, hc, Bool.not_false, if_true]
  rfl

/-- An unshared grid with no saved team places its next team, and that team alone (R21). -/
theorem State.nextTeams_unshared (hl : lrecCores (s.task k).lrec = false) (hs : (s.task k).saved = []) (hn : (s.task k).placed < lrecTeams (s.task k).lrec) :
    s.nextTeams k = [(none, (s.task k).placed)] := by
  simp [State.nextTeams, hl, hs, hn, firstBy]

theorem State.serve_next_team {c : Nat} (hc : (s.task k).checked = true) (hl : lrecCores (s.task k).lrec = false) (hs : (s.task k).saved = [])
    (h0 : (s.task k).placed ≠ 0) (hn : (s.task k).placed < lrecTeams (s.task k).lrec) (hp : s.placesFor k [(none, (s.task k).placed)] [] = some [c]) :
    s.serve k = some ((s.releaseHeld k).startTeam k (s.task k).placed c) := by
  have h1 : ((s.task k).placed == 0) = false := beq_false_of_ne h0
  simp only [State.serve, hc, State.nextTeams_unshared hl hs hn, hp, State.placeTeams, h1]
  rfl

end

/-- Settles O49: the dispatcher serves the one waiting task, whose record it checks or refuses, or whose next team `State.startTeam` places. -/
theorem teamPlacement : Obligations.TeamPlacement := by
  unfold Obligations.TeamPlacement
  intro s k tk l hw hg hp
  have he : exec .teamPlacement s = .next ((s.serve k).getD s) := execTeamPlacement_single hw hg hp
  rw [he]
  refine ⟨fun hc hr => ?_, fun hc hr s1 h1 => ?_, fun c hc hl hs h0 hn hp => ?_⟩
  · rw [State.serve_unchecked_accepted hc hr]
    rfl
  · rw [State.serve_unchecked_refused hc hr, h1]
    rfl
  · rw [State.serve_next_team hc hl hs h0 hn hp]
    obtain ⟨gs, hteam⟩ : ∃ gs, ((s.releaseHeld k).startTeam k tk.placed c).team s.nextId = { s.newTeam k tk.placed c with groups := gs } :=
      State.startTeam_team ..
    have hxy : 0 < lrecX l * lrecY l := Nat.pos_of_mul_pos_right (Nat.zero_lt_of_lt hn)
    refine ⟨_, rfl, State.startTeam_poolw .., State.startTeam_placed .., State.startTeam_hbm .., ?_⟩
    rw [Option.getD_some, hteam]
    refine ⟨rfl, rfl, rfl, rfl, rfl, rfl, coords_linear .., Nat.mod_lt _ (Nat.pos_of_mul_pos_right hxy), Nat.mod_lt _ (Nat.pos_of_mul_pos_left hxy),
      Nat.div_lt_of_lt_mul hn, fun n r hr => ?_⟩
    obtain ⟨u, hu, ht, b, age, cycle, hgroup⟩ := State.startTeam_slot (s.releaseHeld k) k tk.placed c hr
    refine ⟨u, hu, (congrArg (fun y : Team => tget y.groups n) hteam).symm.trans ht, ?_⟩
    rw [hgroup]
    exact ⟨rfl, rfl, rfl, rfl, rfl, rfl, rfl, freshGroup_pc l s.nextId n r, rfl, rfl, rfl, freshGroup_args l s.nextId n r,
      fun j hj => freshGroup_tids l s.nextId n r hj, fun _ => rfl, fun q hq _ => freshGroup_rs_eq_zero l s.nextId n r hq⟩

end Sys2Proof.Machine
end

section
/-! O8, the machine after reset (R336, R343). O59, the management plane, samples and soft errors (R13, R15, R332, R336 to R340): each function of Machine/Platform is said once, case by case, and the statement is assembled from these. -/

namespace Sys2Proof.Machine

/-! ### Right after reset -/

theorem unwritten_of_lt {side a : Nat} (h : a < side) : unwritten side a = 0 := if_pos h

theorem unwritten_of_le {side a : Nat} (h : side ≤ a) : unwritten side a = 0x7F := if_neg (Nat.not_lt.2 h)

/-- Settles O8: the memories are empty, so every byte reads as one that was never written. -/
theorem resetState : Obligations.ResetState := by
  unfold Obligations.ResetState
  exact ⟨(State.memOk_iff _).2 State.MemOk.reset, fun _ h => unwritten_of_lt h, fun _ h => unwritten_of_le h, rfl, rfl, rfl, rfl, rfl, rfl⟩

/-! ### Gates and power states (R13, R337) -/

section
variable (s : State)

theorem execGateHold_hold : execGateHold true s = .next { s with plat := { s.plat with gates := true } } := rfl

theorem execGateHold_release (h : s.plat.step = 7) : execGateHold false s = .next { s with plat := { s.plat with gates := false } } := by
  simp [execGateHold, h]

theorem execGateHold_early (h : s.plat.step ≠ 7) : execGateHold false s = .next s := by
  simp [execGateHold, h]

theorem execP1Enter_hot {die temp watts : Nat} (hd : die < 4) (h : 100 ≤ temp ∨ 4800 < watts) :
    execP1Enter die temp watts s = .next { s with plat := { s.plat with p1 := ninsert s.plat.p1 die } } := by
  simp [execP1Enter, hd, h]

theorem execP1Enter_cool {die temp watts : Nat} (ht : temp < 100) (hw : watts ≤ 4800) : execP1Enter die temp watts s = .next s := by
  simp [execP1Enter, ht, hw]

theorem execP1Exit_cool {die temp watts : Nat} (ht : temp < 95) (hw : watts < 4600) :
    execP1Exit die temp watts s = .next { s with plat := { s.plat with p1 := s.plat.p1.filter (· != die) } } := by
  simp [execP1Exit, ht, hw]

theorem execP1Exit_hot {die temp watts : Nat} (h : 95 ≤ temp ∨ 4600 ≤ watts) : execP1Exit die temp watts s = .next s := by
  have h' : ¬ (temp < 95 ∧ watts < 4600) := by omega
  simp [execP1Exit, h']

theorem execThermalShutdown_below {temp : Nat} (h : temp < 110) : execThermalShutdown temp s = .next s := by
  simp [execThermalShutdown, h]

theorem execThermalShutdown_reached {temp : Nat} (h : 110 ≤ temp) :
    execThermalShutdown temp s = .next { s.powered with plat := { State.reset.plat with power := false, step := 0 } } := by
  simp [execThermalShutdown, Nat.not_lt.2 h]

theorem execPowerStateSelect_p0 : execPowerStateSelect 0 s =
    .next { s with plat := { s.plat with pstate := 0 }, gal := { s.gal with timeNs := s.gal.nsAt s.cycle, markAt := s.cycle, slow := false } } := rfl

theorem execPowerStateSelect_resident {n : Nat} (hn : n = 2 ∨ n = 3) (h : ∃ t ∈ s.teams, t.2.live = true) : execPowerStateSelect n s = .next s := by
  have ha : s.teams.any (·.2.live) = true := List.any_eq_true.2 h
  have h0 : n ≠ 0 := by omega
  simp [execPowerStateSelect, ha, h0]

theorem execPowerStateSelect_empty {n : Nat} (hn : n = 2 ∨ n = 3) (h : ∀ t ∈ s.teams, t.2.live = false) : execPowerStateSelect n s =
    .next { s with plat := { s.plat with pstate := n }, gal := { s.gal with timeNs := s.gal.nsAt s.cycle, markAt := s.cycle, slow := n = 2 } } := by
  have ha : s.teams.any (·.2.live) = false := List.any_eq_false.2 fun t ht => by simp [h t ht]
  simp [execPowerStateSelect, ha, hn]

/-! ### Measurement and bring-up (R336, R338, R339) -/

theorem tgetD_extendMr (n m : Nat) (data : List Byte) :
    tgetD (s.extendMr n data).plat.mr m 0 = if n = m then mrExtended (tgetD s.plat.mr n 0) data else tgetD s.plat.mr m 0 :=
  tgetD_tset ..

theorem execMrExtend_host {n : Nat} {data : List Byte} (hs : 5 ≤ s.plat.step) (h4 : 4 ≤ n) (h7 : n ≤ 7) : execMrExtend n data s = .next (s.extendMr n data) := by
  simp [execMrExtend, hs, h4, h7]

theorem execMrExtend_own {n : Nat} {data : List Byte} (h : n < 4 ∨ 7 < n) : execMrExtend n data s = .next s := by
  have h' : ¬ (4 ≤ n ∧ n ≤ 7) := by omega
  simp [execMrExtend, h']

/-- What a report shows, and what signs it (R338). -/
def State.reportOf (s : State) (nonce : BitVec 384) : Report :=
  let mrs := (List.range 8).map fun n => tgetD s.plat.mr n 0
  ⟨nonce, mrs, Config.serial, s.boundKey,
    ecdsa (Config.attestKey % (curveN - 1) + 1) (privateKey s.free) (sha384 (digestBytes nonce ++ mrs.flatMap digestBytes ++ Config.serial ++ s.boundKey))⟩

theorem execAttestationReport_ready (nonce : BitVec 384) (h : 6 ≤ s.plat.step) :
    execAttestationReport nonce s = .next { s with free := s.free + 1, plat := { s.plat with report := some (s.reportOf nonce) } } := by
  simp [execAttestationReport, Nat.not_lt.2 h, State.reportOf]

/-- What bring-up has measured when it waits for the host: MR0 to MR2 the images, MR3 the configuration (R336, R338). -/
def State.measured (s : State) (config : List Byte) : State :=
  (((s.extendMr 0 (Config.bootImage 0)).extendMr 1 (Config.bootImage 1)).extendMr 2 (Config.bootImage 2)).extendMr 3 config

theorem State.measured_image (hm : s.plat.mr = []) (config : List Byte) {n : Nat} (hn : n < 3) :
    tgetD (s.measured config).plat.mr n 0 = mrExtended 0 (Config.bootImage n) := by
  have h0 : tgetD s.plat.mr n 0 = 0 := by rw [hm]; rfl
  have h : n = 0 ∨ n = 1 ∨ n = 2 := by omega
  obtain rfl | rfl | rfl := h <;> simp only [State.measured, tgetD_extendMr, h0, Nat.reduceEqDiff, reduceIte]

theorem State.measured_config (hm : s.plat.mr = []) (config : List Byte) : tgetD (s.measured config).plat.mr 3 0 = mrExtended 0 config := by
  have h0 : tgetD s.plat.mr 3 0 = 0 := by rw [hm]; rfl
  simp only [State.measured, tgetD_extendMr, h0, Nat.reduceEqDiff, reduceIte]

section
variable {u : PowerUp} (hs : s.plat.power = false ∨ s.plat.step = 1)
include hs

theorem powerOn_guard_false : (s.plat.power && s.plat.step != 1) = false := by
  rcases hs with h | h <;> simp [h]

theorem execPowerOn_bad_image (hi : u.imageOk = false) : execPowerOn u s = .next { s.powered with plat := { s.powered.plat with step := 2 } } := by
  simp [execPowerOn, powerOn_guard_false s hs, hi]

theorem execPowerOn_bad_die (hi : u.imageOk = true) (hd : u.dieOk = false) :
    ∃ t, execPowerOn u s = .next t ∧ t.plat.step = 4 ∧ t.plat.gates = true ∧ t.portsUp = false := by
  simp only [execPowerOn, powerOn_guard_false s hs, hi, hd]
  exact ⟨_, rfl, rfl, rfl, rfl⟩

theorem execPowerOn_good (hi : u.imageOk = true) (hd : u.dieOk = true) :
    ∃ t, execPowerOn u s = .next t ∧ t.plat.step = 6 ∧ t.plat.gates = true ∧ t.portsUp = true ∧ t.host = s.host ∧ t.groups = [] ∧
      t.gal.me = u.me ∧ t.gal.epoch = u.epoch ∧ t.ring.en = false ∧ t.plat.mr = (s.powered.measured (Config.configImage (configNumbers u))).plat.mr ∧
      t.plat.eph = some s.free ∧ t.free = s.free + 1 := by
  simp only [execPowerOn, powerOn_guard_false s hs, hi, hd]
  exact ⟨_, rfl, rfl, rfl, rfl, rfl, rfl, rfl, rfl, rfl, rfl, rfl, rfl⟩

end
end

/-! ### Samples and soft errors (R15, R332, R333, R340) -/

section
variable (s : State)

/-- The counter of its die rises by one and stops at its maximum (R340). -/
theorem State.softError_count (die : Nat) : tgetD (s.softError die).plat.soft die 0 = min (tgetD s.plat.soft die 0 + 1) 0xFFFFFFFF :=
  tgetD_tset_self ..

theorem State.hitRegister_live {u : Nat} {ok : Bool} (g : Group) (hok : ok = true) (hl : (s.group u).status = .live) :
    s.hitRegister u ok g = (s.softError (s.groupDie u)).setGroup u g := by
  simp [State.hitRegister, hok, hl]

theorem execSoftError_corrected {die : Nat} (h : die < 4) : execSoftError (.corrected die) s = .next (s.softError die) := by
  simp [execSoftError, h]

theorem execSoftError_spad {k w : Nat} (hl : (s.team k).live = true) (hw : 4 * w < s.spadSize k) : execSoftError (.spad k w) s =
    .next ((s.softError (dieOf (s.team k).core)).setTeam k { s.team k with spadPoison := ninsert (s.team k).spadPoison w }) := by
  simp [execSoftError, hl, hw]

theorem execSoftError_crossing {b : Nat} (flips : Line) (h : b < 8) :
    execSoftError (.crossing b flips) s = .next { s with noise := tset s.noise b (tgetD s.noise b [] ++ [flips]) } := by
  simp [execSoftError, h]

/-- The low word of a sample, whose PC is 0 for a group of another context (R333). -/
theorem recordLo_sample (k stall pcw : Nat) (iss own : Bool) :
    recordLo 0 k iss.toNat (if iss then 0 else stall) (if own then pcw else 0) =
      k * 2 ^ 59 + (if iss then 2 ^ 58 else stall * 2 ^ 53) + (if own then pcw % 2 ^ 53 else 0) := by
  cases iss <;> cases own <;> simp [recordLo]

/-- The high word of a sample, whose GID and ENGSEQ are 0 for a group of another context (R333). -/
theorem recordHi_sample (time core gid eseq : Nat) (own : Bool) :
    recordHi time core 0 (if own then gid else 0) (if own then eseq else 0) =
      time % 2 ^ 16 * 2 ^ 48 + core * 2 ^ 40 + (if own then gid * 2 ^ 32 + eseq % 2 ^ 32 else 0) := by
  cases own <;> simp [recordHi, Nat.add_assoc]

/-- The PC of a sample: that of the group's word, or of its next clause (R333). -/
def Group.samplePc (g : Group) : VA := match g.clause with | some c => wordPc g c | none => g.pc

variable {s} {core k : Nat}

/-- A scheduler takes no sample where its core does not sample, at another cycle than those of the interval, twice in a cycle, or with no group (R332). -/
theorem State.sample_idle (h : (s.core core).samp.getLsbD 63 = false ∨ s.cycle % sampInterval (s.core core).samp ≠ 0 ∨
      tget (s.core core).sampAt k = some s.cycle ∨ s.sampled core k = none) :
    s.sample core k = s := by
  unfold State.sample
  dsimp only
  split
  · rfl
  next hg =>
    simp only [Bool.or_eq_true, not_or, Bool.not_eq_true, Bool.not_eq_false', sampEn, bne_eq_false_iff_eq, beq_eq_false_iff_ne] at hg
    obtain ⟨⟨⟨hen, -⟩, hint⟩, hat⟩ := hg
    obtain h | h | h | h := h
    · exact absurd (hen.symm.trans h) nofun
    · exact absurd hint h
    · exact absurd h hat
    · rw [h]

/-- The sample of a scheduler's next group (R332, R333). -/
theorem State.sample_due {u : Nat} (he : (s.core core).samp.getLsbD 63 = true) (hk : k < 4) (hc : s.cycle % sampInterval (s.core core).samp = 0)
    (ha : tget (s.core core).sampAt k ≠ some s.cycle) (hu : s.sampled core k = some u) :
    s.sample core k =
      (let c := s.core core
       let g := s.group u
       let own := decide ((s.teamOf g).ctx = c.sampOwner)
       (s.setCore core { c with sampRot := tset c.sampRot k (s.rotation u), sampAt := tset c.sampAt k s.cycle }).writeSample core
        (k * 2 ^ 59 + (if g.issued then 2 ^ 58 else s.stallOf u * 2 ^ 53) + (if own then g.samplePc.toNat / 8 % 2 ^ 53 else 0))
        (s.cycle % 2 ^ 16 * 2 ^ 48 + core * 2 ^ 40 + (if own then g.gid * 2 ^ 32 + g.engseq.toNat % 2 ^ 32 else 0))) := by
  have hg : (!sampEn (s.core core).samp || decide (4 ≤ k) ||
      s.cycle % sampInterval (s.core core).samp != 0 || tget (s.core core).sampAt k == some s.cycle) = false := by
    simp [sampEn, he, hk, hc, ha]
  dsimp only
  rw [← recordLo_sample, ← recordHi_sample]
  simp only [decide_eq_true_eq, State.sample, hg, hu]
  rfl

end

/-- Settles O59: each clause is the lemma that says it of the function behind the event. -/
theorem platformEvents : Obligations.PlatformEvents := by
  unfold Obligations.PlatformEvents
  refine ⟨fun s => ?_, fun s => ?_⟩
  · refine ⟨execGateHold_hold s, execGateHold_release s, execGateHold_early s,
      fun die temp watts hd => ⟨execP1Enter_hot s hd, execP1Enter_cool s⟩,
      fun die temp watts => ⟨execP1Exit_cool s, execP1Exit_hot s⟩,
      fun temp => ⟨execThermalShutdown_below s, fun h => ⟨_, execThermalShutdown_reached s h, rfl, rfl, rfl, rfl, rfl, rfl, rfl⟩⟩,
      execPowerStateSelect_p0 s,
      fun n hn => ⟨execPowerStateSelect_resident s hn, execPowerStateSelect_empty s hn⟩,
      fun nonce hs => ?_, fun n data hs => ⟨fun h4 h7 => ?_, execMrExtend_own s⟩,
      fun u hs => ⟨fun hi => ?_, execPowerOn_bad_die s hs, fun hi hd => ?_⟩⟩
    · exact ⟨_, _, execAttestationReport_ready s nonce hs, rfl, rfl, fun n hn => by simp [State.reportOf, hn], rfl, rfl, rfl, rfl, rfl, rfl⟩
    · refine ⟨_, execMrExtend_host s hs h4 h7, ?_, fun m hm => ?_⟩
      · exact (tgetD_extendMr s n n data).trans (if_pos rfl)
      · exact (tgetD_extendMr s n m data).trans (if_neg hm.symm)
    · exact ⟨_, execPowerOn_bad_image s hs hi, rfl, rfl, rfl, rfl⟩
    · obtain ⟨t, ht, hstep, hgates, hports, hhost, hgroups, hme, hepoch, hen, hmr, heph, hfree⟩ := execPowerOn_good s hs hi hd
      refine ⟨t, ht, hstep, hgates, hports, hhost, hgroups, hme, hepoch, hen, fun n hn => ?_, ?_, heph, hfree⟩
      · exact hmr ▸ s.powered.measured_image rfl _ hn
      · exact hmr ▸ s.powered.measured_config rfl _
  · refine ⟨fun core k u he hk hc ha hu => congrArg Host.Outcome.next (State.sample_due he hk hc ha hu),
      fun core k h => congrArg Host.Outcome.next (State.sample_idle h), fun die => execSoftError_corrected s,
      fun b flips hb => ⟨_, execSoftError_crossing s flips hb, tgetD_tset_self .., fun n hn => tgetD_tset_ne _ _ _ hn.symm, rfl, rfl, rfl, rfl⟩,
      fun u => ?_, fun k w => execSoftError_spad s, s.softError_count⟩
    intro g hit hlive
    have hreg (ok : Bool) (hok : ok = true) (g1 : Group) :
        (.next (s.hitRegister u ok g1) : Host.Outcome State Fault Refusal) = .next ((s.softError (s.groupDie u)).setGroup u g1) :=
      congrArg Host.Outcome.next (s.hitRegister_live g1 hok hlive)
    exact ⟨fun n l hn hl => hreg _ (Bool.and_eq_true_iff.2 ⟨decide_eq_true hn, decide_eq_true hl⟩) _,
      fun n b hn hb => hreg _ (Bool.and_eq_true_iff.2 ⟨decide_eq_true hn, decide_eq_true hb⟩) _,
      fun n hn => hreg _ (decide_eq_true hn) _, fun n hn => hreg _ (decide_eq_true hn) _, fun n hn => hreg _ (decide_eq_true hn) _⟩

end Sys2Proof.Machine
end

section
/-! O16, the control words that leave the path where it is (R35, R36, R113, R123 to R125). Each word that passes its checks answers as its effect does, which the lemmas of Laws/Issue say. -/

namespace Sys2Proof.Machine

/-! ### A word that has issued (R82, R101) -/

/-- A word that has to end its clause passes its checks only there (R101). -/
theorem last_of_checkWord {i : Info} {g : Group} {c : Clause} (h : checkWord i g c = none) (hp : i.pos = .last) : c.idx + 1 = c.words.length := by
  by_contra hne
  have hb : (c.idx + 1 != c.words.length) = true := bne_iff_ne.2 hne
  unfold checkWord at h
  simp only [hp, hb, beq_self_eq_true, Bool.true_and, Bool.true_or, if_true] at h
  grind

section
variable {s : State} {c : Clause} {g : Group}

theorem State.past_last (hl : g.status = .live) (h : ¬ c.idx + 1 < c.words.length) : s.past c g = s.setCur (g.endClause c (nextHeader g c)) := by
  have hg : (s.setCur g).group s.who = g := State.cur_setCur ..
  simp only [State.past, advance, hg, hl, bne_self_eq_false, Bool.false_eq_true, if_false, if_neg h]
  exact State.setCur_setCur ..

theorem State.past_next (hl : g.status = .live) (h : c.idx + 1 < c.words.length) :
    s.past c g = s.setCur { g with clause := some { c with idx := c.idx + 1 }, bpSkip := false, fetchSince := none } := by
  have hg : (s.setCur g).group s.who = g := State.cur_setCur ..
  simp only [State.past, advance, hg, hl, bne_self_eq_false, Bool.false_eq_true, if_false, if_pos h]
  exact State.setCur_setCur ..

end

/-! ### NOP, WAIT, YIELD, WIDEN and NARROW (R85, R113, R123 to R125) -/

theorem inBracket_of_open {s : State} (hw : s.cur.widen ≠ none) : inBracket s s.cur = true := Option.isSome_iff_ne_none.2 hw

theorem inBracket_of_closed {s : State} (hw : s.cur.widen = none) : inBracket s s.cur = false := by rw [inBracket, hw]; rfl

/-- A group that YIELD makes the youngest of its active set, and whose clause ends with it (R125). -/
def Group.yields (g : Group) (age : Nat) : Group := { g with yielded := true, age := age }

theorem combine_toNat (a b : FW) :
    (combine a b).wld.toNat = min a.wld.toNat b.wld.toNat ∧ (combine a b).wst.toNat = min a.wst.toNat b.wst.toNat ∧
    (combine a b).wcp.toNat = min a.wcp.toNat b.wcp.toNat ∧ (combine a b).wtl.toNat = min a.wtl.toNat b.wtl.toNat := by
  simp only [combine, apply_ite BitVec.toNat, BitVec.le_def, Nat.min_def, and_self]

section
variable {s : State} {c : Clause}

theorem execNop_issues (h : Issues .nop s c) : execNop s = .next (s.past c s.cur.issuing) :=
  issue_done h.at_ h.checks h.clean rfl rfl rfl

theorem execWait_issues {f : FW} (h : Issues (.wait f) s c) :
    execWait f s = .next (s.past c { s.cur.issuing with waits := combine s.cur.waits f }) :=
  issue_onGroup h.at_ h.checks h.clean _

theorem execYield_issues (h : Issues .yield s c) : execYield s = .next (s.fresh.2.past c (s.cur.issuing.yields s.nextId)) :=
  issue_done h.at_ h.checks h.clean rfl rfl (congrArg Eff.done (State.setCur_setCur s.fresh.2 ..))

theorem execWiden_issues (h : Issues .widen s c) (hw : s.cur.widen = none) :
    execWiden s = .next (s.past c { s.cur.issuing with widen := some s.cur.mask }) :=
  issue_done h.at_ h.checks h.clean (inBracket_of_closed hw) rfl (congrArg Eff.done (State.setCur_setCur ..))

theorem execNarrow_issues (h : Issues .narrow s c) (hw : s.cur.widen ≠ none) :
    execNarrow s = .next (s.past c { s.cur.issuing with widen := none }) := by
  have hb : s.cur.widen.isNone = false := Option.isNone_eq_false_iff.2 (Option.isSome_iff_ne_none.2 hw)
  exact issue_done h.at_ h.checks h.clean hb rfl (congrArg Eff.done (State.setCur_setCur ..))

end

theorem execWiden_illegal {s : State} {c : Clause} (h : Issues .widen s c) (hw : s.cur.widen ≠ none) :
    execWiden s = .next (s.kill s.who causeIllegal (wordPc s.cur c)) :=
  issue_illegal h.at_ h.checks _ _ (inBracket_of_open hw) _

theorem execNarrow_illegal {s : State} {c : Clause} (h : Issues .narrow s c) (hw : s.cur.widen = none) :
    execNarrow s = .next (s.kill s.who causeIllegal (wordPc s.cur c)) :=
  issue_illegal h.at_ h.checks _ _ (Option.isNone_iff_eq_none.2 hw) _

/-! ### The lanes of a bracket (R35, R36, R123) -/

theorem Group.mask_widen (g : Group) (m : Lanes) : ({ g with widen := some m } : Group).mask = ~~~g.exited := rfl

theorem Group.mask_path (g : Group) (h : g.mode = .user) : ({ g with widen := none } : Group).mask = g.top.mask &&& ~~~g.exited := by
  simp [Group.mask, h, Group.top]

theorem Group.mask_cases (g : Group) : g.mask = ~~~g.exited ∨ g.mask = g.top.mask &&& ~~~g.exited := ite_eq_or_eq _ _ _

theorem Group.mask_and_exited (g : Group) : g.mask &&& g.exited = 0 := by
  obtain h | h := g.mask_cases <;> rw [h]
  · exact BitVec.not_and_self _
  · rw [BitVec.and_assoc, BitVec.not_and_self]
    exact BitVec.and_zero

/-- Settles O16: the lemma of each word, and what a bracket does to the mask. -/
theorem controlAndBrackets : Obligations.ControlAndBrackets := by
  unfold Obligations.ControlAndBrackets
  refine ⟨fun s c => ?_, fun g m => ⟨g.mask_widen m, beq_self_eq_true _, g.mask_path, g.mask_and_exited⟩⟩
  refine ⟨execNop_issues, fun f h => ?_, fun h => ?_, execWiden_issues, execWiden_illegal, execNarrow_issues, execNarrow_illegal⟩
  · obtain ⟨hld, hst, hcp, htl⟩ := combine_toNat s.cur.waits f
    exact ⟨_, execWait_issues h, hld, hst, hcp, htl, rfl⟩
  · have hlive : (s.cur.issuing.yields s.nextId).status = .live := by simp [Group.yields, h.at_.live]
    refine ⟨_, execYield_issues h, ?_⟩
    rw [State.past_last hlive (last_of_checkWord h.checks rfl).not_lt, State.cur_setCur]
    simp [Group.yields, Group.endClause, Group.issuing, nextHeader, Group.rs, Group.inBank]

end Sys2Proof.Machine
end

section
/-! O17, branches, the split of a path and JOIN (R29, R30, R32, R114 to R117, R121). What a word does that sends its group to another clause is said once by `issue_went`; what the divergence stack does on chip, by the lemmas about `pushStack` and `popStack`. -/

namespace Sys2Proof.Machine

@[simp] theorem Group.issuing_top (g : Group) : g.issuing.top = g.top := rfl
@[simp] theorem Group.issuing_stack (g : Group) : g.issuing.stack = g.stack := rfl
@[simp] theorem Group.issuing_exited (g : Group) : g.issuing.exited = g.exited := rfl
@[simp] theorem Group.issuing_resv (g : Group) : g.issuing.resv = g.resv := rfl
@[simp] theorem State.setCur_lrecOf (s : State) (g h : Group) : (s.setCur g).lrecOf h = s.lrecOf h := rfl
@[simp] theorem State.lrecOf_issuing (s : State) (g : Group) : s.lrecOf g.issuing = s.lrecOf g := rfl

section
variable {s : State} {c : Clause}

theorem herePc_issuing (h : s.cur.clause = some c) : s.cur.issuing.herePc = wordPc s.cur c := by
  simp only [Group.herePc, Group.issuing_clause, h, wordPc, Group.issuing_pc]

theorem nextPc_issuing (h : s.cur.clause = some c) : s.cur.issuing.nextPc = nextHeader s.cur c := by
  simp only [Group.nextPc, Group.issuing_clause, h, nextHeader, Group.issuing_pc]

variable {i : Info} {illegal poison : State → Group → Bool} {eff : State → Group → Eff}

/-- A word whose whole effect is to make `g` of its group and to send it to another clause (R114). -/
theorem issue_went {pc : VA} {g : Group} (h : AtWord s c) (hc : checkWord i s.cur c = none) (hp : readsPoison i s.cur = false)
    (hi : illegal s s.cur = false) (hq : poison s s.cur = false)
    (he : eff (s.setCur s.cur.issuing) s.cur.issuing = .goto (s.setCur g) pc) (hl : g.status = .live) :
    issue i illegal poison eff s = .next (s.went c g pc) := by
  have hg : (s.setCur g).group s.who = g := State.cur_setCur ..
  rw [issue_goto h hc hp hi hq he ((congrArg Group.status hg).trans hl), hg]
  exact congrArg Host.Outcome.next (State.setCur_setCur ..)

/-- A word that kills its group for what its effect finds (R102). -/
theorem issue_kill {cause : Nat} (h : AtWord s c) (hc : checkWord i s.cur c = none) (hp : readsPoison i s.cur = false)
    (hi : illegal s s.cur = false) (hq : poison s s.cur = false)
    (he : eff (s.setCur s.cur.issuing) s.cur.issuing = .kill cause) :
    issue i illegal poison eff s = .next (s.kill s.who cause (wordPc s.cur c)) := by
  rw [issue_passed h hc hp illegal poison hi hq, he]

end

/-! ### Targets and conditions (R95, R114) -/

theorem signExtend_shiftLeft_three {n : Nat} (x : BitVec n) : (x.signExtend 57) <<< 3 = BitVec.ofInt 57 (8 * x.toInt) := by
  rw [BitVec.signExtend, BitVec.ofInt_mul, mul_comm, BitVec.shiftLeft_eq_mul_twoPow]
  rfl

theorem branchTarget_eq (pc : VA) (t : BitVec 24) : branchTarget pc t = pc + BitVec.ofInt 57 (8 * t.toInt) :=
  congrArg (pc + ·) (signExtend_shiftLeft_three t)

theorem rcvTarget_eq (pc : VA) (r : BitVec 20) : rcvTarget pc r = pc + BitVec.ofInt 57 (8 * r.toInt) :=
  congrArg (pc + ·) (signExtend_shiftLeft_three r)

theorem Group.pred_getLsbD (g : Group) (n : Nat) (neg : Bool) {l : Nat} (hl : l < 32) :
    (g.pred (n, neg)).getLsbD l = ((g.rs n).getLsbD l ^^ neg) := by
  cases neg <;> simp [Group.pred, hl]

theorem lanes_ne_zero_iff (x : Lanes) : x ≠ 0 ↔ ∃ l, l < 32 ∧ x.getLsbD l = true := by
  constructor
  · contrapose!
    exact fun h => BitVec.eq_of_getLsbD_eq fun l hl => by simpa using h l hl
  · rintro ⟨l, -, h⟩ rfl
    simp at h

/-- Some lane of the path meets the condition (R114). -/
theorem Group.some_lane_iff (g : Group) (n : Nat) (neg : Bool) :
    g.mask &&& g.pred (n, neg) ≠ 0 ↔ ∃ l, l < 32 ∧ g.mask.getLsbD l = true ∧ ((g.rs n).getLsbD l ^^ neg) = true := by
  rw [lanes_ne_zero_iff]
  refine exists_congr fun l => and_congr_right fun hl => ?_
  rw [BitVec.getLsbD_and, g.pred_getLsbD n neg hl, Bool.and_eq_true]

/-! ### BRA and BRI (R115, R117) -/

section
variable {s : State} {c : Clause}

theorem execBra_issues {f : FB} (h : Issues (.bra f) s c) :
    execBra f s = .next (s.went c s.cur.issuing
      (if s.cur.mask &&& s.cur.pred (f.prs.toNat, f.pneg) ≠ 0 then branchTarget s.cur.pc f.tgt else nextHeader s.cur c)) :=
  issue_went h.at_ h.checks h.clean rfl rfl (by simp [nextPc_issuing h.at_.clause]) h.at_.live

theorem high_bits_iff (x : W32) : x.extractLsb' 25 7 ≠ 0 ↔ 2 ^ 25 ≤ x.toNat := by
  have hx := x.isLt
  rw [ne_eq, ← BitVec.toNat_inj, BitVec.extractLsb'_toNat, Nat.shiftRight_eq_div_pow]
  change ¬ x.toNat / 2 ^ 25 % 2 ^ 7 = 0 ↔ _
  omega

theorem low_bits_iff (hi lo : W32) : (hi ++ lo).extractLsb' 0 3 ≠ 0 ↔ lo.toNat % 8 ≠ 0 := by
  have hlow : (hi ++ lo).extractLsb' 0 3 = lo.extractLsb' 0 3 := BitVec.extractLsb'_append_eq_of_add_le (by decide)
  rw [hlow, ne_eq, ← BitVec.toNat_inj, BitVec.extractLsb'_toNat]
  simp

theorem setWidth_append (hi lo : W32) : (hi ++ lo).setWidth 57 = BitVec.ofNat 57 (hi.toNat * 2 ^ 32 + lo.toNat) := by
  apply BitVec.eq_of_toNat_eq
  rw [BitVec.toNat_setWidth, BitVec.toNat_append, ← Nat.shiftLeft_add_eq_or_of_lt lo.isLt, Nat.shiftLeft_eq, BitVec.toNat_ofNat]

variable {f : FS}

theorem execBri_illegal (h : Issues (.bri f) s c) (hw : s.cur.widen ≠ none) :
    execBri f s = .next (s.kill s.who causeIllegal (wordPc s.cur c)) :=
  issue_illegal h.at_ h.checks _ _ (inBracket_of_open hw) _

variable (h : Issues (.bri f) s c) (hw : s.cur.widen = none)
include h hw

theorem execBri_protection (hi : 2 ^ 25 ≤ (s.cur.rs f.sb.toNat).toNat) :
    execBri f s = .next (s.trap s.who causeProtection 0 (wordPc s.cur c) (resumeHere s.cur c)) :=
  issue_trap h.at_ h.checks h.clean (inBracket_of_closed hw) rfl (if_pos (bne_iff_ne.2 ((high_bits_iff _).2 hi)))

theorem execBri_misalign (hi : (s.cur.rs f.sb.toNat).toNat < 2 ^ 25) (lo : (s.cur.rs f.sa.toNat).toNat % 8 ≠ 0) :
    execBri f s = .next (s.trap s.who causeMisalign 0 (wordPc s.cur c) (resumeHere s.cur c)) := by
  have hhi := mt (high_bits_iff (s.cur.rs f.sb.toNat)).1 (Nat.not_le.2 hi)
  have hlo := (low_bits_iff (s.cur.rs f.sb.toNat) (s.cur.rs f.sa.toNat)).2 lo
  exact issue_trap h.at_ h.checks h.clean (inBracket_of_closed hw) rfl
    ((if_neg (mt bne_iff_ne.1 hhi)).trans (if_pos (bne_iff_ne.2 hlo)))

theorem execBri_goes (hi : (s.cur.rs f.sb.toNat).toNat < 2 ^ 25) (lo : (s.cur.rs f.sa.toNat).toNat % 8 = 0) :
    execBri f s = .next (s.went c s.cur.issuing (BitVec.ofNat 57 ((s.cur.rs f.sb.toNat).toNat * 2 ^ 32 + (s.cur.rs f.sa.toNat).toNat))) := by
  have hhi := mt (high_bits_iff (s.cur.rs f.sb.toNat)).1 (Nat.not_le.2 hi)
  have hlo := mt (low_bits_iff (s.cur.rs f.sb.toNat) (s.cur.rs f.sa.toNat)).1 (not_not.2 lo)
  rw [← setWidth_append]
  exact issue_went h.at_ h.checks h.clean (inBracket_of_closed hw) rfl
    ((if_neg (mt bne_iff_ne.1 hhi)).trans (if_neg (mt bne_iff_ne.1 hlo))) h.at_.live

end

/-! ### The divergence stack (R30, R32) -/

/-- The entries on chip need no write to the spill area. -/
theorem State.spillWrites_onChip (s : State) (g : Group) {l : List (Nat × StackEntry)} (h : ∀ p ∈ l, p.1 < 32) : s.spillWrites g l = .ok (s, ()) := by
  induction l with
  | nil => rfl
  | cons p rest ih =>
    obtain ⟨hp, hrest⟩ := List.forall_mem_cons.1 h
    have hw : s.spillWrite g p.1 p.2 = .ok (s, ()) := if_pos hp
    simp only [State.spillWrites, hw]
    exact ih hrest

/-- A top that stands on chip needs no read of the spill area. -/
theorem State.settle_onChip (s : State) (g : Group) (e : StackEntry) {rest : List StackEntry} (h : rest.length < 32) :
    s.settle g (e :: rest) = .ok (s, e :: rest) := if_pos h

section
variable {s s1 : State} {g : Group} {stack : List StackEntry} {changed : List (Nat × StackEntry)} {pc target : VA}

theorem pushStack_deep (h : 32 + lrecSpillN (s.lrecOf g) < stack.length) : pushStack s g stack changed pc target = .kill causeIllegal := if_pos h

theorem pushStack_written (h : stack.length ≤ 32 + lrecSpillN (s.lrecOf g)) (hw : s.spillWrites g changed = .ok (s1, ())) :
    pushStack s g stack changed pc target = .goto (s1.setCur { s1.cur with stack := stack, pathCount := 0 }) target := by
  simp only [pushStack, if_neg (Nat.not_lt.2 h), hw]

theorem popStack_onChip {f : Group → Group} {e : StackEntry} {rest : List StackEntry} (h : rest.length < 32) :
    popStack s s1 g f (e :: rest) pc = .goto (s1.setCur { f s1.cur with stack := e :: rest, pathCount := 0 }) (e.pc.setWidth 57) := by
  simp only [popStack, State.settle_onChip _ _ _ h, List.headD_cons]

end

/-! ### BRD (R29, R116) -/

theorem and_not_and (x y : Lanes) : x &&& ~~~(x &&& y) = x &&& ~~~y := by
  rw [BitVec.not_and, BitVec.and_or_distrib_left, BitVec.and_not_self]
  simp

/-- The lanes of the path that a BRD takes (R116). -/
def Group.taken (g : Group) (f : FB) : Lanes := g.mask &&& g.pred (f.prs.toNat, f.pneg)

/-- The entry that waits for both sides of a split at the reconvergence address. -/
def Group.splitWaits (g : Group) (f : FB) : StackEntry := { g.top with pc := (rcvTarget g.pc f.rcv).setWidth 64 }

/-- The entry of the lanes that a split takes. -/
def Group.splitTaken (g : Group) (f : FB) : StackEntry :=
  { pc := (branchTarget g.pc f.tgt).setWidth 64, mask := g.taken f, rcv := (rcvTarget g.pc f.rcv).setWidth 64 }

/-- The entry of the lanes that fall through, which run first. -/
def Group.splitFalls (g : Group) (f : FB) (next : VA) : StackEntry :=
  { pc := next.setWidth 64, mask := g.mask &&& ~~~(g.taken f), rcv := (rcvTarget g.pc f.rcv).setWidth 64 }

/-- The stack after a split. -/
def Group.splitStack (g : Group) (f : FB) (next : VA) : List StackEntry :=
  g.splitFalls f next :: g.splitTaken f :: g.splitWaits f :: g.stack.drop 1

/-- The entries that a split changes, with their numbers. -/
def Group.splitChanged (g : Group) (f : FB) (next : VA) : List (Nat × StackEntry) :=
  let d := (g.stack.drop 1).length
  [(d, g.splitWaits f), (d + 1, g.splitTaken f), (d + 2, g.splitFalls f next)]

section
variable {f : FB} {s : State} {c : Clause} (h : Issues (.brd f) s c) (hw : s.cur.widen = none)
include h hw

/-- No lane of the path meets the condition: the path goes on as one. -/
theorem execBrd_falls (ht : s.cur.taken f = 0) : execBrd f s = .next (s.went c s.cur.issuing (nextHeader s.cur c)) :=
  issue_went h.at_ h.checks h.clean (inBracket_of_closed hw) rfl
    ((if_pos ht).trans (congrArg _ (nextPc_issuing h.at_.clause))) h.at_.live

variable (ht : s.cur.taken f ≠ 0)
include ht

/-- Every lane of the path meets the condition: the path moves as one. -/
theorem execBrd_moves (hn : s.cur.mask &&& ~~~(s.cur.taken f) = 0) :
    execBrd f s = .next (s.went c s.cur.issuing (branchTarget s.cur.pc f.tgt)) :=
  issue_went h.at_ h.checks h.clean (inBracket_of_closed hw) rfl ((if_neg ht).trans (if_pos hn)) h.at_.live

variable (hn : s.cur.mask &&& ~~~(s.cur.taken f) ≠ 0)
include hn

/-- A split that finds no room on the stack kills (R32). -/
theorem execBrd_deep (hd : 32 + lrecSpillN (s.lrecOf s.cur) < (s.cur.stack.drop 1).length + 3) :
    execBrd f s = .next (s.kill s.who causeIllegal (wordPc s.cur c)) :=
  issue_kill h.at_ h.checks h.clean (inBracket_of_closed hw) rfl
    ((if_neg ht).trans ((if_neg hn).trans (pushStack_deep hd)))

/-- A split puts its three entries in place of the top, once those beyond the 32 on chip are written (R32). -/
theorem execBrd_splits (hd : (s.cur.stack.drop 1).length + 3 ≤ 32 + lrecSpillN (s.lrecOf s.cur)) {s1 : State}
    (hs : (s.setCur s.cur.issuing).spillWrites s.cur.issuing (s.cur.splitChanged f (nextHeader s.cur c)) = .ok (s1, ()))
    (hl : s1.cur.status = .live) (hwho : s1.who = s.who) :
    execBrd f s = .next (s1.setCur
      (({ s1.cur with stack := s.cur.splitStack f (nextHeader s.cur c), pathCount := 0 } : Group).endClause c (nextHeader s.cur c))) := by
  rw [← nextPc_issuing h.at_.clause] at hs ⊢
  have he := pushStack_written (s := s.setCur s.cur.issuing) (pc := s.cur.issuing.herePc) (target := s.cur.issuing.nextPc)
    (stack := s.cur.splitStack f s.cur.issuing.nextPc) (g := s.cur.issuing) hd hs
  have hg : (s1.setCur { s1.cur with stack := s.cur.splitStack f s.cur.issuing.nextPc, pathCount := 0 }).group s.who =
      { s1.cur with stack := s.cur.splitStack f s.cur.issuing.nextPc, pathCount := 0 } := hwho ▸ State.cur_setCur ..
  refine (issue_goto h.at_ h.checks h.clean (inBracket_of_closed hw) rfl ((if_neg ht).trans ((if_neg hn).trans he))
    ((congrArg Group.status hg).trans hl)).trans ?_
  rw [hg, ← hwho]
  exact congrArg Host.Outcome.next (State.setCur_setCur ..)

/-- A split on chip. -/
theorem execBrd_onChip (hd : (s.cur.stack.drop 1).length + 3 ≤ 32) :
    execBrd f s = .next (s.went c { s.cur.issuing with stack := s.cur.splitStack f (nextHeader s.cur c), pathCount := 0 } (nextHeader s.cur c)) := by
  have hchip : ∀ p ∈ s.cur.splitChanged f (nextHeader s.cur c), p.1 < 32 := by
    intro p hp
    simp only [Group.splitChanged, List.mem_cons, List.not_mem_nil, or_false] at hp
    obtain rfl | rfl | rfl := hp <;> dsimp only <;> omega
  have hlive : (s.setCur s.cur.issuing).cur.status = .live := (congrArg Group.status (State.cur_setCur ..)).trans h.at_.live
  rw [execBrd_splits h hw ht hn (Nat.le_add_right_of_le hd) (State.spillWrites_onChip _ _ hchip) hlive rfl, State.cur_setCur]
  exact congrArg Host.Outcome.next (State.setCur_setCur ..)

end

/-! ### JOIN (R30, R121) -/

section
variable {s : State} {c : Clause} (h : Issues .join s c) (hw : s.cur.widen = none)
include h hw

/-- JOIN does nothing anywhere but at the reconvergence address of an entry with another below it. -/
theorem execJoin_passes (hr : s.cur.top.rcv ≠ s.cur.pc.setWidth 64 ∨ s.cur.stack.length ≤ 1) :
    execJoin s = .next (s.past c s.cur.issuing) := by
  have hno : ¬ (s.cur.issuing.top.rcv = s.cur.issuing.pc.setWidth 64 ∧ s.cur.issuing.stack.length > 1) := fun ⟨h1, h2⟩ =>
    hr.elim (· h1) (Nat.not_le.2 h2)
  exact issue_done h.at_ h.checks h.clean (inBracket_of_closed hw) rfl (if_neg hno)

/-- JOIN at the reconvergence address of the top entry pops it, and the path below goes on at its own PC. -/
theorem execJoin_pops {e below : StackEntry} {rest : List StackEntry} (hst : s.cur.stack = e :: below :: rest)
    (hr : e.rcv = s.cur.pc.setWidth 64) (hrest : rest.length < 32) :
    execJoin s = .next (s.went c { s.cur.issuing with stack := below :: rest, pathCount := 0 } (below.pc.setWidth 57)) := by
  have hyes : s.cur.issuing.top.rcv = s.cur.issuing.pc.setWidth 64 ∧ s.cur.issuing.stack.length > 1 := by simp [Group.top, hst, hr]
  have hpop := popStack_onChip (s := s.setCur s.cur.issuing) (s1 := s.setCur s.cur.issuing) (g := s.cur.issuing)
    (pc := s.cur.issuing.herePc) (f := id) (e := below) hrest
  have hdrop : s.cur.issuing.stack.drop 1 = below :: rest := by simp [hst]
  rw [State.setCur_setCur, State.cur_setCur] at hpop
  exact issue_went h.at_ h.checks h.clean (inBracket_of_closed hw) rfl ((if_pos hyes).trans (hdrop ▸ hpop)) h.at_.live

end

/-- Settles O17: each case of a word is the lemma that says it. -/
theorem branchesAndJoins : Obligations.BranchesAndJoins := by
  unfold Obligations.BranchesAndJoins
  refine ⟨fun s c _ => ⟨fun f h => ?_, fun f h => ?_⟩, fun f s c h hw => ?_,
    fun s c h hw => ⟨execJoin_passes h hw, fun e below rest => execJoin_pops h hw⟩⟩
  · have hbra := execBra_issues h
    simp only [Group.some_lane_iff, branchTarget_eq] at hbra
    exact hbra
  · exact ⟨execBri_illegal h, execBri_protection h, execBri_misalign h, execBri_goes h⟩
  · simp only [← branchTarget_eq, ← rcvTarget_eq, ← and_not_and s.cur.mask (if _ then _ else _)]
    exact ⟨execBrd_falls h hw, execBrd_moves h hw, fun ht hn => ⟨execBrd_onChip h hw ht hn, execBrd_deep h hw ht hn, fun hd _ => execBrd_splits h hw ht hn hd⟩⟩

end Sys2Proof.Machine
end

section
/-! O18, CALL, RET and EXIT with the stack on chip (R31, R32, R119, R120, R128). What `State.restack` does to entries on chip is said once, by induction over the entries from the bottom up. -/

namespace Sys2Proof.Machine

/-! ### Lanes that leave the entries of a stack (R31, R120) -/

/-- An entry without the lanes `x`. -/
def StackEntry.without (x : Lanes) (e : StackEntry) : StackEntry := { e with mask := e.mask &&& ~~~x }

/-- What is left of entries, none of them the base, when the lanes `x` leave: those that become empty are popped. -/
def leftOf (x : Lanes) (l : List StackEntry) : List StackEntry := (l.map (StackEntry.without x)).filter fun e => e.mask != 0

theorem leftOf_cons (x : Lanes) (e : StackEntry) (l : List StackEntry) :
    leftOf x (e :: l) = if e.mask &&& ~~~x = 0 then leftOf x l else e.without x :: leftOf x l := by
  split
  next h => exact List.filter_cons_of_neg fun hne => bne_iff_ne.1 hne h
  next h => exact List.filter_cons_of_pos (bne_iff_ne.2 h)

theorem leftOf_reverse (x : Lanes) (l : List StackEntry) : leftOf x l.reverse = (leftOf x l).reverse := by
  simp [leftOf]

section
variable (s : State) (g : Group) (out : Nat → Lanes) (acc : List StackEntry)

theorem State.restack_chip {i : Nat} (e : StackEntry) (rest : List (Nat × StackEntry)) (hi : i < 32) :
    s.restack g out ((i, e) :: rest) acc =
      if e.mask &&& ~~~out i = 0 ∧ i ≠ 0 then s.restack g out rest acc else s.restack g out rest (e.without (out i) :: acc) := by
  rw [State.restack, if_pos hi]
  simp only [Bool.and_eq_true, decide_eq_true_eq, bne_iff_ne]
  rfl

/-- Entries on chip above the base lose the lanes `x`, and those that become empty are popped. -/
theorem State.restack_onChip {x : Lanes} (l : List StackEntry) {n : Nat} (hn : n ≠ 0) (hl : n + l.length ≤ 32)
    (hx : ∀ i, n ≤ i → i < 32 → out i = x) :
    s.restack g out ((l.zipIdx n).map fun p => (p.2, p.1)) acc = .ok (s, (leftOf x l).reverse ++ acc) := by
  induction l generalizing n acc with
  | nil => rfl
  | cons e l ih =>
    rw [List.length_cons] at hl
    have hout : out n = x := hx n le_rfl (by omega)
    have hrest (a : List StackEntry) := ih a (n := n + 1) (by omega) (by omega) fun i hi => hx i (by omega)
    rw [List.zipIdx_cons, List.map_cons, State.restack_chip _ _ _ _ _ _ (by omega), hout, hrest, hrest, leftOf_cons]
    by_cases h : e.mask &&& ~~~x = 0
    · rw [if_pos ⟨h, hn⟩, if_pos h]
    · rw [if_neg fun hc => h hc.1, if_neg h, List.reverse_cons, List.append_assoc]
      rfl

/-- A whole stack on chip, whose base stays. -/
theorem State.restack_numbered {x : Lanes} (l : List StackEntry) (base : StackEntry) (hl : l.length < 32) (hx : ∀ i, i < 32 → out i = x) :
    s.restack g out (numbered (l ++ [base])) [] = .ok (s, leftOf x l ++ [base.without x]) := by
  have hnum : numbered (l ++ [base]) = (0, base) :: (l.reverse.zipIdx 1).map fun p => (p.2, p.1) := by
    simp [numbered, List.zipIdx_cons]
  rw [hnum, State.restack_chip _ _ _ _ _ _ (by omega), if_neg (fun h => h.2 rfl), hx 0 (by omega),
    State.restack_onChip _ _ _ _ _ (by omega) (by simp; omega) fun i _ => hx i, leftOf_reverse, List.reverse_reverse]

/-- The entries from the highest frame entry up lose the lanes `x`; those below stay as they are. -/
theorem State.restack_above {x : Lanes} (up rest : List StackEntry) (hr : rest ≠ []) (hl : up.length + rest.length ≤ 32)
    (hx : ∀ i, rest.length ≤ i → i < 32 → out i = x) :
    s.restack g out ((numbered (up ++ rest)).drop rest.length) rest = .ok (s, leftOf x up ++ rest) := by
  have hnum : (numbered (up ++ rest)).drop rest.length = (up.reverse.zipIdx rest.length).map fun p => (p.2, p.1) := by
    simp [numbered, List.zipIdx_append]
  rw [hnum, State.restack_onChip _ _ _ _ _ (List.length_pos_iff.2 hr).ne' (by simp; omega) hx, leftOf_reverse, List.reverse_reverse]

end

/-- Popping to a stack on chip goes on at its top's own PC. -/
theorem popStack_chip {s s1 : State} {g : Group} {f : Group → Group} {pc : VA} {stack : List StackEntry} (h : stack.length ≤ 32) :
    popStack s s1 g f stack pc = .goto (s1.setCur { f s1.cur with stack := stack, pathCount := 0 }) ((stack.headD {}).pc.setWidth 57) := by
  cases stack with
  | nil => rfl
  | cons e rest => exact popStack_onChip h

theorem splitFrame_eq_none {l : List StackEntry} (h : ∀ e ∈ l, e.rcv ≠ 3) : splitFrame l = none := by
  induction l with
  | nil => rfl
  | cons e l ih =>
    obtain ⟨he, hl⟩ := List.forall_mem_cons.1 h
    rw [splitFrame, if_neg he, ih hl]
    rfl

theorem splitFrame_append {up rest : List StackEntry} {frame : StackEntry} (h : ∀ e ∈ up, e.rcv ≠ 3) (hf : frame.rcv = 3) :
    splitFrame (up ++ frame :: rest) = some (up ++ [frame], rest) := by
  induction up with
  | nil => exact if_pos hf
  | cons e up ih =>
    obtain ⟨he, hup⟩ := List.forall_mem_cons.1 h
    rw [List.cons_append, splitFrame, if_neg he, ih hup]
    rfl

/-! ### CALL (R119) -/

section
variable {f : FB} {s : State} {c : Clause}

/-- The stack of a path that calls, which goes on behind the call at `next`. -/
def Group.callStack (g : Group) (next : VA) : List StackEntry :=
  { pc := 0, mask := g.mask, rcv := 3 } :: { g.top with pc := next.setWidth 64 } :: g.stack.drop 1

/-- The entries that a call changes, with their numbers. -/
def Group.callChanged (g : Group) (next : VA) : List (Nat × StackEntry) :=
  let d := (g.stack.drop 1).length
  [(d, { g.top with pc := next.setWidth 64 }), (d + 1, { pc := 0, mask := g.mask, rcv := 3 })]

variable (h : Issues (.call f) s c) (hw : s.cur.widen = none)
include h hw

theorem execCall_deep (hd : 32 + lrecSpillN (s.lrecOf s.cur) < (s.cur.stack.drop 1).length + 2) :
    execCall f s = .next (s.kill s.who causeIllegal (wordPc s.cur c)) :=
  issue_kill h.at_ h.checks h.clean (inBracket_of_closed hw) rfl (pushStack_deep hd)

theorem execCall_onChip (hd : (s.cur.stack.drop 1).length + 2 ≤ 32) :
    execCall f s = .next (s.went c { s.cur.issuing with stack := s.cur.callStack (nextHeader s.cur c), pathCount := 0 } (branchTarget s.cur.pc f.tgt)) := by
  rw [← nextPc_issuing h.at_.clause]
  have hchip : ∀ p ∈ s.cur.callChanged s.cur.issuing.nextPc, p.1 < 32 := by
    intro p hp
    simp only [Group.callChanged, List.mem_cons, List.not_mem_nil, or_false] at hp
    obtain rfl | rfl := hp <;> dsimp only <;> omega
  have hpush := pushStack_written (s := s.setCur s.cur.issuing) (pc := s.cur.issuing.herePc) (target := branchTarget s.cur.pc f.tgt)
    (stack := s.cur.callStack s.cur.issuing.nextPc) (g := s.cur.issuing) (Nat.le_add_right_of_le hd) (State.spillWrites_onChip _ _ hchip)
  rw [State.setCur_setCur, State.cur_setCur] at hpush
  exact issue_went h.at_ h.checks h.clean (inBracket_of_closed hw) rfl hpush h.at_.live

end

/-! ### RET (R120) -/

section
variable {s : State} {c : Clause} (h : Issues .ret s c) (hw : s.cur.widen = none)
include h hw

theorem execRet_no_frame (hf : ∀ e ∈ s.cur.stack, e.rcv ≠ 3) : execRet s = .next (s.kill s.who causeIllegal (wordPc s.cur c)) :=
  issue_kill h.at_ h.checks h.clean (inBracket_of_closed hw) rfl (by simp only [Group.issuing_stack, splitFrame_eq_none hf])

theorem execRet_pops {up rest : List StackEntry} {frame : StackEntry} (hst : s.cur.stack = up ++ frame :: rest) (hr : rest ≠ [])
    (hup : ∀ e ∈ up, e.rcv ≠ 3) (hf : frame.rcv = 3) (hl : s.cur.stack.length ≤ 32) :
    let stack := leftOf s.cur.mask (up ++ [frame]) ++ rest
    execRet s = .next (s.went c { s.cur.issuing with stack := stack, pathCount := 0 } ((stack.headD {}).pc.setWidth 57)) := by
  intro stack
  have hst' : s.cur.stack = (up ++ [frame]) ++ rest := by simp [hst]
  have hlen : (up ++ [frame]).length + rest.length ≤ 32 := by rw [hst', List.length_append] at hl; exact hl
  have hkept : stack.length ≤ 32 := by
    have : (leftOf s.cur.mask (up ++ [frame])).length ≤ (up ++ [frame]).length := (List.length_filter_le ..).trans_eq (List.length_map ..)
    rw [List.length_append]
    omega
  have hpop := popStack_chip (s := s.setCur s.cur.issuing) (s1 := s.setCur s.cur.issuing) (g := s.cur.issuing) (f := id) (pc := s.cur.issuing.herePc) hkept
  rw [State.setCur_setCur, State.cur_setCur] at hpop
  refine issue_went h.at_ h.checks h.clean (inBracket_of_closed hw) rfl ?_ h.at_.live
  simp only [Group.issuing_stack, Group.issuing_mask]
  rw [hst, splitFrame_append hup hf, ← hst, hst']
  dsimp only
  rw [State.restack_above _ _ _ _ _ hr hlen fun i hi _ => if_pos hi]
  exact hpop

end

/-! ### EXIT (R31, R128) -/

/-- The lanes of the path that an EXIT removes. -/
def Group.exits (g : Group) (f : FB) : Lanes := g.mask &&& g.pred (f.prs.toNat, f.pneg)

/-- A group whose lanes `x` have exited: their reservations are cleared. -/
def Group.leaves (g : Group) (x : Lanes) : Group := { g with exited := g.exited ||| x, resv := g.resv.filter fun p => !inSet x p.1 }

/-- A group on another stack, whose path count starts again (R33). -/
def Group.onStack (g : Group) (stack : List StackEntry) : Group := { g with stack := stack, pathCount := 0 }

/-- What is left of a stack on chip once the lanes that the path of `u` exits have left each entry. -/
theorem State.restack_exits (u : State) {f : FB} (g h : Group) (rest : List StackEntry) (base : StackEntry) (hr : rest.length < 32) :
    u.restack h (fun i => if i < 32 then g.mask &&& g.pred (f.prs.toNat, f.pneg) else 0) (numbered (rest ++ [base])) [] =
      .ok (u, leftOf (g.exits f) rest ++ [base.without (g.exits f)]) :=
  State.restack_numbered _ _ _ rest base hr fun _ hi => if_pos hi

theorem leftOf_length (x : Lanes) (l : List StackEntry) : (leftOf x l).length ≤ l.length := (List.length_filter_le ..).trans_eq (List.length_map ..)

section
variable {f : FB} {s : State} {c : Clause} (h : Issues (.exit f) s c) (hw : s.cur.widen = none)
include h hw

theorem execExit_none (hx : s.cur.exits f = 0) : execExit f s = .next (s.past c s.cur.issuing) :=
  issue_done h.at_ h.checks h.clean (inBracket_of_closed hw) rfl (if_pos (beq_iff_eq.2 hx))

variable (hx : s.cur.exits f ≠ 0)
include hx

/-- The last lanes exit: the group stands at its clause until it retires. -/
theorem execExit_last (hall : s.cur.exited ||| s.cur.exits f = 0xFFFFFFFF) :
    execExit f s = .next (s.went c
      { s.cur.issuing.leaves (s.cur.exits f) with stack := [{ (s.cur.stack.getLast?).getD {} with mask := 0 }] } s.cur.pc) := by
  have hlive : ({ s.cur.issuing.leaves (s.cur.exits f) with stack := [{ (s.cur.stack.getLast?).getD {} with mask := 0 }] } : Group).status = .live := by
    simp [Group.leaves, h.at_.live]
  refine issue_went h.at_ h.checks h.clean (inBracket_of_closed hw) rfl
    ((if_neg (mt beq_iff_eq.1 hx)).trans ((if_pos (beq_iff_eq.2 hall)).trans ?_)) hlive
  rw [State.setCur_setCur]
  simp only [Group.leaves, Group.exits, Group.issuing_stack, Group.issuing_mask, Group.issuing_pred, Group.issuing_pc]

variable (hall : s.cur.exited ||| s.cur.exits f ≠ 0xFFFFFFFF) {rest : List StackEntry} {base : StackEntry} (hst : s.cur.stack = rest ++ [base])
  (hl : s.cur.stack.length ≤ 32)
include hall hst hl

/-- Some lane of the path is left: it goes on. -/
theorem execExit_some (hsome : s.cur.mask &&& ~~~s.cur.exits f ≠ 0) :
    execExit f s = .next (s.past c
      { s.cur.issuing.leaves (s.cur.exits f) with stack := leftOf (s.cur.exits f) rest ++ [base.without (s.cur.exits f)] }) := by
  have hrest : rest.length < 32 := by simpa [hst] using hl
  have hre (g : Group) := (s.setCur s.cur.issuing).restack_exits (f := f) s.cur g rest base hrest
  refine issue_done h.at_ h.checks h.clean (inBracket_of_closed hw) rfl ((if_neg (mt beq_iff_eq.1 hx)).trans
    ((if_neg (mt beq_iff_eq.1 hall)).trans ((if_pos (bne_iff_ne.2 hsome)).trans ?_)))
  simp only [Group.issuing_stack, Group.issuing_mask, Group.issuing_pred, hst, hre, State.cur_setCur, State.setCur_setCur, Group.leaves, Group.exits]

omit hst hl in
/-- Every lane of the path exits: what is left of the entries below it is the stack, whose top runs. -/
theorem execExit_path (hnone : s.cur.mask &&& ~~~s.cur.exits f = 0) {stack : List StackEntry} (hlen : stack.length ≤ 32)
    (hre : ∀ g, (s.setCur s.cur.issuing).restack g (fun i => if i < 32 then s.cur.exits f else 0) (numbered (s.cur.stack.drop 1)) [] =
      .ok (s.setCur s.cur.issuing, stack)) :
    execExit f s = .next (s.went c ((s.cur.issuing.leaves (s.cur.exits f)).onStack stack) ((stack.headD {}).pc.setWidth 57)) := by
  have hlive : ((s.cur.issuing.leaves (s.cur.exits f)).onStack stack).status = .live := by simp [Group.leaves, Group.onStack, h.at_.live]
  refine issue_went h.at_ h.checks h.clean (inBracket_of_closed hw) rfl ((if_neg (mt beq_iff_eq.1 hx)).trans
    ((if_neg (mt beq_iff_eq.1 hall)).trans ((if_neg (mt bne_iff_ne.1 (not_not.2 hnone))).trans ?_))) hlive
  unfold Group.exits at hre
  simp only [Group.issuing_stack, Group.issuing_mask, Group.issuing_pred, hre]
  rw [popStack_chip hlen, State.cur_setCur, State.setCur_setCur]
  simp only [Group.leaves, Group.onStack, Group.exits]

end

/-- Going on past a word leaves the stack, the exited lanes and the reservations as the word's effect made them. -/
theorem State.past_frame (s : State) {c : Clause} {g : Group} (hl : g.status = .live) :
    (s.past c g).cur.exited = g.exited ∧ (s.past c g).cur.resv = g.resv ∧ (s.past c g).cur.stack = g.stack := by
  by_cases h : c.idx + 1 < c.words.length
  · rw [State.past_next hl h, State.cur_setCur]
    exact ⟨rfl, rfl, rfl⟩
  · rw [State.past_last hl h, State.cur_setCur]
    exact ⟨rfl, rfl, rfl⟩

@[simp] theorem Group.leaves_exited (g : Group) (x : Lanes) : (g.leaves x).exited = g.exited ||| x := rfl
@[simp] theorem Group.leaves_resv (g : Group) (x : Lanes) : (g.leaves x).resv = g.resv.filter fun p => !inSet x p.1 := rfl
@[simp] theorem Group.leaves_status (g : Group) (x : Lanes) : (g.leaves x).status = g.status := rfl
@[simp] theorem Group.leaves_pc (g : Group) (x : Lanes) : (g.leaves x).pc = g.pc := rfl

section
variable {f : FB} {s : State} {c : Clause} (h : Issues (.exit f) s c) (hw : s.cur.widen = none) (hx : s.cur.exits f ≠ 0)
  {rest : List StackEntry} {base : StackEntry} (hst : s.cur.stack = rest ++ [base]) (hl : s.cur.stack.length ≤ 32)
include h hw hx hst hl

/-- EXIT where some lanes leave: they are gone with their reservations, and the path, the one below it or none goes on. -/
theorem execExit_leaves : ∃ t, execExit f s = .next t ∧
    t.cur.exited = s.cur.exited ||| s.cur.exits f ∧ (t.cur.resv = s.cur.resv.filter fun p => !(s.cur.exits f).getLsbD p.1) ∧
    (s.cur.exited ||| s.cur.exits f ≠ 0xFFFFFFFF → s.cur.mask &&& ~~~s.cur.exits f ≠ 0 →
      t.cur.stack = leftOf (s.cur.exits f) rest ++ [base.without (s.cur.exits f)] ∧
      (c.idx + 1 < c.words.length → t.cur.clause = some { c with idx := c.idx + 1 } ∧ t.cur.pc = s.cur.pc) ∧
      (c.idx + 1 = c.words.length → t.cur.clause = none ∧ t.cur.pc = nextHeader s.cur c)) ∧
    (s.cur.exited ||| s.cur.exits f ≠ 0xFFFFFFFF → s.cur.mask &&& ~~~s.cur.exits f = 0 → ∀ top rest', rest = top :: rest' →
      t.cur.stack = leftOf (s.cur.exits f) rest' ++ [base.without (s.cur.exits f)] ∧ t.cur.clause = none ∧
      t.cur.pc = ((t.cur.stack.headD {}).pc.setWidth 57)) ∧
    (s.cur.exited ||| s.cur.exits f = 0xFFFFFFFF → t.cur.clause = none ∧ t.cur.status = .live) := by
  by_cases hall : s.cur.exited ||| s.cur.exits f = 0xFFFFFFFF
  · refine ⟨_, execExit_last h hw hx hall, ?_, ?_, (absurd hall ·), (absurd hall ·), fun _ => ⟨?_, ?_⟩⟩
    all_goals simp [State.went, Group.endClause, inSet, h.at_.live]
  by_cases hsome : s.cur.mask &&& ~~~s.cur.exits f = 0
  · cases rest with
    | nil =>
      have hdrop : s.cur.stack.drop 1 = [] := by simp [hst]
      refine ⟨_, execExit_path h hw hx hall hsome (stack := []) (Nat.zero_le _) (fun g => by rw [hdrop]; rfl), ?_, ?_, fun _ => (absurd hsome ·), nofun,
        (absurd · hall)⟩
      all_goals simp [State.went, Group.endClause, Group.onStack, inSet]
    | cons top rest =>
      have hdrop : s.cur.stack.drop 1 = rest ++ [base] := by simp [hst]
      have hrest : rest.length + 1 < 32 := by simpa [hst] using hl
      have hlen := leftOf_length (s.cur.exits f) rest
      refine ⟨_, execExit_path h hw hx hall hsome (stack := leftOf (s.cur.exits f) rest ++ [base.without (s.cur.exits f)]) (by rw [List.length_append, List.length_singleton]; omega)
        (fun g => by rw [hdrop]; exact State.restack_exits _ _ _ _ _ (Nat.lt_of_succ_lt hrest)), ?_, ?_, fun _ => (absurd hsome ·), ?_, (absurd · hall)⟩
      · simp [State.went, Group.endClause, Group.onStack]
      · simp [State.went, Group.endClause, Group.onStack, inSet]
      · rintro _ _ top rest ⟨⟩
        simp [State.went, Group.endClause, Group.onStack]
  · have hlive : ({ s.cur.issuing.leaves (s.cur.exits f) with stack := leftOf (s.cur.exits f) rest ++ [base.without (s.cur.exits f)] } : Group).status = .live := by
      simp [h.at_.live]
    refine ⟨_, execExit_some h hw hx hall hst hl hsome, ?_, ?_, fun _ _ => ⟨?_, fun hlt => ?_, fun heq => ?_⟩, fun _ hn => absurd hn hsome, (absurd · hall)⟩
    · exact (s.past_frame hlive).1
    · exact (s.past_frame hlive).2.1
    · exact (s.past_frame hlive).2.2
    · rw [State.past_next hlive hlt, State.cur_setCur]
      simp
    · rw [State.past_last hlive heq.not_lt, State.cur_setCur]
      simp [Group.endClause, nextHeader]

end

/-- Settles O18: each case of a word is the lemma that says it. -/
theorem callsAndExits : Obligations.CallsAndExits := by
  unfold Obligations.CallsAndExits
  refine ⟨fun f s c h hw => ?_, fun s c h hw => ⟨execRet_no_frame h hw, fun up frame rest => execRet_pops h hw⟩,
    fun f s c h hw hl => ⟨execExit_none h hw, fun hx rest base hst => execExit_leaves h hw hx hst hl⟩⟩
  simp only [← branchTarget_eq]
  exact ⟨execCall_onChip h hw, execCall_deep h hw⟩

end Sys2Proof.Machine
end

section
/-! O19, arrivals at a team barrier, BAR and BARRIVE (R37, R60, R126, R127). -/

namespace Sys2Proof.Machine

/-! ### The evaluation of a phase and one arrival (R37) -/

theorem ninsert_length {l : List Nat} {j : Nat} (h : j ∉ l) : (ninsert l j).length = l.length + 1 := by
  induction l with
  | nil => rfl
  | cons k l ih =>
    obtain ⟨hk, hl⟩ := not_or.1 (mt List.mem_cons.2 h)
    rw [ninsert, if_neg hk]
    split
    · rfl
    · rw [List.length_cons, ih hl, List.length_cons]

section
variable {b : Barrier}

/-- Too few have arrived or gone: the phase stays open. -/
theorem Barrier.eval_open (h : b.arr.length + b.gone.length < b.e) : b.eval = b := by
  simp [Barrier.eval, Nat.not_le.2 h]

/-- The phase completes, and no arrival is carried. -/
theorem Barrier.eval_completes (h : b.e ≤ b.arr.length + b.gone.length) (hc : b.carried = []) :
    b.eval = { b with arr := [], phases := b.phases + 1 } := by
  simp [Barrier.eval, h, hc]

/-- The phase completes, and the carried arrivals, which do not complete another, count in the next. -/
theorem Barrier.eval_carries (h : b.e ≤ b.arr.length + b.gone.length) (hc : b.carried.length + b.gone.length < b.e) :
    b.eval = { b with arr := b.carried, carried := [], phases := b.phases + 1 } := by
  simp [Barrier.eval, h, Nat.not_le.2 hc]

variable {gid : Nat}

theorem Barrier.arrive_first (h : gid ∉ b.arr) : b.arrive gid = some ({ b with arr := ninsert b.arr gid }.eval, b.phases + 1) :=
  if_neg (mt List.contains_iff_mem.1 h)

theorem Barrier.arrive_again (h : gid ∈ b.arr) (hc : gid ∉ b.carried) :
    b.arrive gid = some ({ b with carried := ninsert b.carried gid }.eval, b.phases + 2) :=
  (if_pos (List.contains_iff_mem.2 h)).trans (if_neg (mt List.contains_iff_mem.1 hc))

theorem Barrier.arrive_carried (h : gid ∈ b.arr) (hc : gid ∈ b.carried) : b.arrive gid = none :=
  (if_pos (List.contains_iff_mem.2 h)).trans (if_pos (List.contains_iff_mem.2 hc))

end

/-! ### Words that act once for the lanes of the path (R34) -/

/-- ACTIVE of a word without a predicate is the path. -/
theorem Group.active_unpredicated (g : Group) : g.active' (0, false) = g.mask := BitVec.and_allOnes

section
variable {i : Info} {s : State} {c : Clause} {illegal poison : State → Group → Bool} {eff : State → Group → Eff}

/-- A word that does not issue now: its group tries again, as `g`. -/
theorem issue_stays {g : Group} (h : AtWord s c) (hc : checkWord i s.cur c = none) (hp : readsPoison i s.cur = false)
    (hi : illegal s s.cur = false) (hq : poison s s.cur = false)
    (he : eff (s.setCur s.cur.issuing) s.cur.issuing = .stall (s.setCur g)) :
    issue i illegal poison eff s = .next (s.stays g) := by
  have hg : (s.setCur g).group s.who = g := State.cur_setCur ..
  rw [issue_passed h hc hp illegal poison hi hq, he]
  dsimp only
  rw [hg]
  exact congrArg Host.Outcome.next (State.setCur_setCur ..)

end

/-! ### BAR and BARRIVE (R126, R127) -/

/-- The team of an arrival that makes `b` of barrier `n`, with the note of a phase that completes (R60). -/
def Team.arrives (t : Team) (n cycle : Nat) (b : Barrier) : Team :=
  { t with bars := tset t.bars n b, barDone := if (t.bar n).phases = b.phases then t.barDone else tset t.barDone n (cycle, false) }

theorem Team.arrives_eq (t : Team) (n cycle : Nat) (b : Barrier) :
    { t with bars := tset t.bars n b, barDone := t.barNoted n b cycle false } = t.arrives n cycle b := by
  unfold Team.arrives Team.barNoted
  by_cases h : (t.bar n).phases = b.phases <;> simp [h]

/-- The effect that BAR and BARRIVE share: the word is held while an earlier access is unperformed and in the cycle of a write of E that has completed the phase; then the arrival is counted, or the group carries one already. -/
def arrivalEff (n : Nat) (counted : State → Group → Barrier → Nat → Eff) (carried : State → Group → Eff) (s : State) (g : Group) : Eff :=
  if g.unperformed then .stall (if g.faultParked then s.setCur { g with wait := .fault } else s)
  else if tget (s.teamOf g).barDone n == some (s.cycle, true) then .stall s
  else match ((s.teamOf g).bar n).arrive g.gid with
    | some (b, u) => counted s g b u
    | none => carried s g

/-- The state in which an arrival of the group `g` has made `b` of barrier `n` of its team. -/
def State.barrierNow (s : State) (g : Group) (n : Nat) (b : Barrier) : State := s.setTeam g.team ((s.teamOf g).arrives n s.cycle b)

theorem execBar_eq (f : FS) (s : State) : execBar f s = issue (Instr.info (.bar f)) never never (whenActive (Instr.info (.bar f))
    (arrivalEff f.mod.toNat (fun s g b u => .done ((s.barrierNow g f.mod.toNat b).setCur { g with wait := .bar f.mod.toNat u }))
      fun s g => .done (s.setCur { g with wait := .barCarry f.mod.toNat (((s.teamOf g).bar f.mod.toNat).phases + 1) }))) s := by
  simp only [State.barrierNow, ← Team.arrives_eq]
  rfl

theorem execBarrive_eq (f : FS) (s : State) : execBarrive f s = issue (Instr.info (.barrive f)) never never (whenActive (Instr.info (.barrive f))
    (arrivalEff f.mod.toNat (fun s g b _ => .done (s.barrierNow g f.mod.toNat b))
      fun s g => .stall (s.setCur { g with wait := .barCarry f.mod.toNat (((s.teamOf g).bar f.mod.toNat).phases + 1) }))) s := by
  simp only [State.barrierNow, ← Team.arrives_eq]
  rfl

@[simp] theorem Group.issuing_unperformed (g : Group) : g.issuing.unperformed = g.unperformed := rfl
@[simp] theorem Group.issuing_faultParked (g : Group) : g.issuing.faultParked = g.faultParked := rfl

section
variable {i : Info} {s : State} {c : Clause} {n : Nat} {counted : State → Group → Barrier → Nat → Eff} {carried : State → Group → Eff}
  (hpred : i.pred = (0, false)) (h : AtWord s c) (hc : checkWord i s.cur c = none) (hp : readsPoison i s.cur = false)
include hpred h hc hp

/-- With no lane on the path an arrival does nothing. -/
theorem issue_arrival_off (hm : s.cur.mask = 0) : issue i never never (whenActive i (arrivalEff n counted carried)) s = .next (s.past c s.cur.issuing) := by
  have hact : s.cur.issuing.active' i.pred = 0 := by rw [hpred, Group.issuing_active, Group.active_unpredicated, hm]
  exact issue_done h hc hp rfl rfl (whenActive_off hact)

variable (hm : s.cur.mask ≠ 0)
include hm

omit h hc hp in
theorem arrival_on : whenActive i (arrivalEff n counted carried) (s.setCur s.cur.issuing) s.cur.issuing =
    arrivalEff n counted carried (s.setCur s.cur.issuing) s.cur.issuing :=
  whenActive_on (by rwa [hpred, Group.issuing_active, Group.active_unpredicated])

/-- An arrival is held while an earlier access is unperformed, and in the cycle of a write of E that has completed the phase. -/
theorem issue_arrival_held (hu : s.cur.unperformed = true ∧ s.cur.faultParked = false ∨
      s.cur.unperformed = false ∧ tget (s.teamOf s.cur).barDone n = some (s.cycle, true)) :
    issue i never never (whenActive i (arrivalEff n counted carried)) s = .next (s.stays { s.cur with wait := .none }) := by
  refine (issue_stays h hc hp rfl rfl (g := s.cur.issuing) ((arrival_on hpred hm).trans ?_)).trans rfl
  obtain ⟨hu, hf⟩ | ⟨hu, ht⟩ := hu
  · simp [arrivalEff, hu, hf]
  · have ht' : tget ((s.setCur s.cur.issuing).teamOf s.cur.issuing).barDone n = some (s.cycle, true) := ht
    simp [arrivalEff, hu, ht']

variable (hu : s.cur.unperformed = false) (ht : tget (s.teamOf s.cur).barDone n ≠ some (s.cycle, true))
include hu ht

omit h hc hp in
/-- Otherwise what it does is what the barrier makes of the arrival. -/
theorem arrival_counts : whenActive i (arrivalEff n counted carried) (s.setCur s.cur.issuing) s.cur.issuing =
    match ((s.teamOf s.cur).bar n).arrive s.cur.gid with
    | some (b, u) => counted (s.setCur s.cur.issuing) s.cur.issuing b u
    | none => carried (s.setCur s.cur.issuing) s.cur.issuing := by
  have ht' : ¬ (tget ((s.setCur s.cur.issuing).teamOf s.cur.issuing).barDone n == some (s.cycle, true)) = true := mt beq_iff_eq.1 ht
  refine (arrival_on hpred hm).trans ((if_neg ?_).trans (if_neg ht'))
  simp [hu]

end

section
variable {s : State} {c : Clause} {f : FS}

/-- After BAR the group waits for the phase that its arrival counts in. -/
theorem execBar_arrives (h : Issues (.bar f) s c) (hm : s.cur.mask ≠ 0) (hu : s.cur.unperformed = false)
    (ht : tget (s.teamOf s.cur).barDone f.mod.toNat ≠ some (s.cycle, true)) {b : Barrier} {u : Nat}
    (ha : ((s.teamOf s.cur).bar f.mod.toNat).arrive s.cur.gid = some (b, u)) :
    execBar f s = .next ((s.barrierNow s.cur f.mod.toNat b).past c { s.cur.issuing with wait := .bar f.mod.toNat u }) := by
  rw [execBar_eq]
  refine issue_done h.at_ h.checks h.clean rfl rfl ((arrival_counts rfl hm hu ht).trans ?_)
  rw [ha]
  exact congrArg Eff.done (State.setCur_setCur (s.barrierNow s.cur f.mod.toNat b) s.cur.issuing _)

/-- After BAR a group that carries an arrival waits to make its next one. -/
theorem execBar_carries (h : Issues (.bar f) s c) (hm : s.cur.mask ≠ 0) (hu : s.cur.unperformed = false)
    (ht : tget (s.teamOf s.cur).barDone f.mod.toNat ≠ some (s.cycle, true))
    (ha : ((s.teamOf s.cur).bar f.mod.toNat).arrive s.cur.gid = none) :
    execBar f s = .next (s.past c { s.cur.issuing with wait := .barCarry f.mod.toNat (((s.teamOf s.cur).bar f.mod.toNat).phases + 1) }) := by
  rw [execBar_eq]
  refine issue_done h.at_ h.checks h.clean rfl rfl ((arrival_counts rfl hm hu ht).trans ?_)
  rw [ha]
  exact congrArg Eff.done (State.setCur_setCur ..)

/-- After BARRIVE the group goes on. -/
theorem execBarrive_arrives (h : Issues (.barrive f) s c) (hm : s.cur.mask ≠ 0) (hu : s.cur.unperformed = false)
    (ht : tget (s.teamOf s.cur).barDone f.mod.toNat ≠ some (s.cycle, true)) {b : Barrier} {u : Nat}
    (ha : ((s.teamOf s.cur).bar f.mod.toNat).arrive s.cur.gid = some (b, u)) :
    execBarrive f s = .next ((s.barrierNow s.cur f.mod.toNat b).past c s.cur.issuing) := by
  rw [execBarrive_eq]
  refine issue_done h.at_ h.checks h.clean rfl rfl ((arrival_counts rfl hm hu ht).trans ?_)
  rw [ha]
  rfl

/-- A group that carries an arrival waits at its BARRIVE for the phase to complete. -/
theorem execBarrive_waits (h : Issues (.barrive f) s c) (hm : s.cur.mask ≠ 0) (hu : s.cur.unperformed = false)
    (ht : tget (s.teamOf s.cur).barDone f.mod.toNat ≠ some (s.cycle, true))
    (ha : ((s.teamOf s.cur).bar f.mod.toNat).arrive s.cur.gid = none) :
    execBarrive f s = .next (s.stays { s.cur with wait := .barCarry f.mod.toNat (((s.teamOf s.cur).bar f.mod.toNat).phases + 1) }) := by
  rw [execBarrive_eq]
  refine (issue_stays h.at_ h.checks h.clean rfl rfl (g := { s.cur.issuing with wait := .barCarry f.mod.toNat (((s.teamOf s.cur).bar f.mod.toNat).phases + 1) })
    ((arrival_counts rfl hm hu ht).trans ?_)).trans rfl
  rw [ha]
  exact congrArg Eff.stall (State.setCur_setCur ..)

end

/-- Settles O19: each case of an arrival is the lemma that says it. -/
theorem teamBarriers : Obligations.TeamBarriers := by
  unfold Obligations.TeamBarriers
  refine ⟨fun b gid => ⟨fun h ho => ?_, fun h he hc => ?_, fun h he _ hc => ?_, fun h hc ho => ?_, Barrier.arrive_carried⟩,
    fun f s c => ⟨fun h => ?_, fun h => ?_⟩⟩
  · exact (Barrier.arrive_first h).trans (congrArg (fun x => some (x, b.phases + 1)) (Barrier.eval_open (b := { b with arr := ninsert b.arr gid }) (by rwa [ninsert_length h])))
  · exact (Barrier.arrive_first h).trans (congrArg (fun x => some (x, b.phases + 1)) (Barrier.eval_completes (b := { b with arr := ninsert b.arr gid }) (by rwa [ninsert_length h]) hc))
  · exact (Barrier.arrive_first h).trans (congrArg (fun x => some (x, b.phases + 1)) (Barrier.eval_carries (b := { b with arr := ninsert b.arr gid }) (by rwa [ninsert_length h]) hc))
  · exact (Barrier.arrive_again h hc).trans (congrArg (fun x => some (x, b.phases + 2)) (Barrier.eval_open (b := { b with carried := ninsert b.carried gid }) ho))
  · have heq : exec (.bar f) s = execBar f s := rfl
    simp only [heq]
    refine ⟨fun hm => ?_, fun hm hu hf => ?_, fun hm hu ht => ?_, fun hm hu ht b u => execBar_arrives h hm hu ht, fun hm hu ht => execBar_carries h hm hu ht⟩ <;> rw [execBar_eq]
    · exact issue_arrival_off rfl h.at_ h.checks h.clean hm
    · exact issue_arrival_held rfl h.at_ h.checks h.clean hm (.inl ⟨hu, hf⟩)
    · exact issue_arrival_held rfl h.at_ h.checks h.clean hm (.inr ⟨hu, ht⟩)
  · have heq : exec (.barrive f) s = execBarrive f s := rfl
    simp only [heq]
    refine ⟨fun hm => ?_, fun hm hu hf => ?_, fun hm hu ht => ?_, fun hm hu ht b u => execBarrive_arrives h hm hu ht, fun hm hu ht => execBarrive_waits h hm hu ht⟩ <;>
      rw [execBarrive_eq]
    · exact issue_arrival_off rfl h.at_ h.checks h.clean hm
    · exact issue_arrival_held rfl h.at_ h.checks h.clean hm (.inl ⟨hu, hf⟩)
    · exact issue_arrival_held rfl h.at_ h.checks h.clean hm (.inr ⟨hu, ht⟩)

end Sys2Proof.Machine
end

section
/-! O51, the end of a grid and its successors (R46, R319, R321). -/

namespace Sys2Proof.Machine

/-! ### The write-combining entries of a task (15 R174) -/

/-- The entries of task `k` in context `ctx`. -/
def ofTask (k ctx : Nat) (e : WcbEntry) : Bool := e.task == k && e.ctx == ctx

/-- Every core sends its entries of task `k`. -/
def State.drainTask (s : State) (k ctx : Nat) : State := (tkeys s.cores).foldl (fun s c => s.wcbSendAll c (ofTask k ctx)) s

theorem State.wcbSendAll_none {s : State} {c : Nat} {p : WcbEntry → Bool} (h : ∀ e ∈ (s.core c).wcb, p e = false) : s.wcbSendAll c p = s := by
  have hnil : (s.core c).wcb.filter p = [] := List.filter_eq_nil_iff.2 fun e he => by simp [h e he]
  rw [State.wcbSendAll, hnil, List.foldl_nil]

/-- Where no core holds an entry of the task there is nothing to send. -/
theorem State.drainTask_none {s : State} {k ctx : Nat} (h : ∀ c, ∀ e ∈ (s.core c).wcb, ofTask k ctx e = false) : s.drainTask k ctx = s := by
  suffices ∀ l : List Nat, l.foldl (fun s c => s.wcbSendAll c (ofTask k ctx)) s = s from this _
  intro l
  induction l with
  | nil => rfl
  | cons c l ih => rw [List.foldl_cons, State.wcbSendAll_none (h c), ih]

/-! ### GRID_END (R46) -/

/-- What is left of GRID_END once the state, `s3`, shows STATE 3: the successors, and STATE 5 where an entry was bad. -/
def State.endSuccessors (s2 s3 : State) (k ctx list n : Nat) : Host.Outcome State Fault Refusal :=
  match s3.successors ctx list n with
  | .error _ => .next s2
  | .ok (s4, true) => .next s4
  | .ok (s4, false) => .next ((s4.tcbState k 5 0).getD s4)

section
variable {s s1 : State} (hover : s.gridOver s.who = true) (hflush : s.flushCores (s.task s.who).ctx (tkeys s.cores) = .ok (s1, ()))
include hover hflush

/-- The end of the grid waits for the acknowledgement of each entry that it has sent. -/
theorem execGridEnd_waits (h : ((s1.drainTask s.who (s.task s.who).ctx).cores.any fun p => p.2.wcb.any (ofTask s.who (s.task s.who).ctx)) = true) :
    execGridEnd s = .next (s1.drainTask s.who (s.task s.who).ctx) := by
  unfold execGridEnd
  simp only [hover, hflush]
  exact if_pos h

/-- With no entry left STATE becomes 3, and the successors are gone through. -/
theorem execGridEnd_ends (hcores : ∀ p ∈ s1.cores, ∀ e ∈ p.2.wcb, ofTask s.who (s.task s.who).ctx e = false)
    (hcore : ∀ c, ∀ e ∈ (s1.core c).wcb, ofTask s.who (s.task s.who).ctx e = false) {s3 : State}
    (h3 : (s1.setTask s.who { s.task s.who with done := true }).tcbState s.who 3 0 = some s3) {sa sb : State} {n list : Nat}
    (hn : s3.devRead (s.task s.who).ctx ((s.task s.who).tcb + 0x4C) 2 = .ok (sa, n))
    (hlist : s3.devRead (s.task s.who).ctx ((s.task s.who).tcb + 0x50) 8 = .ok (sb, list)) :
    execGridEnd s = s1.endSuccessors s3 s.who (s.task s.who).ctx list n := by
  have hsent : (tkeys s1.cores).foldl (fun s' c => s'.wcbSendAll c fun e => e.task == s.who && e.ctx == (s.task s.who).ctx) s1 = s1 :=
    State.drainTask_none hcore
  have hnone : (s1.cores.any fun p => p.2.wcb.any fun e => e.task == s.who && e.ctx == (s.task s.who).ctx) = false :=
    List.any_eq_false.2 fun p hp => List.any_eq_true.not.2 fun ⟨e, he, hm⟩ => absurd ((hcores p hp e he).symm.trans hm) Bool.false_ne_true
  unfold execGridEnd
  simp only [hover, hflush, hsent, hnone, h3, hn, hlist]
  rfl

end

/-! ### The successors (R321) -/

theorem isCanonical_of_lt {a : Nat} (h : a < 2 ^ 56) : isCanonical a = true := decide_eq_true (by omega)

theorem isRemote_of_lt {a : Nat} (h : a < 2 ^ 56) : isRemote a = false := by
  rw [isRemote, Nat.div_eq_of_lt h]
  rfl

/-- A successor whose PRED can be written: PRED is decremented, and never below 0. -/
theorem State.succeed_ok {s s1 : State} {ctx tcb : Nat} {l : LlcLine} (htcb : tcb < 2 ^ 56) (hl : s.homeLine (s.devReq ctx (tcb + 0x40)) = .ok (s1, l))
    (hw : l.attrs.w = true) (hfull : s1.pageFull (s.devReq ctx (tcb + 0x40)).asid (tcb + 0x40) = false) (hp : l.poison = false) :
    s.succeed ctx tcb = .ok (if lineNat l.data ((tcb + 0x40) % 128) 4 = 0 then s1 else
      s1.homeWrite (s.devReq ctx (tcb + 0x40)) l (byteMask ((tcb + 0x40) % 128) 4)
        (lineSet l.data ((tcb + 0x40) % 128) 4 (lineNat l.data ((tcb + 0x40) % 128) 4 - 1)) 0 false, true) := by
  have hva : (s.devReq ctx (tcb + 0x40)).va = tcb + 0x40 := rfl
  simp [State.succeed, isCanonical_of_lt htcb, isRemote_of_lt htcb, hl, hw, hva, hfull, hp]

/-- An address that names no byte of the device. -/
theorem State.devBytes_bad {s : State} {ctx a n : Nat} (h : isCanonical a = false ∨ isRemote a = true) : s.devBytes ctx a n = .error .violation :=
  if_pos (by obtain h | h := h <;> simp [h])

/-- Bytes that stand in one line. -/
theorem State.devBytes_line {s : State} {ctx a n : Nat} (hc : isCanonical a = true) (hr : isRemote a = false) (hn : a % 128 + n ≤ 128) :
    s.devBytes ctx a n = s.devRead ctx a n := by
  have hk : min n (128 - a % 128) = n := Nat.min_eq_left (by omega)
  simp only [State.devBytes, hc, hr, hk]
  cases s.devRead ctx a n <;> rfl

section
variable {s s1 : State} {ctx list n : Nat} {good : Bool} (h : s.successors ctx list n = .ok (s1, good))
include h

/-- An entry at an address that is remote or not canonical is recorded with that address. -/
theorem State.successors_bad (hbad : isCanonical ((list + 8 * n) % 2 ^ 64) = false ∨ isRemote ((list + 8 * n) % 2 ^ 64) = true) :
    s.successors ctx list (n + 1) =
      .ok (s1.setCtx ctx ((s1.ctx ctx).recordAt s1.cycle 256 0 0 0x04 ((list + 8 * n) % 2 ^ 64)), false) := by
  simp only [State.successors, h, State.devBytes_bad hbad]
  rfl

/-- Entry `n` is the 8 bytes at SUCCL + 8n. -/
theorem State.successors_entry (hc : isCanonical ((list + 8 * n) % 2 ^ 64) = true) (hr : isRemote ((list + 8 * n) % 2 ^ 64) = false)
    (hline : (list + 8 * n) % 2 ^ 64 % 128 ≤ 120) {s2 s3 : State} {tcb : Nat} {ok : Bool}
    (h2 : s1.devRead ctx ((list + 8 * n) % 2 ^ 64) 8 = .ok (s2, tcb)) (h3 : s2.succeed ctx tcb = .ok (s3, ok)) :
    s.successors ctx list (n + 1) =
      .ok (if ok then (s3, good) else (s3.setCtx ctx ((s3.ctx ctx).recordAt s3.cycle 256 0 0 0x04 ((list + 8 * n) % 2 ^ 64)), false)) := by
  simp only [State.successors, h, State.devBytes_line hc hr (Nat.add_le_add_right hline 8), h2, h3]
  cases ok <;> rfl

end

/-- Settles O51, by the outcomes of GRID_END, of one successor and of the list of successors. -/
theorem gridEnds : Obligations.GridEnds := by
  unfold Obligations.GridEnds
  refine ⟨fun s s1 => ?_, fun s s1 ctx tcb l htcb hl hw hfull hp => ⟨fun hn => ?_, fun hn => ?_⟩,
    fun s ctx list n s1 good h => ⟨State.successors_bad h, fun hc hr hline s2 tcb s3 ok => State.successors_entry h hc hr hline⟩⟩
  · intro k tk mine hover hflush sent
    refine ⟨execGridEnd_waits hover hflush, fun hcores hcore s3 h3 sa n sb list hn hlist => ?_⟩
    have hend : exec .gridEnd s = s1.endSuccessors s3 k tk.ctx list n := execGridEnd_ends hover hflush hcores hcore h3 hn hlist
    rw [hend, State.endSuccessors]
    refine ⟨fun h0 => ?_, fun s4 h4 => ?_, fun s4 s5 h4 h5 => ?_⟩
    · rw [h0, State.successors]
    · rw [h4]
    · rw [h4]
      exact congrArg (fun o => Host.Outcome.next (o.getD s4)) h5
  · exact (State.succeed_ok htcb hl hw hfull hp).trans (congrArg (fun x => (.ok (x, true) : MemR Bool)) (if_pos hn))
  · exact (State.succeed_ok htcb hl hw hfull hp).trans (congrArg (fun x => (.ok (x, true) : MemR Bool)) (if_neg hn))

end Sys2Proof.Machine
end

section
/-! O48, the active and pending sets, path switches and retirement (R25, R27, R28, R33, R38, R45). -/

namespace Sys2Proof.Machine

/-! ### Entering and leaving the active set (R25, R27, R28) -/

section
variable {s : State}

/-- The group's next clause waits for a load, a copy or a token (R27). -/
def State.awaits (s : State) (u : Nat) (w : FW) (s1 : State) : Prop :=
  (w.wld ≠ 63 ∧ w.wld.toNat < (s.group u).loads) ∨ (w.wcp ≠ 15 ∧ w.wcp.toNat < s1.copiesFor (s.group u)) ∨
    ∃ t, t < 8 ∧ w.tokw.getLsbD t = true ∧ s1.tokenFor (s.group u) u t = false

theorem State.longWait_absent {u : Nat} (h : ∃ ls, (s.group u).wait = .absent ls) : s.longWait u = true := by
  obtain ⟨ls, h⟩ := h
  simp [State.longWait, h]

theorem State.longWait_stage {u n q : Nat} {full phase : Bool} (h : (s.group u).wait = .rwait n q full phase) : s.longWait u = true := by
  simp [State.longWait, h]

theorem State.longWait_clause {u : Nat} {s1 : State} {hd : Header} {ws : List W64} (hw : (s.group u).wait = .none) (hc : (s.group u).clause = none)
    (hr : (s.group u).resume = none) (ha : (s.group u).armed = []) (hf : s.fetchClause (s.group u) = .clause s1 hd ws)
    (h : s.awaits u ((s.group u).allWaits hd) s1) : s.longWait u = true := by
  simp only [State.longWait, hw, hc, hr, ha, hf]
  obtain ⟨h1, h2⟩ | ⟨h1, h2⟩ | ⟨t, ht, h1, h2⟩ := h
  · have h1 : ¬ ((s.group u).allWaits hd).wld = 63#6 := h1
    simp [h1, h2]
  · have h1 : ¬ ((s.group u).allWaits hd).wcp = 15#4 := h1
    simp [h1, h2]
  · have hall : ((List.range 8).all fun t => !((s.group u).allWaits hd).tokw.getLsbD t || s1.tokenFor (s.group u) u t) = false :=
      List.all_eq_false.2 ⟨t, List.mem_range.2 ht, by simp [h1, h2]⟩
    simp [hall]

/-- An active group in a long-latency wait exchanges places with the oldest ready pending group (R27). -/
theorem execClauseBegin_swaps {p : Nat} (hp : s.oldestPending (s.coreOf s.cur) (s.cur.gid % 4) = some p) (hl : s.cur.status = .live)
    (ha : s.cur.active = true) (hn : ¬ (s.atBoundary s.who = true ∧ s.switchNow s.who = true)) (hw : s.longWait s.who = true) :
    execClauseBegin s = .next ((s.leaveActive s.who).enterActive p) := by
  have hcur : s.group s.who = s.cur := rfl
  have hdue : s.swapsOut s.who = true := by
    have hn : (s.atBoundary s.who && s.switchNow s.who) = false := by rwa [← Bool.not_eq_true, Bool.and_eq_true]
    simp only [State.swapsOut, hcur, hl, ha, hw, hp, hn]
    rfl
  have hout : s.swapOut s.who = (s.leaveActive s.who).enterActive p := by simp [State.swapOut, hcur, ha, hp]
  rw [execClauseBegin, if_pos hdue, hout]

/-- The oldest ready pending group enters a free place (R25, R26). -/
theorem execPendingEnter_enters (hp : s.who ∈ s.pendings (s.coreOf s.cur) (s.cur.gid % 4)) (hr : (s.actives (s.coreOf s.cur) (s.cur.gid % 4)).length < 8)
    (ho : s.oldestPending (s.coreOf s.cur) (s.cur.gid % 4) = some s.who) : execPendingEnter s = .next (s.enterActive s.who) :=
  if_pos (by simp [hp, State.hasRoom, hr, ho])

/-- The victim: the oldest group that is not ready, or the youngest where all are (R28). -/
theorem State.victim_eq {core k v : Nat} (h : firstBy (fun u => (s.group u).age) ((s.actives core k).filter fun u => !s.ready u) = some v ∨
      ((∀ u ∈ s.actives core k, s.ready u = true) ∧ firstBy (fun u => s.nextId - (s.group u).age) (s.actives core k) = some v)) :
    s.victim core k = some v := by
  obtain h | ⟨hall, h⟩ := h
  · simp only [State.victim, h]
  · have hnil : ((s.actives core k).filter fun u => !s.ready u) = [] := List.filter_eq_nil_iff.2 fun u hu => by simp [hall u hu]
    simp only [State.victim, hnil, firstBy, h]

/-- A group that has been ready for 1,024 cycles takes the victim's place at its boundary (R28). -/
theorem execForcedSwap_displaces {d v : Nat} (hp : s.who ∈ s.pendings (s.coreOf s.cur) (s.cur.gid % 4)) (hr : s.ready s.who = true)
    (hd : s.cur.readySince = some d) (hc : d + 1024 ≤ s.cycle) (hv : s.victim (s.coreOf s.cur) (s.cur.gid % 4) = some v)
    (hb : (s.group v).clause = none) : execForcedSwap s = .next ((s.leaveActive v).enterActive s.who) := by
  have hcur : s.group s.who = s.cur := rfl
  have hdue : s.swapDue (s.coreOf s.cur) (s.cur.gid % 4) s.who = some v := by simp [State.swapDue, hcur, hd, hv, hp, hr, hc, hb]
  simp only [execForcedSwap, hdue]

end

/-! ### Path switches (R33) -/

section
variable {s : State} {top below : StackEntry} {rest : List StackEntry}

/-- The group `g` after the running path and the one directly below it have exchanged places. -/
def Group.switch (g : Group) (top below : StackEntry) (rest : List StackEntry) : Group :=
  { g with stack := below :: { top with pc := g.pc.setWidth 64 } :: rest, pathCount := 0, pc := below.pc.setWidth 57, wait := .none,
           resv := g.resv.filter fun p => !inSet top.mask p.1 }

theorem Group.switchDue_of {g : Group} (hst : g.stack = top :: below :: rest) (heq : top.rcv = below.rcv) (hr : g.resume = none)
    (hw : g.widen = none) (hm : g.mode = .user) (hq : g.pathq.toNat ≤ g.pathCount) (h1 : top.rcv ≠ 1) (h3 : top.rcv ≠ 3) :
    g.switchDue = true := by
  have hm1 : (top.rcv != 1) = true := bne_iff_ne.2 h1
  have hm3 : (top.rcv != 3) = true := bne_iff_ne.2 h3
  simp only [Group.switchDue, hst, hr, hw, hm, hq, ← heq, hm1, hm3, beq_self_eq_true, decide_true]
  rfl

theorem State.switched_onChip {u : Nat} (hd : (s.group u).switchDue = true) (hst : (s.group u).stack = top :: below :: rest)
    (hlen : rest.length + 2 ≤ 32) : s.switched u = some (s.setGroup u ((s.group u).switch top below rest)) := by
  have hsettle : s.settle (s.group u) (below :: rest) = .ok (s, below :: rest) := s.settle_onChip _ below (by omega)
  have hspill : s.spillWrites (s.group u) [(rest.length, { top with pc := (s.group u).pc.setWidth 64 }), (rest.length + 1, below)] = .ok (s, ()) :=
    s.spillWrites_onChip _ (by simp; omega)
  simp only [State.switched, hd, hst, hsettle, List.length_cons, beq_self_eq_true, if_true, List.headD_cons, hspill]
  rfl

theorem State.gateOpen_of_switch (h : s.cur.wait = .none ∨ ∃ n u, s.cur.wait = .bar n u ∧ u ≤ ((s.teamOf s.cur).bar n).phases) :
    s.gateOpen s.cur = true := by
  obtain h | ⟨n, u, h, hu⟩ := h
  · simp [State.gateOpen, h]
  · simpa [State.gateOpen, h] using hu

/-- The running path exchanges places with the one directly below it. -/
theorem execPathSwitch_exchanges (hb : s.atBoundary s.who = true)
    (hw : s.cur.wait = .none ∨ ∃ n u, s.cur.wait = .bar n u ∧ u ≤ ((s.teamOf s.cur).bar n).phases)
    (hd : s.cur.switchDue = true) (hst : s.cur.stack = top :: below :: rest) (hlen : rest.length + 2 ≤ 32) :
    execPathSwitch s = .next (s.setCur (s.cur.switch top below rest)) := by
  have hsw : s.switched s.who = some (s.setCur (s.cur.switch top below rest)) := State.switched_onChip hd hst hlen
  have hgate : s.gateOpen (s.group s.who) = true := State.gateOpen_of_switch hw
  have hnow : s.switchNow s.who = true := by
    have hcur : s.group s.who = s.cur := rfl
    rw [hcur] at hgate
    obtain h | ⟨n, u, h, -⟩ := hw <;> simp [State.switchNow, hcur, hgate, hsw, h]
  rw [execPathSwitch, hb, hnow, hsw]
  rfl

end

/-! ### Retirement and the end of a team (R38, R45) -/

section
variable {s : State}

/-- The group once it has retired. -/
def Group.retired (g : Group) : Group := { g with status := .retired, resv := [], wait := .none, armed := [] }

/-- The state in which group `s.who` has retired, and counts as arrived at every barrier. -/
def State.retires (s : State) : State := (s.setCur s.cur.retired).groupGone s.who

theorem execGroupRetire_retires (hl : s.cur.status = .live) (hx : s.cur.exited = 0xFFFFFFFF) (hc : s.cur.clause = none) (hp : s.cur.pend = [])
    (hm : s.cur.moves = []) : execGroupRetire s = .next (s.retires.endTeam s.cur.team) := by
  rw [execGroupRetire, if_pos (by simp [hl, hx, hc, hp, hm])]
  rfl

theorem State.groupGone_eq (s : State) (u : Nat) :
    s.groupGone u = s.setTeam (s.group u).team ((s.team (s.group u).team).barsGo (s.group u).gid) := rfl

theorem State.retires_eq (s : State) : s.retires = (s.setCur s.cur.retired).setTeam s.cur.team ((s.team s.cur.team).barsGo s.cur.gid) := by
  rw [State.retires, State.groupGone_eq, State.setCur_eq, State.group_setGroup_self, State.setGroup_team_read]
  rfl

theorem State.retires_group (s : State) : s.retires.group s.who = s.cur.retired := by
  rw [s.retires_eq, State.setTeam_group_read, State.setCur_eq, State.group_setGroup_self]

@[simp] theorem Team.barsGo_live (t : Team) (gid : Nat) : (t.barsGo gid).live = t.live := by dsimp only [Team.barsGo]
@[simp] theorem Team.barsGo_share (t : Team) (gid : Nat) : (t.barsGo gid).share = t.share := by dsimp only [Team.barsGo]

/-- A team with a live group goes on. -/
theorem State.endTeam_goes_on {team : Nat} (h : ∃ p ∈ s.groups, p.2.team = team ∧ p.2.status = .live) : s.endTeam team = s := by
  obtain ⟨p, hp, ht, hl⟩ := h
  refine if_pos ((Bool.or_eq_true ..).mpr (.inr (List.any_eq_true.2 ⟨p, List.mem_filter.2 ⟨hp, ?_⟩, ?_⟩))) <;> simp [ht, hl]

/-- What an ended team is left with. -/
def Team.ended (t : Team) : Team :=
  { t with live := false, spad := [], absent := [], spadPoison := [], rings := [], bars := [], regroup := none,
           arrived := [], stopped := [], save := .running, again := false, kept := [] }

/-- A team with no live group, and with nothing of it open, ends. -/
theorem State.endTeam_ends {team : Nat} (hlive : (s.team team).live = true)
    (hg : ∀ p ∈ s.groups, p.2.team = team → p.2.status ≠ .live ∧ p.2.pend = [] ∧ p.2.moves = [])
    (hshare : (s.team team).share = none) (hops : ∀ p ∈ s.ops, p.2.team ≠ team) :
    s.endTeam team = s.setTeam team (s.team team).ended := by
  have hmem : ∀ p ∈ s.membersOf team, p.2.status ≠ .live ∧ p.2.pend = [] ∧ p.2.moves = [] := fun p hp =>
    hg p (List.mem_filter.1 hp).1 (by simpa using ((Bool.and_eq_true ..).mp (List.mem_filter.1 hp).2).1)
  have hnone : ((s.membersOf team).any fun p => p.2.status == .live) = false :=
    List.any_eq_false.2 fun p hp => by simpa using (hmem p hp).1
  have hdone : ((s.membersOf team).any fun p => p.2.pend != [] || p.2.moves != []) = false :=
    List.any_eq_false.2 fun p hp => by simp [(hmem p hp).2]
  have hcancel : (s.ops.filter fun p => p.2.team == team && p.2.kind == .load && p.2.status != .cancelled) = [] :=
    List.filter_eq_nil_iff.2 fun p hp => by simp [hops p hp]
  have hstores : (s.ops.any fun p => p.2.team == team && (p.2.kind == .store || p.2.kind == .stash)) = false :=
    List.any_eq_false.2 fun p hp => by simp [hops p hp]
  have hcopies : (s.ops.any fun p => p.2.team == team && p.2.copies) = false := List.any_eq_false.2 fun p hp => by simp [hops p hp]
  have hrevive : s.revive team = some s := by simp [State.revive, hstores]
  have hleave : s.leaveShare team = (s, true) := by simp only [State.leaveShare, hshare]
  simp only [State.endTeam, hlive, hnone, hcancel, List.foldl_nil, hrevive, Option.map_some, hleave, hcopies, hdone]
  rfl

/-- Where the group was the last of its team and nothing of the team is open, the team is gone, and no other team changes. -/
theorem State.retires_ends (hlive : (s.team s.cur.team).live = true)
    (hg : ∀ p ∈ s.retires.groups, p.2.team = s.cur.team → p.2.status ≠ .live ∧ p.2.pend = [] ∧ p.2.moves = [])
    (hshare : (s.team s.cur.team).share = none) (hops : ∀ p ∈ s.ops, p.2.team ≠ s.cur.team) :
    let t := s.retires.endTeam s.cur.team
    t.groups = s.retires.groups ∧ t.cur.status = .retired ∧
      (t.team s.cur.team).live = false ∧ (t.team s.cur.team).spad = [] ∧ (t.team s.cur.team).rings = [] ∧ (t.team s.cur.team).bars = [] ∧
      (∀ n, n ≠ s.cur.team → t.team n = s.team n) ∧ t.hbm = s.hbm := by
  have hteam : s.retires.team s.cur.team = (s.team s.cur.team).barsGo s.cur.gid := by rw [s.retires_eq, State.team_setTeam_self]
  have hend := State.endTeam_ends (s := s.retires) (by rw [hteam, Team.barsGo_live, hlive]) hg (by rw [hteam, Team.barsGo_share, hshare])
    (by rwa [s.retires_eq, State.setTeam_ops, State.setCur_ops])
  dsimp only
  rw [hend, State.team_setTeam_self]
  refine ⟨rfl, congrArg Group.status s.retires_group, rfl, rfl, rfl, rfl, fun n hn => ?_, ?_⟩
  · rw [State.team_setTeam, if_neg hn.symm, s.retires_eq, State.team_setTeam, if_neg hn.symm, State.setCur_team_read]
  · rw [State.setTeam_hbm, s.retires_eq, State.setTeam_hbm, State.setCur_hbm]

end

/-- Settles O48, by the outcomes of the begin of a clause, of the events of the active set, of a path switch and of a retirement. -/
theorem activeSets : Obligations.ActiveSets := by
  unfold Obligations.ActiveSets
  refine ⟨fun s => ⟨fun p hp hl ha _ hn hwait _ => ?_, fun hp hr ho => execPendingEnter_enters hp hr ho,
      fun d v hp hr hd hc hv hb => execForcedSwap_displaces hp hr hd hc (State.victim_eq hv) hb,
      fun top below rest hb hw hst hlen hr hwd hm hq h1 h2 h3 => execPathSwitch_exchanges hb hw ?_ hst hlen⟩,
    fun s hl hx hc hp hm => ⟨fun h => ?_, fun hlive hg hshare hops => ?_⟩⟩
  · refine execClauseBegin_swaps hp hl ha hn ?_
    obtain h | ⟨n, q, full, phase, h⟩ | ⟨hw, hc, hr, harm, s1, hd, ws, hf, h⟩ := hwait
    · exact State.longWait_absent h
    · exact State.longWait_stage h
    · exact State.longWait_clause hw hc hr harm hf h
  · exact Group.switchDue_of hst h1 hr hwd hm hq h2 h3
  · exact (execGroupRetire_retires hl hx hc hp hm).trans (congrArg Host.Outcome.next (State.endTeam_goes_on h))
  · exact ⟨_, execGroupRetire_retires hl hx hc hp hm, State.retires_ends hlive hg hshare hops⟩

end Sys2Proof.Machine
end

section
/-! O43, REGROUP (R129). The arrival is refuted at a group whose `product` is set although it waits for nothing. The model sets that field together with the wait `.product`, at which no word issues, but the statement is about every state in which the word issues, and `issue` reads the field: a word that stalls marks a group with a product as having issued. -/

namespace Sys2Proof.Machine

/-- A REGROUP of the keys in register 8. -/
def regroupWord : Instr := .regroup ⟨0, 0, false, 4, 8, 0, 0, 0, 0, false, false, false⟩

/-- A group at `regroupWord` that has not issued in this cycle, with a product of one chunk under way. -/
def regroupDuringProduct : State :=
  (wordState regroupWord).setCur { (wordState regroupWord).cur with product := some ⟨.nop, 0, 1⟩ }

theorem regroupDuringProduct_issues : Issues regroupWord regroupDuringProduct (wordClause regroupWord) :=
  issues_of_check (by decide +kernel)

/-- None of the illegal uses of REGROUP. -/
theorem regroupDuringProduct_legal :
    let g := regroupDuringProduct.cur
    (decide (g.nv ≤ 8) || decide (g.nv ≤ 0) || g.widen.isSome || g.stack.length != 1 || (regroupDuringProduct.teamOf g).regroup.isSome) = false ∧
      g.issued = false := by decide +kernel

/-- The group arrives, and counts as having issued. -/
theorem regroupDuringProduct_marked :
    (match exec regroupWord regroupDuringProduct with | .next t => t.cur.issued | _ => false) = true := by decide +kernel

/-- Refutes O43: the arrival marks a group whose product is under way as having issued, where the statement has the wait alone changed. -/
theorem not_regroupExchange : ¬ Obligations.RegroupExchange := by
  unfold Obligations.RegroupExchange
  intro h
  obtain ⟨-, hgood⟩ := (h.1 regroupDuringProduct ⟨0, 0, false, 4, 8, 0, 0, 0, 0, false, false, false⟩).1 _ regroupDuringProduct_issues
  obtain ⟨hlegal, hissued⟩ := regroupDuringProduct_legal
  simp only [Bool.or_eq_false_iff, decide_eq_false_iff_not, bne_eq_false_iff_eq] at hlegal
  obtain ⟨⟨⟨⟨hva, hvc⟩, hw⟩, hst⟩, hrg⟩ := hlegal
  have hnext := hgood (by
    rintro (h | h | h | h | ⟨p, h, -⟩)
    · exact hva h
    · exact hvc h
    · exact Bool.false_ne_true (hw.symm.trans h)
    · exact h hst
    · exact Bool.false_ne_true (hrg.symm.trans (congrArg Option.isSome h)))
  have hmarked := regroupDuringProduct_marked
  rw [regroupWord, hnext] at hmarked
  have := (congrArg Group.issued (State.cur_setCur ..)).symm.trans hmarked
  exact Bool.false_ne_true (hissued.symm.trans this)

end Sys2Proof.Machine
end

section
/-! O50, pre-emption, the save of a team and its resumption (R44, R256, R288 to R290). -/

namespace Sys2Proof.Machine

/-! ### PREEMPT_POINT (R288) -/

section
variable {s : State}

/-- The team once its group `gid` has stopped, with an arrival at REGROUP taken back (R44). -/
def Team.stops (t : Team) (gid : Nat) : Team :=
  let left := t.arrived.filter (· != gid)
  { t with stopped := ninsert t.stopped gid, arrived := left, regroup := if left.isEmpty then none else t.regroup }

/-- The group `s.who` has stopped as `g`, and has left the queue of its core's array. -/
def State.stoppedAs (s : State) (g : Group) : State :=
  let core := (s.team s.cur.team).core
  ((s.setTeam s.cur.team ((s.team s.cur.team).stops s.cur.gid)).setCur g).setCore core
    { s.core core with arrayQ := (s.core core).arrayQ.filter (· != s.who) }

/-- What a stopped group keeps of the word it stands at: a product its progress, a word in a clause that it is to be made again (R256, R288). -/
def Group.stopped (g : Group) : Group :=
  match g.product with
  | some p => { g with product := none, wait := .none, mprog := mprogOf p.next (g.herePc.toNat / 8) }
  | none => if g.clause.isSome then { g with wait := .none } else g

theorem execPreemptPoint_stops {g : Group} (hl : s.cur.status = .live) (ht : (s.team s.cur.team).live = true)
    (hs : (s.team s.cur.team).save = .preempting) (hn : s.cur.gid ∉ (s.team s.cur.team).stopped) (hg : s.cur.stopped = g)
    (hp : s.stopPlace s.who = true) : execPreemptPoint s = .next (s.stoppedAs g) := by
  rw [execPreemptPoint, if_pos (by simp [hl, ht, hs, hn, hp]), ← hg]
  rfl

theorem State.stopPlace_eq (hm : s.cur.mode ≠ .sysHandler) (hx : s.cur.exited ≠ 0xFFFFFFFF) (hf : s.cur.faultParked = false) :
    s.stopPlace s.who = (match s.cur.clause with
      | none => s.cur.resume.isNone && !s.trapDue s.who &&
          (s.cur.wait matches .none | .bar _ _ | .barCarry _ _ | .rwait _ _ _ _ | .gbar _ _ | .nrmrd _ _ | .mirror _ _ _ _ _ | .fetchFault _ _)
      | some _ =>
        match s.cur.product with
        | some p => 1 ≤ p.next && p.next < p.chunks
        | none => s.cur.wait matches .absent _ | .regroup | .barCarry _ _) := by
  have hm : (s.cur.mode != .sysHandler) = true := bne_iff_ne.2 hm
  have hx : (s.cur.exited != 0xFFFFFFFF) = true := bne_iff_ne.2 hx
  have hcur : s.group s.who = s.cur := rfl
  simp only [State.stopPlace, hcur, hm, hx, hf]
  rfl

theorem Group.stopped_boundary {g : Group} (hc : g.clause = none) (hp : g.product = none) : g.stopped = g := by
  simp [Group.stopped, hc, hp]

theorem Group.stopped_product {g : Group} {c : Clause} {p : Product} (hc : g.clause = some c) (hp : g.product = some p) :
    g.stopped = { g with product := none, wait := .none, mprog := mprogOf p.next ((wordPc g c).toNat / 8) } := by
  simp only [Group.stopped, hp, Group.herePc, hc, wordPc]

theorem Group.stopped_word {g : Group} {c : Clause} (hc : g.clause = some c) (hp : g.product = none) : g.stopped = { g with wait := .none } := by
  simp [Group.stopped, hc, hp]

end

/-! ### Entry to the system handler with PREEMPT (R289) -/

/-- The group in the system handler for PREEMPT, its block as at entry being `block`. -/
def Group.preempts (g : Group) (c : Ctx) (linear : Nat) (block : BitVec 32768) : Group :=
  { g with
    mode := .sysHandler, widen := none, clause := none, resume := none, bpSkip := false, waits := if g.clause.isSome then g.waits else noWait,
    gctl := g.gctlNext, targ := 0, cause := causePreempt, wait := .none, product := none, saved := false, staged := none,
    frameS := some {
      pc := g.pc, inside := g.clause.isSome, idx := (g.clause.map Clause.idx).getD 0, hdrWords := (g.clause.map fun k => k.words.length).getD 0,
      endsClause := decide ((g.clause.map fun k => k.words.length).getD 0 ≤ (g.clause.map Clause.idx).getD 0 + 1), widen := g.widen,
      pathCount := g.pathCount, waits := if g.clause.isSome then noWait else g.waits, gctl := g.gctl, seed := if g.clause.isSome then g.seed else none,
      depth := g.stack.length, mode := g.mode, cause := causePreempt, wait := g.wait, cause0 := g.cause, targ0 := g.targ, block := block,
      tokens := g.tokens, copies := g.copies, ringOps := g.ringOps, norm := g.norm },
    bankS := entryBank g.herePc 0 causePreempt (saveBase c linear g.gid), bankP := g.bankP &&& 0x00FF, pc := BitVec.ofNat 57 c.sysEntry }

theorem handlerFor_preempt {g : Group} {c : Ctx} (h : g.mode ≠ .sysHandler) : handlerFor g c causePreempt = some .sysHandler := by
  cases hm : g.mode with
  | sysHandler => exact absurd hm h
  | user => simp [handlerFor, hm, causePreempt, causeIllegal, causePrivilege]
  | userHandler => simp [handlerFor, hm, causePreempt, causeIllegal, causePrivilege]

theorem State.enterSave_eq (s : State) (u : Nat) (h : (s.group u).mode ≠ .sysHandler) :
    ∃ block, s.enterSave u = s.setGroup u
      ((s.group u).preempts (s.ctx (s.team (s.group u).team).ctx) (s.team (s.group u).team).linear block) := by
  cases hc : (s.group u).clause with
  | none =>
    simp only [State.enterSave, State.trap, handlerFor_preempt h, hc, Group.preempts]
    exact ⟨_, rfl⟩
  | some c =>
    simp only [State.enterSave, State.trap, handlerFor_preempt h, hc, Group.preempts]
    exact ⟨_, rfl⟩


/-! ### TEAM_SAVE (R289) -/

theorem tget_of_mem {α : Type} {t : Tbl α} {u : Nat} {x : α} (hn : (tkeys t).Nodup) (h : (u, x) ∈ t) : tget t u = some x := by
  induction t with
  | nil => cases h
  | cons p t ih =>
    obtain ⟨hp, ht⟩ := List.nodup_cons.1 hn
    obtain rfl | h := List.mem_cons.1 h
    · exact if_pos rfl
    · exact (if_neg fun he => hp (List.mem_map.2 ⟨_, h, he.symm⟩)).trans (ih ht h)

theorem State.group_of_mem {s : State} {p : Nat × Group} (hn : (tkeys s.groups).Nodup) (h : p ∈ s.groups) : s.group p.1 = p.2 := by
  rw [State.group, tgetD, tget_of_mem hn h]
  rfl

/-- The group `u` loses its reservations and enters the system handler with PREEMPT. -/
def State.saveGroup (s : State) (u : Nat) : State := (s.setGroup u { s.group u with resv := [] }).enterSave u

/-- The group `g` without its reservations, in the system handler for PREEMPT. -/
def Group.savedBy (g : Group) (s : State) (block : BitVec 32768) : Group :=
  { g with resv := [] }.preempts (s.ctx (s.team g.team).ctx) (s.team g.team).linear block

theorem State.saveGroup_eq (s : State) (u : Nat) (h : (s.group u).mode ≠ .sysHandler) :
    ∃ block, s.saveGroup u = s.setGroup u ((s.group u).savedBy s block) := by
  have hg := s.group_setGroup_self u { s.group u with resv := [] }
  obtain ⟨block, hb⟩ := (s.setGroup u { s.group u with resv := [] }).enterSave_eq u (by rwa [hg])
  rw [hg, State.setGroup_setGroup] at hb
  exact ⟨block, hb⟩

/-- The listed groups enter the system handler one after another; nothing but the groups changes. -/
theorem State.saveGroups (l : List (Nat × Group)) : ∀ s : State, (tkeys l).Nodup → (∀ p ∈ l, s.group p.1 = p.2) → (∀ p ∈ l, p.2.mode ≠ .sysHandler) →
    ∃ gs, l.foldl (fun s p => s.saveGroup p.1) s = { s with groups := gs } ∧ (∀ u, u ∉ tkeys l → tgetD gs u {} = s.group u) ∧
      ∀ p ∈ l, ∃ block, tgetD gs p.1 {} = p.2.savedBy s block := by
  induction l with
  | nil => exact fun s _ _ _ => ⟨s.groups, rfl, fun _ _ => rfl, fun _ hp => absurd hp List.not_mem_nil⟩
  | cons q l ih =>
    intro s hn hg hm
    obtain ⟨hq, hl⟩ := List.nodup_cons.1 hn
    obtain ⟨hgq, hgl⟩ := List.forall_mem_cons.1 hg
    obtain ⟨hmq, hml⟩ := List.forall_mem_cons.1 hm
    obtain ⟨block, hb⟩ := s.saveGroup_eq q.1 (by rwa [hgq])
    rw [hgq] at hb
    have hne : ∀ u, u ≠ q.1 → (s.setGroup q.1 (q.2.savedBy s block)).group u = s.group u := fun u hu => State.group_setGroup_ne _ _ hu.symm
    obtain ⟨gs, hy, hold, hnew⟩ := ih (s.setGroup q.1 (q.2.savedBy s block)) hl
      (fun p hp => (hne p.1 fun he => hq (List.mem_map.2 ⟨p, hp, he⟩)).trans (hgl p hp)) hml
    refine ⟨gs, by rw [List.foldl_cons, hb, hy]; rfl, fun u hu => ?_, fun p hp => ?_⟩
    · obtain ⟨huq, hul⟩ := not_or.1 (mt List.mem_cons.2 hu)
      rw [hold u hul, hne u huq]
    · obtain rfl | hp := List.mem_cons.1 hp
      · exact ⟨block, by rw [hold _ hq, State.group_setGroup_self]⟩
      · exact hnew p hp

/-- The scale bytes that the team's copies have put together are in the scratchpad. -/
def State.scalesLanded (s : State) (k : Nat) : State :=
  (s.ops.filter fun p => p.2.team == k).foldl (fun y p => let r := y.flushScales p.2; r.1.setOp r.2) s

/-- What line `n` of the team area holds: the scratchpad image, then the words of the barriers and rings. -/
def State.areaLine (s : State) (k n : Nat) : Nat :=
  let t := s.team k
  if n < s.spadSize k / 128 then mreadN noSide t.spad (128 * n) 128
  else natField (teamWords ((List.range 16).map fun n => (t.bar n).word) ((List.range 8).map fun n => (t.ring n).word)) (1024 * (n - s.spadSize k / 128)) 1024

/-- The team `t` while it is saved: its handlers find every scratchpad line present. -/
def Team.saving (t : Team) : Team :=
  { t with save := .saving, stopped := [], keptAbsent := t.absent, keptPoison := t.spadPoison, keptBars := t.bars, keptRings := t.rings, absent := [] }

/-- The copies of team `k` have parked, and the team, as `t` describes it, is being saved. -/
def State.parked (s : State) (k : Nat) (t : Team) : State :=
  ({ s with ops := s.ops.map fun p => (p.1, if p.2.team == k && p.2.status == .running then { p.2 with status := .parked none } else p.2) } : State).setTeam k t.saving

/-- The live groups of a team. -/
def State.liveOf (s : State) (k : Nat) : List (Nat × Group) := (s.membersOf k).filter fun p => p.2.status == .live

theorem execTeamSave_saves {s s2 : State} {park : List Nat} (hr : s.saveReady s.who park = true) (hs : (s.team s.who).share = none)
    (hw : (s.scalesLanded s.who).areaWrite ((s.scalesLanded s.who).team s.who).ctx
      (teamArea ((s.scalesLanded s.who).ctx ((s.scalesLanded s.who).team s.who).ctx) ((s.scalesLanded s.who).team s.who).linear)
      ((s.scalesLanded s.who).areaLine s.who) ((s.scalesLanded s.who).spadSize s.who / 128 + 2) = .ok (s2, ())) :
    execTeamSave park s = .next ((s2.liveOf s.who).foldl (fun y p => y.saveGroup p.1) (s2.parked s.who ((s.scalesLanded s.who).team s.who))) := by
  have hleave : s.leaveShare s.who = (s, true) := by simp only [State.leaveShare, hs]
  unfold State.scalesLanded State.areaLine at hw
  simp only [execTeamSave, hr, hleave, hw]
  rfl

theorem State.mem_liveOf {s : State} {k : Nat} {p : Nat × Group} (h : p ∈ s.liveOf k) : p ∈ s.groups ∧ p.2.team = k ∧ p.2.status = .live := by
  obtain ⟨hm, hl⟩ := List.mem_filter.1 h
  obtain ⟨hg, ht⟩ := List.mem_filter.1 hm
  exact ⟨hg, eq_of_beq ((Bool.and_eq_true ..).mp ht).1, eq_of_beq hl⟩

theorem State.liveOf_keys_nodup {s : State} (k : Nat) (h : (tkeys s.groups).Nodup) : (tkeys (s.liveOf k)).Nodup :=
  h.sublist ((List.filter_sublist.trans List.filter_sublist).map _)

theorem append_ofNat (n : Nat) : (BitVec.ofNat 32 (n / 2 ^ 32) ++ BitVec.ofNat 32 n : W64) = BitVec.ofNat 64 n := by
  apply BitVec.eq_of_toNat_eq
  rw [BitVec.toNat_append, BitVec.toNat_ofNat, BitVec.toNat_ofNat, BitVec.toNat_ofNat, ← Nat.shiftLeft_add_eq_or_of_lt (Nat.mod_lt _ (by decide)),
    Nat.shiftLeft_eq]
  omega

/-- In the system handler s120 to s127 are its bank. -/
theorem Group.preempts_bank (g : Group) (c : Ctx) (linear : Nat) (block : BitVec 32768) {n : Nat} (h : n < 8) :
    (g.preempts c linear block).rs (120 + n) = tgetD (entryBank g.herePc 0 causePreempt (saveBase c linear g.gid)) n 0 := by
  have hb : (g.preempts c linear block).inBank (120 + n) = true := by simp [Group.inBank, Group.preempts]; omega
  have hm : (g.preempts c linear block).mode = .sysHandler := rfl
  rw [Group.rs, if_neg (by omega), if_pos hb, hm, Nat.add_sub_cancel_left]
  rfl

/-- s125 and s124 hold the save base (R291). -/
theorem Group.preempts_base (g : Group) (c : Ctx) (linear : Nat) (block : BitVec 32768) :
    ((g.preempts c linear block).rs 125 ++ (g.preempts c linear block).rs 124 : W64) =
      BitVec.ofNat 64 (c.saveb + (33 * linear + g.gid) * (c.savesz * 4096)) := by
  rw [Group.preempts_bank (n := 5) g c linear block (by decide), Group.preempts_bank (n := 4) g c linear block (by decide)]
  exact append_ofNat _

section
variable {s : State} {k : Nat} {t : Team} {gs : Tbl Group}

/-- The operations of a team that is saved: its running ones have parked. -/
theorem State.parked_ops : ({ s.parked k t with groups := gs } : State).ops =
    s.ops.map fun p => (p.1, if p.2.team = k ∧ p.2.status = .running then { p.2 with status := .parked none } else p.2) := by
  simp only [State.parked, State.setTeam_ops, Bool.and_eq_true, beq_iff_eq]

theorem State.parked_team : ({ s.parked k t with groups := gs } : State).team k = t.saving := State.team_setTeam_self ..

theorem Group.savedBy_parked {g : Group} {block : BitVec 32768} (h : g.team = k) :
    g.savedBy (s.parked k t) block = { g with resv := [] }.preempts (s.ctx t.ctx) t.linear block := by
  have ht : (s.parked k t).team k = t.saving := State.team_setTeam_self ..
  rw [Group.savedBy, h, ht]
  rfl

theorem State.parked_team_ne {n : Nat} (h : n ≠ k) : ({ s.parked k t with groups := gs } : State).team n = s.team n :=
  (State.team_setTeam ..).trans (if_neg h.symm)

end

/-! ### The lines of the team area (R289) -/

theorem testBit_ofBytes (l : List Byte) (j : Nat) {i : Nat} (hi : i < 8) : (ofBytes l).testBit (8 * j + i) = (l.getD j 0).getLsbD i := by
  induction l generalizing j with
  | nil => simp [ofBytes]
  | cons b l ih =>
    have hb : ofBytes (b :: l) = 2 ^ 8 * ofBytes l + b.toNat := Nat.add_comm ..
    rw [hb, Nat.testBit_two_pow_mul_add _ b.isLt]
    cases j with
    | zero =>
      rw [Nat.mul_zero, Nat.zero_add, if_pos hi]
      exact BitVec.testBit_toNat b
    | succ j =>
      rw [if_neg (by omega), show 8 * (j + 1) + i - 8 = 8 * j + i by omega, ih]
      rfl

theorem lineByte_lineOf (f : Nat → Byte) {j : Nat} (hj : j < 136) : lineByte (lineOf f) j = f j := by
  refine BitVec.eq_of_getLsbD_eq fun i hi => ?_
  rw [lineByte, getBits, BitVec.getLsbD_extractLsb', lineOf, BitVec.getLsbD_ofNat, testBit_ofBytes _ _ hi]
  simp [hi, hj, show 8 * j + i < 1088 by omega]

theorem lineByte_mergeLine (m : LineMask) (new old : Line) {j : Nat} (hj : j < 136) :
    lineByte (mergeLine m new old) j = if m.getLsbD j then lineByte new j else lineByte old j := lineByte_lineOf _ hj

theorem lineByte_ofNat (x : Nat) {j : Nat} (hj : j < 136) : lineByte (BitVec.ofNat 1088 x) j = BitVec.ofNat 8 (x / 256 ^ j) := by
  refine BitVec.eq_of_getLsbD_eq fun i hi => ?_
  rw [lineByte, getBits, BitVec.getLsbD_extractLsb', BitVec.getLsbD_ofNat, BitVec.getLsbD_ofNat, show 256 ^ j = 2 ^ (8 * j) from (Nat.pow_mul 2 8 j).symm,
    Nat.testBit_div_two_pow]
  simp [hi, show 8 * j + i < 1088 by omega, Nat.add_comm i]

theorem byteMask_line {j : Nat} (hj : j < 128) : (byteMask 0 128).getLsbD j = true := by
  rw [byteMask, Nat.pow_zero, Nat.mul_one, BitVec.getLsbD_ofNat, Nat.testBit_two_pow_sub_one]
  simp [hj]
  omega

/-- The data bytes of a line that is stored whole. -/
theorem lineByte_lineSet_line (l : Line) (x : Nat) {j : Nat} (hj : j < 128) : lineByte (lineSet l 0 128 x) j = BitVec.ofNat 8 (x / 256 ^ j) := by
  rw [lineSet, lineByte_mergeLine _ _ _ (by omega), if_pos (byteMask_line hj), Nat.mul_zero, Nat.pow_zero, Nat.mul_one, lineByte_ofNat _ (by omega)]

/-- One more line of the team area is a store of the whole line at its home. -/
theorem State.areaWrite_line {s s1 s2 : State} {ctx base n : Nat} {f : Nat → Nat} {l : LlcLine} (hb : base % 128 = 0)
    (h : s.areaWrite ctx base f n = .ok (s1, ())) (hl : s1.homeLine (s1.devReq ctx (base + 128 * n)) = .ok (s2, l)) (hw : l.attrs.w = true) :
    s.areaWrite ctx base f (n + 1) =
      .ok (s2.homeWrite (s1.devReq ctx (base + 128 * n)) l (byteMask 0 128) (lineSet l.data 0 128 (f n)) 0 false, ()) := by
  have hva : (base + 128 * n) % 128 = 0 := by omega
  simp only [State.areaWrite, h, State.devWrite, hl, hw, hva]
  rfl

/-! ### RESUME_RESTORE (R290) -/

section
variable {s : State}

theorem execTeamLeaveCore_leaves (hl : (s.team s.who).live = true) (hne : s.liveOf s.who ≠ []) (hi : s.handlersIdle s.who = true)
    (hs : (s.team s.who).save = .saving) (hp : ∀ p ∈ s.liveOf s.who, p.2.wait = .parked) :
    execTeamLeaveCore s = .next ((s.setTeam s.who { s.team s.who with live := false, save := .saved, kept := s.liveOf s.who, spad := [], spadPoison := [] }).setTask
      (s.team s.who).task { s.task (s.team s.who).task with saved := (s.task (s.team s.who).task).saved ++ [s.who] }) := by
  have hall : ((s.liveOf s.who).all fun p => p.2.wait == .parked) = true := List.all_eq_true.2 fun p hp' => beq_iff_eq.2 (hp p hp')
  have hemp : (s.liveOf s.who).isEmpty = false := by simpa using hne
  rw [State.liveOf] at hall hemp
  simp only [execTeamLeaveCore, hl, hs, hi, hall, hemp]
  rfl

/-- The team with its scratchpad image `m`, its barriers and its rings as they were saved. -/
def Team.restored (t : Team) (m : Memory) : Team :=
  { t with spad := m, absent := t.keptAbsent, spadPoison := t.keptPoison, bars := t.keptBars, rings := t.keptRings }

/-- The team runs again, or is to be pre-empted again. -/
def Team.runsAgain (t : Team) : Team := { t with save := if t.again then .preempting else .running, again := false, stopped := [], kept := [] }

theorem execResumeRestore_restores {s1 s2 : State} {m : Memory} (hl : (s.team s.who).live = true) (hne : s.liveOf s.who ≠ [])
    (hi : s.handlersIdle s.who = true) (hs : (s.team s.who).save = .resuming) (hp : ∀ p ∈ s.liveOf s.who, ∃ b, p.2.wait = .tretResume b)
    (hk : ∀ u ∈ tkeys (s.team s.who).kept, (s.group u).status = .live)
    (hr : s.areaRead (s.team s.who).ctx (teamArea (s.ctx (s.team s.who).ctx) (s.team s.who).linear) (s.spadSize s.who / 128) = .ok (s1, m))
    (hb : (s1.setTeam s.who ((s.team s.who).restored m)).applyBlocks ((s.team s.who).restored m)
      ((s.liveOf s.who).map fun p => (p.1, (tget (s.team s.who).kept p.1).getD p.2)) = .ok (s2, ())) :
    execResumeRestore s = .next ((s2.resumeOps s.who).setTeam s.who ((s.team s.who).restored m).runsAgain) := by
  have hemp : (s.liveOf s.who).isEmpty = false := by simpa using hne
  have hdead : ((tkeys (s.team s.who).kept).filter fun u => (s.group u).status != .live) = [] :=
    List.filter_eq_nil_iff.2 fun u hu => by simp [hk u hu]
  rw [Team.restored, State.liveOf] at hb
  unfold execResumeRestore
  refine (if_pos ?_).trans ?_
  · simp only [Bool.and_eq_true, List.all_eq_true, beq_iff_eq, Bool.not_eq_true']
    refine ⟨⟨⟨⟨hl, hs⟩, hemp⟩, fun p hlive => ?_⟩, hi⟩
    obtain ⟨b, h⟩ := hp p hlive
    simp [h]
  · simp only [hr, hdead, List.foldl_nil, hb]
    rfl

/-- An operation of another team stays as it is. -/
theorem State.resumeOps_other {k u : Nat} {o : EngOp} (h : (u, o) ∈ s.ops) (ht : o.team ≠ k) : (u, o) ∈ (s.resumeOps k).ops :=
  List.mem_map.2 ⟨(u, o), h, by simp [ht]⟩

/-- The uids of the operations of team `k` that find a free slot. -/
def State.slotted (s : State) (k : Nat) : List Nat :=
  (tkeys (s.ops.filter fun p => p.2.team == k && p.2.status != .cancelled)).take (16 - s.usedSlots (s.team k).core)

/-- An operation that finds a slot goes on. -/
theorem State.resumeOps_slotted {k u : Nat} {o : EngOp} (h : (u, o) ∈ s.ops) (ht : o.team = k) (hu : u ∈ s.slotted k) :
    (u, { o with core := (s.team k).core, slot := true, status := if o.status == .parked none then .running else o.status }) ∈ (s.resumeOps k).ops := by
  have hc : (s.slotted k).contains u = true := List.contains_iff_mem.2 hu
  rw [State.slotted, tkeys] at hc
  exact List.mem_map.2 ⟨(u, o), h, by simp only [ht, hc, bne_self_eq_false, Bool.and_true, Bool.true_or]; rfl⟩

/-- One that finds none waits. -/
theorem State.resumeOps_waiting {k u : Nat} {o : EngOp} (h : (u, o) ∈ s.ops) (ht : o.team = k) (hs : o.status ≠ .cancelled) (hu : u ∉ s.slotted k) :
    (u, { o with core := (s.team k).core, slot := false }) ∈ (s.resumeOps k).ops := by
  have hc : (s.slotted k).contains u = false := Bool.eq_false_iff.2 (mt List.contains_iff_mem.1 hu)
  have hs : (o.status == .cancelled) = false := beq_eq_false_iff_ne.2 hs
  rw [State.slotted, tkeys] at hc
  exact List.mem_map.2 ⟨(u, o), h, by simp only [ht, hc, hs, bne_self_eq_false, Bool.and_false, Bool.or_false]; rfl⟩

end

/-- Settles O50, by the outcomes of PREEMPT_POINT, TEAM_SAVE, TEAM_LEAVE_CORE and RESUME_RESTORE and the stores of the team area. -/
theorem preemption : Obligations.Preemption := by
  unfold Obligations.Preemption
  refine fun s => ⟨fun hl ht hs hn hm hx hf => ⟨fun hc hr htr hp hw => ?_, fun c p hc hp h1 h2 => ?_, fun c hc hp hw => ?_⟩,
    fun park s2 hr hs hw hnodup hmode => ?_, fun ctx base n f s1 s2 l hb h hl hw => ?_, fun hl hne hi => ⟨fun hs hp => ?_, fun s1 m s2 hs hp hk hr hb => ?_⟩⟩
  · refine execPreemptPoint_stops hl ht hs hn (Group.stopped_boundary hc hp) ?_
    rw [State.stopPlace_eq hm hx hf]
    simp only [hc, hr, htr]
    exact hw
  · refine execPreemptPoint_stops hl ht hs hn (Group.stopped_product hc hp) ?_
    rw [State.stopPlace_eq hm hx hf]
    simp [hc, hp, h1, h2]
  · refine execPreemptPoint_stops hl ht hs hn (Group.stopped_word hc hp) ?_
    rw [State.stopPlace_eq hm hx hf]
    simp only [hc, hp]
    exact hw
  · obtain ⟨gs, hy, hold, hnew⟩ := State.saveGroups (s2.liveOf s.who) (s2.parked s.who ((s.scalesLanded s.who).team s.who))
      (State.liveOf_keys_nodup _ hnodup) (fun p hp => State.group_of_mem hnodup (State.mem_liveOf hp).1) hmode
    refine ⟨_, (execTeamSave_saves hr hs hw).trans (congrArg Host.Outcome.next hy), rfl, rfl, rfl, rfl, rfl, rfl, rfl, State.parked_ops,
      fun n hn => State.parked_team_ne hn, ?_⟩
    rw [State.parked_team]
    refine ⟨rfl, rfl, rfl, rfl, rfl, rfl, rfl, rfl, fun u hu => hold u ?_, fun u g hg => ?_⟩
    · exact fun h => (List.mem_map.1 h).elim fun p hp => hu p hp.1 hp.2
    · obtain ⟨-, hteam, hlive⟩ := State.mem_liveOf hg
      obtain ⟨block, hb⟩ := hnew _ hg
      rw [Group.savedBy_parked hteam] at hb
      intro h
      replace hb : h = _ := hb
      clear_value h
      subst hb
      exact ⟨rfl, rfl, rfl, rfl, rfl, rfl, rfl, hlive, Group.preempts_bank (n := 2) _ _ _ _ (by decide), Group.preempts_bank (n := 3) _ _ _ _ (by decide),
        Group.preempts_base .., rfl, rfl, rfl, rfl, rfl, rfl, rfl, rfl, _, rfl, rfl, rfl, fun cl hcl => by simp [hcl], rfl, rfl, rfl, rfl, rfl, rfl, rfl, rfl, rfl, rfl⟩
  · exact ⟨_, fun b hb => lineByte_lineSet_line l.data (f n) hb, State.areaWrite_line hb h hl hw⟩
  · exact execTeamLeaveCore_leaves hl hne hi hs hp
  · refine ⟨_, execResumeRestore_restores hl hne hi hs hp hk hr hb, rfl, rfl, ?_⟩
    rw [State.team_setTeam_self]
    exact ⟨rfl, rfl, rfl, rfl, rfl, rfl, fun _ u o ho => ⟨State.resumeOps_other ho, fun ht _ => State.resumeOps_slotted ho ht, State.resumeOps_waiting ho⟩⟩

end Sys2Proof.Machine
end

section
/-! O60, an instruction word and the groups that do not issue it (R48, R49). A word writes the record of the issuing group; of every other group it can only change what is no register: its reservations (R179), its place in the active set (R27) and its armed traps (R202). `s.Spares t` says that `t` differs from `s` so. One lemma for each function that a word can call says that it spares the other groups; it bears the function's name and is assembled from the lemmas about the functions that it calls, up to `exec`. -/

namespace Sys2Proof.Machine

/-! ### A group's own, and the states that leave it to every group but the issuing one -/

/-- What O60 names of a group: its registers with their poison, its control state, its flags, its frames, its calls and its life. -/
def Group.own (g : Group) :=
  (g.v, g.vp, g.x, g.xp, g.s, g.sp, g.bankU, g.bankS, g.bankP, g.tiles, g.tp, g.accs, g.cp, g.stack, g.mode, g.pc, g.clause,
    g.xstat, g.frameU, g.frameS, g.calls, g.widen, g.exited, g.status)

/-- `State.Spares` over the two fields that it speaks of. -/
structure GroupsSpared (who : Nat) (groups : Tbl Group) (who' : Nat) (groups' : Tbl Group) : Prop where
  who_eq : who' = who
  own_eq : ∀ u, u ≠ who → (tgetD groups' u {}).own = (tgetD groups u {}).own

/-- The same group issues in `t`, and every other group has its own. It unfolds to the two fields that it speaks of, so a change of any other field keeps it by definition. -/
def State.Spares (s t : State) : Prop := GroupsSpared s.who s.groups t.who t.groups

/-! ### The same for what the model's functions return

A result that carries no state spares every group. -/

def State.SparesR {ε α : Type} (s : State) : Except ε (State × α) → Prop
  | .ok (t, _) => s.Spares t
  | .error _ => True

def State.SparesExc {ε : Type} (s : State) : Except ε State → Prop
  | .ok t => s.Spares t
  | .error _ => True

def State.SparesOpt (s : State) : Option State → Prop
  | some t => s.Spares t
  | none => True

def State.SparesEff (s : State) : Eff → Prop
  | .done t | .goto t _ | .stall t | .fail t _ _ | .soft t _ _ | .leave t => s.Spares t
  | .trap _ _ | .kill _ => True

def State.SparesHeat (s : State) : HeatRun → Prop
  | .all t _ => s.Spares t
  | _ => True

def State.SparesOut (s : State) : Host.Outcome State Fault Refusal → Prop
  | .next t => s.Spares t
  | _ => True

/-! ### The rules of the table of groups -/

theorem Group.own_arm (g : Group) (cause : Nat) (pc : VA) (m : W32) : (g.arm cause pc m).own = g.own := by
  unfold Group.arm
  dsimp only
  split <;> rfl

/-- A change of every group that keeps the keys and each group's own. -/
theorem tgetD_map_own {f : Nat × Group → Nat × Group} (hkey : ∀ p, (f p).1 = p.1) (hown : ∀ p, (f p).2.own = p.2.own) (t : Tbl Group) (u : Nat) :
    (tgetD (t.map f) u {}).own = (tgetD t u {}).own := by
  induction t with
  | nil => rfl
  | cons p t ih =>
    have hk := hkey p
    have ho := hown p
    obtain ⟨k, g⟩ := p
    simp only [tgetD, List.map_cons, tget, hk] at ih ⊢
    split
    · exact ho
    · exact ih

namespace State.Spares
variable {s : State}

theorem refl (s : State) : s.Spares s := ⟨rfl, fun _ _ => rfl⟩

theorem trans {s t v : State} (h1 : s.Spares t) (h2 : t.Spares v) : s.Spares v :=
  ⟨h2.who_eq.trans h1.who_eq, fun u hu => (h2.own_eq u (h1.who_eq.symm ▸ hu)).trans (h1.own_eq u hu)⟩

theorem res {t : State} {ε α : Type} {e : Except ε (State × α)} (h : s.Spares t) (he : t.SparesR e) : s.SparesR e := by
  cases e with
  | error => trivial
  | ok => exact h.trans he

theorem exc {t : State} {ε : Type} {e : Except ε State} (h : s.Spares t) (he : t.SparesExc e) : s.SparesExc e := by
  cases e with
  | error => trivial
  | ok => exact h.trans he

theorem heat {t : State} {e : HeatRun} (h : s.Spares t) (he : t.SparesHeat e) : s.SparesHeat e := by
  cases e with
  | all => exact h.trans he
  | _ => trivial

theorem who_eq {t : State} (h : s.Spares t) : t.who = s.who := GroupsSpared.who_eq h

/-- A change of other fields than the table of groups. -/
theorem of_eq {t : State} (hw : t.who = s.who) (hg : t.groups = s.groups) : s.Spares t := ⟨hw, fun u _ => by rw [hg]⟩

theorem eff {t : State} {e : Eff} (h : s.Spares t) (he : t.SparesEff e) : s.SparesEff e := by
  cases e with
  | trap | kill => trivial
  | _ => exact h.trans he

/-- The issuing group is written. -/
theorem setGroup {v : Nat} {g : Group} (hv : v = s.who) : s.Spares (s.setGroup v g) :=
  ⟨rfl, fun _ hu => congrArg Group.own (tgetD_tset_ne _ _ _ (hv ▸ hu.symm))⟩

/-- Any group is written, but for what is its own. -/
theorem setGroup_own {v : Nat} {g : Group} (hg : g.own = (s.group v).own) : s.Spares (s.setGroup v g) :=
  ⟨rfl, fun u _ => by
    by_cases hv : v = u
    · subst hv
      exact (congrArg Group.own (tgetD_tset_self _ _ _ _)).trans hg
    · exact congrArg Group.own (tgetD_tset_ne _ _ _ hv)⟩

theorem setCur {g : Group} : s.Spares (s.setCur g) := setGroup rfl

theorem foldl {β : Type} {f : State → β → State} (hf : ∀ (t : State) b, t.Spares (f t b)) (l : List β) : s.Spares (l.foldl f s) :=
  List.foldlRecOn (motive := s.Spares) l f (refl s) fun t ht b _ => ht.trans (hf t b)

/-! ### Ops -/

theorem setTeam {k x} : s.Spares (s.setTeam k x) := refl _

theorem setCore {k x} : s.Spares (s.setCore k x) := refl _

theorem setCtx {c x} : s.Spares (s.setCtx c x) := refl _

theorem setOp {o} : s.Spares (s.setOp o) := refl _

theorem fresh : s.Spares (s.fresh).2 := refl _

theorem kill {v cause pc} (hv : v = s.who) : s.Spares (s.kill v cause pc) := setGroup hv

theorem trap {v cause targ pc r} (hv : v = s.who) : s.Spares (s.trap v cause targ pc r) := by
  fun_cases State.trap <;> grind [setGroup, kill]

theorem advance {v c} (hv : v = s.who) : s.Spares (Machine.advance s v c) := by
  fun_cases Machine.advance <;> grind [refl, setGroup]

/-- A word whose effect spares the other groups spares them: what `issue` adds is written to the issuing group. -/
theorem issue {i illegal poison eff} (he : ∀ (s : State) g, s.SparesEff (eff s g)) : s.SparesOut (Machine.issue i illegal poison eff s) := by
  have h1 := he (s.setCur s.cur.issuing) (s.setCur s.cur.issuing).cur
  fun_cases Machine.issue <;> grind [SparesOut, SparesEff, refl, trans, who_eq, setCur, setGroup, advance, trap, kill]

theorem whenActive {i f g} (hf : s.SparesEff (f s g)) : s.SparesEff (Machine.whenActive i f s g) := by
  unfold Machine.whenActive
  split
  · exact refl s
  · exact hf

theorem onGroup {f g} : s.SparesEff (Machine.onGroup f s g) := setCur

/-! ### Writes of the CXL tier -/

theorem cxlWrite {pa l} : s.Spares (s.cxlWrite pa l) := by
  unfold State.cxlWrite
  split <;> exact of_eq rfl rfl

/-! ### Fault records -/

theorem writeHeader {ctx} : s.Spares (s.writeHeader ctx) := refl s

theorem writeRecord {ctx r} : s.Spares (s.writeRecord ctx r) := refl s

theorem logRecord {ctx r} : s.Spares (s.logRecord ctx r) := by
  fun_cases State.logRecord <;> grind [trans, writeHeader, writeRecord, setCtx]

theorem groupFault {u agent cause kind va pc eseq} : s.Spares (s.groupFault u agent cause kind va pc eseq).2 := fresh.trans logRecord

theorem memoryFault {ctx cause kind va core} : s.Spares (s.memoryFault ctx cause kind va core) := logRecord

theorem deferred {kind asid va core} : s.Spares (s.deferred kind asid va core) := by
  fun_cases State.deferred <;> grind [refl, memoryFault]

/-! ### The memory hierarchy -/

theorem crossOne {b die l p} : s.Spares (s.crossOne b die l p).1 := by
  fun_cases State.crossOne <;> exact refl _

theorem crossAll {l p rest} : s.Spares (s.crossAll l p rest).1 := by
  fun_induction State.crossAll <;> grind [refl, trans, crossOne]

theorem cross {a b l p} : s.Spares (s.cross a b l p).1 := crossAll

theorem crossDirty {a b asid va l p} : s.Spares (s.crossDirty a b asid va l p).1 := by
  fun_cases State.crossDirty <;> grind [trans, cross, deferred]

theorem decayed : s.Spares s.decayed := refl _

theorem sampleHeat {ctx slice va} : s.Spares (s.sampleHeat ctx slice va) := by
  fun_cases State.sampleHeat <;> exact refl _

theorem keepXlat {e} : s.Spares (s.keepXlat e) := by
  fun_cases State.keepXlat <;> exact refl _

theorem translate {r} : s.SparesR (s.translate r) := by
  fun_cases State.translate <;> grind [SparesR, res, sampleHeat, keepXlat]

theorem setMemLine {x va l poison} : s.SparesOpt (s.setMemLine x va l poison) := by
  fun_cases State.setMemLine
  · exact refl s
  · trivial
  · exact cxlWrite
  · exact of_eq rfl rfl

theorem charge {ctx tier n} : s.Spares (s.charge ctx tier n) := setCtx

theorem setLlc {die key l} : s.Spares (s.setLlc die key l) := refl _

theorem dropLlc {die key} : s.Spares (s.dropLlc die key) := refl _

theorem setDir {key d} : s.Spares (s.setDir key d) := refl _

theorem clearResv {key} : s.Spares (s.clearResv key) :=
  ⟨rfl, fun u _ => tgetD_map_own (fun p => by dsimp only; split <;> rfl) (fun p => by dsimp only; split <;> rfl) s.groups u⟩

theorem homeFillFor {back r} : s.SparesR (s.homeFillFor back r) := by
  fun_cases State.homeFillFor <;> grind [refl, SparesR, res, translate, crossAll, setLlc, charge]

theorem homeFill {r} : s.SparesR (s.homeFill r) := homeFillFor

theorem recallOwner {key} : s.SparesR (s.recall key) := by
  fun_cases State.recall <;> grind [refl, SparesR, res, setLlc, crossDirty, dropLlc, setDir]

theorem recallFor {key die} : s.SparesR (s.recallFor key die) := by
  fun_cases State.recallFor <;> grind [refl, SparesR, recallOwner]

theorem dropSharers {key die} : s.Spares (s.dropSharers key die) := by
  unfold State.dropSharers
  split
  · refine (foldl (fun t d => ?_) _).trans setDir
    split
    · exact dropLlc
    · exact refl t
  · exact refl s

theorem sendPkt {ctx p} : s.Spares (s.sendPkt ctx p) := by
  fun_cases State.sendPkt <;> exact refl _

theorem mirrorBreaks {owner writers} : s.Spares (s.mirrorBreaks owner writers) := by
  refine setCtx.trans (foldl (fun t d => ?_) _)
  split <;> exact refl t

theorem mirrorOut {die ctx writers key mask data cols poison attrs} : s.Spares (s.mirrorOut die ctx writers key mask data cols poison attrs) := by
  fun_cases State.mirrorOut
  case case4 =>
    cases ‹s.fresh = _›
    exact fresh.trans (setCtx.trans sendPkt)
  all_goals grind [refl, mirrorBreaks]

theorem openGate {key old new} : s.Spares (s.openGate key old new).1 := by
  fun_cases State.openGate <;> exact refl _

theorem mergeAt {die r l mask data cols poison writers} : s.Spares (s.mergeAt die r l mask data cols poison writers) := clearResv.trans (openGate.trans (setLlc.trans mirrorOut))

theorem llcWrite {r mask data cols back poison writers} : s.SparesR (s.llcWrite r mask data cols back poison writers) := by
  fun_cases State.llcWrite <;> grind [SparesR, res, cross, dropSharers, recallFor, setDir, mergeAt, homeFillFor, crossDirty]

theorem setL1 {core key l} : s.Spares (s.setL1 core key l) := setCore

theorem dropL1 {core key} : s.Spares (s.dropL1 core key) := by
  fun_cases State.dropL1 <;> exact refl _

theorem writeBack {core ctx key} : s.SparesR (s.writeBack core ctx key) := by
  fun_cases State.writeBack <;> grind [refl, SparesR, res, llcWrite, setL1]

theorem writeBacks {core ctx rest} : s.SparesR (s.writeBacks core ctx rest) := by
  fun_induction State.writeBacks <;> grind [refl, SparesR, res, writeBack]

theorem noteFlush {core ctx cols} : s.Spares (s.noteFlush core ctx cols) := by
  fun_cases State.noteFlush <;> exact refl _

theorem flushL1 {core ctx asid cols} : s.SparesR (s.flushL1 core ctx asid cols) := by
  fun_cases State.flushL1 <;> grind [SparesR, res, writeBacks, noteFlush]

theorem acquireL1 {core ctx asid cols} : s.SparesR (s.acquireL1 core ctx asid cols) := by
  have hd := fun t => foldl (s := t) fun u k => dropL1 (s := u) (core := core) (key := k)
  fun_cases State.acquireL1 <;> grind [SparesR, res, flushL1]

theorem pullEntry {e} : s.SparesR (s.pullEntry e) := by
  fun_cases State.pullEntry <;> grind [refl, SparesR, flushL1]

theorem retire {key e} : s.Spares (s.retire key e) := setDir

theorem pullOthers {core key rest} : s.SparesR (s.pullOthers core key rest) := by
  fun_induction State.pullOthers <;> grind [refl, SparesR, res, retire, pullEntry]

theorem pulls {core key} : s.SparesR (s.pulls core key) := pullOthers

theorem llcRead {r} : s.SparesR (s.llcRead r) := by
  fun_cases State.llcRead <;> grind [refl, SparesR, res, cross, homeFill, pulls, recallFor, setDir, setLlc]

theorem l1Colour {r colour} : s.SparesR (s.l1Colour r colour) := by
  fun_cases State.l1Colour <;> grind [refl, SparesR, res, dropL1, writeBack]

theorem l1Fill {r colour} : s.SparesR (s.l1Fill r colour) := by
  fun_cases State.l1Fill <;> grind [SparesR, res, llcRead, setL1, l1Colour]

theorem renewL1 {core key l} : s.Spares (s.renewL1 core key l) := by
  fun_cases State.renewL1 <;> grind [refl, setL1]

theorem loadLine {r scope colour} : s.SparesR (s.loadLine r scope colour) := by
  fun_cases State.loadLine <;> grind [SparesR, res, llcRead, l1Fill, writeBack, renewL1]

theorem putLine {r scope colour mask data poison} : s.SparesR (s.putLine r scope colour mask data poison) := by
  fun_cases State.putLine <;> grind [SparesR, res, llcWrite, pulls, l1Fill, setL1, clearResv, l1Colour]

theorem storeLine {r scope colour mask data} : s.SparesR (s.storeLine r scope colour mask data) := putLine

theorem seen {r} : s.Spares (s.seen r) := by
  fun_cases State.seen <;> grind [refl, SparesR, llcRead]

theorem homeLineFor {host r} : s.SparesR (s.homeLineFor host r) := by
  fun_cases State.homeLineFor <;> grind [SparesR, res, homeFill, pulls, recallOwner, dropL1, writeBack]

theorem homeLine {r} : s.SparesR (s.homeLine r) := homeLineFor

theorem homeLineW {r} : s.SparesR (s.homeLineW r) := by
  fun_cases State.homeLineW <;> grind [SparesR, homeLine]

theorem homeMerge {r l mask data cols poison} : s.Spares (s.homeMerge r l mask data cols poison) := dropSharers.trans mergeAt

theorem homeWrite {r l mask data colour poison} : s.Spares (s.homeWrite r l mask data colour poison) := homeMerge

theorem lineOut {r l x keep} (hk : ∀ t : State, t.Spares (keep t)) : s.Spares (s.lineOut r l x keep).1 := by
  fun_cases State.lineOut <;> grind [trans, Spares, SparesOpt, crossAll, deferred, setMemLine, charge, setLlc]

theorem ownLine {r} : s.SparesR (s.ownLine r) := by
  fun_cases State.ownLine <;> grind [SparesR, res, llcRead, dropSharers, recallFor, setDir]

theorem loadAt {r scope colour n} : s.SparesR (s.loadAt r scope colour n) := by
  fun_cases State.loadAt <;> grind [SparesR, loadLine]

theorem storeAt {r scope colour n x} : s.SparesR (s.storeAt r scope colour n x) := storeLine

/-! ### Scalar operations -/

theorem scalarOp {i sd r} : s.SparesOut (Machine.scalarOp i sd r s) := issue fun _ _ => whenActive onGroup

theorem scalarBin {i f op} : s.SparesOut (Machine.scalarBin i f op s) := scalarOp

theorem scalarBinI {i f op} : s.SparesOut (Machine.scalarBinI i f op s) := scalarOp

/-! ### Branches and the divergence stack -/

theorem spillWrite {g idx e} : s.SparesR (s.spillWrite g idx e) := by
  fun_cases State.spillWrite <;> grind [refl, SparesR, res, storeAt]

theorem spillWrites {g rest} : s.SparesR (s.spillWrites g rest) := by
  fun_induction State.spillWrites <;> grind [refl, SparesR, res, spillWrite]

theorem spillRead {g idx} : s.SparesR (s.spillRead g idx) := by
  fun_cases State.spillRead <;> grind [SparesR, res, loadAt]

theorem settle {g rest} : s.SparesR (s.settle g rest) := by
  fun_induction State.settle <;> grind [refl, SparesR, res, spillRead]

theorem restack {g out rest k} : s.SparesR (s.restack g out rest k) := by
  fun_induction State.restack <;> grind [refl, SparesR, res, spillRead, spillWrites]

theorem spillStop {pc e} : s.SparesEff (Machine.spillStop s pc e) := by
  fun_cases Machine.spillStop <;> grind [SparesEff, eff, groupFault, seen, setCur]

theorem pushStack {g stack changed pc target} : s.SparesEff (Machine.pushStack s g stack changed pc target) := by
  fun_cases Machine.pushStack <;> grind [SparesEff, eff, SparesR, spillWrites, spillStop, setCur]

theorem popStack {s1 g f stack pc} (h1 : s.Spares s1) : s.SparesEff (Machine.popStack s s1 g f stack pc) := by
  fun_cases Machine.popStack <;> grind [SparesEff, eff, SparesR, spillStop, settle, setCur]

theorem execBrd {f} : s.SparesOut (Machine.execBrd f s) := by
  refine issue fun s g => ?_
  dsimp only
  repeat' split
  all_goals grind [refl, SparesEff, pushStack]

theorem execBri {f} : s.SparesOut (Machine.execBri f s) := by
  refine issue fun s g => ?_
  dsimp only
  repeat' split
  all_goals grind [refl, SparesEff]

theorem execRet : s.SparesOut (Machine.execRet s) := by
  refine issue fun s g => ?_
  split
  · trivial
  · split <;> grind [SparesR, restack, spillStop, popStack]

theorem execJoin : s.SparesOut (Machine.execJoin s) := by
  refine issue fun s g => ?_
  split
  · exact popStack (refl s)
  · exact refl _

theorem execBar {f} : s.SparesOut (Machine.execBar f s) := by
  refine issue fun s g => whenActive ?_
  dsimp only
  repeat' split
  all_goals grind [refl, SparesEff, eff, setTeam, setCur]

theorem execBarrive {f} : s.SparesOut (Machine.execBarrive f s) := by
  refine issue fun s g => whenActive ?_
  dsimp only
  repeat' split
  all_goals grind [refl, SparesEff, setTeam, setCur]

theorem execExit {f} : s.SparesOut (Machine.execExit f s) := by
  refine issue fun s g => ?_
  dsimp only
  split
  · exact refl _
  split
  · exact setCur
  split <;> split <;> grind [SparesEff, eff, SparesR, restack, spillStop, setCur, popStack]

theorem execRegroup {f} : s.SparesOut (Machine.execRegroup f s) := by
  refine issue fun s g => ?_
  dsimp only
  repeat' split
  all_goals grind [SparesEff, eff, setTeam, setCur]

/-! ### The schedulers -/

theorem enterActive {u} : s.Spares (s.enterActive u) := fresh.trans (setGroup_own rfl)

theorem leaveActive {u} : s.Spares (s.leaveActive u) := fresh.trans (setGroup_own rfl)

theorem swapOut {u} : s.Spares (s.swapOut u) := by
  fun_cases State.swapOut <;> grind [refl, trans, enterActive, leaveActive]

/-! ### Remote accesses and the write-combining buffer -/

theorem remoteTry {die ctx dev o write} : s.Spares (s.remoteTry die ctx dev o write).1 := by
  fun_cases State.remoteTry
  case case7 =>
    cases ‹s.fresh = _›
    refine Spares.trans ?_ sendPkt
    exact of_eq rfl rfl
  all_goals exact refl s

theorem wcbUpdate {core f} : s.Spares (s.wcbUpdate core f) := setCore

theorem armWriters {cause e} : s.Spares (Machine.armWriters s cause e) := by
  refine foldl (fun t k => ?_) _
  dsimp only
  split
  · exact setGroup_own (Group.own_arm ..)
  · exact refl t

theorem wcbPark {core e} : s.Spares (s.wcbPark core e) :=
  foldl (fun _ _ => groupFault.trans wcbUpdate) _

theorem wcbSend {core e} : s.Spares (s.wcbSend core e) := by
  fun_cases State.wcbSend <;> grind [refl, trans, armWriters, wcbUpdate, wcbPark, remoteTry, sendPkt]

theorem wcbSendAll {core p} : s.Spares (s.wcbSendAll core p) :=
  foldl (fun _ _ => wcbSend) _

theorem wcbAdd {core e} : s.Spares (s.wcbAdd core e).1 := by
  fun_cases State.wcbAdd <;> grind [refl, trans, fresh, wcbSendAll, wcbUpdate, wcbSend]

theorem wcbStore {core ctx task peer line colour mask data red w} : s.Spares (s.wcbStore core ctx task peer line colour mask data red w).1 := by
  fun_cases State.wcbStore <;> grind [trans, wcbSendAll, wcbUpdate, wcbAdd]

/-! ### Outstanding memory operations -/

theorem releaseAt {g scope cols} : s.SparesR (s.releaseAt g scope cols) := by
  fun_cases State.releaseAt <;> grind [refl, SparesR, res, flushL1, wcbSendAll]

theorem acquireAt {g scope cols} : s.SparesR (s.acquireAt g scope cols) := by
  fun_cases State.acquireAt <;> grind [refl, SparesR, acquireL1]

theorem freeWords {n} : s.Spares (s.freeWords n).2 := refl _

theorem violated {u kind pc vas} : s.Spares (s.violated u kind pc vas) :=
  List.foldlRecOn (motive := fun a : State × List Nat => s.Spares a.1) vas _ (refl s) fun a ha va _ => by
    split
    · exact ha
    · exact ha.trans groupFault

/-! ### Memory instructions -/

theorem pushOp {g p mask lanes} : s.SparesEff (Machine.pushOp s g p mask lanes) := by
  fun_cases Machine.pushOp <;> grind [refl, SparesEff, eff, fresh, setCur]

theorem issueGlobal {i p remoteOk align heads lanes g} : s.SparesEff (Machine.issueGlobal i p remoteOk align heads lanes s g) := by
  fun_cases Machine.issueGlobal <;> grind [refl, SparesEff, pushOp]

theorem absentPark {g lines} : s.SparesEff (Machine.absentPark s g lines) := setCur.trans swapOut

theorem issueSpad {i p f data g} : s.SparesEff (Machine.issueSpad i p f data s g) := by
  fun_cases Machine.issueSpad <;> grind [refl, SparesEff, absentPark, pushOp]

theorem execPresq {f} : s.SparesOut (Machine.execPresq f s) := by
  unfold Machine.execPresq
  refine issue fun s g => ?_
  dsimp only
  split
  · exact refl _
  split
  · trivial
  · trivial
  split
  · trivial
  split
  · trivial
  have hp := fun p m (l : List LaneAcc) => pushOp (s := s) (g := g) (p := p) (mask := m) (lanes := l)
  split
  next hd => exact (hd ▸ hp _ _ _ : s.SparesEff (.done _)).trans setTeam
  next => exact hp _ _ _

theorem hold : s.SparesEff (Machine.hold s) := by
  fun_cases Machine.hold <;> grind [refl, SparesEff, eff, swapOut, setCur]

theorem execFence {f} : s.SparesOut (Machine.execFence f s) := by
  refine issue fun s g => whenActive ?_
  dsimp only
  repeat' split
  all_goals grind [refl, SparesEff, eff, SparesR, hold, releaseAt, acquireAt]

theorem execDrain {f} : s.SparesOut (Machine.execDrain f s) := by
  refine issue fun s g => whenActive ?_
  dsimp only
  repeat' split
  all_goals grind [SparesR, SparesEff, eff, flushL1, acquireL1, wcbSendAll, hold]

theorem prefLane {g sco colour excl a} : s.Spares (s.prefLane g sco colour excl a) := by
  fun_cases State.prefLane <;> grind [refl, trans, SparesR, llcRead, ownLine, l1Fill]

theorem execPref {f} : s.SparesOut (Machine.execPref f s) := by
  unfold Machine.execPref
  exact issue fun s g => foldl (fun _ _ => prefLane) _

theorem joinShare {team key slot} : s.Spares (s.joinShare team key slot) := by
  fun_cases State.joinShare
  grind [trans, setTeam, setCtx]

theorem noteJoin {g key} : s.Spares (s.noteJoin g key) := setCtx

theorem execSpjoin {f} : s.SparesOut (Machine.execSpjoin f s) := by
  refine issue fun s g => whenActive ?_
  dsimp only
  repeat' split
  all_goals grind [refl, SparesEff, eff, joinShare, pushOp, noteJoin]

theorem leaveShare {team} : s.Spares (s.leaveShare team).1 := by
  fun_cases State.leaveShare <;> grind [refl, trans, setTeam, setCtx]

theorem execSpleave : s.SparesOut (Machine.execSpleave s) := by
  refine issue fun s g => whenActive ?_
  have hl := leaveShare (s := s) (team := g.team)
  split <;> grind [SparesEff, eff, hold]

/-! ### Vector instructions -/

theorem vecOp {i vd r} : s.SparesOut (Machine.vecOp i vd r s) := issue fun _ _ => whenActive onGroup

theorem intV {i f op} : s.SparesOut (Machine.intV i f op s) := vecOp

theorem intVI {i f op} : s.SparesOut (Machine.intVI i f op s) := vecOp

theorem bitV {i f op} : s.SparesOut (Machine.bitV i f op s) := vecOp

theorem bitVI {i f op} : s.SparesOut (Machine.bitVI i f op s) := vecOp

theorem fpV {i f op} : s.SparesOut (Machine.fpV i f op s) := vecOp

theorem fpVI {i f op} : s.SparesOut (Machine.fpVI i f op s) := vecOp

theorem cmpOp {i vd c} : s.SparesOut (Machine.cmpOp i vd c s) := issue fun _ _ => whenActive onGroup

theorem counted {i sr k g} (hk : ∀ act, s.SparesEff (k s g act)) : s.SparesEff (Machine.counted i sr k s g) := by
  fun_cases Machine.counted
  · exact setCur
  · exact hk _

theorem execVpack {f} : s.SparesOut (Machine.execVpack f s) := by
  unfold Machine.execVpack
  refine issue fun s g => counted fun _ => ?_
  dsimp only
  split
  · trivial
  · exact setCur

theorem execVunpack {f} : s.SparesOut (Machine.execVunpack f s) := by
  refine issue fun s g => whenActive ?_
  dsimp only
  repeat' split
  all_goals grind [SparesEff, setCur]

/-! ### Tiles and accumulators -/

theorem issueMoveEff {base m units g} : s.SparesEff (Machine.issueMove base m units s g) := by
  fun_cases Machine.issueMove <;> grind [refl, SparesEff, eff, fresh, absentPark, setCur]

theorem execTmov {f} : s.SparesOut (Machine.execTmov f s) := by
  refine issue fun s g => ?_
  dsimp only
  repeat' split
  all_goals grind [refl, SparesEff, eff, fresh, setCur]

/-! ### Matrix products -/

theorem startProduct {i n g} : s.SparesEff (Machine.startProduct i n s g) := by
  fun_cases Machine.startProduct <;> grind [trans, SparesEff, setCur, setCore]

theorem scaledProduct {i n nan g} : s.SparesEff (Machine.scaledProduct i n nan s g) := by
  fun_cases Machine.scaledProduct <;> grind [SparesEff, startProduct]

/-! ### Engine operations -/

theorem claimSlot {g} : s.Spares (s.claimSlot g).1 := by
  fun_cases State.claimSlot <;> exact refl _

theorem startOp {g copy o} : s.Spares (s.startOp g copy o) := fresh.trans (setCur.trans setOp)

theorem issueCopy {kind f g} : s.SparesEff (Machine.issueCopy kind f s g) := by
  fun_cases Machine.issueCopy <;> grind [refl, SparesEff, eff, setCur, claimSlot]

/-! ### Gallery operations -/

theorem issueGallery {o g} : s.SparesEff (Machine.issueGallery o s g) := by
  fun_cases Machine.issueGallery <;> grind [refl, SparesEff, eff, startOp, claimSlot]

theorem execGcopy {f} : s.SparesOut (Machine.execGcopy f s) := by
  unfold Machine.execGcopy
  refine issue fun s g => whenActive ?_
  dsimp only
  split
  · trivial
  · exact issueGallery

theorem execGsig {f} : s.SparesOut (Machine.execGsig f s) := by
  refine issue fun s g => whenActive ?_
  dsimp only
  repeat' split
  all_goals grind [SparesEff, issueGallery]

/-! ### Stage rings, the domain barrier and norm collectives -/

theorem setRing {team n r} : s.Spares (s.setRing team n r) := by
  fun_cases State.setRing
  grind [setTeam]

theorem deferRing {rel f tok g} : s.SparesEff (Machine.deferRing rel f tok s g) := by
  fun_cases Machine.deferRing
  · exact refl s
  · exact setCur

theorem execRpop {f} : s.SparesOut (Machine.execRpop f s) := by
  refine issue fun s g => whenActive ?_
  dsimp only
  repeat' split
  all_goals grind [refl, SparesEff, eff, setRing, setCur]

theorem gbarArrive {g n count} : s.Spares (s.gbarArrive g n count) := by
  fun_cases State.gbarArrive <;> grind [trans, fresh, setCtx, sendPkt, setCur]

theorem execGbar {f} : s.SparesOut (Machine.execGbar f s) := by
  refine issue fun s g => whenActive ?_
  repeat' split
  all_goals grind [SparesEff, eff, SparesR, gbarArrive, hold, releaseAt]

theorem normClose {ctx n} : s.Spares (s.normClose ctx n) := by
  fun_cases State.normClose <;> grind [trans, setCtx, sendPkt]

theorem execNrmadd {f} : s.SparesOut (Machine.execNrmadd f s) := by
  refine issue fun s g => whenActive ?_
  dsimp only
  repeat' split
  all_goals grind [refl, SparesEff, eff, normClose, setCtx, setCur]

theorem execNrmrd {f} : s.SparesOut (Machine.execNrmrd f s) := by
  refine issue fun s g => whenActive ?_
  dsimp only
  repeat' split
  all_goals grind [SparesEff, setCur]

theorem execMirror {f} : s.SparesOut (Machine.execMirror f s) := by
  refine issue fun s g => whenActive ?_
  dsimp only
  repeat' split
  all_goals grind [refl, SparesEff, eff, SparesR, hold, releaseAt, setCur]

/-! ### System instructions -/

theorem modCtx {g f} : s.Spares (s.modCtx g f) := setCtx

theorem execSwr {f} : s.SparesOut (Machine.execSwr f s) := by
  refine issue fun s g => whenActive ?_
  dsimp only
  repeat' split
  all_goals grind [refl, SparesEff, modCtx, setCur]

theorem execBarstWrite {f} : s.SparesOut (Machine.execBarstWrite f s) := by
  refine issue fun s g => whenActive ?_
  dsimp only
  repeat' split
  all_goals grind [refl, SparesEff, setTeam]

theorem execNormboxWrite {f} : s.SparesOut (Machine.execNormboxWrite f s) := by
  refine issue fun s g => whenActive ?_
  dsimp only
  repeat' split
  all_goals grind [refl, SparesEff, modCtx]

theorem execErrclr : s.SparesOut (Machine.execErrclr s) := by
  refine issue fun s g => whenActive ?_
  repeat' split
  all_goals grind [refl, SparesEff, modCtx]

theorem execTret {f} : s.SparesOut (Machine.execTret f s) := by
  refine issue fun s g => whenActive ?_
  repeat' split
  all_goals grind [SparesEff, setCur]

theorem opPark {kind va cause} : s.SparesEff (Machine.opPark s kind va cause) := groupFault.trans (setCur.trans swapOut)

theorem opStop {priv kind va e} : s.SparesEff (Machine.opStop priv s kind va e) := by
  fun_cases Machine.opStop <;> grind [SparesEff, eff, opPark, groupFault, seen, setCur]

theorem storeLines {g rest} : s.SparesExc (s.storeLines g rest) := by
  fun_induction State.storeLines <;> grind [refl, SparesExc, exc, SparesR, storeLine]

theorem execCtxsv {f} : s.SparesOut (Machine.execCtxsv f s) := by
  refine issue fun s g => whenActive ?_
  dsimp only
  repeat' split
  all_goals grind [SparesEff, eff, SparesExc, opStop, storeLines, hold, setCur]

theorem loadLines {g a n} : s.SparesR (s.loadLines g a n) := by
  fun_induction State.loadLines <;> grind [refl, SparesR, res, loadLine]

theorem execCtxld {f} : s.SparesOut (Machine.execCtxld f s) := by
  refine issue fun s g => whenActive ?_
  dsimp only
  repeat' split
  all_goals grind [SparesEff, eff, SparesR, opStop, loadLines, hold, setCur]

theorem execTlbinv {f} : s.SparesOut (Machine.execTlbinv f s) := by
  refine issue fun s g => whenActive ?_
  dsimp only
  repeat' split
  all_goals grind [refl, SparesEff, eff, Spares]

theorem writeBackAll {ctx key rest} : s.SparesR (s.writeBackAll ctx key rest) := by
  fun_induction State.writeBackAll <;> grind [refl, SparesR, res, writeBack]

theorem cleanHome {r} : s.SparesR (s.cleanHome r) := by
  fun_cases State.cleanHome <;> grind [SparesR, res, recallOwner, memoryFault, lineOut, setLlc]

theorem cinvLine {ctx key wb inv keep} : s.SparesR (s.cinvLine ctx key wb inv keep) := by
  have hw (p : Bool) : s.SparesR (if p then s.writeBackAll ctx key (tkeys s.cores) else .ok (s, ())) := by
    split
    · exact writeBackAll
    · exact refl s
  unfold State.cinvLine
  dsimp only
  split
  · trivial
  next s1 _ e1 =>
  have h1 : s.Spares s1 := (e1 ▸ hw _ :)
  have hc (p : Bool) : s1.SparesR (if p then s1.cleanHome ⟨noCore, s.ctxOfKey ctx key, keyAsid key, keyVa key⟩ else .ok (s1, ())) := by
    split
    · exact cleanHome
    · exact refl s1
  split
  · trivial
  next s2 _ e2 =>
  have h2 : s.Spares s2 := h1.trans (e2 ▸ hc _ :)
  split
  · exact h2
  split
  · split
    · exact h2
    · trivial
  have hp (t : State) rel : t.SparesR (t.pullOthers noCore key rel) := pullOthers
  split
  · trivial
  next s4 _ e4 =>
    have h4 : s.Spares s4 := h2.trans ((foldl (fun _ _ => dropL1) _).trans (e4 ▸ hp _ _ :))
    exact h4.trans ((foldl (fun _ _ => dropLlc) _).trans (setDir.trans clearResv))

theorem cinvLines {ctx wb inv keep rest} : s.SparesR (s.cinvLines ctx wb inv keep rest) := by
  fun_induction State.cinvLines <;> grind [refl, SparesR, res, cinvLine]

theorem execCinv {f} : s.SparesOut (Machine.execCinv f s) := by
  refine issue fun s g => whenActive ?_
  dsimp only
  repeat' split
  all_goals grind [SparesR, SparesEff, cinvLines, hold]

theorem execIcinv : s.SparesOut (Machine.execIcinv s) := by
  refine issue fun s g => whenActive ?_
  dsimp only
  repeat' split
  all_goals grind [SparesEff, eff, SparesR, Spares, hold, releaseAt]

theorem heatPut {g va x} : s.Spares (s.heatPut g va x).1 := by
  fun_cases State.heatPut <;> grind [refl, trans, SparesR, storeAt, wcbStore, remoteTry]

theorem heatStores {g bad rest} : s.SparesHeat (s.heatStores g bad rest) := by
  fun_induction State.heatStores <;> grind [refl, SparesHeat, heat, heatPut]

theorem heatReady {g vas} : s.Spares (s.heatReady g vas).1 :=
  List.foldlRecOn (motive := fun a : State × Bool => s.Spares a.1) vas _ (refl s) fun a ha va _ => by
    have hr := remoteTry (s := a.1) (die := dieOf (s.teamOf g).core) (ctx := (s.teamOf g).ctx) (dev := remotePeer va) (o := remoteOffset va) (write := true)
    dsimp only
    split
    · exact ha
    · refine Spares.trans ?_ wcbSendAll
      split
      next e => exact ha.trans (e ▸ hr :)
      · exact ha

theorem execHeatrd {f} : s.SparesOut (Machine.execHeatrd f s) := by
  refine issue fun s g => whenActive ?_
  have hr (l) : s.Spares (s.heatReady g l).1 := heatReady
  have hs (t : State) l : t.SparesHeat (t.decayed.heatStores g [] l) := heatStores
  dsimp only
  split
  · exact refl s
  split
  · trivial
  split
  · trivial
  split
  · exact hold
  split
  next e => exact (e ▸ hr _ :)
  next s1 e =>
    have h1 : s.Spares s1 := (e ▸ hr _ :)
    split
    · exact h1
    · exact h1.eff opStop
    next s2 bad e2 =>
      have h2 : s1.Spares s2 := (e2 ▸ hs _ _ :)
      exact h1.trans (h2.trans ((foldl (fun _ _ => seen) _).trans (violated.trans setCur)))

theorem execQpost {f} : s.SparesOut (Machine.execQpost f s) := by
  refine issue fun s g => whenActive ?_
  have hr := releaseAt (s := s) (g := g) (scope := 3) (cols := 0xFF)
  dsimp only
  split
  · trivial
  split
  · trivial
  split
  · exact hold
  split
  · exact hold
  next e => exact eff (e ▸ hr :) hold
  next s1 e =>
  have h1 : s.Spares s1 := (e ▸ hr :)
  have hl := homeLineW (s := s1) (r := s1.reqOf g ((g.rpair f.sa.toNat).toNat + 0x40))
  split
  · exact h1.eff opStop
  next s2 l e2 =>
  have h2 : s.Spares s2 := h1.trans (e2 ▸ hl :)
  split
  · exact h1.eff opStop
  split
  · exact h1.eff opStop
  split
  · split
    · exact h2.trans deferred
    · exact h2.trans (freeWords.trans setCur)
  · refine h2.trans (Spares.trans ?_ setCur)
    split
    · exact refl s2
    · exact homeWrite

/-! ### Every word -/

theorem exec {i} (hw : i.info.isWord = true) (hd : ∀ f, i ≠ .dbgwr f) : s.SparesOut (Machine.exec i s) := by
  cases i <;> dsimp only [Machine.exec]
  case dbgwr f => exact absurd rfl (hd f)
  case sget | xmaxe | xmov | xset | vlane | vshfl | vvote | vreduce | tcqry | tokclr | rwait | gslot | srd | dbgrd =>
    exact issue fun _ _ => whenActive setCur
  case trap => exact issue fun t _ => whenActive (refl t)
  case heatctlWrite => exact issue fun _ _ => whenActive (decayed.trans modCtx)
  case pcbrkWrite | sampctlWrite => exact issue fun _ _ => whenActive setCore
  case vfadd | vfsub | vfmul | vfma | vfmin | vfmax | vfrnd | vfrcp | vfrsq | vfsqrt | vfexp2 | vflog2 | vftrig | vftanh => exact fpV
  case sadd | ssub | smul | smulhi | sand | sor | sxor | sshl | sshr | ssar | smin | smax | scmp => exact scalarBin
  case saddImm | ssubImm | smulImm | sandImm | sorImm | sxorImm | sshlImm | sshrImm | ssarImm | sminImm | smaxImm | scmpImm => exact scalarBinI
  case vld | vst | sld | sst | vatom | vfatom | satom | vred | ldrsv | stcnd | lpin | lunpin => exact issue fun _ _ => issueGlobal
  case nop | bra => exact issue fun t _ => refl t
  case widen | narrow | wait | yield | tzero | czero | cscale | crq => exact issue fun _ _ => setCur
  case vadd | vsub | vmul | vmad | vmin | vmax | vabs | vshl | vshr | vsar => exact intV
  case vaddImm | vsubImm | vmulImm | vminImm | vmaxImm | vshlImm | vshrImm | vsarImm => exact intVI
  case vand | vor | vxor | vnot | vbfn3 | vbfx | vpopc | vclz => exact bitV
  case vbfi | vsel | vmov | vmovi | vbcast | vmatch | vscan => exact vecOp
  case smov | smovi | ssel | spopc | sclz | sbfx => exact scalarOp
  case vfaddImm | vfsubImm | vfmulImm | vfminImm | vfmaxImm => exact fpVI
  case vcmp | vcmpImm | vfcmp | vfcmpImm => exact cmpOp
  case tlds | tsts | clds | csts => exact issue fun _ _ => issueMoveEff
  case vlds | vsts | vatoms => exact issue fun _ _ => issueSpad
  case vandImm | vorImm | vxorImm => exact bitVI
  case mma | mmas | mmad => exact issue fun _ _ => scaledProduct
  case mmaf | mmai => exact issue fun _ _ => startProduct
  case rpush | rrel => exact issue fun _ _ => whenActive deferRing
  case call => exact issue fun _ _ => pushStack
  case gflush => exact issue fun _ _ => whenActive issueGallery
  case ringstWrite => exact issue fun _ _ => whenActive setRing
  case tshape => unfold Machine.execTshape; exact issue fun _ _ => onGroup
  case tscl => unfold Machine.execTscl; exact issue fun _ _ => onGroup
  case ctov => unfold Machine.execCtov; exact issue fun _ _ => onGroup
  case vtoc => unfold Machine.execVtoc; exact issue fun _ _ => onGroup
  case vldx => unfold Machine.execVldx; exact issue fun _ _ => issueGlobal
  case vstx => unfold Machine.execVstx; exact issue fun _ _ => issueGlobal
  case tcopy => unfold Machine.execTcopy; exact issue fun _ _ => whenActive issueCopy
  case tcopys => unfold Machine.execTcopys; exact issue fun _ _ => whenActive issueCopy
  case stash => unfold Machine.execStash; exact issue fun _ _ => whenActive issueCopy
  case vcvt | vrq | vrand =>
    refine issue fun _ _ => ?_
    exact counted fun _ => setCur
  case brd => exact execBrd
  case bri => exact execBri
  case bar => exact execBar
  case barrive => exact execBarrive
  case exit => exact execExit
  case regroup => exact execRegroup
  case vpack => exact execVpack
  case vunpack => exact execVunpack
  case fence => exact execFence
  case pref => exact execPref
  case drain => exact execDrain
  case presq => exact execPresq
  case spjoin => exact execSpjoin
  case tmov => exact execTmov
  case rpop => exact execRpop
  case gcopy => exact execGcopy
  case gsig => exact execGsig
  case gbar => exact execGbar
  case nrmadd => exact execNrmadd
  case nrmrd => exact execNrmrd
  case mirror => exact execMirror
  case swr => exact execSwr
  case tret => exact execTret
  case ctxsv => exact execCtxsv
  case ctxld => exact execCtxld
  case tlbinv => exact execTlbinv
  case cinv => exact execCinv
  case heatrd => exact execHeatrd
  case qpost => exact execQpost
  case barstWrite => exact execBarstWrite
  case normboxWrite => exact execNormboxWrite
  case ret => exact execRet
  case join => exact execJoin
  case spleave => exact execSpleave
  case errclr => exact execErrclr
  case icinv => exact execIcinv
  all_goals exact absurd hw Bool.false_ne_true

end State.Spares

/-- Settles O60: what an instruction word does to the table of groups spares every group but the issuing one (`State.Spares.exec`), and what `Group.own` keeps of such a group is what the statement names. -/
theorem otherGroups : Obligations.OtherGroups := by
  unfold Obligations.OtherGroups
  intro i s t u hw hd hu ht
  have hs : s.Spares t := (ht ▸ State.Spares.exec hw hd : s.SparesOut (.next t))
  have hown : (t.group u).own = (s.group u).own := hs.own_eq u hu
  simpa only [Group.own, Prod.mk.injEq] using hown

end Sys2Proof.Machine
end

section
/-! O11, the poison that a word reads, and TRAP (R49, R101, R131, R136). -/

namespace Sys2Proof.Machine

/-- A word whose description adds no illegal use is issued with the checks of R101 and with its own poison alone. -/
theorem exec_eq_issue {i : Instr} (hw : i.info.isWord = true) (ho : ownIllegal i = false) :
    ∃ eff, ∀ s, exec i s = issue i.info never (ownPoisoned i) eff s := by
  cases i
  case brd | bri | call | ret | join | widen | narrow | exit | regroup | tshape | tscl | tlds | tsts | clds | csts | tmov | mma | mmas | mmad |
      mmaf | mmai | crq | ctov | vtoc | gcopy | rpush | rpop | rwait | rrel | tret | heatrd | dbgrd | dbgwr =>
    exact Bool.noConfusion ho
  case loadDataReturn | storePerformed | tileMoveComplete | laneFault | accessViolation | teamSave | releasePull | pullAck | homeRequest |
      directoryInvalidate | l1WriteBack | homeAtomic | migrateWaitTimeout | normDeposit | timingMark | alignmentLoss | deviceLost | frameReceive |
      endToEndAck | gcmResend | sessionEstablish | hostMemAccess | sidebandWindowAccess | snoopResponse | crwpDoorbell | crEnable | registerWrite
      | pcSample | gateHold | powerOn | p1Enter | p1Exit | thermalShutdown | powerStateSelect | attestationReport | mrExtend | softError |
      clauseBegin | pendingEnter | forcedSwap | pathSwitch | faultRecordEnqueue | absentLineReissue | regroupExchange | groupRetire | gridEnd |
      teamPlacement | preemptPoint | teamLeaveCore | resumeRestore | wcbAgeExpiry | wcbAck | remoteRequest | remoteTranslationRequest | moved |
      remoteInvalidate | engineSlotGrant | recordReadComplete | copyWriteLand | engineOpFault | engineOpComplete | ringOpEffect | rwaitRelease |
      matrixChunkComplete | normTotalReceive | gbarArrival | gbarCompletion | mirroredWrite | mirrorAck | galleryStep | ctxCreate | ctxDestroy |
      map | replay | budget | gparam | arm | ovfpool | budgetPeriod | heatDecay =>
    exact absurd hw Bool.false_ne_true
  case pref => unfold exec execPref; exact ⟨_, fun _ => rfl⟩
  case presq => unfold exec execPresq; exact ⟨_, fun _ => rfl⟩
  all_goals unfold exec; exact ⟨_, fun _ => rfl⟩

/-- Such a word traps where it reads poison, before its effect. -/
theorem exec_poisoned {i : Instr} {s : State} {c : Clause} (hw : i.info.isWord = true) (ho : ownIllegal i = false) (h : AtWord s c)
    (hc : checkWord i.info s.cur c = none) (hp : (readsPoison i.info s.cur || ownPoisoned i s s.cur) = true) :
    exec i s = .next (s.trap s.who causePoison 0 (wordPc s.cur c) (resumeHere s.cur c)) := by
  obtain ⟨eff, heff⟩ := exec_eq_issue hw ho
  rw [heff]
  exact issue_poisoned h hc never (ownPoisoned i) rfl hp eff

section
variable {i : Info} {s : State} {c : Clause} {illegal poison : State → Group → Bool} {eff : State → Group → Eff}

/-- A word that raises a trap after itself: its group resumes at the next word, or, after the last, at the next clause (R282). -/
theorem issue_soft {s2 : State} {cause : Nat} {targ : W32} (h : AtWord s c) (hc : checkWord i s.cur c = none) (hp : readsPoison i s.cur = false)
    (hi : illegal s s.cur = false) (hq : poison s s.cur = false) (he : eff (s.setCur s.cur.issuing) s.cur.issuing = .soft s2 cause targ) :
    issue i illegal poison eff s = .next (s2.trap s.who cause targ (wordPc s.cur c)
      (if c.idx + 1 < c.words.length then ⟨s.cur.pc, true, c.idx + 1, c.words.length⟩ else ⟨nextHeader s.cur c, false, 0, c.words.length⟩)) := by
  rw [issue_passed h hc hp illegal poison hi hq, he]

end

section
variable {f : FSI} {s : State} {c : Clause} (h : Issues (.trap f) s c)
include h

theorem execTrap_on (hm : s.cur.mask ≠ 0) :
    execTrap f s = .next ((s.setCur s.cur.issuing).trap s.who causeSoftware f.imm (wordPc s.cur c)
      (if c.idx + 1 < c.words.length then ⟨s.cur.pc, true, c.idx + 1, c.words.length⟩ else ⟨nextHeader s.cur c, false, 0, c.words.length⟩)) := by
  have hact : s.cur.issuing.active' (0, false) ≠ 0 := by rwa [Group.issuing_active, Group.active_unpredicated]
  exact issue_soft h.at_ h.checks h.clean rfl rfl (whenActive_on hact)

theorem execTrap_off (hm : s.cur.mask = 0) : execTrap f s = .next (s.past c s.cur.issuing) := by
  have hact : s.cur.issuing.active' (0, false) = 0 := by rw [Group.issuing_active, Group.active_unpredicated, hm]
  exact issue_done h.at_ h.checks h.clean rfl rfl (whenActive_off hact)

end

/-- Settles O11: the issue of a word comes to its poison before its effect (`exec_eq_issue`), and TRAP does what its effect answers. -/
theorem poisonAndSoftware : Obligations.PoisonAndSoftware := by
  unfold Obligations.PoisonAndSoftware
  exact ⟨fun _ _ _ hw ho h hc hp => exec_poisoned hw ho h hc hp, fun _ _ _ h => ⟨execTrap_on h, execTrap_off h⟩⟩

end Sys2Proof.Machine
end

section
/-! O15 and O20, SGET and what a read returns after a write of a scalar or a vector register (R48, R49, R54, R113, R133, R280). -/

namespace Sys2Proof.Machine

/-! ### Words that act once, when some lane of ACTIVE is left (R34, R133) -/

section
variable {i : Instr} {s : State} {c : Clause} {eff : State → Group → Eff} (h : Issues i s c)
include h

theorem Issues.once_off (ha : s.activeOf i = 0) : issue i.info never never (whenActive i.info eff) s = .next (s.past c s.cur.issuing) :=
  issue_done h.at_ h.checks h.clean rfl rfl (whenActive_off ha)

theorem Issues.once_on (ha : s.activeOf i ≠ 0) {t : State} {g : Group} (ht : t.who = s.who)
    (he : eff (s.setCur s.cur.issuing) s.cur.issuing = .done (t.setCur g)) :
    issue i.info never never (whenActive i.info eff) s = .next (t.past c g) := by
  have hact : s.cur.issuing.active' i.info.pred ≠ 0 := ha
  rw [issue_done h.at_ h.checks h.clean rfl rfl ((whenActive_on hact).trans he), State.past, ht]

/-- A word that only writes registers of its group. -/
theorem Issues.once_out {g : Group} (he : eff (s.setCur s.cur.issuing) s.cur.issuing = .done (s.setCur g)) :
    issue i.info never never (whenActive i.info eff) s = .next (s.past c (s.onceOut i g)) := by
  unfold State.onceOut
  split
  case isTrue ha => exact h.once_off ha
  case isFalse ha => exact h.once_on ha rfl he

/-- A word that only changes the machine beyond its group. -/
theorem Issues.once_state {t : State} (ht : t.who = s.who)
    (he : s.activeOf i ≠ 0 → eff (s.setCur s.cur.issuing) s.cur.issuing = .done (t.setCur s.cur.issuing)) :
    issue i.info never never (whenActive i.info eff) s = .next ((if s.activeOf i = 0 then s else t).past c s.cur.issuing) := by
  split
  case isTrue ha => exact h.once_off ha
  case isFalse ha => exact h.once_on ha ht (he ha)

end

/-- An unpredicated word acts for the lanes of the path. -/
theorem State.onceOut_unpredicated {s : State} {i : Instr} (hi : i.info.pred = (0, false)) (sd : BitVec 7) (v : W32) :
    s.onceOut i (s.cur.issuing.ws sd.toNat v) = s.scalarOut sd v := by
  rw [State.onceOut, State.scalarOut, State.activeOf, hi, Group.active_unpredicated]

/-! ### SGET (R54) -/

theorem exists_lane_of_ne_zero {m : Lanes} (h : m ≠ 0) : ∃ l ∈ List.range 32, inSet m l = true := by
  by_contra hall
  refine h (BitVec.eq_of_getLsbD_eq fun l hl => ?_)
  exact (Bool.eq_false_iff.2 fun hm => hall ⟨l, List.mem_range.2 hl, hm⟩ : m.getLsbD l = false).trans BitVec.getLsbD_zero.symm

theorem find_lowest {m : Lanes} (h : m ≠ 0) : (List.range 32).find? (inSet m) = some (lowest m) := by
  obtain ⟨l, hl⟩ := Option.isSome_iff_exists.1 (List.find?_isSome.2 (exists_lane_of_ne_zero h))
  rw [lowest, lanesOf, List.headD_eq_head?_getD, List.head?_filter, hl, Option.getD_some]

/-- The lowest lane of a set that is not empty is in it, and no lane below is. -/
theorem lowest_spec {m : Lanes} (h : m ≠ 0) : lowest m < 32 ∧ m.getLsbD (lowest m) = true ∧ ∀ k, k < lowest m → m.getLsbD k = false := by
  obtain ⟨hin, hlt, hbelow⟩ := List.find?_range_eq_some.1 (find_lowest h)
  exact ⟨List.mem_range.1 hlt, hin, fun k hk => (Bool.not_eq_true' _).mp (hbelow k hk)⟩

/-- The count of a group's instructions on its path is no part of its life. -/
theorem State.status_setCur_issuing (s : State) (u : Nat) : ((s.setCur s.cur.issuing).group u).status = (s.group u).status := by
  by_cases hu : s.who = u
  · subst hu
    exact (congrArg Group.status (State.cur_setCur s s.cur.issuing) :)
  · exact congrArg Group.status (tgetD_tset_ne _ _ _ hu)

theorem sgetValue_issuing (s : State) (n : Nat) : sgetValue (s.setCur s.cur.issuing) s.cur.issuing n = sgetValue s s.cur n := by
  unfold sgetValue
  split
  case h_10 => simp only [State.status_setCur_issuing]; rfl
  all_goals rfl

/-- The number of threads: where it is 2^31 it reads one less (R54). -/
theorem sgetValue_threads (s : State) (n : Nat) (hn : n = ((s.lrecOf s.cur).extractLsb' 0xA0 32).toNat *
    ((s.lrecOf s.cur).extractLsb' 0xC0 32).toNat * ((s.lrecOf s.cur).extractLsb' 0xE0 32).toNat) :
    sgetValue s s.cur 4 = BitVec.ofNat 32 (if n = 2 ^ 31 then 2 ^ 31 - 1 else n) := by
  have hv : sgetValue s s.cur 4 = BitVec.ofNat 32 (if n = 2 ^ 31 then n - 1 else n) := by rw [hn]; rfl
  rw [hv]
  split_ifs with h31
  · rw [h31]
  · rfl

theorem sgetValue_live (s : State) :
    sgetValue s s.cur 9 = BitVec.ofNat 32 ((s.teamOf s.cur).groups.countP fun p => (s.group p.2).status == .live) := by
  rw [List.countP_eq_length_filter]
  rfl

theorem execSget_issues {f : FSI} {s : State} {c : Clause} (h : Issues (.sget f) s c) :
    execSget f s = .next (s.past c (s.scalarOut f.sd (sgetValue s s.cur f.imm.toNat))) := by
  refine (h.once_out (congrArg Eff.done (State.setCur_setCur ..))).trans ?_
  rw [sgetValue_issuing, State.onceOut_unpredicated rfl]

/-! ### Scalar registers after a write (R48, R49, R280) -/

theorem getLsbD_clearBit {w : Nat} (x : BitVec w) (n m : Nat) : (x &&& ~~~(1#w <<< n)).getLsbD m = (x.getLsbD m && !decide (n = m)) := by
  by_cases hm : m < w
  · simp [hm]
    grind
  · simp [BitVec.getLsbD_of_ge _ _ (Nat.le_of_not_lt hm)]

section
variable {g : Group} {n m : Nat} {x : W32}

theorem Group.inBank_iff : g.inBank n = true ↔ g.mode ≠ .user ∧ 120 ≤ n ∧ n < 128 := by
  simp [Group.inBank, and_assoc]

/-- Outside the bank a write goes to the group's own register. -/
theorem Group.ws_own (hn : n ≠ 0) (hb : g.inBank n = false) : g.ws n x = { g with s := tset g.s n x, sp := g.sp &&& ~~~(1#128 <<< n) } := by
  simp [Group.ws, hn, hb]

/-- In the user handler it goes to the user bank. -/
theorem Group.ws_bankU (hm : g.mode = .userHandler) (hl : 120 ≤ n) (hu : n < 128) :
    g.ws n x = { g with bankU := tset g.bankU (n - 120) x, bankP := g.bankP &&& ~~~(1#16 <<< (n - 120)) } := by
  have hb : g.inBank n = true := Group.inBank_iff.2 ⟨by simp [hm], hl, hu⟩
  simp [Group.ws, show n ≠ 0 by omega, hb, hm]

/-- In the system handler it goes to the system bank. -/
theorem Group.ws_bankS (hm : g.mode = .sysHandler) (hl : 120 ≤ n) (hu : n < 128) :
    g.ws n x = { g with bankS := tset g.bankS (n - 120) x, bankP := g.bankP &&& ~~~(1#16 <<< (n - 120 + 8)) } := by
  have hb : g.inBank n = true := Group.inBank_iff.2 ⟨by simp [hm], hl, hu⟩
  simp [Group.ws, show n ≠ 0 by omega, hb, hm]

@[simp] theorem Group.mask_ws : (g.ws n x).mask = g.mask := by simp [Group.mask, Group.top]

/-- The bit of the banks' poison that stands for register `n` of the bank in use. -/
def Group.bankBit (g : Group) (n : Nat) : Nat := n - 120 + (if g.mode == .userHandler then 0 else 8)

theorem Group.sPoison_own (hm : m ≠ 0) (hb : g.inBank m = false) : g.sPoison m = g.sp.getLsbD m := by
  simp [Group.sPoison, hm, hb]

theorem Group.sPoison_bank (hb : g.inBank m = true) : g.sPoison m = g.bankP.getLsbD (g.bankBit m) := by
  have hm : m ≠ 0 := by have := Group.inBank_iff.1 hb; omega
  rw [Group.sPoison, if_neg hm, if_pos hb, Group.bankBit]

theorem Group.ws_sp (hn : n ≠ 0) (hb : g.inBank n = false) : (g.ws n x).sp = g.sp &&& ~~~(1#128 <<< n) := by rw [Group.ws_own hn hb]

theorem Group.ws_sp_bank (hb : g.inBank n = true) : (g.ws n x).sp = g.sp := by
  obtain ⟨hmode, hl, hu⟩ := Group.inBank_iff.1 hb
  cases hm : g.mode
  case user => exact absurd hm hmode
  case userHandler => rw [Group.ws_bankU hm hl hu]
  case sysHandler => rw [Group.ws_bankS hm hl hu]

theorem Group.ws_bankP (hb : g.inBank n = true) : (g.ws n x).bankP = g.bankP &&& ~~~(1#16 <<< g.bankBit n) := by
  obtain ⟨hmode, hl, hu⟩ := Group.inBank_iff.1 hb
  cases hm : g.mode
  case user => exact absurd hm hmode
  case userHandler => rw [Group.ws_bankU hm hl hu]; simp [Group.bankBit, hm]
  case sysHandler => rw [Group.ws_bankS hm hl hu]; simp [Group.bankBit, hm]

theorem Group.ws_bankP_own (hn : n ≠ 0) (hb : g.inBank n = false) : (g.ws n x).bankP = g.bankP := by rw [Group.ws_own hn hb]

theorem Group.bankBit_inj (hn : g.inBank n = true) (hm : g.inBank m = true) : g.bankBit n = g.bankBit m ↔ n = m := by
  obtain ⟨-, hln, -⟩ := Group.inBank_iff.1 hn
  obtain ⟨-, hlm, -⟩ := Group.inBank_iff.1 hm
  simp only [Group.bankBit]
  omega

/-- A write of a scalar register clears its poison and no other register's (R49). -/
theorem Group.sPoison_ws : (g.ws n x).sPoison m = (g.sPoison m && !decide (n = m)) := by
  by_cases hn : n = 0
  · subst hn
    by_cases hm : m = 0
    · simp [hm, Group.sPoison]
    · simp [Ne.symm hm]
  by_cases hm : m = 0
  · simp [hm, Group.sPoison]
  cases hbm : g.inBank m <;> cases hbn : g.inBank n
  · rw [Group.sPoison_own hm hbm, Group.sPoison_own hm ((g.inBank_ws n m x).trans hbm), Group.ws_sp hn hbn, getLsbD_clearBit]
  · have hne : n ≠ m := fun e => by simp [e, hbm] at hbn
    simp [Group.sPoison_own hm hbm, Group.sPoison_own hm ((g.inBank_ws n m x).trans hbm), Group.ws_sp_bank hbn, hne]
  · have hne : n ≠ m := fun e => by simp [e, hbm] at hbn
    simp [Group.sPoison_bank hbm, Group.sPoison_bank ((g.inBank_ws n m x).trans hbm), Group.ws_bankP_own hn hbn, hne, Group.bankBit]
  · have hbit : (g.ws n x).bankBit m = g.bankBit m := by rw [Group.bankBit, Group.bankBit, Group.ws_mode]
    simp only [Group.sPoison_bank hbm, Group.sPoison_bank ((g.inBank_ws n m x).trans hbm), Group.ws_bankP hbn, hbit, getLsbD_clearBit,
      Group.bankBit_inj hbn hbm]

end

/-- Settles O15: SGET writes `sgetValue`, whose first selectors are the lowest lane of the path; a write of a register is one of the bank in use or of the group's own, and no other register's. -/
theorem scalarReadsAndWrites : Obligations.ScalarReadsAndWrites := by
  unfold Obligations.ScalarReadsAndWrites
  refine ⟨fun f s c h => ?_, fun g n x hn => ?_⟩
  · have sel {k : W32} (e : f.imm = k) : sgetValue s s.cur f.imm.toNat = sgetValue s s.cur k.toNat := by rw [e]
    refine ⟨sgetValue s s.cur f.imm.toNat, execSget_issues h, fun e hm => ?_, fun e hm => ?_, sel, sel,
      fun e n hn => (sel e).trans (sgetValue_threads s n hn), fun e => (sel e).trans (sgetValue_live s), sel, sel, sel, sel, sel, sel, sel⟩
    all_goals obtain ⟨hlt, hin, hbelow⟩ := lowest_spec hm
    · have hv : (sgetValue s s.cur f.imm.toNat).toNat = lowest s.cur.mask :=
        (congrArg BitVec.toNat (sel e)).trans (Nat.mod_eq_of_lt (hlt.trans (by decide)))
      rw [hv]
      exact ⟨hlt, hin, hbelow⟩
    · exact ⟨_, hlt, hin, hbelow, sel e⟩
  · refine ⟨Group.rs_zero g, Group.ws_zero g x, rfl, fun h0 => ⟨g.rs_ws_self n x h0, by simp [Group.sPoison_ws]⟩,
      fun m hm hne => ⟨g.rs_ws_ne x hne.symm, by simp [Group.sPoison_ws, hne.symm]⟩, g.ws_v n x, g.ws_vp n x, g.ws_x n x, g.ws_xp n x,
      g.ws_mode n x, Group.mask_ws, fun hl hm => ?_, fun hl hm => ?_, fun hl hm => ?_⟩
    · have hb : g.inBank n = false := by simp [Group.inBank, hm]
      rw [Group.ws_own (by omega) hb]
      exact ⟨rfl, rfl⟩
    · rw [Group.ws_bankU hm hl hn]
      exact ⟨rfl, rfl⟩
    · rw [Group.ws_bankS hm hl hn]
      exact ⟨rfl, rfl⟩

/-- Settles O20: what a per-lane write leaves of a lane and of its poison; of every other field nothing changes. -/
theorem laneWrites : Obligations.LaneWrites := by
  unfold Obligations.LaneWrites
  intro g n m x k l hl
  refine ⟨?_, ?_, fun j => ⟨rfl, rfl, rfl, rfl, rfl, rfl, rfl⟩, rfl, rfl⟩
  · simp only [Group.rl_wv _ _ _ _ _ _ hl, inSet, eq_comm (a := n)]
  · rw [Group.rvp_wv]
    by_cases hk : n = k
    · simp [hk, hl]
      grind
    · simp [hk, Ne.symm hk]

end Sys2Proof.Machine
end

section
/-! O30, SRD of the system registers (R55 to R60, R227, R259, R272, R285, R329, R331). A register that packs fields is taken apart by a lemma about its word. -/

namespace Sys2Proof.Machine

/-! ### Words that pack fields -/

theorem field_of_word {w N p len : Nat} {x : BitVec len} (h : N % 2 ^ w / 2 ^ p % 2 ^ len = x.toNat) : (BitVec.ofNat w N).extractLsb' p len = x := by
  apply BitVec.eq_of_toNat_eq
  rw [BitVec.extractLsb'_toNat, BitVec.toNat_ofNat, Nat.shiftRight_eq_div_pow, h]

theorem number_of_word {w N p len n : Nat} (h : N % 2 ^ w / 2 ^ p % 2 ^ len = n) : ((BitVec.ofNat w N).extractLsb' p len).toNat = n := by
  rw [BitVec.extractLsb'_toNat, BitVec.toNat_ofNat, Nat.shiftRight_eq_div_pow, h]

theorem bit_of_word {w N p : Nat} {b : Bool} (hp : p < w) (h : N / 2 ^ p % 2 = b.toNat) : (BitVec.ofNat w N).getLsbD p = b := by
  rw [BitVec.getLsbD_ofNat, decide_eq_true hp, Bool.true_and, Nat.testBit_eq_decide_div_mod_eq, h]
  cases b <;> rfl

/-- CTXID (R55). -/
theorem identWord_fields (ctx asid : Nat) :
    let v := BitVec.ofNat 64 (ctx % 2 ^ 16 * 2 ^ 16 + asid % 2 ^ 16)
    (v.extractLsb' 16 16).toNat = ctx % 2 ^ 16 ∧ (v.extractLsb' 0 16).toNat = asid % 2 ^ 16 ∧ v.extractLsb' 32 32 = 0 :=
  ⟨number_of_word (by omega), number_of_word (by omega), field_of_word (by change _ = 0; omega)⟩

theorem Mode.code_le (m : Mode) : m.code ≤ 2 := by cases m <;> decide

/-- GSTAT (R285). -/
theorem gstatWord_fields (targ : W32) (cause : Nat) (mode : Mode) (utrap wid : Bool) (depth : Nat) :
    let v := gstatWord targ cause mode utrap wid depth
    v.extractLsb' 32 32 = targ ∧ (v.extractLsb' 24 8).toNat = cause % 256 ∧ (v.extractLsb' 14 2).toNat = mode.code ∧
      v.getLsbD 13 = utrap ∧ v.getLsbD 12 = wid ∧ (v.extractLsb' 0 6).toNat = min depth 32 := by
  have htarg := targ.isLt
  have hmode := mode.code_le
  have hu := utrap.toNat_lt
  have hw := wid.toNat_lt
  exact ⟨field_of_word (by omega), number_of_word (by omega), number_of_word (by omega), bit_of_word (by decide) (by omega),
    bit_of_word (by decide) (by omega), number_of_word (by omega)⟩

/-- BARSTn (R60). -/
theorem Barrier.word_fields (b : Barrier) :
    (b.word.extractLsb' 0 6).toNat = b.e % 64 ∧ (b.word.extractLsb' 6 6).toNat = b.arr.length % 64 ∧ (b.word.extractLsb' 12 1).toNat = b.phases % 2 ∧
      (b.word.extractLsb' 13 5).toNat = min b.gone.length 31 ∧ b.word.extractLsb' 18 46 = 0 :=
  ⟨number_of_word (by omega), number_of_word (by omega), number_of_word (by omega), number_of_word (by omega), field_of_word (by change _ = 0; omega)⟩

/-- RINGSTn (R227). -/
theorem Ring.word_fields (r : Ring) :
    r.word.extractLsb' 48 16 = r.fph ∧ r.word.extractLsb' 32 16 = r.eph ∧ r.word.getLsbD 23 = r.clap ∧ r.word.extractLsb' 19 4 = r.cstg ∧
      r.word.getLsbD 18 = r.plap ∧ r.word.extractLsb' 14 4 = r.pstg ∧ r.word.getLsbD 8 = r.en ∧ r.word.extractLsb' 4 4 = r.reln ∧
      r.word.extractLsb' 0 4 = r.nst := by
  have hfph := r.fph.isLt
  have heph := r.eph.isLt
  have hclap := r.clap.toNat_lt
  have hcstg := r.cstg.isLt
  have hplap := r.plap.toNat_lt
  have hpstg := r.pstg.isLt
  have hen := r.en.toNat_lt
  have hreln := r.reln.isLt
  have hnst := r.nst.isLt
  refine ⟨field_of_word ?_, field_of_word ?_, bit_of_word (by decide) ?_, field_of_word ?_, bit_of_word (by decide) ?_, field_of_word ?_,
    bit_of_word (by decide) ?_, field_of_word ?_, field_of_word ?_⟩
  all_goals omega

/-! ### SRD -/

theorem State.sysRead_issuing (s : State) (r : Nat) : (s.setCur s.cur.issuing).sysRead s.cur.issuing r = s.sysRead s.cur r := rfl

theorem halfOf_eq (hi : Bool) (x : W64) : halfOf hi x = if hi then x.extractLsb' 32 32 else x.extractLsb' 0 32 := by
  rw [halfOf, BitVec.setWidth_eq_extractLsb' (by decide)]

theorem execSrd_issues {f : FY} {s : State} {c : Clause} (h : Issues (.srd f) s c) :
    execSrd f s = .next (s.past c (s.onceOut (.srd f) (s.cur.issuing.ws f.sd.toNat (halfOf (f.mod.getLsbD 0) (s.sysRead s.cur f.sysreg.toNat))))) :=
  h.once_out (congrArg Eff.done (State.setCur_setCur ..))

section
variable (s : State) (g : Group) {n : Nat}

theorem State.sysRead_barst (hn : n < 16) : s.sysRead g (0x20 + n) = ((s.teamOf g).bar n).word := by
  simp (disch := omega) only [State.sysRead, if_neg, if_pos, Nat.add_sub_cancel_left]

theorem State.sysRead_ringst (hn : n < 8) : s.sysRead g (0x30 + n) = ((s.teamOf g).ring n).word := by
  simp (disch := omega) only [State.sysRead, if_neg, if_pos, Nat.add_sub_cancel_left]

theorem State.sysRead_pcbrk (hn : n < 8) : s.sysRead g (0x100 + n) = tgetD (s.core (s.teamOf g).core).brk n 0 := by
  simp (disch := omega) only [State.sysRead, if_neg, if_pos, Nat.add_sub_cancel_left]

end

/-- Settles O30: SRD writes the half of `sysRead`, whose packed words the lemmas above take apart. -/
theorem systemReads : Obligations.SystemReads := by
  unfold Obligations.SystemReads
  intro f s c h
  have reg {k : Nat} (e : f.sysreg.toNat = k) : s.sysRead s.cur f.sysreg.toNat = s.sysRead s.cur k := by rw [e]
  refine ⟨s.sysRead s.cur f.sysreg.toNat, ?_, fun e => ?_, fun e => ?_, reg, reg, reg, reg, reg, reg, reg, reg, fun n hn e => ?_, fun n hn e => ?_,
    reg, reg, reg, reg, fun n hn e => (reg e).trans (s.sysRead_pcbrk s.cur hn), reg⟩
  · rw [← halfOf_eq]
    exact execSrd_issues h
  · rw [reg e]
    exact identWord_fields _ _
  · obtain ⟨htarg, hcause, hmode, hutrap, hwid, hdepth⟩ := gstatWord_fields s.cur.targ s.cur.cause s.cur.mode
      ((s.ctxOf s.cur).userEntry != 0) s.cur.widen.isSome s.cur.stack.length
    rw [reg e]
    exact ⟨htarg, hcause, hmode.trans (by cases s.cur.mode <;> rfl), hutrap, hwid, hdepth⟩
  · rw [reg e, s.sysRead_barst s.cur hn]
    exact Barrier.word_fields _
  · rw [reg e, s.sysRead_ringst s.cur hn]
    exact Ring.word_fields _

end Sys2Proof.Machine
end

section
/-! O31, SWR of the system registers and ERRCLR (R33, R37, R55 to R60, R81, R175, R227, R259, R272, R329 to R331). What a write of one half leaves of a field is said by `putHalf_getLsbD` and `extract_putHalf`, and what a word does by a lemma for each register. -/

namespace Sys2Proof.Machine

/-! ### One half of a register (R55) -/

theorem putHalf_eq (hi : Bool) (x : W64) (v : W32) :
    putHalf hi x v = if hi then v ++ x.extractLsb' 0 32 else x.extractLsb' 32 32 ++ v := by
  refine BitVec.eq_of_getLsbD_eq fun j hj => ?_
  cases hi
  all_goals
    simp only [putHalf, if_true, if_false, Bool.false_eq_true, putBits_getLsbD _ _ _ _ hj, BitVec.getLsbD_append, BitVec.getLsbD_extractLsb']
    grind

/-- A bit of the low half. -/
theorem putHalf_getLsbD (hi : Bool) (x : W64) (v : W32) {j : Nat} (hj : j < 32) : (putHalf hi x v).getLsbD j = if hi then x.getLsbD j else v.getLsbD j := by
  have h64 : j < 64 := by omega
  cases hi
  · exact (putBits_getLsbD x 0 v j h64).trans (if_pos (by omega))
  · exact (putBits_getLsbD x 32 v j h64).trans (if_neg (by omega))

/-- A field of the low half. -/
theorem extract_putHalf (hi : Bool) (x : W64) (v : W32) {p len : Nat} (h : p + len ≤ 32) :
    (putHalf hi x v).extractLsb' p len = if hi then x.extractLsb' p len else v.extractLsb' p len := by
  refine BitVec.eq_of_getLsbD_eq fun j hj => ?_
  rw [BitVec.getLsbD_extractLsb', putHalf_getLsbD hi x v (by omega)]
  cases hi <;> simp [hj]

/-- A register of fewer bits than a half. -/
theorem setWidth_putHalf (hi : Bool) {len : Nat} (x : BitVec len) (v : W32) (h : len ≤ 32) :
    (putHalf hi (x.setWidth 64) v).setWidth len = if hi then x else v.extractLsb' 0 len := by
  rw [BitVec.setWidth_eq_extractLsb' (by omega), extract_putHalf _ _ _ (by omega), ← BitVec.setWidth_eq_extractLsb' (by omega),
    BitVec.setWidth_setWidth_of_le _ (by omega), BitVec.setWidth_eq]

/-! ### SWR to the registers of the group and of the context (R55 to R59, R81, R175, R259) -/

section
variable {f : FY} {s : State} {c : Clause} (h : Issues (.swr f) s c)
include h

theorem execSwr_off (ha : s.activeOf (.swr f) = 0) : execSwr f s = .next (s.past c s.cur.issuing) := h.once_off ha

variable (ha : s.activeOf (.swr f) ≠ 0)
include ha

theorem execSwr_xstat (e : f.sysreg.toNat = 2) : execSwr f s = .next (s.past c (if f.mod.getLsbD 0 then s.cur.issuing else
    { s.cur.issuing with xstat := s.cur.xstat &&& ~~~((s.cur.rs f.sa.toNat).extractLsb' 0 3) })) := by
  refine h.once_on ha rfl ?_
  simp only [e, State.setCur_setCur, apply_ite s.setCur]
  rfl

theorem execSwr_gctl (e : f.sysreg.toNat = 3) : execSwr f s = .next (s.past c (if f.mod.getLsbD 0 then s.cur.issuing else
    { s.cur.issuing with gctlNext := (s.cur.rs f.sa.toNat).extractLsb' 0 2 })) := by
  refine h.once_on ha rfl ?_
  have hnew := setWidth_putHalf (f.mod.getLsbD 0) s.cur.gctlNext (s.cur.rs f.sa.toNat) (by decide)
  simp only [e]
  refine congrArg Eff.done ((State.setCur_setCur ..).trans (congrArg s.setCur ((congrArg (fun w => { s.cur.issuing with gctlNext := w }) hnew).trans ?_)))
  split <;> rfl

theorem execSwr_readOnly (e : f.sysreg.toNat = 4 ∨ f.sysreg.toNat = 5) : execSwr f s = .next (s.past c s.cur.issuing) := by
  refine h.once_on ha rfl ?_
  obtain e | e := e <;> simp only [e]

theorem execSwr_mprog (e : f.sysreg.toNat = 6) : execSwr f s = .next (s.past c
    { s.cur.issuing with mprog := putHalf (f.mod.getLsbD 0) s.cur.mprog (s.cur.rs f.sa.toNat) &&& 0x83FFFFFFFFFFFFFF }) := by
  refine h.once_on ha rfl ?_
  simp only [e, State.setCur_setCur]
  rfl

theorem execSwr_pathq (e : f.sysreg.toNat = 7) : execSwr f s = .next (s.past c (if f.mod.getLsbD 0 then s.cur.issuing else
    { s.cur.issuing with pathq := if (s.cur.rs f.sa.toNat).toNat < 16 then 16 else s.cur.rs f.sa.toNat })) := by
  refine h.once_on ha rfl ?_
  simp only [e, State.setCur_setCur, apply_ite s.setCur]
  rfl

theorem execSwr_engseq (e : f.sysreg.toNat = 0x10) : execSwr f s = .next (s.past c
    { s.cur.issuing with engseq := putHalf (f.mod.getLsbD 0) s.cur.engseq (s.cur.rs f.sa.toNat) }) := by
  refine h.once_on ha rfl ?_
  simp only [e, State.setCur_setCur]
  rfl

theorem execSwr_rngseed (e : f.sysreg.toNat = 8) : execSwr f s = .next ((if f.mod.getLsbD 0 then s else s.modCtx s.cur fun x =>
    { x with rngPrev := if x.rngAt = s.cycle then x.rngPrev else x.rngseed, rngAt := s.cycle, rngseed := s.cur.rs f.sa.toNat }).past c s.cur.issuing) := by
  refine h.once_on ha (by split <;> rfl) ?_
  simp only [e]
  split <;> rfl

theorem execSwr_normclip (e : f.sysreg.toNat = 0x41) : execSwr f s = .next ((if f.mod.getLsbD 0 then s else s.modCtx s.cur fun x =>
    { x with normclip := s.cur.rs f.sa.toNat }).past c s.cur.issuing) := by
  refine h.once_on ha (by split <;> rfl) ?_
  simp only [e]
  split <;> rfl

theorem execSwr_wcbage (e : f.sysreg.toNat = 0x50) : execSwr f s = .next ((if f.mod.getLsbD 0 then s else s.modCtx s.cur fun x =>
    { x with wcbage := min 64000 (max 500 ((s.cur.rs f.sa.toNat).toNat % 2 ^ 16)) }).past c s.cur.issuing) := by
  refine h.once_on ha (by split <;> rfl) ?_
  simp only [e]
  split <;> rfl

end

/-! ### HEATCTL (R272, R273) -/

/-- What a write of HEATCTL leaves of the new value: DECAY is at least 16. -/
def heatWord (v : W64) : BitVec 10 :=
  BitVec.ofNat 10 ((getBits v 9 1).toNat * 2 ^ 9 + max 16 (getBits v 4 5).toNat * 2 ^ 4 + (getBits v 0 4).toNat)

theorem execHeatctlWrite_issues {f : FY} {s : State} {c : Clause} (h : Issues (.heatctlWrite f) s c) :
    execHeatctlWrite f s = .next ((if s.activeOf (.heatctlWrite f) = 0 then s else s.decayed.modCtx s.cur fun x =>
      { x with heatctl := heatWord (putHalf (f.mod.getLsbD 0) ((s.ctxOf s.cur).heatctl.setWidth 64) (s.cur.rs f.sa.toNat)), heatN := [] }).past c s.cur.issuing) :=
  h.once_state rfl fun _ => rfl

theorem heatWord_fields (v : W64) : (heatWord v).extractLsb' 0 4 = v.extractLsb' 0 4 ∧
    ((heatWord v).extractLsb' 4 5).toNat = max 16 (v.extractLsb' 4 5).toNat ∧ (heatWord v).getLsbD 9 = v.getLsbD 9 := by
  have hbit : (getBits v 9 1).toNat = (v.getLsbD 9).toNat := by
    rw [getBits_eq, BitVec.extractLsb'_toNat, Nat.shiftRight_eq_div_pow, BitVec.getLsbD, Nat.toNat_testBit]
  have hb := (v.getLsbD 9).toNat_lt
  have hd := (getBits v 4 5).isLt
  have hl := (getBits v 0 4).isLt
  rw [heatWord, hbit]
  exact ⟨field_of_word (by rw [← getBits_eq]; omega), number_of_word (by rw [← getBits_eq]; omega), bit_of_word (by decide) (by omega)⟩

/-- A value whose DECAY needs no clamp. -/
theorem heatWord_of_le {v : W64} (hv : 16 ≤ (v.extractLsb' 4 5).toNat) : heatWord v = v.setWidth 10 := by
  apply BitVec.eq_of_toNat_eq
  rw [BitVec.extractLsb'_toNat, Nat.shiftRight_eq_div_pow] at hv
  rw [heatWord, BitVec.toNat_ofNat, BitVec.toNat_setWidth]
  simp only [getBits_eq, BitVec.extractLsb'_toNat, Nat.shiftRight_eq_div_pow]
  omega

/-! ### BARSTn and RINGSTn (R37, R60, R227) -/

/-- A word that waits for the next cycle: its group tries again. -/
theorem Issues.once_stays {i : Instr} {s : State} {c : Clause} {eff : State → Group → Eff} (h : Issues i s c) (ha : s.activeOf i ≠ 0)
    (he : eff (s.setCur s.cur.issuing) s.cur.issuing = .stall (s.setCur s.cur.issuing)) :
    issue i.info never never (whenActive i.info eff) s = .next (s.stays { s.cur with wait := .none }) := by
  have hact : s.cur.issuing.active' i.info.pred ≠ 0 := ha
  exact (issue_stays h.at_ h.checks h.clean rfl rfl ((whenActive_on hact).trans he)).trans rfl

theorem Barrier.eval_e (b : Barrier) : b.eval.e = b.e := by
  unfold Barrier.eval
  dsimp only
  repeat' split
  all_goals rfl

theorem Barrier.eval_gone (b : Barrier) : b.eval.gone = b.gone := by
  unfold Barrier.eval
  dsimp only
  repeat' split
  all_goals rfl

theorem Team.barNoted_eq (t : Team) (n : Nat) (b : Barrier) (cycle : Nat) (write : Bool) :
    t.barNoted n b cycle write = if (t.bar n).phases = b.phases then t.barDone else tset t.barDone n (cycle, write) := by
  simp [Team.barNoted]

/-- Barrier `n` of the issuing group's team after a write of E, evaluated. -/
def State.barWritten (s : State) (n : Nat) (v : W32) : Barrier := ({ (s.teamOf s.cur).bar n with e := min 32 (v.toNat % 64) } : Barrier).eval

theorem State.barWritten_spec (s : State) (n : Nat) (v : W32) :
    let b : Barrier := { (s.teamOf s.cur).bar n with e := min 32 (v.toNat % 64) }
    (s.barWritten n v).e = b.e ∧ (s.barWritten n v).gone = b.gone ∧ (b.arr.length + b.gone.length < b.e → s.barWritten n v = b) ∧
      (b.e ≤ b.arr.length + b.gone.length → b.carried = [] → s.barWritten n v = { b with phases := b.phases + 1, arr := [] }) := by
  intro b
  exact ⟨b.eval_e, b.eval_gone, b.eval_open, b.eval_completes⟩

section
variable {f : FY} {s : State} {c : Clause} (h : Issues (.barstWrite f) s c)
include h

theorem execBarstWrite_off (ha : s.activeOf (.barstWrite f) = 0 ∨ f.mod.getLsbD 0 = true) : execBarstWrite f s = .next (s.past c s.cur.issuing) := by
  by_cases h0 : s.activeOf (.barstWrite f) = 0
  · exact h.once_off h0
  · exact h.once_on h0 rfl (if_pos (ha.resolve_left h0))

variable (ha : s.activeOf (.barstWrite f) ≠ 0) (hhi : f.mod.getLsbD 0 = false) {n : Nat} (e : f.sysreg.toNat = 0x20 + n)
include ha hhi e

theorem execBarstWrite_held (hd : tget (s.teamOf s.cur).barDone n = some (s.cycle, false)) :
    execBarstWrite f s = .next (s.stays { s.cur with wait := .none }) := by
  have hn : f.sysreg.toNat - 0x20 = n := by omega
  refine h.once_stays ha ((if_neg (Bool.eq_false_iff.1 hhi)).trans ?_)
  rw [hn]
  exact if_pos (beq_iff_eq.2 hd)

theorem execBarstWrite_on (hd : tget (s.teamOf s.cur).barDone n ≠ some (s.cycle, false)) :
    execBarstWrite f s = .next ((s.setTeam s.cur.team { s.teamOf s.cur with
      bars := tset (s.teamOf s.cur).bars n (s.barWritten n (s.cur.rs f.sa.toNat)),
      barDone := if ((s.teamOf s.cur).bar n).phases = (s.barWritten n (s.cur.rs f.sa.toNat)).phases then (s.teamOf s.cur).barDone
        else tset (s.teamOf s.cur).barDone n (s.cycle, true) }).past c s.cur.issuing) := by
  have hn : f.sysreg.toNat - 0x20 = n := by omega
  rw [← Team.barNoted_eq]
  refine h.once_on ha rfl ((if_neg (Bool.eq_false_iff.1 hhi)).trans ?_)
  rw [hn]
  exact if_neg (mt beq_iff_eq.1 hd)

end

theorem execRingstWrite_issues {f : FY} {s : State} {c : Clause} {n : Nat} (h : Issues (.ringstWrite f) s c) (hn : n < 8) (e : f.sysreg.toNat = 0x30 + n) :
    let v := putHalf (f.mod.getLsbD 0) ((s.teamOf s.cur).ring n).word (s.cur.rs f.sa.toNat)
    execRingstWrite f s = .next ((if s.activeOf (.ringstWrite f) = 0 then s
      else s.setRing s.cur.team n { en := v.getLsbD 8, reln := v.extractLsb' 4 4, nst := v.extractLsb' 0 4 }).past c s.cur.issuing) := by
  have hn' : f.sysreg.toNat - 0x30 = n := by omega
  refine h.once_state rfl fun _ => ?_
  dsimp only
  rw [State.sysRead_issuing, hn', e, s.sysRead_ringst s.cur hn]
  rfl

/-- The fields of a ring that a write leaves: those of the low half, and else the old ones. -/
theorem ring_putHalf (hi : Bool) (r : Ring) (v : W32) :
    ({ en := (putHalf hi r.word v).getLsbD 8, reln := (putHalf hi r.word v).extractLsb' 4 4, nst := (putHalf hi r.word v).extractLsb' 0 4 } : Ring) =
      if hi then { en := r.en, reln := r.reln, nst := r.nst } else { en := v.getLsbD 8, reln := v.extractLsb' 4 4, nst := v.extractLsb' 0 4 } := by
  obtain ⟨-, -, -, -, -, -, hen, hreln, hnst⟩ := r.word_fields
  rw [putHalf_getLsbD _ _ _ (by decide), extract_putHalf _ _ _ (by decide), extract_putHalf _ _ _ (by decide), hen, hreln, hnst]
  cases hi <;> rfl

/-! ### PCBRKn and SAMPCTL (R329 to R331) -/

theorem execPcbrkWrite_issues {f : FY} {s : State} {c : Clause} {n : Nat} (h : Issues (.pcbrkWrite f) s c) (e : f.sysreg.toNat = 0x100 + n) :
    let t := s.teamOf s.cur
    let k := s.core t.core
    execPcbrkWrite f s = .next ((if s.activeOf (.pcbrkWrite f) = 0 then s else s.setCore t.core { k with
      brk := tset k.brk n (putHalf (f.mod.getLsbD 0) (tgetD k.brk n 0) (s.cur.rs f.sa.toNat)),
      brkOld := tset k.brkOld n (s.brkNow t.core n, s.cycle), brkOwner := tset k.brkOwner n t.ctx }).past c s.cur.issuing) := by
  have hn : f.sysreg.toNat - 0x100 = n := by omega
  refine h.once_state rfl fun _ => ?_
  rw [hn]
  rfl

/-- SAMPCTL after a write: its bits 46 to 53 are reserved. -/
def sampWord (hi : Bool) (x : W64) : W64 := clampLogn hi (x &&& 0xFFC03FFFFFFFFFFF)

theorem sampMask_getLsbD : ∀ j < 64, (j < 46 ∨ 54 ≤ j) → (0xFFC03FFFFFFFFFFF : W64).getLsbD j = true := by decide

theorem sampWord_reserved (hi : Bool) (x : W64) : (sampWord hi x).extractLsb' 46 8 = 0 := by
  have hmask : (x &&& 0xFFC03FFFFFFFFFFF).extractLsb' 46 8 = 0 := by
    rw [BitVec.extractLsb'_and]
    exact BitVec.and_zero
  cases hi
  · exact hmask
  · exact (extract_putBits_ne _ _ _ _ _ (by decide) (by decide)).trans hmask

/-- A bit that is neither reserved nor of LOGN. -/
theorem sampWord_getLsbD (hi : Bool) (x : W64) {j : Nat} (hj : j < 64) (h : j < 46 ∨ 54 ≤ j) (hlogn : j < 58 ∨ 63 ≤ j) :
    (sampWord hi x).getLsbD j = x.getLsbD j := by
  have hmask : (x &&& 0xFFC03FFFFFFFFFFF).getLsbD j = x.getLsbD j := by
    rw [BitVec.getLsbD_and, sampMask_getLsbD j hj h, Bool.and_true]
  cases hi
  · exact hmask
  · exact ((putBits_getLsbD _ _ _ _ hj).trans (if_neg (by omega))).trans hmask

theorem sampWord_logn (hi : Bool) (x : W64) : ((sampWord hi x).extractLsb' 58 5).toNat =
    if hi then min 20 (max 6 (x.extractLsb' 58 5).toNat) else (x.extractLsb' 58 5).toNat := by
  have hmask : (x &&& 0xFFC03FFFFFFFFFFF).extractLsb' 58 5 = x.extractLsb' 58 5 := by
    rw [BitVec.extractLsb'_and]
    exact BitVec.and_allOnes
  cases hi
  · exact congrArg BitVec.toNat hmask
  · have hclamp : min 20 (max 6 (x.extractLsb' 58 5).toNat) < 2 ^ 5 := by omega
    rw [sampWord, clampLogn, if_pos rfl, extract_putBits_self _ _ _ (by decide), getBits_eq, hmask, BitVec.toNat_ofNat, Nat.mod_eq_of_lt hclamp, if_pos rfl]

theorem execSampctlWrite_issues {f : FY} {s : State} {c : Clause} (h : Issues (.sampctlWrite f) s c) :
    let t := s.teamOf s.cur
    let k := s.core t.core
    execSampctlWrite f s = .next ((if s.activeOf (.sampctlWrite f) = 0 then s else s.setCore t.core { k with
      samp := sampWord (f.mod.getLsbD 0) (putHalf (f.mod.getLsbD 0) k.samp (s.cur.rs f.sa.toNat)), sampOwner := t.ctx, sampLost := 0 }).past c s.cur.issuing) :=
  h.once_state rfl fun _ => rfl

/-! ### NORMBOX and ERRCLR (R58, R259) -/

section
variable {f : FY} {s : State} {c : Clause}

theorem execNormboxWrite_held (h : Issues (.normboxWrite f) s c) (ha : s.activeOf (.normboxWrite f) ≠ 0) (hn : (s.ctxOf s.cur).normAt = some s.cycle) :
    execNormboxWrite f s = .next (s.stays { s.cur with wait := .none }) :=
  h.once_stays ha (if_pos (beq_iff_eq.2 hn))

theorem execNormboxWrite_on (h : Issues (.normboxWrite f) s c) (hn : s.activeOf (.normboxWrite f) ≠ 0 → (s.ctxOf s.cur).normAt ≠ some s.cycle) :
    execNormboxWrite f s = .next ((if s.activeOf (.normboxWrite f) = 0 then s else s.modCtx s.cur fun x =>
      { x with normbox := putHalf (f.mod.getLsbD 0) x.normbox (s.cur.rs f.sa.toNat) &&& 0x8000FFFFFFFFFFFF }).past c s.cur.issuing) :=
  h.once_state rfl fun ha => if_neg (mt beq_iff_eq.1 (hn ha))

theorem execErrclr_held (h : Issues .errclr s c) (ha : s.activeOf .errclr ≠ 0) (hn : (s.ctxOf s.cur).errAt = some s.cycle) :
    execErrclr s = .next (s.stays { s.cur with wait := .none }) :=
  h.once_stays ha (if_pos (beq_iff_eq.2 hn))

theorem execErrclr_on (h : Issues .errclr s c) (hn : (s.ctxOf s.cur).errAt ≠ some s.cycle) :
    execErrclr s = .next ((if s.activeOf .errclr = 0 then s else s.modCtx s.cur fun x => { x with errstat := 0, errpc := 0 }).past c s.cur.issuing) :=
  h.once_state rfl fun _ => if_neg (mt beq_iff_eq.1 hn)

end

/-- Settles O31: the lemma of each word and of each register, and what the fields of the value written are. -/
theorem systemWrites : Obligations.SystemWrites := by
  unfold Obligations.SystemWrites
  intro s c
  simp only [← putHalf_eq]
  refine ⟨fun f h => ⟨execSwr_off h, fun ha => ⟨execSwr_xstat h ha, execSwr_gctl h ha, execSwr_readOnly h ha, execSwr_mprog h ha, execSwr_pathq h ha,
      execSwr_rngseed h ha, execSwr_engseq h ha, execSwr_normclip h ha, execSwr_wcbage h ha⟩⟩,
    fun f h => ⟨_, execHeatctlWrite_issues h, fun hhi => ?_, fun hhi hd => ?_⟩,
    fun f h n hn e => ⟨execBarstWrite_off h, fun ha hhi => execBarstWrite_held h ha hhi e, fun ha hhi hd =>
      ⟨_, execBarstWrite_on h ha hhi e hd, s.barWritten_spec n _⟩⟩,
    fun f h n hn e => ?_, fun f h n hn e => execPcbrkWrite_issues h e,
    fun f h => ⟨_, execSampctlWrite_issues h, sampWord_reserved _ _, fun j hj hr => sampWord_getLsbD _ _ (by omega) hr (.inl hj),
      sampWord_getLsbD _ _ (by decide) (by decide) (by decide), sampWord_logn _ _⟩,
    fun f h => execNormboxWrite_held h, fun f h => execNormboxWrite_on h, execErrclr_held, execErrclr_on⟩
  · obtain ⟨hlow, hdecay, htop⟩ := heatWord_fields (putHalf (f.mod.getLsbD 0) ((s.ctxOf s.cur).heatctl.setWidth 64) (s.cur.rs f.sa.toNat))
    rw [extract_putHalf _ _ _ (by decide), hhi] at hlow hdecay
    rw [putHalf_getLsbD _ _ _ (by decide), hhi] at htop
    rw [hhi]
    exact ⟨hlow, hdecay, htop⟩
  · rw [heatWord_of_le, setWidth_putHalf _ _ _ (by decide), hhi]
    · rfl
    · rwa [extract_putHalf _ _ _ (by decide), hhi, if_pos rfl, BitVec.extractLsb'_setWidth_of_le (by decide)]
  · rw [← ring_putHalf]
    exact execRingstWrite_issues h hn e

end Sys2Proof.Machine
end

section
/-! Encodings and rounding (R61, R64, R66, R68). An encoding is a sign and a magnitude; a magnitude up to the largest finite one stands for the integer multiple `Fmt.mult` of the format's smallest spacing, which rises with the magnitude. -/

namespace Sys2Proof.Machine

/-! ### Signs and magnitudes (R61) -/

/-- The largest finite encoding is a normal one. -/
def Fmt.Normal (f : Fmt) : Prop := 2 ^ f.mb ≤ f.maxEnc

theorem fmtOf_normal (ty : BitVec 4) : (fmtOf ty).Normal := by
  unfold Fmt.Normal
  revert ty
  decide

/-- The significand of a finite magnitude. -/
def Fmt.sig (f : Fmt) (mag : Nat) : Nat := if mag < 2 ^ f.mb then mag else 2 ^ f.mb + mag % 2 ^ f.mb
/-- The exponent of its last bit. -/
def Fmt.expo (f : Fmt) (mag : Nat) : Int := f.qmin + (mag / 2 ^ f.mb - 1 : Nat)
/-- A finite magnitude as a multiple of the smallest spacing. -/
def Fmt.mult (f : Fmt) (mag : Nat) : Nat := f.sig mag * 2 ^ (mag / 2 ^ f.mb - 1)

section
variable {f : Fmt} {neg : Bool} {mag x : Nat}

theorem Fmt.exists_signed (h : x < 2 ^ f.bits) : ∃ neg mag, mag < 2 ^ (f.eb + f.mb) ∧ x = f.signed neg mag := by
  have hb : 2 ^ f.bits = 2 * 2 ^ (f.eb + f.mb) := by rw [Fmt.bits, Nat.add_assoc, Nat.pow_add, Nat.pow_one]
  by_cases hx : x < 2 ^ (f.eb + f.mb)
  · exact ⟨false, x, hx, rfl⟩
  · exact ⟨true, x - 2 ^ (f.eb + f.mb), by omega, (Nat.add_sub_cancel' (Nat.le_of_not_lt hx)).symm⟩

theorem Fmt.signed_div (h : mag < 2 ^ (f.eb + f.mb)) : f.signed neg mag / 2 ^ (f.eb + f.mb) = neg.toNat := by
  cases neg
  · exact Nat.div_eq_of_lt h
  · rw [Fmt.signed, if_pos rfl, Nat.add_div_left _ (Nat.two_pow_pos _), Nat.div_eq_of_lt h]
    rfl

theorem Fmt.signed_mod : f.signed neg mag % 2 ^ f.mb = mag % 2 ^ f.mb := by
  cases neg
  · rfl
  · rw [Fmt.signed, if_pos rfl, Nat.pow_add, Nat.mul_add_mod_self_right]

theorem Fmt.signed_field (h : mag < 2 ^ (f.eb + f.mb)) : f.signed neg mag / 2 ^ f.mb % 2 ^ f.eb = mag / 2 ^ f.mb := by
  have hlt : mag / 2 ^ f.mb < 2 ^ f.eb := Nat.div_lt_of_lt_mul (by rwa [Nat.mul_comm, ← Nat.pow_add])
  cases neg
  · exact Nat.mod_eq_of_lt hlt
  · rw [Fmt.signed, if_pos rfl, Nat.pow_add, Nat.mul_comm, Nat.mul_add_div (Nat.two_pow_pos _), Nat.add_mod_left, Nat.mod_eq_of_lt hlt]

theorem Fmt.sig_of_lt (h : mag < 2 ^ f.mb) : f.sig mag = mag := if_pos h
theorem Fmt.sig_of_le (h : 2 ^ f.mb ≤ mag) : f.sig mag = 2 ^ f.mb + mag % 2 ^ f.mb := if_neg (Nat.not_lt.2 h)

theorem Fmt.sig_lt : f.sig mag < 2 ^ (f.mb + 1) := by
  have := Nat.mod_lt mag (Nat.two_pow_pos f.mb)
  rw [Fmt.sig, Nat.pow_succ]
  split <;> omega

theorem Fmt.sig_eq_zero_iff : f.sig mag = 0 ↔ mag = 0 := by
  have := Nat.two_pow_pos f.mb
  rw [Fmt.sig]
  split <;> omega

/-- The largest finite magnitude, where the format keeps its top exponent, ends just below infinity; a format that keeps only a NaN ends just below that. -/
theorem Fmt.le_maxEnc_iff (hn : f.Normal) (h : mag < 2 ^ (f.eb + f.mb)) :
    mag ≤ f.maxEnc ↔ (f.ieee = true → mag / 2 ^ f.mb ≠ 2 ^ f.eb - 1) ∧
      (f.ieee = false → f.one = true → ¬ (mag / 2 ^ f.mb = 2 ^ f.eb - 1 ∧ mag % 2 ^ f.mb = 2 ^ f.mb - 1)) := by
  have hmb := Nat.two_pow_pos f.mb
  have heb := Nat.two_pow_pos f.eb
  have hpow : 2 ^ (f.eb + f.mb) = 2 ^ f.eb * 2 ^ f.mb := Nat.pow_add ..
  have hdm := Nat.div_add_mod' mag (2 ^ f.mb)
  have hmod := Nat.mod_lt mag hmb
  have hlt : mag / 2 ^ f.mb < 2 ^ f.eb := Nat.div_lt_of_lt_mul (by rwa [Nat.mul_comm, ← hpow])
  have htop : (2 ^ f.eb - 1) * 2 ^ f.mb + 2 ^ f.mb = 2 ^ (f.eb + f.mb) := by
    rw [hpow, Nat.sub_mul, Nat.one_mul, Nat.sub_add_cancel (Nat.le_mul_of_pos_left _ heb)]
  unfold Fmt.Normal at hn
  unfold Fmt.maxEnc at hn ⊢
  cases hi : f.ieee
  case true =>
    simp only [hi, if_true, true_implies, reduceCtorEq, false_implies, and_true] at hn ⊢
    rw [Nat.le_sub_one_iff_lt (by omega), ← Nat.div_lt_iff_lt_mul hmb]
    omega
  case false =>
    cases ho : f.one
    case false => simp; omega
    case true =>
      simp only [hi, ho, Bool.false_eq_true, if_false, if_true, false_implies, true_implies, true_and] at hn ⊢
      constructor
      · rintro hle ⟨hd, hm⟩
        rw [hd, hm] at hdm
        omega
      · intro hne
        by_cases hd : mag / 2 ^ f.mb = 2 ^ f.eb - 1
        · rw [hd] at hdm
          have := fun e => hne ⟨hd, e⟩
          omega
        · have : mag / 2 ^ f.mb + 1 ≤ 2 ^ f.eb - 1 := by omega
          have := Nat.mul_le_mul_right (2 ^ f.mb) this
          rw [Nat.add_mul, Nat.one_mul] at this
          omega

/-- A finite magnitude stands for its significand and exponent. -/
theorem Fmt.decode_finite (hn : f.Normal) (h : mag < 2 ^ (f.eb + f.mb)) (hm : mag ≤ f.maxEnc) :
    f.decode (f.signed neg mag) = .fin neg (f.sig mag) (f.expo mag) := by
  obtain ⟨hieee, hone⟩ := (Fmt.le_maxEnc_iff hn h).1 hm
  have hneg : (neg.toNat % 2 == 1) = neg := by cases neg <;> rfl
  simp only [Fmt.decode, Fmt.signed_div h, Fmt.signed_mod, Fmt.signed_field h, hneg]
  rw [if_neg (by simpa using hieee), if_neg ?_, Fmt.sig, Fmt.expo]
  · simp only [Nat.div_eq_zero_iff_lt (Nat.two_pow_pos f.mb)]
    split
    case isTrue hs => rw [Nat.mod_eq_of_lt hs, Nat.div_eq_of_lt hs]; simp
    case isFalse => rfl
  · rintro hnan
    simp only [Bool.and_eq_true, beq_iff_eq] at hnan
    obtain ⟨⟨ho, hE⟩, hM⟩ := hnan
    cases hi : f.ieee
    · exact hone hi ho ⟨hE, hM⟩
    · exact hieee hi hE

/-- A larger one stands for an infinity or a NaN. -/
theorem Fmt.decode_special (hn : f.Normal) (h : mag < 2 ^ (f.eb + f.mb)) (hm : f.maxEnc < mag) :
    f.decode (f.signed neg mag) = if f.ieee = true ∧ mag = f.infEnc then .inf neg else .nan := by
  have hsp := mt (Fmt.le_maxEnc_iff hn h).2 (Nat.not_le.2 hm)
  have hneg : (neg.toNat % 2 == 1) = neg := by cases neg <;> rfl
  have hdm := Nat.div_add_mod' mag (2 ^ f.mb)
  simp only [Fmt.decode, Fmt.signed_div h, Fmt.signed_mod, Fmt.signed_field h, hneg]
  cases hi : f.ieee
  case true =>
    simp only [hi, true_implies, reduceCtorEq, false_implies, and_true, ne_eq, not_not] at hsp
    rw [hsp] at hdm
    simp only [hsp, Bool.true_and, beq_self_eq_true, if_true, true_and, Fmt.infEnc]
    exact if_congr (by omega) rfl rfl
  case false =>
    simp only [hi, reduceCtorEq, false_implies, true_implies, true_and, Classical.not_imp, not_not] at hsp
    obtain ⟨ho, hE, hM⟩ := hsp
    simp [ho, hE, hM]

/-- Every finite encoding is that of a finite magnitude. -/
theorem Fmt.decode_eq_fin (hn : f.Normal) (hx : x < 2 ^ f.bits) {n : Bool} {m : Nat} {e : Int} (hd : f.decode x = .fin n m e) :
    ∃ mag, mag < 2 ^ (f.eb + f.mb) ∧ mag ≤ f.maxEnc ∧ x = f.signed n mag ∧ m = f.sig mag ∧ e = f.expo mag := by
  obtain ⟨neg, mag, hlt, rfl⟩ := Fmt.exists_signed hx
  by_cases hm : mag ≤ f.maxEnc
  · rw [Fmt.decode_finite hn hlt hm, FNum.fin.injEq] at hd
    obtain ⟨rfl, rfl, rfl⟩ := hd
    exact ⟨mag, hlt, hm, rfl, rfl, rfl⟩
  · rw [Fmt.decode_special hn hlt (Nat.lt_of_not_le hm)] at hd
    split at hd <;> exact FNum.noConfusion hd

/-- An infinity is the encoding of its sign. -/
theorem Fmt.decode_eq_inf (hn : f.Normal) (hx : x < 2 ^ f.bits) {n : Bool} (hd : f.decode x = .inf n) : x = f.signed n f.infEnc := by
  obtain ⟨neg, mag, hlt, rfl⟩ := Fmt.exists_signed hx
  by_cases hm : mag ≤ f.maxEnc
  · rw [Fmt.decode_finite hn hlt hm] at hd
    exact FNum.noConfusion hd
  · rw [Fmt.decode_special hn hlt (Nat.lt_of_not_le hm)] at hd
    split at hd
    case isTrue h => rw [h.2, FNum.inf.inj hd]
    case isFalse => exact FNum.noConfusion hd

/-! ### Magnitudes as multiples of the smallest spacing -/

theorem Fmt.mult_lt_of_lt {a b : Nat} (h : a < b) : f.mult a < f.mult b := by
  have hmb := Nat.two_pow_pos f.mb
  have ha := Nat.div_add_mod' a (2 ^ f.mb)
  have hb := Nat.div_add_mod' b (2 ^ f.mb)
  have hma := Nat.mod_lt a hmb
  have hmb' := Nat.mod_lt b hmb
  unfold Fmt.mult
  obtain hlt | heq := (Nat.div_le_div_right (c := 2 ^ f.mb) h.le).lt_or_eq
  · have hbs : f.sig b = 2 ^ f.mb + b % 2 ^ f.mb := Fmt.sig_of_le ((Nat.one_le_div_iff hmb).1 (Nat.one_le_of_lt hlt))
    have hstep : 2 ^ f.mb * 2 ^ (b / 2 ^ f.mb - 1) ≤ f.sig b * 2 ^ (b / 2 ^ f.mb - 1) := Nat.mul_le_mul_right _ (by omega)
    refine lt_of_lt_of_le ?_ hstep
    by_cases ha0 : a < 2 ^ f.mb
    · rw [Fmt.sig_of_lt ha0, Nat.div_eq_of_lt ha0]
      exact Nat.mul_lt_mul_of_lt_of_le ha0 Nat.one_le_two_pow (Nat.two_pow_pos _)
    · have ha1 : 1 ≤ a / 2 ^ f.mb := (Nat.one_le_div_iff hmb).2 (by omega)
      calc f.sig a * 2 ^ (a / 2 ^ f.mb - 1) < 2 ^ (f.mb + 1) * 2 ^ (a / 2 ^ f.mb - 1) := Nat.mul_lt_mul_of_pos_right Fmt.sig_lt (Nat.two_pow_pos _)
        _ = 2 ^ f.mb * 2 ^ (a / 2 ^ f.mb) := by rw [← Nat.pow_add, ← Nat.pow_add]; congr 1; omega
        _ ≤ 2 ^ f.mb * 2 ^ (b / 2 ^ f.mb - 1) := Nat.mul_le_mul_left _ (Nat.pow_le_pow_right (by decide) (by omega))
  · rw [heq] at ha ⊢
    refine Nat.mul_lt_mul_of_pos_right ?_ (Nat.two_pow_pos _)
    unfold Fmt.sig
    split <;> split <;> omega

theorem Fmt.mult_strictMono : StrictMono f.mult := fun _ _ => Fmt.mult_lt_of_lt

theorem Fmt.maxScaled_eq (hn : f.Normal) : f.maxScaled = f.mult f.maxEnc := by rw [Fmt.mult, Fmt.sig_of_le hn]; rfl

theorem Fmt.scaled_decoded : f.scaled (f.sig mag) (f.expo mag) = f.mult mag := by
  rw [Fmt.scaled, Fmt.expo, add_sub_cancel_left, Int.toNat_natCast, Fmt.mult]

theorem bitLen_le_iff {n k : Nat} : bitLen n ≤ k ↔ n < 2 ^ k := by
  unfold bitLen
  split
  case isTrue h => simp [h]
  case isFalse h => rw [Nat.add_one_le_iff, Nat.log2_lt h]

theorem lt_two_pow_bitLen (n : Nat) : n < 2 ^ bitLen n := bitLen_le_iff.1 le_rfl

theorem lt_bitLen_iff {n k : Nat} : k < bitLen n ↔ 2 ^ k ≤ n := by rw [← not_le, bitLen_le_iff, not_lt]

theorem two_pow_bitLen_le {n : Nat} (h : n ≠ 0) : 2 ^ (bitLen n - 1) ≤ n :=
  lt_bitLen_iff.1 (Nat.sub_one_lt (by simp [bitLen, h]))

theorem bitLen_eq {n k : Nat} (hl : 2 ^ k ≤ n) (hu : n < 2 ^ (k + 1)) : bitLen n = k + 1 :=
  Nat.le_antisymm (bitLen_le_iff.2 hu) (lt_bitLen_iff.2 hl)

/-- What a magnitude encodes to is decided by the multiple of the smallest spacing. -/
theorem Fmt.encode_of_scaled {n : Nat} {q : Int} (h : f.scaled n q = f.mult mag) : f.encode n q = mag := by
  have hmb := Nat.two_pow_pos f.mb
  have hdm := Nat.div_add_mod' mag (2 ^ f.mb)
  simp only [Fmt.encode, h]
  by_cases hs : mag < 2 ^ f.mb
  · have hmult : f.mult mag = mag := by rw [Fmt.mult, Fmt.sig_of_lt hs, Nat.div_eq_of_lt hs]; exact Nat.mul_one _
    rw [hmult, if_pos hs]
  · have hE : 1 ≤ mag / 2 ^ f.mb := (Nat.one_le_div_iff hmb).2 (by omega)
    have hsig := Fmt.sig_of_le (Nat.le_of_not_lt hs)
    have hle : 2 ^ f.mb ≤ f.sig mag := by omega
    have hlow : 2 ^ (f.mb + (mag / 2 ^ f.mb - 1)) ≤ f.mult mag := by
      rw [Nat.pow_add]
      exact Nat.mul_le_mul_right _ hle
    have hupp : f.mult mag < 2 ^ (f.mb + (mag / 2 ^ f.mb - 1) + 1) := by
      rw [Nat.add_right_comm, Nat.pow_add]
      exact Nat.mul_lt_mul_of_pos_right Fmt.sig_lt (Nat.two_pow_pos _)
    have hnot : ¬ f.mult mag < 2 ^ f.mb := Nat.not_lt.2 ((Nat.pow_le_pow_right (by decide) (Nat.le_add_right ..)).trans hlow)
    rw [if_neg hnot, bitLen_eq hlow hupp, Nat.add_sub_cancel, Nat.add_sub_cancel_left, Nat.sub_add_cancel hE, Fmt.mult,
      Nat.mul_div_cancel _ (Nat.two_pow_pos _), hsig]
    omega

/-! ### Rounding of a value that the format holds (R64, R68) -/

/-- A value whose last bit stands no lower than the spacing is kept. -/
theorem Fmt.round_of_le {mode : RMode} {m : Nat} {e : Int} {sticky : Bool} (h : max f.qmin (e + bitLen m - 1 - f.mb) ≤ e) :
    f.scaled (f.round mode neg m e sticky).1 (f.round mode neg m e sticky).2 = f.scaled m e := by
  simp only [Fmt.round, if_pos h, Fmt.scaled]
  rw [Nat.mul_assoc, ← Nat.pow_add]
  congr 2
  omega

theorem Fmt.finish_decoded (hn : f.Normal) {mode : RMode} {infok : Bool} (hm : mag ≤ f.maxEnc) :
    f.finish mode infok neg (f.sig mag) (f.expo mag) false = (f.signed neg mag, false) := by
  have hlen : bitLen (f.sig mag) ≤ f.mb + 1 := bitLen_le_iff.2 Fmt.sig_lt
  have hround := Fmt.round_of_le (f := f) (neg := neg) (mode := mode) (m := f.sig mag) (e := f.expo mag) (sticky := false) (by
    unfold Fmt.expo; omega)
  rw [Fmt.scaled_decoded] at hround
  unfold Fmt.finish
  split
  case isTrue h => rw [Fmt.sig_eq_zero_iff.1 h.1]
  case isFalse =>
    have hfit : ¬ f.maxScaled < f.mult mag := by
      rw [Fmt.maxScaled_eq hn]
      exact Nat.not_lt.2 (Fmt.mult_strictMono.monotone hm)
    simp only [hround, if_neg hfit, Fmt.encode_of_scaled hround]

/-- A finite encoding is the result of converting its own value. -/
theorem Fmt.cvt_decode (hn : f.Normal) (hx : x < 2 ^ f.bits) {mode : RMode} {infok : Bool} {n : Bool} {m : Nat} {e : Int}
    (hd : f.decode x = .fin n m e) : cvt (f.decode x) f mode infok = (x, false) := by
  obtain ⟨mag, -, hm, hxm, rfl, rfl⟩ := Fmt.decode_eq_fin hn hx hd
  rw [hd, hxm]
  exact Fmt.finish_decoded hn hm

end

/-! ### Rounding to a multiple of the spacing (R64) -/

/-- Where the discarded part is half the spacing, the even multiple is taken. -/
theorem roundsUp_nearest {neg : Bool} {m d : Nat} :
    let n := if roundsUp .rne neg (m / 2 ^ d) (m % 2 ^ d) d false then m / 2 ^ d + 1 else m / 2 ^ d
    2 * (n * 2 ^ d) ≤ 2 * m + 2 ^ d ∧ 2 * m ≤ 2 * (n * 2 ^ d) + 2 ^ d ∧ (2 * (m % 2 ^ d) = 2 ^ d → n % 2 = 0) := by
  have hdm := Nat.div_add_mod' m (2 ^ d)
  have hmod := Nat.mod_lt m (Nat.two_pow_pos d)
  have hsucc : (m / 2 ^ d + 1) * 2 ^ d = m / 2 ^ d * 2 ^ d + 2 ^ d := Nat.succ_mul ..
  simp only [roundsUp, Bool.false_or, Bool.or_eq_true, Bool.and_eq_true, decide_eq_true_eq, beq_iff_eq]
  split
  case isTrue h => refine ⟨?_, ?_, ?_⟩ <;> omega
  case isFalse h => refine ⟨?_, ?_, ?_⟩ <;> omega

section
variable {f : Fmt} {mode : RMode} {neg sticky : Bool} {m : Nat} {e : Int}

/-- The exponent of the spacing that a value is rounded to. -/
def Fmt.spacing (f : Fmt) (m : Nat) (e : Int) : Int := max f.qmin (e + bitLen m - 1 - f.mb)

theorem Fmt.round_snd : (f.round mode neg m e sticky).2 = f.spacing m e := by
  simp only [Fmt.round, Fmt.spacing]
  split <;> rfl

theorem Fmt.round_fst_of_le (h : f.spacing m e ≤ e) : (f.round mode neg m e sticky).1 = m * 2 ^ (e - f.spacing m e).toNat :=
  congrArg Prod.fst (if_pos h)

theorem Fmt.round_fst_of_lt (h : e < f.spacing m e) :
    let d := (f.spacing m e - e).toNat
    (f.round mode neg m e sticky).1 = if roundsUp mode neg (m / 2 ^ d) (m % 2 ^ d) d sticky then m / 2 ^ d + 1 else m / 2 ^ d :=
  congrArg Prod.fst (if_neg (not_le.2 h))

/-! ### Values between powers of two keep between them -/

theorem Fmt.scaled_round : f.scaled (f.round mode neg m e sticky).1 (f.round mode neg m e sticky).2 =
    (f.round mode neg m e sticky).1 * 2 ^ (f.spacing m e - f.qmin).toNat := by
  rw [Fmt.scaled, Fmt.round_snd]

theorem Fmt.qmin_le_spacing : f.qmin ≤ f.spacing m e := le_max_left ..

/-- A value below a power of two that the format reaches is not rounded beyond it. -/
theorem Fmt.scaled_round_le (h : f.qmin ≤ e + bitLen m) :
    f.scaled (f.round mode neg m e sticky).1 (f.round mode neg m e sticky).2 ≤ 2 ^ (e + bitLen m - f.qmin).toNat := by
  have hm := lt_two_pow_bitLen m
  have hq := f.qmin_le_spacing (m := m) (e := e)
  have htop : f.spacing m e ≤ e + bitLen m := by unfold Fmt.spacing; omega
  have hexp : (e + bitLen m - f.qmin).toNat = (e + bitLen m - f.spacing m e).toNat + (f.spacing m e - f.qmin).toNat := by omega
  rw [Fmt.scaled_round, hexp, Nat.pow_add]
  refine Nat.mul_le_mul_right _ ?_
  by_cases hle : f.spacing m e ≤ e
  · rw [Fmt.round_fst_of_le hle, show (e + bitLen m - f.spacing m e).toNat = bitLen m + (e - f.spacing m e).toNat by omega, Nat.pow_add]
    exact Nat.mul_le_mul_right _ hm.le
  · have hsplit : bitLen m = (e + bitLen m - f.spacing m e).toNat + (f.spacing m e - e).toNat := by omega
    rw [hsplit, Nat.pow_add] at hm
    have hdiv := Nat.div_lt_of_lt_mul (Nat.mul_comm _ _ ▸ hm)
    rw [Fmt.round_fst_of_lt (not_le.1 hle)]
    split <;> omega

/-- A value from a power of two on that the format reaches is not rounded below it. -/
theorem Fmt.le_scaled_round (hm : m ≠ 0) (h : f.qmin ≤ e + bitLen m - 1) :
    2 ^ (e + bitLen m - 1 - f.qmin).toNat ≤ f.scaled (f.round mode neg m e sticky).1 (f.round mode neg m e sticky).2 := by
  have hlow := two_pow_bitLen_le hm
  have hpos : 0 < bitLen m := lt_bitLen_iff.2 (Nat.pos_of_ne_zero hm)
  have hq := f.qmin_le_spacing (m := m) (e := e)
  have htop : f.spacing m e ≤ e + bitLen m - 1 := by unfold Fmt.spacing; omega
  have hexp : (e + bitLen m - 1 - f.qmin).toNat = (e + bitLen m - 1 - f.spacing m e).toNat + (f.spacing m e - f.qmin).toNat := by omega
  rw [Fmt.scaled_round, hexp, Nat.pow_add]
  refine Nat.mul_le_mul_right _ ?_
  by_cases hle : f.spacing m e ≤ e
  · rw [Fmt.round_fst_of_le hle, show (e + bitLen m - 1 - f.spacing m e).toNat = (bitLen m - 1) + (e - f.spacing m e).toNat by omega, Nat.pow_add]
    exact Nat.mul_le_mul_right _ hlow
  · have hsplit : bitLen m - 1 = (e + bitLen m - 1 - f.spacing m e).toNat + (f.spacing m e - e).toNat := by omega
    rw [hsplit, Nat.pow_add] at hlow
    have hdiv := (Nat.le_div_iff_mul_le (Nat.two_pow_pos _)).2 hlow
    rw [Fmt.round_fst_of_lt (not_le.1 hle)]
    split <;> omega

end

/-! ### The exponent under the ceiling rule (R78) -/

section
variable {f : Fmt} {m : Nat} {e k : Int}

theorem Fmt.Normal.one_le (hn : f.Normal) : 1 ≤ f.maxEnc / 2 ^ f.mb := (Nat.one_le_div_iff (Nat.two_pow_pos _)).2 hn

/-- The largest finite value lies between two powers of two. -/
theorem Fmt.maxScaled_bounds (hn : f.Normal) : 2 ^ (f.emax - f.qmin).toNat ≤ f.maxScaled ∧ f.maxScaled < 2 ^ (f.emax + 1 - f.qmin).toNat := by
  have hone := hn.one_le
  have hlow : (f.emax - f.qmin).toNat = f.mb + (f.maxEnc / 2 ^ f.mb - 1) := by unfold Fmt.emax Fmt.qmin; omega
  have hupp : (f.emax + 1 - f.qmin).toNat = f.mb + 1 + (f.maxEnc / 2 ^ f.mb - 1) := by unfold Fmt.emax Fmt.qmin; omega
  rw [hlow, hupp, Nat.pow_add, Nat.pow_add, Fmt.maxScaled_eq hn]
  exact ⟨Nat.mul_le_mul_right _ ((Fmt.sig_of_le hn).symm ▸ Nat.le_add_right ..), Nat.mul_lt_mul_of_pos_right Fmt.sig_lt (Nat.two_pow_pos _)⟩

theorem Fmt.qmin_le_emax (hn : f.Normal) : f.qmin ≤ f.emax := by
  have := hn.one_le
  unfold Fmt.emax Fmt.qmin
  omega

theorem fitsAt_of_small (hn : f.Normal) (h : e - k + bitLen m = f.emax) : fitsAt f m e k = true := by
  have hle := Fmt.scaled_round_le (f := f) (mode := .rne) (neg := false) (sticky := false) (m := m) (e := e - k) (h ▸ f.qmin_le_emax hn)
  rw [h] at hle
  exact decide_eq_true (hle.trans (Fmt.maxScaled_bounds hn).1)

theorem not_fitsAt_of_large (hn : f.Normal) (hm : m ≠ 0) (h : f.emax + 1 ≤ e - k + bitLen m - 1) : fitsAt f m e k = false := by
  have hq := f.qmin_le_emax hn
  have hle := Fmt.le_scaled_round (f := f) (mode := .rne) (neg := false) (sticky := false) (m := m) (e := e - k) hm (by omega)
  have hpow : 2 ^ (f.emax + 1 - f.qmin).toNat ≤ 2 ^ (e - k + bitLen m - 1 - f.qmin).toNat := Nat.pow_le_pow_right (by decide) (by omega)
  exact decide_eq_false (Nat.not_le.2 ((Fmt.maxScaled_bounds hn).2.trans_le (hpow.trans hle)))

/-- The exponent of the floor rule. -/
def Fmt.floorExp (f : Fmt) (a : Nat × Int) : Int := a.2 + bitLen a.1 - 1 - f.emax
/-- The exponent of the ceiling rule: that of the floor rule, or one more. -/
def Fmt.ceilExp (f : Fmt) (a : Nat × Int) : Int := if fitsAt f a.1 a.2 (f.floorExp a) then f.floorExp a else f.floorExp a + 1

/-- It is the smallest at which the rounded magnitude does not exceed the largest finite value. -/
theorem Fmt.ceilExp_least (hn : f.Normal) {a : Nat × Int} (ha : a.1 ≠ 0) :
    fitsAt f a.1 a.2 (f.ceilExp a) = true ∧ ∀ k, k < f.ceilExp a → fitsAt f a.1 a.2 k = false := by
  have hbelow : ∀ k, k < f.floorExp a → fitsAt f a.1 a.2 k = false := fun k hk => by
    unfold Fmt.floorExp at hk
    exact not_fitsAt_of_large hn ha (by omega)
  unfold Fmt.ceilExp
  split
  case isTrue h => exact ⟨h, hbelow⟩
  case isFalse h =>
    refine ⟨fitsAt_of_small hn (by unfold Fmt.floorExp; omega), fun k hk => ?_⟩
    obtain hk | rfl := (Int.lt_add_one_iff.1 hk).lt_or_eq
    · exact hbelow k hk
    · exact Bool.eq_false_iff.2 h

end

/-! ### The greatest magnitude of a block (R78) -/

/-- A magnitude as a number. -/
def magValue (a : Nat × Int) : ℚ := a.1 * 2 ^ a.2

/-- Magnitudes at their common exponent compare as their values do. -/
theorem common_le_iff (a b : Nat × Int) :
    a.1 * 2 ^ (a.2 - min a.2 b.2).toNat ≤ b.1 * 2 ^ (b.2 - min a.2 b.2).toNat ↔ magValue a ≤ magValue b := by
  have hval : ∀ c : Nat × Int, min a.2 b.2 ≤ c.2 → magValue c = (c.1 * 2 ^ (c.2 - min a.2 b.2).toNat : Nat) * 2 ^ min a.2 b.2 := fun c hc => by
    push_cast
    rw [magValue, mul_assoc, ← zpow_natCast, Int.toNat_of_nonneg (Int.sub_nonneg.2 hc), ← zpow_add₀ two_ne_zero, Int.sub_add_cancel]
  rw [hval a (min_le_left ..), hval b (min_le_right ..), mul_le_mul_iff_of_pos_right (zpow_pos two_pos _), Nat.cast_le]

theorem addExact_neg_iff (a b : Nat × Int) : (addExact false a.1 a.2 true b.1 b.2).1 < 0 ↔ magValue a < magValue b := by
  rw [← not_le, ← not_le, ← common_le_iff, min_comm]
  simp only [addExact, Bool.false_eq_true, if_false, if_true]
  omega

/-- One value of the block beside the greatest so far. -/
def amaxStep (a : Nat × Int) : FNum → Nat × Int
  | .fin _ m e => if (addExact false a.1 a.2 true m e).1 < 0 then (m, e) else a
  | _ => a

theorem amaxOf_eq (xs : List FNum) : amaxOf xs = xs.foldl amaxStep (0, 0) := rfl

/-- The value of the block whose magnitude the fold holds, and every magnitude below it. -/
theorem amaxStep_fold (xs : List FNum) (a : Nat × Int) :
    let r := xs.foldl amaxStep a
    (r = a ∨ ∃ n, .fin n r.1 r.2 ∈ xs) ∧ magValue a ≤ magValue r ∧ ∀ n m e, FNum.fin n m e ∈ xs → magValue (m, e) ≤ magValue r := by
  induction xs generalizing a with
  | nil => exact ⟨.inl rfl, le_rfl, fun _ _ _ h => absurd h List.not_mem_nil⟩
  | cons x xs ih =>
    obtain ⟨hin, hle, hall⟩ := ih (amaxStep a x)
    have hstep : magValue a ≤ magValue (amaxStep a x) ∧ (∀ n m e, x = .fin n m e → magValue (m, e) ≤ magValue (amaxStep a x)) ∧
        (amaxStep a x = a ∨ ∃ n, x = .fin n (amaxStep a x).1 (amaxStep a x).2) := by
      cases x
      case fin n m e =>
        dsimp only [amaxStep]
        split
        case isTrue h => exact ⟨((addExact_neg_iff a (m, e)).1 h).le, fun _ _ _ hx => by cases hx; exact le_rfl, .inr ⟨n, rfl⟩⟩
        case isFalse h =>
          refine ⟨le_rfl, fun _ _ _ hx => ?_, .inl rfl⟩
          cases hx
          exact not_lt.1 (mt (addExact_neg_iff a (m, e)).2 h)
      all_goals exact ⟨le_rfl, fun _ _ _ hx => FNum.noConfusion hx, .inl rfl⟩
    obtain ⟨hup, hx, hfrom⟩ := hstep
    refine ⟨?_, hup.trans hle, fun n m e hmem => ?_⟩
    · obtain hr | ⟨n, hr⟩ := hin
      · rw [List.foldl_cons, hr]
        exact hfrom.imp_right fun ⟨n, hn⟩ => ⟨n, hn ▸ List.mem_cons_self⟩
      · exact .inr ⟨n, List.mem_cons_of_mem _ hr⟩
    · obtain rfl | hmem := List.mem_cons.1 hmem
      · exact (hx n m e rfl).trans hle
      · exact hall n m e hmem

/-- The greatest magnitude of a block that is not all zero is one of its values, and none exceeds it. -/
theorem amaxOf_greatest {xs : List FNum} (h : (amaxOf xs).1 ≠ 0) :
    (∃ n, .fin n (amaxOf xs).1 (amaxOf xs).2 ∈ xs) ∧ ∀ n m e, FNum.fin n m e ∈ xs → magValue (m, e) ≤ magValue (amaxOf xs) := by
  have hfold := amaxStep_fold xs (0, 0)
  rw [← amaxOf_eq] at hfold
  obtain ⟨hin, -, hall⟩ := hfold
  exact ⟨hin.resolve_left fun h0 => h (congrArg Prod.fst h0), hall⟩

/-! ### Requantise (R78) -/

section
variable {xs : List FNum} {f : Fmt} {mode : Nat → RMode} {ceil : Bool}

/-- The exponent of a block before it is clamped. -/
def Fmt.blockExp (f : Fmt) (ceil : Bool) (a : Nat × Int) : Int := if ceil then f.ceilExp a else f.floorExp a
/-- The exponent of a block, between −127 and 127. -/
def clampExp (e : Int) : Int := max (-127) (min 127 e)
/-- Each value of the block scaled and converted. -/
def reqValues (xs : List FNum) (f : Fmt) (mode : Nat → RMode) (e : Int) : List (Nat × Bool) :=
  xs.zipIdx.map fun p => cvt (scaleNum p.1 (-e)) f (mode p.2) false

/-- A block with a value that is not finite. -/
theorem requantise_special (h : ∃ x ∈ xs, ∀ n m e, x ≠ .fin n m e) : requantise xs f mode ceil = ⟨0xFF, xs.map fun _ => 0, false, false⟩ := by
  refine if_pos (List.any_eq_true.2 ?_)
  obtain ⟨x, hx, hfin⟩ := h
  refine ⟨x, hx, ?_⟩
  cases x
  case fin n m e => exact absurd rfl (hfin n m e)
  all_goals rfl

section
variable (h : ∀ x ∈ xs, ∃ n m e, x = .fin n m e)
include h

theorem finite_not_any : ¬ (xs.any fun x => match x with | .fin _ _ _ => false | _ => true) = true := by
  rw [List.any_eq_true]
  rintro ⟨x, hx, hnot⟩
  obtain ⟨n, m, e, rfl⟩ := h x hx
  exact Bool.false_ne_true hnot

/-- A block of zeros. -/
theorem requantise_zero (ha : (amaxOf xs).1 = 0) : requantise xs f mode ceil = ⟨0x7F, xs.map fun _ => 0, false, false⟩ :=
  (if_neg (finite_not_any h)).trans (if_pos ha)

/-- A block of finite values, not all zero. -/
theorem requantise_values (ha : (amaxOf xs).1 ≠ 0) :
    let e1 := f.blockExp ceil (amaxOf xs)
    let q := reqValues xs f mode (clampExp e1)
    requantise xs f mode ceil = ⟨(clampExp e1 + 127).toNat, q.map (·.1), q.any (·.2), clampExp e1 != e1⟩ := by
  have hexp : (if ceil && !fitsAt f (amaxOf xs).1 (amaxOf xs).2 (f.floorExp (amaxOf xs)) then f.floorExp (amaxOf xs) + 1 else f.floorExp (amaxOf xs)) =
      f.blockExp ceil (amaxOf xs) := by
    unfold Fmt.blockExp Fmt.ceilExp
    cases ceil <;> cases fitsAt f (amaxOf xs).1 (amaxOf xs).2 (f.floorExp (amaxOf xs)) <;> rfl
  rw [← hexp]
  exact (if_neg (finite_not_any h)).trans (if_neg ha)

theorem requantise_scale (ha : (amaxOf xs).1 ≠ 0) :
    ((requantise xs f mode ceil).scale : Int) - 127 = clampExp (f.blockExp ceil (amaxOf xs)) := by
  rw [requantise_values h ha]
  unfold clampExp
  dsimp only
  omega

end
end

/-- Settles O26: a finite encoding converts to itself, rounding is that of `roundsUp`, and the exponent of the ceiling rule is the least that fits. -/
theorem roundingAndExponents : Obligations.RoundingAndExponents := by
  unfold Obligations.RoundingAndExponents
  refine ⟨⟨fun ty x mode infok neg m e _ hx hd => Fmt.cvt_decode (fmtOf_normal ty) hx hd, fun ty neg m e _ _ => ?_⟩,
    fun xs ty mode _ hfin ha => ?_⟩
  · simp only [Fmt.round_snd]
    refine ⟨Fmt.round_fst_of_le, fun hlt => ?_⟩
    obtain ⟨hup, hdown, htie⟩ := roundsUp_nearest (neg := neg) (m := m) (d := ((fmtOf ty).spacing m e - e).toNat)
    rw [← Fmt.round_fst_of_lt hlt] at hup hdown htie
    exact ⟨hup, hdown, fun h2 => htie (by rwa [Nat.pow_succ', Nat.mul_mod_mul_left] at h2), Fmt.round_fst_of_lt hlt, trivial⟩
  · obtain ⟨hin, hall⟩ := amaxOf_greatest ha
    obtain ⟨hfits, hleast⟩ := Fmt.ceilExp_least (fmtOf_normal ty) ha
    have hscale := requantise_scale (f := fmtOf ty) (mode := mode) (ceil := true) hfin ha
    dsimp only
    rw [hscale]
    refine ⟨fun hl hu => ?_, le_max_left .., max_le (by decide) (min_le_left ..), hin, fun n m k hmem => (common_le_iff (m, k) _).2 (hall n m k hmem)⟩
    have hexp : clampExp ((fmtOf ty).blockExp true (amaxOf xs)) = (fmtOf ty).ceilExp (amaxOf xs) := by
      unfold clampExp at hl hu ⊢
      unfold Fmt.blockExp at hl hu ⊢
      rw [if_pos rfl] at hl hu ⊢
      omega
    rw [hexp]
    exact ⟨of_decide_eq_true hfits, fun k hk => of_decide_eq_false (hleast k hk)⟩

end Sys2Proof.Machine
end

section
/-! O22, what the floating operations compute (R66, R67, R140, R141). A result is a value rounded once (`Fmt.result`); the lemmas say of which value, operation by operation. -/

namespace Sys2Proof.Machine

/-! ### The wide formats (R66, R68) -/

theorem fmtOf_wide {ty : BitVec 4} (hl : 8 ≤ ty.toNat) (hu : ty.toNat ≤ 10) : (fmtOf ty).wide = true := by
  revert ty
  decide

theorem fmtOf_wide_specials {ty : BitVec 4} (hl : 8 ≤ ty.toNat) (hu : ty.toNat ≤ 10) (z : Bool) :
    (fmtOf ty).flush z (fmtOf ty).nanEnc = (fmtOf ty).nanEnc ∧ (fmtOf ty).infEnc < 2 ^ ((fmtOf ty).eb + (fmtOf ty).mb) ∧ 2 ^ (fmtOf ty).mb ≤ (fmtOf ty).infEnc := by
  revert ty z
  decide

section
variable {f : Fmt} {z neg : Bool} {mag x : Nat}

theorem Fmt.signed_lt (h : mag < 2 ^ (f.eb + f.mb)) : f.signed neg mag < 2 ^ f.bits := by
  have hb : 2 ^ f.bits = 2 * 2 ^ (f.eb + f.mb) := by rw [Fmt.bits, Nat.add_assoc, Nat.pow_add, Nat.pow_one]
  unfold Fmt.signed
  split <;> omega

/-- Under FTZ a subnormal magnitude is flushed, its sign kept. -/
theorem Fmt.flush_signed (hw : f.wide = true) (h : mag < 2 ^ (f.eb + f.mb)) :
    f.flush z (f.signed neg mag) = f.signed neg (if z = true ∧ mag < 2 ^ f.mb then 0 else mag) := by
  have hzero : neg.toNat * 2 ^ (f.eb + f.mb) = f.signed neg 0 := by cases neg <;> simp [Fmt.signed]
  simp only [Fmt.flush, hw, Fmt.signed_field h, Fmt.signed_div h, hzero, Bool.and_true, Bool.and_eq_true, beq_iff_eq,
    Nat.div_eq_zero_iff_lt (Nat.two_pow_pos f.mb)]
  split <;> rfl

theorem Fmt.flush_zero (hw : f.wide = true) : f.flush z (f.signed neg 0) = f.signed neg 0 := by
  rw [Fmt.flush_signed hw (Nat.two_pow_pos _), ite_self]

theorem Fmt.flush_lt (hw : f.wide = true) (hx : x < 2 ^ f.bits) : f.flush z x < 2 ^ f.bits := by
  obtain ⟨neg, mag, hm, rfl⟩ := Fmt.exists_signed hx
  rw [Fmt.flush_signed hw hm]
  refine Fmt.signed_lt ?_
  split
  · exact Nat.two_pow_pos _
  · exact hm

theorem Fmt.flush_flush (hw : f.wide = true) (hx : x < 2 ^ f.bits) : f.flush z (f.flush z x) = f.flush z x := by
  obtain ⟨neg, mag, hm, rfl⟩ := Fmt.exists_signed hx
  rw [Fmt.flush_signed hw hm]
  split
  case isTrue => exact Fmt.flush_zero hw
  case isFalse h => rw [Fmt.flush_signed hw hm, if_neg h]

end

/-- A format in which the IEEE operations of R140 are made: f32, f16 or bf16. -/
structure Fmt.Ieee (f : Fmt) : Prop where
  wide   : f.wide = true
  normal : f.Normal
  nan    : ∀ z, f.flush z f.nanEnc = f.nanEnc
  top    : f.infEnc < 2 ^ (f.eb + f.mb)
  inf    : 2 ^ f.mb ≤ f.infEnc

theorem fmtOf_ieee {ty : BitVec 4} (hl : 8 ≤ ty.toNat) (hu : ty.toNat ≤ 10) : (fmtOf ty).Ieee :=
  ⟨fmtOf_wide hl hu, fmtOf_normal ty, fun z => (fmtOf_wide_specials hl hu z).1, (fmtOf_wide_specials hl hu true).2.1, (fmtOf_wide_specials hl hu true).2.2⟩

section
variable {f : Fmt} (hf : f.Ieee) {z neg : Bool} {r : RMode}
include hf

theorem Fmt.Ieee.ieee : f.ieee = true := (Bool.and_eq_true_iff.1 hf.wide).1

/-! ### Results -/

theorem Fmt.Ieee.result_nan : f.result z r .nan = f.nanEnc := by
  rw [Fmt.result, cvt, Fmt.hasNan, hf.ieee]
  exact hf.nan z

theorem Fmt.Ieee.result_inf : f.result z r (.inf neg) = f.signed neg f.infEnc := by
  simp only [Fmt.result, cvt, hf.wide, Bool.true_or, if_true]
  rw [Fmt.flush_signed hf.wide hf.top, if_neg fun h => absurd h.2 (Nat.not_lt.2 hf.inf)]

theorem Fmt.Ieee.result_zero {e : Int} : f.result z r (.fin neg 0 e) = f.signed neg 0 := by
  simp only [Fmt.result, cvt, Fmt.finish, Bool.not_false, and_self, if_true]
  exact Fmt.flush_zero hf.wide

/-- An operand that is no NaN comes back as it was read (R66, R67). -/
theorem Fmt.Ieee.result_input {a : Nat} (ha : a < 2 ^ f.bits) (hx : f.input z a ≠ .nan) : f.result z r (f.input z a) = f.flush z a := by
  have hlt := Fmt.flush_lt (z := z) hf.wide ha
  cases hd : f.input z a
  case nan => exact absurd hd hx
  case inf neg => rw [hf.result_inf, Fmt.decode_eq_inf hf.normal hlt hd]
  case fin n m e =>
    rw [Fmt.result, ← hd, Fmt.input, Fmt.cvt_decode hf.normal hlt hd]
    exact Fmt.flush_flush hf.wide ha

end

/-! ### Sums and products (R140) -/

/-- The sum of two finite values at their common exponent. -/
def signedSum (n1 : Bool) (m1 : Nat) (e1 : Int) (n2 : Bool) (m2 : Nat) (e2 : Int) : Int :=
  (if n1 then -1 else 1 : Int) * (m1 * 2 ^ (e1 - min e1 e2).toNat : Nat) + (if n2 then -1 else 1 : Int) * (m2 * 2 ^ (e2 - min e1 e2).toNat : Nat)

theorem addExact_eq (n1 : Bool) (m1 : Nat) (e1 : Int) (n2 : Bool) (m2 : Nat) (e2 : Int) :
    addExact n1 m1 e1 n2 m2 e2 = (signedSum n1 m1 e1 n2 m2 e2, min e1 e2) := by
  simp only [addExact, signedSum, ite_mul, neg_one_mul, one_mul]

/-- The exact sum rounded once; an exact zero keeps a common sign, and else is negative only towards −∞. -/
def Fmt.Summed (f : Fmt) (z : Bool) (r : RMode) (n1 : Bool) (m1 : Nat) (e1 : Int) (n2 : Bool) (m2 : Nat) (e2 : Int) (res : Nat) : Prop :=
  let d := signedSum n1 m1 e1 n2 m2 e2
  (d ≠ 0 → res = f.result z r (.fin (decide (d < 0)) d.natAbs (min e1 e2))) ∧ (d = 0 → n1 = n2 → res = f.signed n1 0) ∧
    (d = 0 → n1 ≠ n2 → res = f.signed (r == .rdn) 0)

section
variable {f : Fmt} (hf : f.Ieee) {z : Bool} {r : RMode}
include hf

theorem Fmt.Ieee.result_add (n1 : Bool) (m1 : Nat) (e1 : Int) (n2 : Bool) (m2 : Nat) (e2 : Int) :
    f.Summed z r n1 m1 e1 n2 m2 e2 (f.result z r (addNum r (.fin n1 m1 e1) (.fin n2 m2 e2))) := by
  simp only [Fmt.Summed, addNum, addExact_eq]
  refine ⟨fun hd => by rw [if_neg hd], fun hd hn => ?_, fun hd hn => ?_⟩
  · rw [if_pos hd, if_pos hn, hf.result_zero]
  · rw [if_pos hd, if_neg hn, hf.result_zero]

end

section
variable {f : Fmt} {z mx : Bool} {r : RMode} {a b c : Nat} {x y w : FNum}

theorem Fmt.add_of (hx : f.input z a = x) (hy : f.input z b = y) : f.add z r a b = f.result z r (addNum r x y) := by rw [Fmt.add, hx, hy]
theorem Fmt.sub_of (hx : f.input z a = x) (hy : f.input z b = y) : f.sub z r a b = f.result z r (addNum r x (negNum y)) := by rw [Fmt.sub, hx, hy]
theorem Fmt.mul_of (hx : f.input z a = x) (hy : f.input z b = y) : f.mul z r a b = f.result z r (mulNum x y) := by rw [Fmt.mul, hx, hy]
theorem Fmt.fma_of (hx : f.input z a = x) (hy : f.input z b = y) (hw : f.input z c = w) :
    f.fma z r a b c = f.result z r (addNum r (mulNum x y) w) := by rw [Fmt.fma, hx, hy, hw]

section
variable {n1 n2 n3 : Bool} {m1 m2 m3 : Nat} {e1 e2 e3 : Int} (hf : f.Ieee) (hx : f.input z a = .fin n1 m1 e1) (hy : f.input z b = .fin n2 m2 e2)
include hx hy

theorem Fmt.mul_fin : f.mul z r a b = f.result z r (.fin (n1 != n2) (m1 * m2) (e1 + e2)) := Fmt.mul_of hx hy

include hf

theorem Fmt.Ieee.add_fin : f.Summed z r n1 m1 e1 n2 m2 e2 (f.add z r a b) := by
  rw [Fmt.add_of hx hy]
  exact hf.result_add ..

theorem Fmt.Ieee.sub_fin : f.Summed z r n1 m1 e1 (!n2) m2 e2 (f.sub z r a b) := by
  rw [Fmt.sub_of hx hy]
  exact hf.result_add ..

theorem Fmt.Ieee.fma_fin (hw : f.input z c = .fin n3 m3 e3) : f.Summed z r (n1 != n2) (m1 * m2) (e1 + e2) n3 m3 e3 (f.fma z r a b c) := by
  rw [Fmt.fma_of hx hy hw]
  exact hf.result_add ..

end

theorem addNum_nan_right : addNum r x .nan = .nan := by cases x <;> rfl
theorem mulNum_nan_right : mulNum x .nan = .nan := by cases x <;> rfl


/-- What VFMIN and VFMAX choose of two values that are no NaN. -/
def pick (mx : Bool) (x y : FNum) : FNum := if ltTotal x y != mx then x else y

theorem Fmt.minmax_of (hx : f.input z a = x) (hy : f.input z b = y) (hnx : x ≠ .nan) (hny : y ≠ .nan) :
    f.minmax z mx a b = f.result z .rne (pick mx x y) := by
  simp only [Fmt.minmax, hx, hy]
  cases x
  case nan => exact absurd rfl hnx
  all_goals
    cases y
    case nan => exact absurd rfl hny
    all_goals rfl

theorem Fmt.minmax_nan_left (hx : f.input z a = .nan) : f.minmax z mx a b = f.result z .rne (f.input z b) := by
  simp only [Fmt.minmax, hx]

theorem Fmt.minmax_nan_right (hy : f.input z b = .nan) : f.minmax z mx a b = f.result z .rne (f.input z a) := by
  simp only [Fmt.minmax, hy]
  cases f.input z a <;> rfl

theorem pick_inf_left (p : Bool) (hy : y ≠ .nan) : pick (!p) (.inf p) y = .inf p ∧ pick p (.inf p) y = y := by
  cases y
  case nan => exact absurd rfl hy
  case inf q => cases p <;> cases q <;> exact ⟨rfl, rfl⟩
  case fin => cases p <;> exact ⟨rfl, rfl⟩

theorem pick_inf_right (p : Bool) (hx : x ≠ .nan) : pick (!p) x (.inf p) = .inf p ∧ pick p x (.inf p) = x := by
  cases x
  case nan => exact absurd rfl hx
  case inf q => cases p <;> cases q <;> exact ⟨rfl, rfl⟩
  case fin => cases p <;> exact ⟨rfl, rfl⟩

section
variable {n1 n2 : Bool} {m1 m2 : Nat} {e1 e2 : Int}

theorem ltTotal_fin : ltTotal (.fin n1 m1 e1) (.fin n2 m2 e2) =
    if signedSum n1 m1 e1 (!n2) m2 e2 = 0 then m1 == 0 && m2 == 0 && n1 && !n2 else decide (signedSum n1 m1 e1 (!n2) m2 e2 < 0) := by
  simp only [ltTotal, addExact_eq]

theorem pick_of_lt (h : signedSum n1 m1 e1 (!n2) m2 e2 < 0) :
    pick mx (.fin n1 m1 e1) (.fin n2 m2 e2) = if mx then .fin n2 m2 e2 else .fin n1 m1 e1 := by
  have hlt : ltTotal (.fin n1 m1 e1) (.fin n2 m2 e2) = true := by rw [ltTotal_fin, if_neg h.ne, decide_eq_true h]
  rw [pick, hlt]
  cases mx <;> rfl

theorem pick_of_not_lt (h : 0 < signedSum n1 m1 e1 (!n2) m2 e2 ∨ (signedSum n1 m1 e1 (!n2) m2 e2 = 0 ∧ m1 ≠ 0)) :
    pick mx (.fin n1 m1 e1) (.fin n2 m2 e2) = if mx then .fin n1 m1 e1 else .fin n2 m2 e2 := by
  have hlt : ltTotal (.fin n1 m1 e1) (.fin n2 m2 e2) = false := by
    rw [ltTotal_fin]
    obtain h | ⟨h, hm⟩ := h
    · rw [if_neg h.ne', decide_eq_false h.not_gt]
    · rw [if_pos h, beq_eq_false_iff_ne.2 hm]
      rfl
  rw [pick, hlt]
  cases mx <;> rfl

/-- Of two zeros the negative one is the smaller. -/
theorem pick_zeros : ∃ e, pick mx (.fin n1 0 e1) (.fin n2 0 e2) = .fin (if mx then n1 && n2 else n1 || n2) 0 e := by
  have hsum : signedSum n1 0 e1 (!n2) 0 e2 = 0 := by simp [signedSum]
  simp only [pick, ltTotal_fin, hsum, if_true]
  cases n1 <;> cases n2 <;> cases mx <;> exact ⟨_, rfl⟩

end
end

/-! ### NaNs and infinities (R67, R140) -/

theorem mulNum_inf {x y : FNum} {p q : Bool} {m : Nat} {e : Int}
    (h : (x = .inf p ∧ (y = .inf q ∨ (y = .fin q m e ∧ m ≠ 0))) ∨ (y = .inf q ∧ x = .fin p m e ∧ m ≠ 0)) : mulNum x y = .inf (p != q) := by
  obtain ⟨rfl, rfl | ⟨rfl, hm⟩⟩ | ⟨rfl, rfl, hm⟩ := h
  · rfl
  · exact if_neg hm
  · exact if_neg hm

theorem mulNum_inf_zero {x y : FNum} {p n : Bool} {m : Nat} {e : Int}
    (h : (x = .inf p ∧ y = .fin n m e) ∨ (y = .inf p ∧ x = .fin n m e)) (hm : m = 0) : mulNum x y = .nan := by
  obtain ⟨rfl, rfl⟩ | ⟨rfl, rfl⟩ := h
  · exact if_pos hm
  · exact if_pos hm

section
variable {f : Fmt} (hf : f.Ieee) {z : Bool} {r : RMode} {a b c : Nat}
include hf

theorem Fmt.Ieee.nan_operand (h : f.input z a = .nan ∨ f.input z b = .nan) :
    f.add z r a b = f.nanEnc ∧ f.sub z r a b = f.nanEnc ∧ f.mul z r a b = f.nanEnc ∧ f.fma z r a b c = f.nanEnc := by
  rw [Fmt.add_of rfl rfl, Fmt.sub_of rfl rfl, Fmt.mul_of rfl rfl, Fmt.fma_of rfl rfl rfl]
  obtain h | h := h
  · rw [h]
    exact ⟨hf.result_nan, hf.result_nan, hf.result_nan, hf.result_nan⟩
  · rw [h, mulNum_nan_right, negNum, addNum_nan_right]
    exact ⟨hf.result_nan, hf.result_nan, hf.result_nan, hf.result_nan⟩

theorem Fmt.Ieee.fma_nan (h : f.input z c = .nan) : f.fma z r a b c = f.nanEnc := by
  rw [Fmt.fma_of rfl rfl h, addNum_nan_right, hf.result_nan]

theorem Fmt.Ieee.result_nan_or_inf {P : Prop} [Decidable P] {p : Bool} :
    f.result z r (if P then .nan else .inf p) = if P then f.nanEnc else f.signed p f.infEnc := by
  rw [apply_ite (f.result z r), hf.result_nan, hf.result_inf]

theorem Fmt.Ieee.inf_fin {p n : Bool} {m : Nat} {e : Int} (hx : f.input z a = .inf p) (hy : f.input z b = .fin n m e) :
    f.add z r a b = f.signed p f.infEnc ∧ f.sub z r a b = f.signed p f.infEnc ∧
      f.mul z r a b = if m = 0 then f.nanEnc else f.signed (p != n) f.infEnc := by
  rw [Fmt.add_of hx hy, Fmt.sub_of hx hy, Fmt.mul_of hx hy]
  exact ⟨hf.result_inf, hf.result_inf, hf.result_nan_or_inf⟩

theorem Fmt.Ieee.fin_inf {p n : Bool} {m : Nat} {e : Int} (hx : f.input z a = .fin n m e) (hy : f.input z b = .inf p) :
    f.add z r a b = f.signed p f.infEnc ∧ f.sub z r a b = f.signed (!p) f.infEnc ∧
      f.mul z r a b = if m = 0 then f.nanEnc else f.signed (n != p) f.infEnc := by
  rw [Fmt.add_of hx hy, Fmt.sub_of hx hy, Fmt.mul_of hx hy]
  exact ⟨hf.result_inf, hf.result_inf, hf.result_nan_or_inf⟩

theorem Fmt.Ieee.result_add_inf {p q : Bool} :
    f.result z r (addNum r (.inf p) (.inf q)) = if p = q then f.signed p f.infEnc else f.nanEnc := by
  rw [addNum, apply_ite (f.result z r), hf.result_nan, hf.result_inf]

theorem Fmt.Ieee.inf_inf {p q : Bool} (hx : f.input z a = .inf p) (hy : f.input z b = .inf q) :
    f.add z r a b = (if p = q then f.signed p f.infEnc else f.nanEnc) ∧ f.sub z r a b = (if p = q then f.nanEnc else f.signed p f.infEnc) ∧
      f.mul z r a b = f.signed (p != q) f.infEnc := by
  rw [Fmt.add_of hx hy, Fmt.sub_of hx hy, Fmt.mul_of hx hy, negNum, hf.result_add_inf, hf.result_add_inf]
  refine ⟨rfl, ?_, hf.result_inf⟩
  cases p <;> cases q <;> rfl

/-- An infinite product. -/
theorem Fmt.Ieee.fma_inf {p q : Bool} (h : mulNum (f.input z a) (f.input z b) = .inf (p != q)) (n : Bool) :
    ((∃ k e, f.input z c = .fin n k e) → f.fma z r a b c = f.signed (p != q) f.infEnc) ∧
      (f.input z c = .inf n → f.fma z r a b c = if n = (p != q) then f.signed n f.infEnc else f.nanEnc) := by
  refine ⟨fun ⟨k, e, hw⟩ => ?_, fun hw => ?_⟩
  · rw [Fmt.fma_of rfl rfl hw, h]
    exact hf.result_inf
  · rw [Fmt.fma_of rfl rfl hw, h, hf.result_add_inf]
    by_cases hn : n = (p != q)
    · rw [if_pos hn.symm, if_pos hn, hn]
    · rw [if_neg (Ne.symm hn), if_neg hn]

theorem Fmt.Ieee.fma_inf_zero (h : mulNum (f.input z a) (f.input z b) = .nan) : f.fma z r a b c = f.nanEnc := by
  rw [Fmt.fma_of rfl rfl rfl, h]
  exact hf.result_nan

theorem Fmt.Ieee.fma_fin_inf {p n1 n2 : Bool} {m1 m2 : Nat} {e1 e2 : Int} (hx : f.input z a = .fin n1 m1 e1) (hy : f.input z b = .fin n2 m2 e2)
    (hw : f.input z c = .inf p) : f.fma z r a b c = f.signed p f.infEnc := by
  rw [Fmt.fma_of hx hy hw]
  exact hf.result_inf

/-! ### The smaller and the larger operand (R140) -/

section
variable (ha : a < 2 ^ f.bits) (hb : b < 2 ^ f.bits)
include ha hb

theorem Fmt.Ieee.minmax_nan (mx : Bool) :
    (f.input z a = .nan → f.input z b = .nan → f.minmax z mx a b = f.nanEnc) ∧
      (f.input z a = .nan → f.input z b ≠ .nan → f.minmax z mx a b = f.flush z b) ∧
      (f.input z a ≠ .nan → f.input z b = .nan → f.minmax z mx a b = f.flush z a) := by
  refine ⟨fun hx hy => ?_, fun hx hy => ?_, fun hx hy => ?_⟩
  · rw [Fmt.minmax_nan_left hx, hy, hf.result_nan]
  · rw [Fmt.minmax_nan_left hx, hf.result_input hb hy]
  · rw [Fmt.minmax_nan_right hy, hf.result_input ha hx]

theorem Fmt.Ieee.minmax_inf (p : Bool) :
    (f.input z a = .inf p → f.input z b ≠ .nan → f.minmax z (!p) a b = f.signed p f.infEnc ∧ f.minmax z p a b = f.flush z b) ∧
      (f.input z b = .inf p → f.input z a ≠ .nan → f.minmax z (!p) a b = f.signed p f.infEnc ∧ f.minmax z p a b = f.flush z a) := by
  refine ⟨fun hx hy => ?_, fun hy hx => ?_⟩
  · obtain ⟨hother, hthis⟩ := pick_inf_left p hy
    rw [Fmt.minmax_of hx rfl FNum.noConfusion hy, Fmt.minmax_of hx rfl FNum.noConfusion hy, hother, hthis, hf.result_inf, hf.result_input hb hy]
    exact ⟨rfl, rfl⟩
  · obtain ⟨hother, hthis⟩ := pick_inf_right p hx
    rw [Fmt.minmax_of rfl hy hx FNum.noConfusion, Fmt.minmax_of rfl hy hx FNum.noConfusion, hother, hthis, hf.result_inf, hf.result_input ha hx]
    exact ⟨rfl, rfl⟩

theorem Fmt.Ieee.minmax_fin {n1 n2 : Bool} {m1 m2 : Nat} {e1 e2 : Int} (hx : f.input z a = .fin n1 m1 e1) (hy : f.input z b = .fin n2 m2 e2) :
    let d := signedSum n1 m1 e1 (!n2) m2 e2
    (d < 0 → f.minmax z false a b = f.flush z a ∧ f.minmax z true a b = f.flush z b) ∧
      (0 < d ∨ (d = 0 ∧ m1 ≠ 0) → f.minmax z false a b = f.flush z b ∧ f.minmax z true a b = f.flush z a) ∧
      (m1 = 0 → m2 = 0 → f.minmax z false a b = f.signed (n1 || n2) 0 ∧ f.minmax z true a b = f.signed (n1 && n2) 0) := by
  have hra : f.result z .rne (.fin n1 m1 e1) = f.flush z a := hx ▸ hf.result_input ha (hx ▸ FNum.noConfusion)
  have hrb : f.result z .rne (.fin n2 m2 e2) = f.flush z b := hy ▸ hf.result_input hb (hy ▸ FNum.noConfusion)
  rw [Fmt.minmax_of hx hy FNum.noConfusion FNum.noConfusion, Fmt.minmax_of hx hy FNum.noConfusion FNum.noConfusion]
  refine ⟨fun h => ?_, fun h => ?_, fun h1 h2 => ?_⟩
  · rw [pick_of_lt h, pick_of_lt h]
    exact ⟨hra, hrb⟩
  · rw [pick_of_not_lt h, pick_of_not_lt h]
    exact ⟨hrb, hra⟩
  · subst h1 h2
    obtain ⟨e, hmin⟩ := pick_zeros (mx := false) (n1 := n1) (n2 := n2) (e1 := e1) (e2 := e2)
    obtain ⟨e', hmax⟩ := pick_zeros (mx := true) (n1 := n1) (n2 := n2) (e1 := e1) (e2 := e2)
    rw [hmin, hmax]
    exact ⟨hf.result_zero, hf.result_zero⟩

end
end

/-! ### An integral value (R64, R140) -/

theorem ceil_div {m D : Nat} (hD : 0 < D) : (m + D - 1) / D = if m % D = 0 then m / D else m / D + 1 := by
  have hdm := Nat.div_add_mod' m D
  have hmod := Nat.mod_lt m hD
  split
  case isTrue h =>
    refine Nat.div_eq_of_lt_le ?_ ?_
    · omega
    · rw [Nat.succ_mul]; omega
  case isFalse h =>
    refine Nat.div_eq_of_lt_le ?_ ?_
    · rw [Nat.succ_mul]; omega
    · rw [Nat.succ_mul, Nat.succ_mul]; omega

section
variable {r : RMode} {n : Bool} {m : Nat} {e : Int}

/-- A magnitude with a fraction rounded to an integer, mode by mode. -/
theorem roundInt_spec (he : e < 0) :
    let d := 2 ^ (-e).toNat
    let k := roundInt r n m e
    (r = .rtz → k = m / d) ∧ (r = .rdn → k = if n then (m + d - 1) / d else m / d) ∧ (r = .rup → k = if n then m / d else (m + d - 1) / d) ∧
      (r = .rne → 2 * (k * d) ≤ 2 * m + d ∧ 2 * m ≤ 2 * (k * d) + d ∧ (2 * m = 2 * (k * d) + d ∨ 2 * m + d = 2 * (k * d) → k % 2 = 0)) := by
  have hk : roundInt r n m e = if roundsUp r n (m / 2 ^ (-e).toNat) (m % 2 ^ (-e).toNat) (-e).toNat false then m / 2 ^ (-e).toNat + 1
      else m / 2 ^ (-e).toNat := if_neg (not_le.2 he)
  simp only [ceil_div (Nat.two_pow_pos (-e).toNat)]
  refine ⟨?_, ?_, ?_, ?_⟩
  · rintro rfl
    exact hk
  · rintro rfl
    rw [hk]
    cases n <;> simp [roundsUp]
  · rintro rfl
    rw [hk]
    cases n <;> simp [roundsUp]
  · rintro rfl
    obtain ⟨hup, hdown, htie⟩ := roundsUp_nearest (neg := n) (m := m) (d := (-e).toNat)
    rw [← hk] at hup hdown htie
    refine ⟨hup, hdown, fun h => htie ?_⟩
    have hdm := Nat.div_add_mod' m (2 ^ (-e).toNat)
    have hmod := Nat.mod_lt m (Nat.two_pow_pos (-e).toNat)
    have hfloor : roundInt .rne n m e = m / 2 ^ (-e).toNat ∨ roundInt .rne n m e = m / 2 ^ (-e).toNat + 1 := by
      rw [hk]
      split
      · exact .inr rfl
      · exact .inl rfl
    have hsucc := Nat.add_one_mul (m / 2 ^ (-e).toNat) (2 ^ (-e).toNat)
    obtain hr | hr := hfloor <;> rw [hr] at h <;> omega

end

section
variable {f : Fmt} {z : Bool} {r : RMode} {a : Nat} {n : Bool} {m : Nat} {e : Int}

theorem Fmt.rnd_of_fraction (hx : f.input z a = .fin n m e) (he : e < 0) : f.rnd z r a = f.result z r (.fin n (roundInt r n m e) 0) := by
  simp only [Fmt.rnd, hx, if_neg (not_le.2 he)]

theorem Fmt.rnd_of_integer (hx : f.input z a = .fin n m e) (he : 0 ≤ e) : f.rnd z r a = f.result z r (f.input z a) := by
  simp only [Fmt.rnd, hx, if_pos he]

theorem Fmt.rnd_of_nonfinite (hx : ∀ n m e, f.input z a ≠ .fin n m e) : f.rnd z r a = f.result z r (f.input z a) := by
  unfold Fmt.rnd
  split
  case h_1 h => exact absurd h (hx _ _ _)
  case h_2 => rfl

/-! ### Special results of the functions (R141) -/

theorem Fmt.trans_num {t : Trans} {x y : FNum} (hx : f.input z a = x) (h : t.eval x = .num y) : f.trans z r t a = f.result z r y := by
  simp only [Fmt.trans, hx, h]

theorem Fmt.trans_trunc {t : Trans} {x : FNum} {q : Nat} {h : Int} (hx : f.input z a = x) (ht : t.eval x = .trunc n q h) :
    f.trans z r t a = f.flush z (f.finish r false n q h true).1 := by
  simp only [Fmt.trans, hx, ht]

theorem Trans.eval_fin (t : Trans) (hm : m ≠ 0) : t.eval (.fin n m e) = match t with
    | .rcp => rcpFin n m e
    | .rsq => if n then .num .nan else rsqFin m e
    | .sqrt => if n then .num .nan else sqrtFin m e
    | .exp2 => exp2Fin n m e
    | .log2 => if n then .num .nan else log2Fin m e
    | .sin => trigFin false n m e
    | .cos => trigFin true n m e
    | .tanh => tanhFin n m e := if_neg hm

theorem log2Fin_two_pow (k : Nat) : log2Fin (2 ^ k) e = .num (intNum (e + k)) := by
  have hlen : bitLen (2 ^ k) - 1 = k := by rw [bitLen_eq le_rfl (Nat.pow_lt_pow_right (by decide) (Nat.lt_succ_self k)), Nat.add_sub_cancel]
  simp only [log2Fin, hlen, if_true]

/-- Twice the value is an integer: the angle is a multiple of π/2, whose quadrant says which function is zero. -/
theorem trigFin_quadrant {cosine : Bool} (he : e < 0) (h : 2 * m % 2 ^ (-e).toNat = 0)
    (hq : 2 * m / 2 ^ (-e).toNat % 2 = if cosine then 1 else 0) : trigFin cosine n m e = .num (.fin (!cosine && n) 0 0) := by
  obtain ⟨j, hj⟩ := Nat.dvd_of_mod_eq_zero h
  have hpos := Nat.two_pow_pos (-e).toNat
  have hr : 2 * (m % 2 ^ ((-e).toNat + 1)) = 2 ^ (-e).toNat * (j % 4) := by
    rw [← Nat.mul_mod_mul_left, hj, Nat.pow_succ, show 2 * (2 ^ (-e).toNat * 2) = 2 ^ (-e).toNat * 4 by omega, Nat.mul_mod_mul_left]
  rw [hj, Nat.mul_div_cancel_left _ hpos] at hq
  have hneg : ¬ 0 ≤ e := not_le.2 he
  simp only [trigFin, hneg, if_false, hr, Nat.mul_mod_right, Nat.mul_div_cancel_left _ hpos, if_true]
  have h4 := Nat.mod_lt j (show 0 < 4 by decide)
  cases cosine
  · obtain h0 | h2 : j % 4 = 0 ∨ j % 4 = 2 := by simp at hq; omega
    · simp [h0]
    · simp [h2]
  · obtain h1 | h3 : j % 4 = 1 ∨ j % 4 = 3 := by simp at hq; omega
    · simp [h1]
    · simp [h3]

/-- The sine of a whole multiple of π. -/
theorem sin_integer (h : 0 ≤ e ∨ m % 2 ^ (-e).toNat = 0) : trigFin false n m e = .num (.fin n 0 0) := by
  by_cases he : 0 ≤ e
  · have hodd : m * 2 ^ e.toNat % 2 = 0 ∨ m * 2 ^ e.toNat % 2 = 1 := Nat.mod_two_eq_zero_or_one _
    obtain h0 | h1 := hodd
    · simp [trigFin, he, h0]
    · simp [trigFin, he, h1]
  · obtain ⟨j, hj⟩ := Nat.dvd_of_mod_eq_zero (h.resolve_left he)
    refine trigFin_quadrant (not_le.1 he) ?_ ?_
    · rw [hj, Nat.mul_left_comm, Nat.mul_mod_right]
    · rw [hj, Nat.mul_left_comm, Nat.mul_div_cancel_left _ (Nat.two_pow_pos _)]
      simp

end

section
variable {f : Fmt} (hf : f.Ieee) {z : Bool} {r : RMode} {a : Nat} {n : Bool} {m : Nat} {e : Int}
include hf

theorem Fmt.Ieee.rnd_integer (hx : f.input z a = .fin n m e) (ha : a < 2 ^ f.bits) (he : 0 ≤ e) : f.rnd z r a = f.flush z a := by
  rw [Fmt.rnd_of_integer hx he, hf.result_input ha (hx ▸ FNum.noConfusion)]

theorem Fmt.Ieee.functions_inf (hx : f.input z a = .inf n) :
    f.rnd z r a = f.signed n f.infEnc ∧ f.trans z r .rcp a = f.signed n 0 ∧ f.trans z r .sin a = f.nanEnc ∧ f.trans z r .cos a = f.nanEnc ∧
      f.trans z r .tanh a = f.result z r (.fin n 1 0) ∧
      (n = false → f.trans z r .rsq a = f.signed false 0 ∧ f.trans z r .sqrt a = f.signed false f.infEnc ∧
        f.trans z r .exp2 a = f.signed false f.infEnc ∧ f.trans z r .log2 a = f.signed false f.infEnc) ∧
      (n = true → f.trans z r .rsq a = f.nanEnc ∧ f.trans z r .sqrt a = f.nanEnc ∧ f.trans z r .exp2 a = f.signed false 0 ∧
        f.trans z r .log2 a = f.nanEnc) := by
  have hrnd : f.rnd z r a = f.signed n f.infEnc := by
    rw [Fmt.rnd_of_nonfinite fun n m e => hx ▸ FNum.noConfusion, hx, hf.result_inf]
  refine ⟨hrnd, (Fmt.trans_num hx rfl).trans hf.result_zero, (Fmt.trans_num hx rfl).trans hf.result_nan, (Fmt.trans_num hx rfl).trans hf.result_nan,
    Fmt.trans_num hx rfl, ?_, ?_⟩
  · rintro rfl
    exact ⟨(Fmt.trans_num hx rfl).trans hf.result_zero, (Fmt.trans_num hx rfl).trans hf.result_inf, (Fmt.trans_num hx rfl).trans hf.result_inf,
      (Fmt.trans_num hx rfl).trans hf.result_inf⟩
  · rintro rfl
    exact ⟨(Fmt.trans_num hx rfl).trans hf.result_nan, (Fmt.trans_num hx rfl).trans hf.result_nan, (Fmt.trans_num hx rfl).trans hf.result_zero,
      (Fmt.trans_num hx rfl).trans hf.result_nan⟩

theorem Fmt.Ieee.functions_nan (hx : f.input z a = .nan) : f.rnd z r a = f.nanEnc ∧ ∀ t, f.trans z r t a = f.nanEnc := by
  refine ⟨?_, fun t => (Fmt.trans_num hx rfl).trans hf.result_nan⟩
  rw [Fmt.rnd_of_nonfinite fun n m e => hx ▸ FNum.noConfusion, hx, hf.result_nan]

theorem Fmt.Ieee.functions_zero (hx : f.input z a = .fin n 0 e) :
    f.trans z r .rcp a = f.signed n f.infEnc ∧ f.trans z r .rsq a = f.signed n f.infEnc ∧ f.trans z r .sqrt a = f.signed n 0 ∧
      f.trans z r .exp2 a = f.result z r (.fin false 1 0) ∧ f.trans z r .log2 a = f.signed true f.infEnc ∧ f.trans z r .sin a = f.signed n 0 ∧
      f.trans z r .cos a = f.result z r (.fin false 1 0) ∧ f.trans z r .tanh a = f.signed n 0 :=
  ⟨(Fmt.trans_num hx rfl).trans hf.result_inf, (Fmt.trans_num hx rfl).trans hf.result_inf, (Fmt.trans_num hx rfl).trans hf.result_zero,
    Fmt.trans_num hx rfl, (Fmt.trans_num hx rfl).trans hf.result_inf, (Fmt.trans_num hx rfl).trans hf.result_zero,
    Fmt.trans_num hx rfl, (Fmt.trans_num hx rfl).trans hf.result_zero⟩

theorem Fmt.Ieee.functions_negative (hx : f.input z a = .fin true m e) (hm : m ≠ 0) :
    f.trans z r .rsq a = f.nanEnc ∧ f.trans z r .sqrt a = f.nanEnc ∧ f.trans z r .log2 a = f.nanEnc :=
  ⟨(Fmt.trans_num hx (Trans.eval_fin .rsq hm)).trans hf.result_nan, (Fmt.trans_num hx (Trans.eval_fin .sqrt hm)).trans hf.result_nan,
    (Fmt.trans_num hx (Trans.eval_fin .log2 hm)).trans hf.result_nan⟩

theorem Fmt.Ieee.sin_zero (hx : f.input z a = .fin n m e) (hm : m ≠ 0) (h : 0 ≤ e ∨ m % 2 ^ (-e).toNat = 0) :
    f.trans z r .sin a = f.signed n 0 :=
  (Fmt.trans_num hx ((Trans.eval_fin .sin hm).trans (sin_integer h))).trans hf.result_zero

theorem Fmt.Ieee.cos_zero (hx : f.input z a = .fin n m e) (he : e < 0) (h : 2 * m % 2 ^ (-e).toNat = 0) (hq : 2 * m / 2 ^ (-e).toNat % 2 = 1) :
    f.trans z r .cos a = f.signed false 0 := by
  have hm : m ≠ 0 := by
    rintro rfl
    simp at hq
  exact (Fmt.trans_num hx ((Trans.eval_fin .cos hm).trans (trigFin_quadrant he h hq))).trans hf.result_zero

end

theorem Fmt.log2_two_pow {f : Fmt} {z : Bool} {r : RMode} {a k : Nat} {e : Int} (hx : f.input z a = .fin false (2 ^ k) e) :
    f.trans z r .log2 a = f.result z r (.fin (decide (e + k < 0)) (e + k).natAbs 0) :=
  Fmt.trans_num hx ((Trans.eval_fin .log2 (Nat.two_pow_pos k).ne').trans (log2Fin_two_pow k))

/-! ### Quotients and roots to 64 bits and more (R141) -/

theorem isqrtBits_spec (n : Nat) : ∀ k r : Nat, r * r ≤ n → n < (r + 2 ^ k) * (r + 2 ^ k) →
    isqrtBits n k r * isqrtBits n k r ≤ n ∧ n < (isqrtBits n k r + 1) * (isqrtBits n k r + 1)
  | 0, _, hl, hu => ⟨hl, hu⟩
  | k + 1, r, hl, hu => by
    rw [isqrtBits]
    split
    case isTrue h => exact isqrtBits_spec n k _ h (by rwa [Nat.add_assoc, ← Nat.two_mul, ← Nat.pow_succ'])
    case isFalse h => exact isqrtBits_spec n k r hl (not_le.1 h)

theorem isqrt_eq_sqrt (n : Nat) : isqrt n = Nat.sqrt n := by
  have hbound : n < (0 + 2 ^ (bitLen n / 2 + 1)) * (0 + 2 ^ (bitLen n / 2 + 1)) := by
    rw [Nat.zero_add, ← Nat.pow_add]
    exact (lt_two_pow_bitLen n).trans_le (Nat.pow_le_pow_right (by decide) (by omega))
  exact Nat.eq_sqrt.2 (isqrtBits_spec n _ 0 (Nat.zero_le _) hbound)

section
variable {f : Fmt} {z : Bool} {r : RMode} {a : Nat} {n : Bool} {m : Nat} {e : Int}

/-- A result that is exact or truncated, rounded once with the remark which it is. -/
def Fmt.RoundedOnce (f : Fmt) (z : Bool) (r : RMode) (t : Trans) (a : Nat) (neg : Bool) (q : Nat) (h : Int) (exact : Prop) : Prop :=
  ∃ sticky : Bool, f.trans z r t a = f.flush z (f.finish r false neg q h sticky).1 ∧ (sticky = false ↔ exact) ∧ 2 ^ 64 ≤ q

theorem Fmt.roundedOnce_of {t : Trans} {x : FNum} {q : Nat} {h : Int} {P Q : Prop} [Decidable P] (hx : f.input z a = x)
    (ht : t.eval x = if P then .num (.fin n q h) else .trunc n q h) (hPQ : P ↔ Q) (hq : 2 ^ 64 ≤ q) : f.RoundedOnce z r t a n q h Q := by
  by_cases hP : P
  · rw [if_pos hP] at ht
    exact ⟨false, Fmt.trans_num hx ht, iff_of_true rfl (hPQ.1 hP), hq⟩
  · rw [if_neg hP] at ht
    exact ⟨true, Fmt.trans_trunc hx ht, iff_of_false Bool.noConfusion (mt hPQ.2 hP), hq⟩

theorem Fmt.rcp_spec (hx : f.input z a = .fin n m e) (hm : m ≠ 0) :
    ∃ q k : Nat, f.RoundedOnce z r .rcp a n q (-e - (k : Int)) (q * m = 2 ^ k) ∧ q * m ≤ 2 ^ k ∧ 2 ^ k < (q + 1) * m := by
  have hpos := Nat.pos_of_ne_zero hm
  have hquot : 2 ^ 64 ≤ 2 ^ (bitLen m + 64) / m := by
    rw [Nat.le_div_iff_mul_le hpos, Nat.pow_add, Nat.mul_comm]
    exact Nat.mul_le_mul_right _ (lt_two_pow_bitLen m).le
  have heval := Trans.eval_fin (n := n) (e := e) .rcp hm
  simp only [rcpFin] at heval
  generalize bitLen m + 64 = k at *
  exact ⟨2 ^ k / m, k, Fmt.roundedOnce_of hx heval ⟨fun h => Nat.div_mul_cancel (Nat.dvd_of_mod_eq_zero h), fun h => Nat.mod_eq_zero_of_dvd (Dvd.intro_left _ h)⟩ hquot,
    Nat.div_mul_le_self .., Nat.lt_mul_of_div_lt (Nat.lt_succ_self _) hpos⟩

/-- The integer square root lies between two squares. -/
theorem isqrt_bounds (k : Nat) : isqrt k * isqrt k ≤ k ∧ k < (isqrt k + 1) * (isqrt k + 1) := by
  rw [isqrt_eq_sqrt]
  exact ⟨Nat.sqrt_le k, Nat.lt_succ_sqrt k⟩

theorem le_isqrt {q k : Nat} (h : q * q ≤ k) : q ≤ isqrt k := by
  rw [isqrt_eq_sqrt]
  exact Nat.le_sqrt.2 h

theorem Fmt.sqrt_spec (hx : f.input z a = .fin false m e) (hm : m ≠ 0) :
    ∃ (q : Nat) (h : Int) (d : Nat), f.RoundedOnce z r .sqrt a false q h (q * q = m * 2 ^ d) ∧ e - 2 * h = (d : Int) ∧
      q * q ≤ m * 2 ^ d ∧ m * 2 ^ d < (q + 1) * (q + 1) := by
  have heval := Trans.eval_fin (n := false) (e := e) .sqrt hm
  simp only [sqrtFin, Bool.false_eq_true, if_false] at heval
  obtain ⟨d, h, hd, hradicand, hexp, hh⟩ : ∃ (d : Nat) (h : Int), 128 ≤ d ∧ (if e % 2 = 0 then m else 2 * m) * 2 ^ 128 = m * 2 ^ d ∧
      e - 2 * h = (d : Int) ∧ (if e % 2 = 0 then e else e - 1) / 2 - 64 = h := by
    split
    case isTrue => exact ⟨128, _, le_rfl, rfl, by omega, rfl⟩
    case isFalse => exact ⟨129, _, by decide, by rw [Nat.mul_comm 2 m, Nat.mul_assoc, ← Nat.pow_succ'], by omega, rfl⟩
  rw [hradicand, hh] at heval
  obtain ⟨hl, hu⟩ := isqrt_bounds (m * 2 ^ d)
  have hbig : 2 ^ 64 * 2 ^ 64 ≤ m * 2 ^ d := by
    rw [← Nat.pow_add]
    exact (Nat.pow_le_pow_right (by decide) hd).trans (Nat.le_mul_of_pos_left _ (Nat.pos_of_ne_zero hm))
  exact ⟨_, h, d, Fmt.roundedOnce_of hx heval Iff.rfl (le_isqrt hbig), hexp, hl, hu⟩

theorem Fmt.rsq_spec (hx : f.input z a = .fin false m e) (hm : m ≠ 0) :
    ∃ (q : Nat) (h : Int) (d : Nat), f.RoundedOnce z r .rsq a false q h (q * q * m = 2 ^ d) ∧ -e - 2 * h = (d : Int) ∧
      q * q * m ≤ 2 ^ d ∧ 2 ^ d < (q + 1) * (q + 1) * m := by
  have heval := Trans.eval_fin (n := false) (e := e) .rsq hm
  simp only [rsqFin, Bool.false_eq_true, if_false] at heval
  -- the radicand is `m` or `2 m`, whichever makes its exponent even
  obtain ⟨i, hi, hrad, hexp⟩ : ∃ i : Nat, i ≤ 1 ∧ (if e % 2 = 0 then m else 2 * m) = 2 ^ i * m ∧ (if e % 2 = 0 then e else e - 1) / 2 * 2 = e - i := by
    split
    case isTrue => exact ⟨0, by decide, (Nat.one_mul m).symm, by omega⟩
    case isFalse => exact ⟨1, le_rfl, rfl, by omega⟩
  rw [hrad] at heval
  have hpos : 0 < 2 ^ i * m := Nat.mul_pos (Nat.two_pow_pos _) (Nat.pos_of_ne_zero hm)
  have hlen := lt_two_pow_bitLen (2 ^ i * m)
  generalize hk : bitLen (2 ^ i * m) + 64 = k at heval
  generalize (if e % 2 = 0 then e else e - 1) / 2 = h at heval hexp
  have hsplit : 2 ^ (2 * k) = 2 ^ i * 2 ^ (2 * k - i) := by rw [← Nat.pow_add]; congr 1; omega
  obtain ⟨hl, hu⟩ := isqrt_bounds (2 ^ (2 * k) / (2 ^ i * m))
  have hbig : 2 ^ 64 * 2 ^ 64 ≤ 2 ^ (2 * k) / (2 ^ i * m) := by
    rw [Nat.le_div_iff_mul_le hpos, ← Nat.pow_add]
    calc 2 ^ 128 * (2 ^ i * m) ≤ 2 ^ 128 * 2 ^ bitLen (2 ^ i * m) := Nat.mul_le_mul_left _ hlen.le
      _ = 2 ^ (128 + bitLen (2 ^ i * m)) := (Nat.pow_add ..).symm
      _ ≤ 2 ^ (2 * k) := Nat.pow_le_pow_right (by decide) (by omega)
  have hge := le_isqrt hbig
  generalize isqrt (2 ^ (2 * k) / (2 ^ i * m)) = q at heval hl hu hge
  rw [Nat.le_div_iff_mul_le hpos, hsplit, Nat.mul_left_comm] at hl
  rw [Nat.div_lt_iff_lt_mul hpos, hsplit, Nat.mul_left_comm] at hu
  rw [hsplit, Nat.mul_left_comm] at heval
  exact ⟨q, -h - k, 2 * k - i, Fmt.roundedOnce_of hx heval (Nat.mul_right_inj (Nat.two_pow_pos _).ne') hge, by omega,
    Nat.le_of_mul_le_mul_left hl (Nat.two_pow_pos _), Nat.lt_of_mul_lt_mul_left hu⟩

end

end Sys2Proof.Machine
end

section
/-! O22, the floating vector words and the compares (R93, R135, R139, R142, R143). -/

namespace Sys2Proof.Machine

/-! ### Words that write each lane of ACTIVE (R133) -/

section
variable {i : Instr} {s : State} {c : Clause} (h : Issues i s c)
include h

theorem Issues.vec_out (vd : BitVec 8) (r : Group → Nat → W32) : vecOp i.info vd r s = .next (s.past c (s.vecOut i vd (r s.cur.issuing))) :=
  h.once_out (congrArg Eff.done (State.setCur_setCur ..))

/-- A word that only changes registers of its group. -/
theorem Issues.group_out (k : Group → Group) :
    issue i.info never never (whenActive i.info (onGroup k)) s = .next (s.past c (s.onceOut i (k s.cur.issuing))) :=
  h.once_out (congrArg Eff.done (State.setCur_setCur ..))

end

/-- A word that passes its checks has no reserved value and no must-be-zero field set (R101). -/
theorem valid_of_checkWord {i : Info} {g : Group} {c : Clause} (h : checkWord i g c = none) : i.mbz = true ∧ i.valid = true := by
  unfold checkWord at h
  grind

/-! ### The masks of the compares (R143) -/

theorem getLsbD_oneShift (k l : Nat) : (1#32 <<< k).getLsbD l = decide (l < 32 ∧ l = k) := by
  rw [Bool.eq_iff_iff, BitVec.getLsbD_shiftLeft]
  simp
  omega

theorem laneSet_foldl_getLsbD (ls : List Nat) (m : Lanes) (l : Nat) :
    (ls.foldl (fun m l => m ||| (1#32 <<< l)) m).getLsbD l = (m.getLsbD l || decide (l < 32 ∧ l ∈ ls)) := by
  induction ls generalizing m with
  | nil => simp
  | cons k ls ih =>
    rw [List.foldl_cons, ih, BitVec.getLsbD_or, getLsbD_oneShift, Bool.or_assoc, ← Bool.decide_or]
    simp only [← and_or_left, List.mem_cons]

theorem laneSet_getLsbD (ls : List Nat) (l : Nat) : (laneSet ls).getLsbD l = decide (l < 32 ∧ l ∈ ls) :=
  (laneSet_foldl_getLsbD ls 0 l).trans (by simp)

/-- The bits of the lanes of ACTIVE are replaced by a condition, the others kept. -/
theorem Issues.cmp_out {i : Instr} {s : State} {c : Clause} (h : Issues i s c) {vd : BitVec 8} {k : Group → Nat → Bool} {holds : Nat → Prop}
    (hk : ∀ l, k s.cur.issuing l = true ↔ holds l) :
    ∃ m : W32, cmpOp i.info vd k s = .next (s.past c (s.onceOut i (s.cur.issuing.ws vd.toNat m))) ∧
      ∀ l, l < 32 → ((s.activeOf i).getLsbD l = false → m.getLsbD l = (s.cur.rs vd.toNat).getLsbD l) ∧
        ((s.activeOf i).getLsbD l = true → (m.getLsbD l = true ↔ holds l)) := by
  refine ⟨_, h.group_out _, fun l hl => ?_⟩
  have hact : s.cur.issuing.active' i.info.pred = s.activeOf i := rfl
  have hmem : (laneSet ((lanesOf (s.activeOf i)).filter (k s.cur.issuing))).getLsbD l = ((s.activeOf i).getLsbD l && k s.cur.issuing l) := by
    rw [laneSet_getLsbD, Bool.eq_iff_iff]
    simp [mem_lanesOf, inSet, hl]
  rw [BitVec.getLsbD_or, BitVec.getLsbD_and, BitVec.getLsbD_not, hact, hmem, Group.issuing_rs]
  refine ⟨fun ha => ?_, fun ha => ?_⟩
  · simp only [ha, hl, decide_true, Bool.not_false, Bool.and_true, Bool.false_and, Bool.or_false]
  · simp only [ha, Bool.not_true, Bool.and_false, Bool.true_and, Bool.false_or, hk]

/-! ### VCMP (R143) -/

theorem laneInt_eq (ty : BitVec 4) (x : W32) : laneInt ty x = if ty.toNat < 4 then x.toInt else (x.toNat : Int) := by
  simp only [laneInt, elemInt, tySigned, BitVec.toInt_eq_toNat_cond, Bool.and_eq_true, decide_eq_true_eq]
  split_ifs <;> omega

theorem vcmpHolds_iff {m : Nat} (hm : m % 8 ≤ 5) (p q : Int) : vcmpHolds m p q = true ↔
    (m % 8 = 0 ∧ p = q) ∨ (m % 8 = 1 ∧ p ≠ q) ∨ (m % 8 = 2 ∧ p < q) ∨ (m % 8 = 3 ∧ p ≥ q) ∨ (m % 8 = 4 ∧ p ≤ q) ∨ (m % 8 = 5 ∧ p > q) := by
  unfold vcmpHolds
  generalize m % 8 = n at *
  interval_cases n <;> simp

/-- The condition over the lanes' values, signed or unsigned as TY says. -/
theorem vcmpHolds_laneInt {m : Nat} (hm : m % 8 ≤ 5) (ty : BitVec 4) (x y : W32) :
    let p : Int := if ty.toNat < 4 then x.toInt else x.toNat
    let q : Int := if ty.toNat < 4 then y.toInt else y.toNat
    vcmpHolds m (laneInt ty x) (laneInt ty y) = true ↔
      (m % 8 = 0 ∧ p = q) ∨ (m % 8 = 1 ∧ p ≠ q) ∨ (m % 8 = 2 ∧ p < q) ∨ (m % 8 = 3 ∧ p ≥ q) ∨ (m % 8 = 4 ∧ p ≤ q) ∨ (m % 8 = 5 ∧ p > q) := by
  rw [laneInt_eq, laneInt_eq]
  exact vcmpHolds_iff hm _ _

theorem vcmp_condition {f : FV} {s : State} {c : Clause} (h : Issues (.vcmp f) s c) : f.mod.toNat % 8 ≤ 5 := by
  have hv : (decide (f.ty.toNat ∈ [2, 6]) && decide (f.mod.toNat ≤ 5)) = true := (valid_of_checkWord h.checks).2
  simp only [Bool.and_eq_true, decide_eq_true_eq] at hv
  omega

theorem vcmpImm_condition {f : FVI} {s : State} {c : Clause} (h : Issues (.vcmpImm f) s c) : f.mod.toNat % 8 ≤ 5 := by
  obtain ⟨hz, hv⟩ := valid_of_checkWord h.checks
  have hz : (true && decide (8 ≤ f.mod.toNat) && namesScalar f.vd) = true := hz
  have hv : (decide (f.ty.toNat ∈ [2, 6]) && decide (f.mod.toNat ≤ 13)) = true := hv
  simp only [Bool.and_eq_true, decide_eq_true_eq] at hz hv
  omega

/-! ### VFCMP (R143) -/

/-- The order of an encoding that is no NaN: its magnitude with its sign. -/
def signedOrd (neg : Bool) (mag : Nat) : Int := if neg then -(mag : Int) else mag

section
variable {f : Fmt} {n1 n2 : Bool} {a b : Nat}

/-- Two finite values compare as their encodings do. -/
theorem Fmt.signedSum_neg_iff : signedSum n1 (f.sig a) (f.expo a) (!n2) (f.sig b) (f.expo b) < 0 ↔ signedOrd n1 a < signedOrd n2 b := by
  have hscale : ∀ x, min (f.expo a) (f.expo b) ≤ f.expo x → f.mult x =
      f.sig x * 2 ^ (f.expo x - min (f.expo a) (f.expo b)).toNat * 2 ^ (min (f.expo a) (f.expo b) - f.qmin).toNat := fun x hx => by
    rw [Fmt.mult, Nat.mul_assoc, ← Nat.pow_add]
    congr 2
    unfold Fmt.expo at *
    omega
  have hA := hscale a (min_le_left ..)
  have hB := hscale b (min_le_right ..)
  unfold signedSum signedOrd
  generalize f.sig a * 2 ^ (f.expo a - min (f.expo a) (f.expo b)).toNat = A at *
  generalize f.sig b * 2 ^ (f.expo b - min (f.expo a) (f.expo b)).toNat = B at *
  have hpos := Nat.two_pow_pos (min (f.expo a) (f.expo b) - f.qmin).toNat
  have hlt : A < B ↔ a < b := by rw [← (Fmt.mult_strictMono (f := f)).lt_iff_lt (a := a), hA, hB, Nat.mul_lt_mul_right hpos]
  have hgt : B < A ↔ b < a := by rw [← (Fmt.mult_strictMono (f := f)).lt_iff_lt (a := b), hA, hB, Nat.mul_lt_mul_right hpos]
  have hzero : ∀ x, f.mult x = 0 ↔ x = 0 := fun x => by
    rw [Fmt.mult, Nat.mul_eq_zero, or_iff_left (Nat.two_pow_pos _).ne', Fmt.sig_eq_zero_iff]
  have hA0 : A = 0 ↔ a = 0 := by rw [← hzero a, hA, Nat.mul_eq_zero, or_iff_left hpos.ne']
  have hB0 : B = 0 ↔ b = 0 := by rw [← hzero b, hB, Nat.mul_eq_zero, or_iff_left hpos.ne']
  cases n1 <;> cases n2 <;> simp <;> omega

variable (hf : f.Ieee)
include hf

theorem Fmt.Ieee.infEnc_eq : f.infEnc = f.maxEnc + 1 := by
  have hn := hf.normal
  have hi := hf.inf
  have hpos := Nat.two_pow_pos f.mb
  simp only [Fmt.maxEnc, hf.ieee, if_true, Fmt.infEnc] at hi ⊢
  omega

theorem Fmt.Ieee.decode_inf : f.decode (f.signed n1 f.infEnc) = .inf n1 := by
  rw [Fmt.decode_special hf.normal hf.top (hf.infEnc_eq ▸ Nat.lt_succ_self _), if_pos ⟨hf.ieee, rfl⟩]

theorem Fmt.Ieee.decode_nan_iff (ha : a < 2 ^ (f.eb + f.mb)) : f.decode (f.signed n1 a) = .nan ↔ f.infEnc < a := by
  have hinf := hf.infEnc_eq
  by_cases hm : a ≤ f.maxEnc
  · rw [Fmt.decode_finite hf.normal ha hm]
    exact iff_of_false FNum.noConfusion (by omega)
  · rw [Fmt.decode_special hf.normal ha (not_le.1 hm)]
    split
    case isTrue h => exact iff_of_false FNum.noConfusion (by omega)
    case isFalse h =>
      have hne : a ≠ f.infEnc := fun e => h ⟨hf.ieee, e⟩
      exact iff_of_true rfl (by omega)

/-- The ordered comparison of two encodings that are no NaN. -/
theorem Fmt.Ieee.ltNum_decode (ha : a ≤ f.infEnc) (hb : b ≤ f.infEnc) :
    ltNum (f.decode (f.signed n1 a)) (f.decode (f.signed n2 b)) = decide (signedOrd n1 a < signedOrd n2 b) := by
  have hinf := hf.infEnc_eq
  have hcase : ∀ {n x}, x ≤ f.infEnc → (x = f.infEnc ∧ f.decode (f.signed n x) = .inf n) ∨
      (x ≤ f.maxEnc ∧ f.decode (f.signed n x) = .fin n (f.sig x) (f.expo x)) := fun {n x} hx => by
    obtain rfl | hlt := hx.eq_or_lt
    · exact .inl ⟨rfl, hf.decode_inf⟩
    · exact .inr ⟨by omega, Fmt.decode_finite hf.normal (hlt.trans hf.top) (by omega)⟩
  obtain ⟨hxa, hda⟩ | ⟨hxa, hda⟩ := hcase (n := n1) ha <;> obtain ⟨hxb, hdb⟩ | ⟨hxb, hdb⟩ := hcase (n := n2) hb <;> rw [hda, hdb]
  · subst hxa
    cases n1 <;> cases n2 <;> simp [ltNum, ltTotal, signedOrd, hxb]
    omega
  · cases n1 <;> simp [ltNum, ltTotal, signedOrd] <;> split <;> omega
  · cases n2 <;> simp [ltNum, ltTotal, signedOrd] <;> split <;> omega
  · rw [ltNum, addExact_eq]
    exact decide_eq_decide.2 Fmt.signedSum_neg_iff

end

theorem fmtF32_ieee : fmtF32.Ieee := fmtOf_ieee (by decide) (by decide)

/-- The magnitude of an FP32 value as VFCMP compares it: a denormal is zero under FTZ. -/
def f32Mag (z : Bool) (w : W32) : Nat :=
  let n := (w.extractLsb' 0 31).toNat
  if z = true ∧ n < 2 ^ 23 then 0 else n

theorem f32Mag_lt (z : Bool) (w : W32) : f32Mag z w < 2 ^ 31 := by
  unfold f32Mag
  dsimp only
  split
  · decide
  · exact BitVec.isLt _

theorem f32_input (z : Bool) (w : W32) : fmtF32.input z w.toNat = fmtF32.decode (fmtF32.signed (w.getLsbD 31) (f32Mag z w)) := by
  have hw : w.toNat = fmtF32.signed (w.getLsbD 31) (w.extractLsb' 0 31).toNat := by
    have hlt := w.isLt
    have hsign : w.getLsbD 31 = decide (2 ^ 31 ≤ w.toNat) := by
      rw [BitVec.getLsbD, Nat.testBit_eq_decide_div_mod_eq, decide_eq_decide]
      omega
    rw [hsign, Fmt.signed, BitVec.extractLsb'_toNat, Nat.shiftRight_zero, show fmtF32.eb + fmtF32.mb = 31 from rfl]
    by_cases h : 2 ^ 31 ≤ w.toNat
    · rw [decide_eq_true h, if_pos rfl]; omega
    · rw [decide_eq_false h, if_neg Bool.false_ne_true]; omega
  rw [Fmt.input, hw, Fmt.flush_signed fmtF32_ieee.wide (w.extractLsb' 0 31).isLt]
  rfl

/-- What VFCMP decides from the order of its operands. -/
theorem vfcmpHolds_iff (m : Nat) (z : Bool) (x y : W32) :
    let p := signedOrd (x.getLsbD 31) (f32Mag z x)
    let q := signedOrd (y.getLsbD 31) (f32Mag z y)
    let un := 0x7F800000 < f32Mag z x ∨ 0x7F800000 < f32Mag z y
    vfcmpHolds m z x y = true ↔
      (m % 8 = 0 ∧ ¬ un ∧ p = q) ∨ (m % 8 = 1 ∧ (un ∨ p ≠ q)) ∨ (m % 8 = 2 ∧ ¬ un ∧ p < q) ∨ (m % 8 = 3 ∧ ¬ un ∧ p ≥ q) ∨
      (m % 8 = 4 ∧ ¬ un ∧ p ≤ q) ∨ (m % 8 = 5 ∧ ¬ un ∧ p > q) ∨ (m % 8 = 6 ∧ un) ∨ (m % 8 = 7 ∧ ¬ un) := by
  intro p q un
  have hinf : fmtF32.infEnc = 0x7F800000 := by decide
  have hnan : ∀ w, (fmtF32.input z w.toNat == .nan) = decide (0x7F800000 < f32Mag z w) := fun w => by
    rw [f32_input, ← hinf, Bool.eq_iff_iff, beq_iff_eq, decide_eq_true_iff]
    exact fmtF32_ieee.decode_nan_iff (f32Mag_lt z w)
  have hm : m % 8 < 8 := Nat.mod_lt _ (by decide)
  simp only [vfcmpHolds, hnan, ← Bool.decide_or]
  by_cases hun : un
  · rw [decide_eq_true hun]
    generalize m % 8 = n at *
    interval_cases n <;> simp [hun]
  · have hx : f32Mag z x ≤ fmtF32.infEnc := hinf ▸ not_lt.1 fun h => hun (.inl h)
    have hy : f32Mag z y ≤ fmtF32.infEnc := hinf ▸ not_lt.1 fun h => hun (.inr h)
    have hlt : ltNum (fmtF32.input z x.toNat) (fmtF32.input z y.toNat) = decide (p < q) := by
      rw [f32_input, f32_input]
      exact fmtF32_ieee.ltNum_decode hx hy
    have hgt : ltNum (fmtF32.input z y.toNat) (fmtF32.input z x.toNat) = decide (q < p) := by
      rw [f32_input, f32_input]
      exact fmtF32_ieee.ltNum_decode hy hx
    rw [decide_eq_false hun, hlt, hgt]
    generalize m % 8 = n at *
    interval_cases n <;> simp [hun]
    omega

theorem imm24Fp_eq (x : BitVec 24) : imm24Fp x = x ++ (0 : Byte) := by
  apply BitVec.eq_of_toNat_eq
  have hx := x.isLt
  have happ : (x ++ (0 : Byte)).toNat = x.toNat <<< 8 ||| 0 := BitVec.toNat_append ..
  rw [happ]
  simp [imm24Fp, Nat.shiftLeft_eq]
  omega

/-- Settles O22: every word writes what its operation gives for each lane of ACTIVE; the operations and the compares by the lemmas above. -/
theorem floatingVector : Obligations.FloatingVector := by
  unfold Obligations.FloatingVector
  refine ⟨fun s c => ?_, fun ty z r a b c hl hu => ?_, fun s c => ?_⟩
  · and_intros
    all_goals exact fun f h => h.vec_out f.vd _
  · have hf := fmtOf_ieee hl hu
    exact ⟨fun n1 m1 e1 n2 m2 e2 hx hy => ⟨hf.add_fin hx hy, hf.sub_fin hx hy, Fmt.mul_fin hx hy, fun n3 m3 e3 => hf.fma_fin hx hy,
        fun ha hb => hf.minmax_fin ha hb hx hy⟩,
      hf.nan_operand, hf.fma_nan, fun mx ha hb => hf.minmax_nan ha hb mx, fun p n m e => hf.inf_fin, fun p n m e => hf.fin_inf, fun p q => hf.inf_inf,
      fun p q n m e h => hf.fma_inf (mulNum_inf h) n, fun p n m e h hm => hf.fma_inf_zero (mulNum_inf_zero h hm),
      fun p n1 m1 e1 n2 m2 e2 => hf.fma_fin_inf, fun p ha hb => hf.minmax_inf ha hb p,
      fun n m e hx ha => ⟨hf.rnd_integer hx ha, fun he => ⟨_, Fmt.rnd_of_fraction hx he, roundInt_spec he⟩⟩,
      fun n => hf.functions_inf, hf.functions_nan, fun n e => hf.functions_zero, fun m e => hf.functions_negative, fun k e => Fmt.log2_two_pow,
      fun n m e => hf.sin_zero, fun n m e => hf.cos_zero, fun n m e => Fmt.rcp_spec, fun m e => Fmt.sqrt_spec, fun m e => Fmt.rsq_spec⟩
  · exact ⟨fun f h => h.cmp_out fun l => vcmpHolds_laneInt (vcmp_condition h) f.ty _ _,
      fun f h => h.cmp_out fun l => vcmpHolds_laneInt (vcmpImm_condition h) f.ty _ _,
      fun f h => h.cmp_out fun l => vfcmpHolds_iff f.mod.toNat _ _ _,
      fun f h => h.cmp_out fun l => imm24Fp_eq f.imm ▸ vfcmpHolds_iff f.mod.toNat _ _ (imm24Fp f.imm)⟩

end Sys2Proof.Machine
end

section
/-! O23, the lane operations, scans and reductions (R81, R133, R151 to R153, R155, R156). -/

namespace Sys2Proof.Machine

/-! ### Words with poison of their own, and words that count calls (R81, R133, R136) -/

section
variable {i : Instr} {s : State} {c : Clause} {poison : State → Group → Bool} (h : Issues i s c) (hq : poison s s.cur = false)
include h hq

theorem Issues.own_out {eff : State → Group → Eff} {g : Group}
    (he : s.activeOf i ≠ 0 → eff (s.setCur s.cur.issuing) s.cur.issuing = .done (s.setCur g)) :
    issue i.info never poison (whenActive i.info eff) s = .next (s.past c (s.onceOut i g)) := by
  unfold State.onceOut
  split
  case isTrue ha => exact issue_done h.at_ h.checks h.clean rfl hq (whenActive_off ha)
  case isFalse ha =>
    have hact : s.cur.issuing.active' i.info.pred ≠ 0 := ha
    exact issue_done h.at_ h.checks h.clean rfl hq ((whenActive_on hact).trans (he ha))

/-- A word that counts its calls does so whatever ACTIVE holds (R81). -/
theorem Issues.counted_out {sr : Bool} {k : State → Group → Lanes → Eff} {g : Group}
    (he : s.activeOf i ≠ 0 → k (s.setCur s.cur.issuing) s.cur.issuing (s.activeOf i) = .done (s.setCur g)) :
    issue i.info never poison (counted i.info sr k) s = .next (s.past c (if s.activeOf i = 0 then s.cur.issuing.called sr else g)) := by
  split
  case isTrue ha => exact issue_done h.at_ h.checks h.clean rfl hq ((if_pos ha).trans (congrArg Eff.done (State.setCur_setCur ..)))
  case isFalse ha => exact issue_done h.at_ h.checks h.clean rfl hq ((if_neg ha).trans (he ha))

end

theorem Group.called_eq (g : Group) (sr : Bool) : g.called sr = { g with calls := if sr then g.calls + 1 else g.calls } := by cases sr <;> rfl

/-! ### VBCAST, VLANE and VSHFL (R152, R153) -/

theorem lowest_eq {m : Lanes} {k : Nat} (hin : m.getLsbD k = true) (hbelow : ∀ j, j < k → m.getLsbD j = false) : lowest m = k := by
  have hm : m ≠ 0 := by
    rintro rfl
    simp at hin
  obtain ⟨-, hlow, hleast⟩ := lowest_spec hm
  obtain hlt | rfl | hgt := lt_trichotomy (lowest m) k
  · exact absurd hlow (by simp [hbelow _ hlt])
  · rfl
  · exact absurd hin (by simp [hleast _ hgt])

/-- The source lane of VSHFL, where it stands inside the segment. -/
theorem shflSrc_eq (mod : BitVec 4) (l d : Nat) :
    let size := 32 / 2 ^ (mod.toNat / 4)
    let base := l / size * size
    let src : Int := if mod.toNat % 4 = 0 then base + d % size else if mod.toNat % 4 = 1 then (l : Int) - d else if mod.toNat % 4 = 2 then l + d
      else ((l ^^^ d : Nat) : Int)
    shflSrc mod l d = if src < base ∨ (base : Int) + size ≤ src then none else some src.toNat := by
  intro size base src
  have hinside : ∀ k : Nat, (if (decide (base ≤ k) && decide (k < base + size)) = true then some k else none) =
      if (k : Int) < base ∨ (base : Int) + size ≤ k then none else some (k : Int).toNat := fun k => by
    simp only [Bool.and_eq_true, decide_eq_true_eq, Int.toNat_natCast]
    by_cases hk : base ≤ k ∧ k < base + size
    · rw [if_pos hk, if_neg (by omega)]
    · rw [if_neg hk, if_pos (by omega)]
  have h4 : mod.toNat % 4 < 4 := Nat.mod_lt _ (by decide)
  simp only [shflSrc, src]
  generalize mod.toNat % 4 = n at *
  interval_cases n
  · have h := hinside (base + d % size)
    push_cast at h
    exact h
  · by_cases hd : d ≤ l
    · simpa [hd] using hinside (l - d)
    · simp [hd]; omega
  · have h := hinside (l + d)
    push_cast at h
    exact h
  · exact hinside (l ^^^ d)

theorem match_ite {α : Type} {P : Prop} [Decidable P] (k : Nat) (x : α) (r : Nat → α) :
    (match (if P then none else some k) with | none => x | some j => r j) = if P then x else r k := by
  split_ifs <;> rfl

/-- The MOD table of VLANE. -/
theorem vlane_table {α : Type} (m : BitVec 4) (x0 x1 x2 x3 x : α) : (match m.toNat with | 0 => x0 | 1 => x1 | 2 => x2 | 3 => x3 | _ => x) =
    if m = 0 then x0 else if m = 1 then x1 else if m = 2 then x2 else if m = 3 then x3 else x := by
  obtain ⟨⟨n, hn⟩⟩ := m
  interval_cases n <;> rfl

section
variable {s : State} {c : Clause}

theorem execVmovi_issues {f : FVI} (h : Issues (.vmovi f) s c) :
    execVmovi f s = .next (s.past c (s.vecOut (.vmovi f) f.vd fun _ => if f.ty.toNat < 8 then immLane f.ty f.imm else
      packElems (tyBits f.ty) fun q => (fmtOf f.ty).flush s.cur.ftz (elem (fpImmLane f.ty f.imm) (tyBits f.ty) q))) := by
  refine (h.vec_out f.vd _).trans ?_
  simp only [tyInt, decide_eq_true_eq]
  rfl

theorem execVbcast_issues {f : FV} (h : Issues (.vbcast f) s c) {k : Nat} (hk : lowest (s.activeOf (.vbcast f)) = k) :
    execVbcast f s = .next (s.past c (s.vecOut (.vbcast f) f.vd fun _ => s.cur.rl f.va.toNat k)) := by
  rw [← hk]
  exact h.vec_out f.vd _

theorem execVlane_issues {f : FV} (h : Issues (.vlane f) s c) :
    execVlane f s = .next (s.past c (s.vecOut (.vlane f) f.vd fun l =>
      if f.mod = 0 then BitVec.ofNat 32 l else if f.mod = 1 then lane s.cur.tids l
      else if f.mod = 2 then BitVec.ofNat 32 (1024 * (s.teamOf s.cur).linear) + lane s.cur.tids l
      else if f.mod = 3 then BitVec.ofNat 32 (2 ^ l - 1) else s.activeOf (.vlane f))) := by
  refine h.once_out ((congrArg Eff.done (State.setCur_setCur ..)).trans ?_)
  exact congrArg (fun r => Eff.done (s.setCur (s.cur.issuing.wv f.vd.toNat (s.activeOf (.vlane f)) r))) (funext fun l => vlane_table f.mod ..)

theorem execVshfl_issues {f : FV} (h : Issues (.vshfl f) s c) :
    execVshfl f s = .next (s.past c (s.vecOut (.vshfl f) f.vd fun l =>
      let size := 32 / 2 ^ (f.mod.toNat / 4)
      let base := l / size * size
      let d := (opB f s.cur l).toNat
      let src : Int := if f.mod.toNat % 4 = 0 then base + d % size else if f.mod.toNat % 4 = 1 then (l : Int) - d else if f.mod.toNat % 4 = 2 then l + d
        else ((l ^^^ d : Nat) : Int)
      if src < base ∨ (base : Int) + size ≤ src then s.cur.rl f.va.toNat l
      else if s.cur.exited.getLsbD src.toNat then 0 else s.cur.rl f.va.toNat src.toNat)) := by
  refine h.own_out h.own fun _ => (congrArg Eff.done (State.setCur_setCur ..)).trans ?_
  refine congrArg (fun r => Eff.done (s.setCur (s.cur.issuing.wv f.vd.toNat (s.activeOf (.vshfl f)) r))) (funext fun l => ?_)
  rw [shflSrc_eq f.mod l]
  exact match_ite _ _ _

/-- VRAND: the call counter moves whatever ACTIVE holds. -/
theorem execVrand_issues {f : FV} (h : Issues (.vrand f) s c) :
    execVrand f s = .next (s.past c (if s.activeOf (.vrand f) = 0 then { s.cur.issuing with calls := s.cur.calls + 1 }
      else { s.cur.issuing.wv f.vd.toNat (s.activeOf (.vrand f)) (fun l =>
        let r := s.random s.cur l 0
        if f.mod = 0 then r else BitVec.ofNat 32 (cvt (.fin false (r.toNat / 256) (-24)) fmtF32 .rne false).1) with calls := s.cur.calls + 1 })) :=
  h.counted_out rfl fun _ => congrArg Eff.done (State.setCur_setCur ..)

end

/-! ### Scans and reductions (R155) -/

section
variable {s : State} {c : Clause}

theorem lanesOf_filter (m : Lanes) (p : Nat → Bool) : (lanesOf m).filter p = (List.range 32).filter fun l => m.getLsbD l && p l := by
  rw [lanesOf, List.filter_filter]
  exact List.filter_congr fun l _ => Bool.and_comm ..

theorem execVscan_issues {f : FV} (h : Issues (.vscan f) s c) :
    execVscan f s = .next (s.past c (s.vecOut (.vscan f) f.vd fun l => foldLanes f (s.cur.gctl.getLsbD 1)
      (((List.range 32).filter fun m => (s.activeOf (.vscan f)).getLsbD m && (if f.mod.getLsbD 3 then decide (m < l) else decide (m ≤ l))).map
        (s.cur.rl f.va.toNat)))) := by
  refine (h.vec_out f.vd _).trans ?_
  simp only [lanesOf_filter]
  cases f.mod.getLsbD 3 <;> rfl

theorem execVreduce_issues {f : FV} (h : Issues (.vreduce f) s c) :
    execVreduce f s = .next (s.past c (s.onceOut (.vreduce f) (s.cur.issuing.ws f.vd.toNat (foldLanes f (s.cur.gctl.getLsbD 1)
      (((List.range 32).filter fun m => (s.activeOf (.vreduce f)).getLsbD m).map (s.cur.rl f.va.toNat)))))) :=
  h.group_out _

/-- The types of the fold: FP32 for `.fadd`, and else 32-bit integers. -/
theorem fold_types {f : FV} (h : Issues (.vscan f) s c ∨ Issues (.vreduce f) s c) :
    (f.mod.toNat % 8 = 6 ∧ f.ty = 8) ∨ (f.mod.toNat % 8 < 6 ∧ (f.ty = 2 ∨ f.ty = 6)) := by
  have hv : (f.mod.toNat % 8 != 7 && (if f.mod.toNat % 8 == 6 then f.ty == 8 else decide (f.ty.toNat ∈ [2, 6]))) = true :=
    h.elim (fun h => (valid_of_checkWord h.checks).2) (fun h => (valid_of_checkWord h.checks).2)
  have hty : f.ty.toNat ∈ [2, 6] ↔ f.ty = 2 ∨ f.ty = 6 := by simp [← BitVec.toNat_inj]
  have hlt := Nat.mod_lt f.mod.toNat (show 0 < 8 by decide)
  by_cases h6 : f.mod.toNat % 8 = 6
  · simp only [h6, beq_self_eq_true, if_true, Bool.and_eq_true, beq_iff_eq] at hv
    exact .inl ⟨h6, hv.2⟩
  · simp only [beq_false_of_ne h6, Bool.false_eq_true, if_false, Bool.and_eq_true, bne_iff_ne, decide_eq_true_eq, hty] at hv
    exact .inr ⟨by omega, hv.2⟩

end

theorem foldLanes_snoc (f : FV) (z : Bool) (x y : W32) (l : List W32) : foldLanes f z (x :: l ++ [y]) = foldStep f z (foldLanes f z (x :: l)) y := by
  rw [List.cons_append, foldLanes, foldLanes, List.foldl_append]
  rfl

theorem ofNat_wrapBits (v : Int) : BitVec.ofNat 32 (wrapBits 32 v) = BitVec.ofInt 32 v := by
  apply BitVec.eq_of_toNat_eq
  have h0 : 0 ≤ v % 2 ^ 32 := Int.emod_nonneg _ (by decide)
  have h1 : v % 2 ^ 32 < 2 ^ 32 := Int.emod_lt_of_pos _ (by decide)
  rw [BitVec.toNat_ofNat, BitVec.toNat_ofInt, wrapBits, Nat.mod_eq_of_lt (by omega)]
  rfl

section
variable {f : FV} {z : Bool} {x y : W32}

theorem laneInt_signed (ht : f.ty = 2) : laneInt f.ty x = x.toInt := by rw [laneInt_eq, if_pos (by rw [ht]; decide)]
theorem laneInt_unsigned (ht : f.ty = 6) : laneInt f.ty x = x.toNat := by rw [laneInt_eq, if_neg (by rw [ht]; decide)]

theorem foldStep_add (hm : f.mod.toNat % 8 = 0) : foldStep f z x y = BitVec.ofNat 32 (narrow f.ty f.sat (laneInt f.ty x + laneInt f.ty y)) := by
  simp only [foldStep, hm]

theorem foldStep_wrap (hm : f.mod.toNat % 8 = 0) (hs : f.sat = false) (ht : f.ty = 2 ∨ f.ty = 6) : foldStep f z x y = x + y := by
  have hw : tyBits f.ty = 32 := by obtain h | h := ht <;> rw [h] <;> rfl
  simp only [foldStep_add hm, narrow, hs, hw, Bool.false_eq_true, if_false, ofNat_wrapBits, BitVec.ofInt_add]
  obtain h | h := ht
  · simp only [laneInt_signed h, BitVec.ofInt_toInt]
  · simp only [laneInt_unsigned h, BitVec.ofInt_natCast, BitVec.ofNat_toNat, BitVec.setWidth_eq]

theorem foldStep_saturate_signed (hm : f.mod.toNat % 8 = 0) (hs : f.sat = true) (ht : f.ty = 2) :
    foldStep f z x y = BitVec.ofInt 32 (max (-(2 ^ 31)) (min (2 ^ 31 - 1) (x.toInt + y.toInt))) := by
  have hw : tyBits f.ty = 32 := by rw [ht]; rfl
  have hlo : tyLo f.ty = -(2 ^ 31) := by rw [ht]; rfl
  have hhi : tyHi f.ty = 2 ^ 31 - 1 := by rw [ht]; rfl
  simp only [foldStep_add hm, narrow, hs, hw, if_true, ofNat_wrapBits, laneInt_signed ht, hlo, hhi]

theorem foldStep_saturate_unsigned (hm : f.mod.toNat % 8 = 0) (hs : f.sat = true) (ht : f.ty = 6) :
    foldStep f z x y = BitVec.ofNat 32 (min (2 ^ 32 - 1) (x.toNat + y.toNat)) := by
  have hw : tyBits f.ty = 32 := by rw [ht]; rfl
  have hlo : tyLo f.ty = 0 := by rw [ht]; rfl
  have hhi : tyHi f.ty = 2 ^ 32 - 1 := by rw [ht]; rfl
  have hclamp : max (0 : Int) (min (2 ^ 32 - 1) ((x.toNat : Int) + y.toNat)) = (min (2 ^ 32 - 1) (x.toNat + y.toNat) : Nat) := by omega
  simp only [foldStep_add hm, narrow, hs, hw, if_true, ofNat_wrapBits, laneInt_unsigned ht, hlo, hhi, hclamp, BitVec.ofInt_natCast]

theorem foldStep_min (hm : f.mod.toNat % 8 = 1) : foldStep f z x y = if laneInt f.ty y < laneInt f.ty x then y else x := by simp only [foldStep, hm]
theorem foldStep_max (hm : f.mod.toNat % 8 = 2) : foldStep f z x y = if laneInt f.ty x < laneInt f.ty y then y else x := by simp only [foldStep, hm]
theorem foldStep_and (hm : f.mod.toNat % 8 = 3) : foldStep f z x y = x &&& y := by simp only [foldStep, hm]
theorem foldStep_or (hm : f.mod.toNat % 8 = 4) : foldStep f z x y = x ||| y := by simp only [foldStep, hm]
theorem foldStep_xor (hm : f.mod.toNat % 8 = 5) : foldStep f z x y = x ^^^ y := by simp only [foldStep, hm]
theorem foldStep_fadd (hm : f.mod.toNat % 8 = 6) : foldStep f z x y = BitVec.ofNat 32 (fmtF32.add z (rmOf f.rm) x.toNat y.toNat) := by
  simp only [foldStep, hm]

theorem foldEmpty_zero (hm : f.mod.toNat % 8 ∈ [0, 4, 5]) : foldEmpty f = 0 := by
  simp only [List.mem_cons, List.not_mem_nil, or_false] at hm
  obtain h | h | h := hm <;> simp only [foldEmpty, h]

theorem foldEmpty_min (hm : f.mod.toNat % 8 = 1) : foldEmpty f = BitVec.ofInt 32 (tyHi f.ty) := by simp only [foldEmpty, hm]
theorem foldEmpty_max (hm : f.mod.toNat % 8 = 2) : foldEmpty f = BitVec.ofInt 32 (tyLo f.ty) := by simp only [foldEmpty, hm]
theorem foldEmpty_and (hm : f.mod.toNat % 8 = 3) : foldEmpty f = 0xFFFFFFFF := by simp only [foldEmpty, hm]
theorem foldEmpty_fadd (hm : f.mod.toNat % 8 = 6) : foldEmpty f = 0x80000000 := by simp only [foldEmpty, hm]

end

/-- Settles O23: the lemma of each word, and the tables of a fold. -/
theorem lanesAndScans : Obligations.LanesAndScans := by
  unfold Obligations.LanesAndScans
  refine ⟨fun s c => ⟨fun f => execVmovi_issues, fun f h k _ hin hbelow => execVbcast_issues h (lowest_eq hin hbelow), fun f h => h.once_off,
      fun f => execVlane_issues, fun f => execVshfl_issues, fun f => execVrand_issues⟩,
    fun s c => ⟨fun f => execVscan_issues, fun f => execVreduce_issues, fun f z x y l => ⟨rfl, foldLanes_snoc f z x y l⟩,
      fun f z x y => ⟨foldStep_wrap, foldStep_and, foldStep_or, foldStep_xor, fun hm ht => ?_, fun hm ht => ?_, fun hm ht => ?_, fun hm ht => ?_,
        foldStep_saturate_signed, foldStep_saturate_unsigned, foldStep_fadd⟩,
      fun f z => ⟨foldEmpty_zero, foldEmpty_and, foldEmpty_fadd, fun hm => ⟨fun ht => ?_, fun ht => ?_⟩, fun hm => ⟨fun ht => ?_, fun ht => ?_⟩⟩,
      fun f => fold_types⟩⟩
  · rw [foldStep_min hm, laneInt_signed ht, laneInt_signed ht]
  · rw [foldStep_max hm, laneInt_signed ht, laneInt_signed ht]
  · simp only [foldStep_min hm, laneInt_unsigned ht, Nat.cast_lt]
  · simp only [foldStep_max hm, laneInt_unsigned ht, Nat.cast_lt]
  · exact (foldEmpty_min hm).trans (by rw [ht]; rfl)
  · exact (foldEmpty_min hm).trans (by rw [ht]; rfl)
  · exact (foldEmpty_max hm).trans (by rw [ht]; rfl)
  · exact (foldEmpty_max hm).trans (by rw [ht]; rfl)

end Sys2Proof.Machine
end

section
/-! O25, the conversions, packing, block requantise, XMOV and XSET (R70, R71, R78, R81, R133, R145 to R150). -/

namespace Sys2Proof.Machine

/-! ### The elements of a lane (R134, R147) -/

/-- The number that packed elements make. -/
def packSum (w : Nat) (x : Nat → Nat) (n : Nat) : Nat := (List.range n).foldl (fun a q => a + x q % 2 ^ w * 2 ^ (w * q)) 0

theorem packSum_succ (w : Nat) (x : Nat → Nat) (n : Nat) : packSum w x (n + 1) = packSum w x n + x n % 2 ^ w * 2 ^ (w * n) := by
  rw [packSum, List.range_succ, List.foldl_append]
  rfl

theorem packSum_lt (w : Nat) (x : Nat → Nat) (n : Nat) : packSum w x n < 2 ^ (w * n) := by
  induction n with
  | zero => exact Nat.one_pos
  | succ n ih =>
    have hx := Nat.mod_lt (x n) (Nat.two_pow_pos w)
    have hstep := Nat.mul_le_mul_right (2 ^ (w * n)) (Nat.succ_le_of_lt hx)
    rw [Nat.succ_mul] at hstep
    rw [packSum_succ, Nat.mul_succ, Nat.add_comm (w * n), Nat.pow_add]
    omega

theorem packSum_elem (w : Nat) (x : Nat → Nat) {n q : Nat} (hq : q < n) : packSum w x n / 2 ^ (w * q) % 2 ^ w = x q % 2 ^ w := by
  induction n with
  | zero => exact absurd hq (Nat.not_lt_zero _)
  | succ n ih =>
    rw [packSum_succ]
    obtain hlt | rfl := (Nat.lt_succ_iff.1 hq).lt_or_eq
    · obtain ⟨k, rfl⟩ := Nat.exists_eq_add_of_lt hlt
      have hpow : 2 ^ (w * (q + k + 1)) = 2 ^ (w * q) * (2 ^ w * 2 ^ (w * k)) := by ring
      rw [hpow, Nat.mul_left_comm, Nat.add_mul_div_left _ _ (Nat.two_pow_pos _), Nat.mul_left_comm, Nat.add_mul_mod_self_left, ih hlt]
    · rw [Nat.mul_comm _ (2 ^ (w * q)), Nat.add_mul_div_left _ _ (Nat.two_pow_pos _), Nat.div_eq_of_lt (packSum_lt ..), Nat.zero_add, Nat.mod_mod]

/-- An element of a packed lane. -/
theorem packElems_extract {w q : Nat} (x : Nat → Nat) (hq : q < 32 / w) : ((packElems w x).extractLsb' (w * q) w).toNat = x q % 2 ^ w := by
  have hlt : packSum w x (32 / w) < 2 ^ 32 := (packSum_lt ..).trans_le (Nat.pow_le_pow_right (by decide) (Nat.mul_div_le 32 w))
  have hnat : (packElems w x).toNat = packSum w x (32 / w) := Nat.mod_eq_of_lt hlt
  rw [BitVec.extractLsb'_toNat, Nat.shiftRight_eq_div_pow, hnat, packSum_elem w x hq]

theorem elem_eq_extract (x : W32) (w q : Nat) : elem x w q = (x.extractLsb' (w * q) w).toNat := by
  rw [BitVec.extractLsb'_toNat, Nat.shiftRight_eq_div_pow, elem]

theorem packCount_fills (t : BitVec 4) : 32 / (32 / packCount t) = packCount t ∧ 0 < packCount t ∧ packCount t ≤ 8 := by
  revert t
  decide

/-! ### The blocks with a lane of ACTIVE (R147, R149) -/

section
variable {n : Nat} {act : Lanes}

theorem block_lt {l : Nat} (hn : 0 < n) (hl : l < 32) : n * l / 32 < n :=
  Nat.div_lt_of_lt_mul (by rw [Nat.mul_comm 32]; exact Nat.mul_lt_mul_of_pos_left hl hn)

theorem lanesOf_any (p : Nat → Bool) : (lanesOf act).any p = (List.range 32).any fun l => act.getLsbD l && p l := List.any_filter

theorem blocksOf_eq : blocksOf n act = (List.range n).filter fun j => (List.range 32).any fun l => act.getLsbD l && n * l / 32 == j := by
  simp only [blocksOf, lanesOf_any, blockOf]

theorem mem_blocksOf {j : Nat} : j ∈ blocksOf n act ↔ j < n ∧ ∃ l, l < 32 ∧ act.getLsbD l = true ∧ n * l / 32 = j := by
  simp [blocksOf_eq, List.mem_filter]

theorem block_mem {l : Nat} (hn : 0 < n) (hl : l < 32) (ha : act.getLsbD l = true) : n * l / 32 ∈ blocksOf n act :=
  mem_blocksOf.2 ⟨block_lt hn hl, l, hl, ha, rfl⟩

theorem blocksOf_ne_nil (hn : 0 < n) (ha : act ≠ 0) : blocksOf n act ≠ [] := by
  obtain ⟨l, hl, hin⟩ := exists_lane_of_ne_zero ha
  exact List.ne_nil_of_mem (block_mem hn (List.mem_range.1 hl) hin)

theorem blocksOf_any (hn : 0 < n) (p : Nat → Bool) : (blocksOf n act).any p = (List.range 32).any fun l => act.getLsbD l && p (n * l / 32) := by
  rw [Bool.eq_iff_iff, List.any_eq_true, List.any_eq_true]
  constructor
  · rintro ⟨j, hj, hp⟩
    obtain ⟨-, l, hl, ha, rfl⟩ := mem_blocksOf.1 hj
    exact ⟨l, List.mem_range.2 hl, by rw [ha, hp]; rfl⟩
  · rintro ⟨l, hl, h⟩
    obtain ⟨ha, hp⟩ := Bool.and_eq_true_iff.1 h
    exact ⟨_, block_mem hn (List.mem_range.1 hl) ha, hp⟩

/-- Some lane of ACTIVE consumes the NaN scale. -/
theorem scaleNan_eq (g : Group) (x : Nat) (hn : 0 < n) :
    scaleNan g x n act = (List.range 32).any fun l => act.getLsbD l && (xbyte (g.rx x) (n * l / 32)).toNat == 0xFF := by
  have hbyte : ∀ b : Byte, (b == 0xFF) = (b.toNat == 0xFF) := by decide
  simp only [scaleNan, blocksOf_any hn, hbyte]

end

/-! ### VCVT (R146) -/

theorem execVcvt_issues {f : FV} {s : State} {c : Clause} (h : Issues (.vcvt f) s c) :
    let act := s.activeOf (.vcvt f)
    let r := fun (l : Nat) => vcvtValue f.ty f.mod (s.cur.gctl.getLsbD 1) (s.cvtMode s.cur f l 0) (f.vc.getLsbD 1) (s.cur.rl f.va.toNat l)
    let calls := if f.vc.getLsbD 0 then s.cur.calls + 1 else s.cur.calls
    execVcvt f s = .next (s.past c (if act = 0 then { s.cur.issuing with calls := calls } else { s.cur.issuing.wv f.vd.toNat act (fun l => (r l).1) with
      xstat := s.cur.xstat ||| (if (lanesOf act).any (fun l => (r l).2) then 4 else 0), calls := calls })) := by
  refine (h.counted_out rfl fun _ => congrArg Eff.done (State.setCur_setCur ..)).trans ?_
  rw [Group.called_eq, Group.called_eq]
  rfl

/-! ### VPACK (R147) -/

section
variable {sc trap nan : Bool}

theorem traps_on (hn : (sc && nan) = true) (ht : trap = true) : (sc && trap && nan) = true := by rw [ht, Bool.and_true, hn]

theorem traps_off (h : (sc && nan) = false ∨ trap = false) : ¬ (sc && trap && nan) = true := by
  rw [Bool.and_right_comm, Bool.and_eq_true]
  rintro ⟨hn, ht⟩
  exact h.elim (fun h => Bool.false_ne_true (h.symm.trans hn)) fun h => Bool.false_ne_true (h.symm.trans ht)

end

/-- A value that VPACK makes, with its saturation. -/
def State.packed (s : State) (f : FV) (l q : Nat) : Nat × Bool :=
  let d := fmtOf f.mod
  let sc := (xbyte (s.cur.rx f.vd.toNat) (packCount f.mod * l / 32)).toNat
  if f.vc.getLsbD 3 && sc == 0xFF then (if d.hasNan then d.nanEnc else 0, false)
  else
    let x := fmtF32.input (s.cur.gctl.getLsbD 1) (s.cur.rl (f.va.toNat + q) l).toNat
    let y := cvt (if f.vc.getLsbD 3 then scaleNum x (127 - (sc : Int)) else x) d (s.cvtMode s.cur f l q) (f.vc.getLsbD 1)
    (d.flush (s.cur.gctl.getLsbD 1) y.1, y.2)

section
variable {f : FV} {s : State} {c : Clause} (h : Issues (.vpack f) s c)
include h

theorem execVpack_off (ha : s.activeOf (.vpack f) = 0) :
    execVpack f s = .next (s.past c { s.cur.issuing with calls := if f.vc.getLsbD 0 then s.cur.calls + 1 else s.cur.calls }) := by
  refine (h.counted_out h.own (g := s.cur) fun hne => absurd ha hne).trans ?_
  rw [if_pos ha, Group.called_eq]
  rfl

/-- Under SCALETRAP a consumed NaN scale traps. -/
theorem execVpack_trap {nan : Bool} (hnan : (f.vc.getLsbD 3 && scaleNan s.cur f.vd.toNat (packCount f.mod) (s.activeOf (.vpack f))) = nan)
    (ha : s.activeOf (.vpack f) ≠ 0) (hn : nan = true) (ht : s.cur.gctl.getLsbD 0 = true) :
    execVpack f s = .next (s.trap s.who 0x05 0 (wordPc s.cur c) (resumeHere s.cur c)) := by
  exact issue_trap h.at_ h.checks h.clean rfl h.own ((if_neg ha).trans (if_pos (traps_on (hnan.trans hn) ht)))

theorem execVpack_on {nan : Bool} (hnan : (f.vc.getLsbD 3 && scaleNan s.cur f.vd.toNat (packCount f.mod) (s.activeOf (.vpack f))) = nan)
    (ha : s.activeOf (.vpack f) ≠ 0) (ht : nan = false ∨ s.cur.gctl.getLsbD 0 = false) :
    let act := s.activeOf (.vpack f)
    let n := packCount f.mod
    execVpack f s = .next (s.past c { s.cur.issuing.wv f.vd.toNat act (fun l => packElems (32 / n) fun q => (s.packed f l q).1) with
      xstat := s.cur.xstat ||| ((if (lanesOf act).any fun l => (List.range n).any fun q => (s.packed f l q).2 then 4 else 0) |||
        (if nan then 1 else 0)),
      calls := if f.vc.getLsbD 0 then s.cur.calls + 1 else s.cur.calls }) := by
  subst hnan
  refine (h.counted_out h.own fun _ => (if_neg (traps_off ht)).trans (congrArg Eff.done (State.setCur_setCur ..))).trans ?_
  rw [if_neg ha, Group.called_eq]
  rfl

end

theorem State.packed_fst (s : State) (f : FV) (l q : Nat) :
    let d := fmtOf f.mod
    let sc := (xbyte (s.cur.rx f.vd.toNat) (packCount f.mod * l / 32)).toNat
    let x := fmtF32.input (s.cur.gctl.getLsbD 1) (s.cur.rl (f.va.toNat + q) l).toNat
    let y := cvt (if f.vc.getLsbD 3 then scaleNum x (127 - (sc : Int)) else x) d (s.cvtMode s.cur f l q) (f.vc.getLsbD 1)
    (s.packed f l q).1 = (if f.vc.getLsbD 3 && sc == 0xFF then (if d.hasNan then d.nanEnc else 0) else d.flush (s.cur.gctl.getLsbD 1) y.1) ∧
      ((s.packed f l q).2 = true ↔ ¬ (f.vc.getLsbD 3 = true ∧ sc = 0xFF) ∧ y.2 = true) := by
  intro d sc x y
  unfold State.packed
  dsimp only
  split
  case isTrue hnan => exact ⟨rfl, iff_of_false Bool.noConfusion fun hno => hno.1 (by simpa using hnan)⟩
  case isFalse hnan => exact ⟨rfl, (and_iff_right (by simpa using hnan)).symm⟩

/-! ### VUNPACK (R148) -/

/-- A value that VUNPACK makes. -/
def State.unpacked (s : State) (f : FV) (q l : Nat) : Nat :=
  let n := packCount f.ty
  let d := fmtOf f.ty
  let sc := (xbyte (s.cur.rx f.va.toNat) (n * l / 32)).toNat
  let e := d.input (s.cur.gctl.getLsbD 1) (((s.cur.rl f.va.toNat l).extractLsb' (32 / n * q) (32 / n)).toNat % 2 ^ d.bits)
  if f.vc.getLsbD 3 && sc == 0xFF then fmtF32.nanEnc
  else fmtF32.flush (s.cur.gctl.getLsbD 1) (cvt (if f.vc.getLsbD 3 then scaleNum e ((sc : Int) - 127) else e) fmtF32 (rmOf f.rm) false).1

section
variable {f : FV} {s : State} {c : Clause} (h : Issues (.vunpack f) s c)
include h

theorem execVunpack_off (ha : s.activeOf (.vunpack f) = 0) : execVunpack f s = .next (s.past c s.cur.issuing) := by
  refine (h.own_out h.own (g := s.cur) fun hne => absurd ha hne).trans ?_
  rw [State.onceOut, if_pos ha]

theorem execVunpack_trap {nan : Bool} (hnan : (f.vc.getLsbD 3 && scaleNan s.cur f.va.toNat (packCount f.ty) (s.activeOf (.vunpack f))) = nan)
    (ha : s.activeOf (.vunpack f) ≠ 0) (hn : nan = true) (ht : s.cur.gctl.getLsbD 0 = true) :
    execVunpack f s = .next (s.trap s.who 0x05 0 (wordPc s.cur c) (resumeHere s.cur c)) := by
  have hact : s.cur.issuing.active' (Instr.vunpack f).info.pred ≠ 0 := ha
  exact issue_trap h.at_ h.checks h.clean rfl h.own ((whenActive_on hact).trans (if_pos (traps_on (hnan.trans hn) ht)))

theorem execVunpack_on {nan : Bool} (hnan : (f.vc.getLsbD 3 && scaleNan s.cur f.va.toNat (packCount f.ty) (s.activeOf (.vunpack f))) = nan)
    (ha : s.activeOf (.vunpack f) ≠ 0) (ht : nan = false ∨ s.cur.gctl.getLsbD 0 = false) :
    let act := s.activeOf (.vunpack f)
    let n := packCount f.ty
    execVunpack f s = .next (s.past c (((List.range n).foldl (fun g q => g.wv (f.vd.toNat + q) act fun l => BitVec.ofNat 32 (s.unpacked f q l)) s.cur.issuing).flag
      (if nan then 1 else 0))) := by
  subst hnan
  refine (h.own_out h.own fun _ => (if_neg (traps_off ht)).trans (congrArg Eff.done (State.setCur_setCur ..))).trans ?_
  rw [State.onceOut, if_neg ha]
  simp only [elem_eq_extract]
  rfl

end

/-! ### Scale bytes (R149, R150) -/

/-- A fold of byte writes leaves what no byte write changes. -/
theorem foldl_wxb_keeps {α : Type} {x : Nat} (p : Group → α) (hp : ∀ (g : Group) j b, p (g.wxb x j b false) = p g) (js : List Nat) (b : Nat → Byte)
    (g : Group) : p (js.foldl (fun h j => h.wxb x j (b j) false) g) = p g := by
  induction js generalizing g with
  | nil => rfl
  | cons j js ih => rw [List.foldl_cons, ih, hp]

theorem xbyte_foldl_wxb (js : List Nat) (hjs : ∀ j ∈ js, j < 8) (x : Nat) (b : Nat → Byte) (g : Group) {k : Nat} (hk : k < 8) :
    xbyte ((js.foldl (fun h j => h.wxb x j (b j) false) g).rx x) k = if k ∈ js then b k else xbyte (g.rx x) k := by
  induction js generalizing g with
  | nil => rfl
  | cons j js ih =>
    rw [List.foldl_cons, ih (fun i hi => hjs i (List.mem_cons_of_mem _ hi)), Group.xbyte_wxb _ _ _ _ _ _ _ (hjs j List.mem_cons_self) hk]
    by_cases hin : k ∈ js
    · rw [if_pos hin, if_pos (List.mem_cons_of_mem _ hin)]
    · by_cases hj : j = k
      · simp [hj]
      · simp [hin, hj, Ne.symm hj]

theorem rx_wxb_ne (g : Group) {n m : Nat} (hne : n ≠ m) (j : Nat) (x : Byte) (q : Bool) : (g.wxb n j x q).rx m = g.rx m :=
  tgetD_tset_ne _ _ _ hne

section
variable {g : Group} {x n : Nat} {blocks : List Nat} {r : Nat → ReqR}

theorem writeScales_keeps {α : Type} (p : Group → α) (hp : ∀ (g : Group) j b, p (g.wxb x j b false) = p g) : p (g.writeScales x n blocks r) = p g := by
  unfold Group.writeScales
  dsimp only
  split
  · exact foldl_wxb_keeps p hp _ _ _
  · rw [foldl_wxb_keeps p hp _ fun _ => 0x7F, foldl_wxb_keeps p hp]

/-- The scale bytes of the processed blocks, and 0x7F in the bytes from `n` on. -/
theorem xbyte_writeScales (hblocks : ∀ j ∈ blocks, j < n) (hne : blocks ≠ []) (hn : n ≤ 8) {k : Nat} (hk : k < 8) :
    xbyte ((g.writeScales x n blocks r).rx x) k =
      if n ≤ k then 0x7F else if k ∈ blocks then BitVec.ofNat 8 (r k).scale else xbyte (g.rx x) k := by
  rw [Group.writeScales, if_neg hne, xbyte_foldl_wxb _ (fun j hj => List.mem_range.1 (List.mem_filter.1 hj).1) x (fun _ => 0x7F) _ hk,
    xbyte_foldl_wxb _ (fun j hj => (hblocks j hj).trans_le hn) x (fun j => BitVec.ofNat 8 (r j).scale) _ hk]
  exact if_congr (by simp [hk]) rfl rfl

end

/-! ### VRQ and XMAXE (R149) -/

/-- Going on past a word leaves the registers, XSTAT and the call counter as the word's effect made them. -/
theorem State.past_registers (s : State) {c : Clause} {g : Group} (hl : g.status = .live) :
    (s.past c g).cur.v = g.v ∧ (s.past c g).cur.x = g.x ∧ (s.past c g).cur.xstat = g.xstat ∧ (s.past c g).cur.calls = g.calls := by
  by_cases h : c.idx + 1 < c.words.length
  · rw [State.past_next hl h, State.cur_setCur]
    exact ⟨rfl, rfl, rfl, rfl⟩
  · rw [State.past_last hl h, State.cur_setCur]
    exact ⟨rfl, rfl, rfl, rfl⟩

/-- The lanes of the processed blocks. -/
def blockLanes (n : Nat) (act : Lanes) : Lanes := laneSet ((List.range 32).filter fun l => (blocksOf n act).contains (blockOf n l))

theorem inSet_blockLanes {n l : Nat} {act : Lanes} (hl : l < 32) : inSet (blockLanes n act) l = true ↔ n * l / 32 ∈ blocksOf n act := by
  rw [inSet, blockLanes, laneSet_getLsbD]
  simp [hl, blockOf]

/-- The elements that VRQ writes to a lane. -/
def reqLane (n : Nat) (r : Nat → ReqR) (l : Nat) : W32 := packElems (32 / n) fun q => ((r (n * l / 32)).elems[n * l + q - 32 * (n * l / 32)]?).getD 0

/-- The group after VRQ. -/
def Group.vrqOut (g : Group) (f : FV) (act : Lanes) (r : Nat → ReqR) : Group :=
  let n := packCount f.mod
  let blocks := blocksOf n act
  ((((g.wv f.vd.toNat (blockLanes n act) (reqLane n r)).writeScales f.vd.toNat n blocks r).flag
    (satFlag (blocks.any fun j => (r j).sat) ||| rangeFlag (blocks.any fun j => (r j).range))).called (optSr f))

/-- The group after XMAXE. -/
def Group.xmaxeOut (g : Group) (f : FV) (act : Lanes) (r : Nat → ReqR) : Group :=
  let n := packCount f.mod
  let blocks := blocksOf n act
  (g.writeScales f.vd.toNat n blocks r).flag (rangeFlag (blocks.any fun j => (r j).range))

section
variable {f : FV} {s : State} {c : Clause}

theorem execVrq_issues (h : Issues (.vrq f) s c) :
    execVrq f s = .next (s.past c (if s.activeOf (.vrq f) = 0 then s.cur.issuing.called (optSr f)
      else s.cur.issuing.vrqOut f (s.activeOf (.vrq f)) (s.reqBlock s.cur f (packCount f.mod)))) :=
  h.counted_out h.own fun _ => congrArg Eff.done (State.setCur_setCur ..)

theorem execVrq_off (h : Issues (.vrq f) s c) (ha : s.activeOf (.vrq f) = 0) :
    execVrq f s = .next (s.past c { s.cur.issuing with calls := if f.vc.getLsbD 0 then s.cur.calls + 1 else s.cur.calls }) := by
  refine (execVrq_issues h).trans ?_
  rw [if_pos ha, Group.called_eq]
  rfl

theorem execVrq_on (h : Issues (.vrq f) s c) (ha : s.activeOf (.vrq f) ≠ 0) :
    execVrq f s = .next (s.past c (s.cur.issuing.vrqOut f (s.activeOf (.vrq f)) (s.reqBlock s.cur f (packCount f.mod)))) := by
  rw [execVrq_issues h, if_neg ha]

theorem execXmaxe_issues (h : Issues (.xmaxe f) s c) :
    execXmaxe f s = .next (s.past c (s.onceOut (.xmaxe f) (s.cur.issuing.xmaxeOut f (s.activeOf (.xmaxe f)) (s.reqBlock s.cur f (packCount f.mod))))) :=
  h.own_out h.own fun _ => congrArg Eff.done (State.setCur_setCur ..)

theorem execXmaxe_off (h : Issues (.xmaxe f) s c) (ha : s.activeOf (.xmaxe f) = 0) : execXmaxe f s = .next (s.past c s.cur.issuing) := by
  rw [execXmaxe_issues h, State.onceOut, if_pos ha]

theorem execXmaxe_on (h : Issues (.xmaxe f) s c) (ha : s.activeOf (.xmaxe f) ≠ 0) :
    execXmaxe f s = .next (s.past c (s.cur.issuing.xmaxeOut f (s.activeOf (.xmaxe f)) (s.reqBlock s.cur f (packCount f.mod)))) := by
  rw [execXmaxe_issues h, State.onceOut, if_neg ha]

end

section
variable {g : Group} {f : FV} {act : Lanes} {r : Nat → ReqR}

@[simp] theorem Group.called_v (g : Group) (sr : Bool) : (g.called sr).v = g.v := by rw [Group.called_eq]
@[simp] theorem Group.called_x (g : Group) (sr : Bool) : (g.called sr).x = g.x := by rw [Group.called_eq]
@[simp] theorem Group.called_xstat (g : Group) (sr : Bool) : (g.called sr).xstat = g.xstat := by rw [Group.called_eq]
@[simp] theorem Group.called_status (g : Group) (sr : Bool) : (g.called sr).status = g.status := by rw [Group.called_eq]
@[simp] theorem Group.called_calls (g : Group) (sr : Bool) : (g.called sr).calls = if sr then g.calls + 1 else g.calls := by rw [Group.called_eq]

/-- What VRQ leaves of the group beyond its scale bytes. -/
theorem Group.vrqOut_fields : (g.vrqOut f act r).status = g.status ∧
    (g.vrqOut f act r).v = (g.wv f.vd.toNat (blockLanes (packCount f.mod) act) (reqLane (packCount f.mod) r)).v ∧
    (g.vrqOut f act r).xstat = g.xstat ||| ((if (blocksOf (packCount f.mod) act).any fun j => (r j).sat then 4 else 0) |||
      (if (blocksOf (packCount f.mod) act).any fun j => (r j).range then 2 else 0)) ∧
    (g.vrqOut f act r).calls = if f.vc.getLsbD 0 then g.calls + 1 else g.calls := by
  simp only [Group.vrqOut, Group.called_status, Group.called_v, Group.called_xstat, Group.called_calls, Group.flag]
  rw [writeScales_keeps Group.status fun _ _ _ => rfl, writeScales_keeps Group.v fun _ _ _ => rfl,
    writeScales_keeps Group.xstat fun _ _ _ => rfl, writeScales_keeps Group.calls fun _ _ _ => rfl]
  exact ⟨rfl, rfl, rfl, rfl⟩

theorem Group.vrqOut_x : (g.vrqOut f act r).x = ((g.wv f.vd.toNat (blockLanes (packCount f.mod) act) (reqLane (packCount f.mod) r)).writeScales f.vd.toNat
    (packCount f.mod) (blocksOf (packCount f.mod) act) r).x := by
  simp only [Group.vrqOut, Group.called_x, Group.flag]

/-- What XMAXE leaves of the group beyond its scale bytes. -/
theorem Group.xmaxeOut_fields : (g.xmaxeOut f act r).status = g.status ∧ (g.xmaxeOut f act r).v = g.v ∧
    (g.xmaxeOut f act r).xstat = g.xstat ||| (if (blocksOf (packCount f.mod) act).any fun j => (r j).range then 2 else 0) ∧
    (g.xmaxeOut f act r).calls = g.calls := by
  simp only [Group.xmaxeOut, Group.flag]
  rw [writeScales_keeps Group.status fun _ _ _ => rfl, writeScales_keeps Group.v fun _ _ _ => rfl,
    writeScales_keeps Group.xstat fun _ _ _ => rfl, writeScales_keeps Group.calls fun _ _ _ => rfl]
  exact ⟨rfl, rfl, rfl, rfl⟩

/-- The scale bytes of the blocks with a lane of ACTIVE, of the other blocks, and beyond them. -/
theorem writeScales_blocks {h : Group} {x n : Nat} (hn : 0 < n) (hn8 : n ≤ 8) (ha : act ≠ 0)
    (hx : h.x = (g.writeScales x n (blocksOf n act) r).x) :
    (∀ j, j < n → (∃ k, k < 32 ∧ act.getLsbD k = true ∧ n * k / 32 = j) → xbyte (h.rx x) j = BitVec.ofNat 8 (r j).scale) ∧
    (∀ j, j < n → (∀ k, k < 32 → act.getLsbD k = true → n * k / 32 ≠ j) → xbyte (h.rx x) j = xbyte (g.rx x) j) ∧
    (∀ j, n ≤ j → j < 8 → xbyte (h.rx x) j = 0x7F) := by
  have hrx : h.rx x = (g.writeScales x n (blocksOf n act) r).rx x := by rw [Group.rx, hx, Group.rx]
  have hbyte : ∀ {k}, k < 8 → _ := fun {k} hk => xbyte_writeScales (g := g) (x := x) (r := r) (fun j hj => (mem_blocksOf.1 hj).1)
    (blocksOf_ne_nil hn ha) hn8 hk
  rw [hrx]
  refine ⟨fun j hj hin => ?_, fun j hj hout => ?_, fun j hj hj8 => ?_⟩
  · rw [hbyte (by omega), if_neg (by omega), if_pos (mem_blocksOf.2 ⟨hj, hin⟩)]
  · rw [hbyte (by omega), if_neg (by omega), if_neg fun hmem => ?_]
    obtain ⟨-, k, hk, hak, he⟩ := mem_blocksOf.1 hmem
    exact hout k hk hak he
  · rw [hbyte hj8, if_pos hj]

/-- The lanes that VRQ writes and those that it keeps. -/
theorem vrq_lanes {h : Group} {x n l : Nat} (hn : 0 < n) (hl : l < 32) (hfill : 32 / (32 / n) = n)
    (hv : h.v = (g.wv x (blockLanes n act) (reqLane n r)).v) :
    ((∃ k, k < 32 ∧ act.getLsbD k = true ∧ n * k / 32 = n * l / 32) → ∀ q, q < n →
      ((h.rl x l).extractLsb' (32 / n * q) (32 / n)).toNat = ((r (n * l / 32)).elems[n * l + q - 32 * (n * l / 32)]?).getD 0 % 2 ^ (32 / n)) ∧
    ((∀ k, k < 32 → act.getLsbD k = true → n * k / 32 ≠ n * l / 32) → h.rl x l = g.rl x l) := by
  have hrl : h.rl x l = if n * l / 32 ∈ blocksOf n act then reqLane n r l else g.rl x l := by
    have hwv : h.rl x l = (g.wv x (blockLanes n act) (reqLane n r)).rl x l := by rw [Group.rl, Group.rv, hv, Group.rl, Group.rv]
    rw [hwv, Group.rl_wv _ _ _ _ _ _ hl]
    exact if_congr (by rw [inSet_blockLanes hl, and_iff_right rfl]) rfl rfl
  refine ⟨fun hin q hq => ?_, fun hout => ?_⟩
  · rw [hrl, if_pos (mem_blocksOf.2 ⟨block_lt hn hl, hin⟩), reqLane]
    exact packElems_extract _ (by rwa [hfill])
  · rw [hrl, if_neg fun hmem => ?_]
    obtain ⟨-, k, hk, hak, he⟩ := mem_blocksOf.1 hmem
    exact hout k hk hak he

end

section
variable {s : State} {c : Clause} {f : FV} {act : Lanes} {r : Nat → ReqR} (hl : s.cur.status = .live) (ha : act ≠ 0)
include hl ha

/-- The registers, XSTAT and the call counter after VRQ. -/
theorem vrq_after :
    let n := packCount f.mod
    let t := s.past c (s.cur.issuing.vrqOut f act r)
    let done := (List.range n).filter fun j => (List.range 32).any fun l => act.getLsbD l && n * l / 32 == j
    (∀ l, l < 32 →
      ((∃ k, k < 32 ∧ act.getLsbD k = true ∧ n * k / 32 = n * l / 32) → ∀ q, q < n →
        ((t.cur.rl f.vd.toNat l).extractLsb' (32 / n * q) (32 / n)).toNat = (((r (n * l / 32)).elems[n * l + q - 32 * (n * l / 32)]?).getD 0) % 2 ^ (32 / n)) ∧
      ((∀ k, k < 32 → act.getLsbD k = true → n * k / 32 ≠ n * l / 32) → t.cur.rl f.vd.toNat l = s.cur.rl f.vd.toNat l)) ∧
    (∀ j, j < n → (∃ k, k < 32 ∧ act.getLsbD k = true ∧ n * k / 32 = j) → xbyte (t.cur.rx f.vd.toNat) j = BitVec.ofNat 8 (r j).scale) ∧
    (∀ j, j < n → (∀ k, k < 32 → act.getLsbD k = true → n * k / 32 ≠ j) → xbyte (t.cur.rx f.vd.toNat) j = xbyte (s.cur.rx f.vd.toNat) j) ∧
    (∀ j, n ≤ j → j < 8 → xbyte (t.cur.rx f.vd.toNat) j = 0x7F) ∧
    t.cur.xstat = s.cur.xstat ||| ((if done.any fun j => (r j).sat then 4 else 0) ||| (if done.any fun j => (r j).range then 2 else 0)) ∧
    t.cur.calls = (if f.vc.getLsbD 0 then s.cur.calls + 1 else s.cur.calls) := by
  obtain ⟨hfill, hpos, hle⟩ := packCount_fills f.mod
  obtain ⟨hst, hv, hxstat, hcalls⟩ := Group.vrqOut_fields (g := s.cur.issuing) (f := f) (act := act) (r := r)
  obtain ⟨pv, px, pxstat, pcalls⟩ := s.past_registers (c := c) (hst.trans hl)
  obtain ⟨hin, hout, hbeyond⟩ := writeScales_blocks hpos hle ha (px.trans Group.vrqOut_x)
  rw [blocksOf_eq] at hxstat
  exact ⟨fun l hl => vrq_lanes hpos hl hfill (pv.trans hv), hin, hout, hbeyond, pxstat.trans hxstat, pcalls.trans hcalls⟩

/-- The same after XMAXE, which writes no element. -/
theorem xmaxe_after :
    let n := packCount f.mod
    let t := s.past c (s.cur.issuing.xmaxeOut f act r)
    let done := (List.range n).filter fun j => (List.range 32).any fun l => act.getLsbD l && n * l / 32 == j
    t.cur.v = s.cur.v ∧
    (∀ j, j < n → (∃ k, k < 32 ∧ act.getLsbD k = true ∧ n * k / 32 = j) → xbyte (t.cur.rx f.vd.toNat) j = BitVec.ofNat 8 (r j).scale) ∧
    (∀ j, j < n → (∀ k, k < 32 → act.getLsbD k = true → n * k / 32 ≠ j) → xbyte (t.cur.rx f.vd.toNat) j = xbyte (s.cur.rx f.vd.toNat) j) ∧
    (∀ j, n ≤ j → j < 8 → xbyte (t.cur.rx f.vd.toNat) j = 0x7F) ∧
    t.cur.xstat = s.cur.xstat ||| (if done.any fun j => (r j).range then 2 else 0) ∧ t.cur.calls = s.cur.calls := by
  obtain ⟨-, hpos, hle⟩ := packCount_fills f.mod
  obtain ⟨hst, hv, hxstat, hcalls⟩ := Group.xmaxeOut_fields (g := s.cur.issuing) (f := f) (act := act) (r := r)
  obtain ⟨pv, px, pxstat, pcalls⟩ := s.past_registers (c := c) (hst.trans hl)
  obtain ⟨hin, hout, hbeyond⟩ := writeScales_blocks hpos hle ha px
  rw [blocksOf_eq] at hxstat
  exact ⟨pv.trans hv, hin, hout, hbeyond, pxstat.trans hxstat, pcalls.trans hcalls⟩

end

/-! ### A block (R78) -/

theorem reqValues_getElem (xs : List FNum) (f : Fmt) (mode : Nat → RMode) (e : Int) (k : Nat) :
    (reqValues xs f mode e)[k]? = xs[k]?.map fun x => cvt (scaleNum x (-e)) f (mode k) false := by
  rw [reqValues, List.getElem?_map, List.getElem?_zipIdx, Option.map_map, Nat.zero_add]
  rfl

section
variable {xs : List FNum} {d : Fmt} {mode : Nat → RMode} {ceil : Bool} (h : ∀ x ∈ xs, ∃ n m e, x = .fin n m e) (ha : (amaxOf xs).1 ≠ 0)
include h ha

/-- Each value of the block scaled and converted, and whether one of them saturates. -/
theorem requantise_elems :
    let r := requantise xs d mode ceil
    let y := fun (k : Nat) (x : FNum) => cvt (scaleNum x (127 - (r.scale : Int))) d (mode k) false
    (∀ k x, xs[k]? = some x → r.elems[k]? = some (y k x).1) ∧ (r.sat = true ↔ ∃ k x, xs[k]? = some x ∧ (y k x).2 = true) := by
  have hscale := requantise_scale (f := d) (mode := mode) (ceil := ceil) h ha
  have hneg : 127 - ((requantise xs d mode ceil).scale : Int) = -clampExp (d.blockExp ceil (amaxOf xs)) := by omega
  dsimp only
  rw [hneg, requantise_values h ha]
  refine ⟨fun k x hx => ?_, ?_⟩
  · rw [List.getElem?_map, reqValues_getElem, hx]
    rfl
  · simp only [List.any_eq_true, List.mem_iff_getElem?, reqValues_getElem, Option.map_eq_some_iff]
    constructor
    · rintro ⟨p, ⟨k, x, hx, rfl⟩, hp⟩
      exact ⟨k, x, hx, hp⟩
    · rintro ⟨k, x, hx, hp⟩
      exact ⟨_, ⟨k, x, hx, rfl⟩, hp⟩

/-- The exponent of the floor rule, clamped. -/
theorem requantise_floor :
    let r := requantise xs d mode false
    let e := d.floorExp (amaxOf xs)
    (r.scale : Int) - 127 = max (-127) (min 127 e) ∧ (r.range = true ↔ e < -127 ∨ 127 < e) := by
  refine ⟨requantise_scale h ha, ?_⟩
  rw [requantise_values h ha]
  simp only [Fmt.blockExp, Bool.false_eq_true, if_false, bne_iff_ne, clampExp]
  omega

end

/-! ### XMOV and XSET (R150) -/

/-- The MOD table of XMOV. -/
theorem xmov_table {α : Type} (m : BitVec 4) (x0 x1 x : α) : (match m.toNat with | 0 => x0 | 1 => x1 | _ => x) =
    if m = 0 then x0 else if m = 1 then x1 else x := by
  obtain ⟨⟨n, hn⟩⟩ := m
  interval_cases n <;> rfl

section
variable {f : FV} {s : State} {c : Clause}

theorem execXmov_issues (h : Issues (.xmov f) s c) : execXmov f s = .next (s.past c (s.onceOut (.xmov f)
    (if f.mod = 0 then s.cur.issuing.wx f.vd.toNat (s.cur.rx f.va.toNat)
     else if f.mod = 1 then (s.cur.issuing.ws f.vd.toNat ((s.cur.rx f.va.toNat).extractLsb' 0 32)).ws (f.vd.toNat + 1) ((s.cur.rx f.va.toNat).extractLsb' 32 32)
     else s.cur.issuing.wx f.vd.toNat (s.cur.rs (f.va.toNat + 1) ++ s.cur.rs f.va.toNat)))) := by
  rw [← xmov_table, ← BitVec.setWidth_eq_extractLsb' (by decide)]
  exact h.group_out _

/-- The group after XSET. -/
def Group.xsetOut (g : Group) (f : FV) : Group :=
  ((List.range 8).filter fun j => (g.rs f.vc.toNat).getLsbD j).foldl (fun h j => h.wxb f.vd.toNat j ((g.rs f.vb.toNat).setWidth 8) false) g

theorem execXset_issues (h : Issues (.xset f) s c) : execXset f s = .next (s.past c (s.onceOut (.xset f) (s.cur.issuing.xsetOut f))) := h.group_out _

end

/-- XSET writes the bytes that the mask names and nothing else. -/
theorem Group.xsetOut_spec (g : Group) (f : FV) :
    (∀ j, j < 8 → xbyte ((g.xsetOut f).rx f.vd.toNat) j = if (g.rs f.vc.toNat).getLsbD j then (g.rs f.vb.toNat).extractLsb' 0 8 else xbyte (g.rx f.vd.toNat) j) ∧
      (∀ n, n ≠ f.vd.toNat → (g.xsetOut f).rx n = g.rx n) ∧ (∀ n, (g.xsetOut f).rs n = g.rs n) ∧ (g.xsetOut f).v = g.v ∧ (g.xsetOut f).xstat = g.xstat := by
  refine ⟨fun j hj => ?_, fun n hne => ?_, fun n => ?_, ?_, ?_⟩
  · rw [Group.xsetOut, xbyte_foldl_wxb _ (fun j hj => List.mem_range.1 (List.mem_filter.1 hj).1) _ (fun _ => (g.rs f.vb.toNat).setWidth 8) _ hj,
      BitVec.setWidth_eq_extractLsb' (by decide)]
    exact if_congr (by simp [hj]) rfl rfl
  · exact foldl_wxb_keeps (·.rx n) (fun _ _ _ => rx_wxb_ne _ hne.symm _ _ _) _ _ _
  · exact foldl_wxb_keeps (·.rs n) (fun _ _ _ => rfl) _ _ _
  · exact foldl_wxb_keeps Group.v (fun _ _ _ => rfl) _ _ _
  · exact foldl_wxb_keeps Group.xstat (fun _ _ _ => rfl) _ _ _

/-- Settles O25: the lemma of each word. -/
theorem conversionsAndBlocks : Obligations.ConversionsAndBlocks := by
  unfold Obligations.ConversionsAndBlocks
  refine ⟨fun s c => ⟨fun f => execVcvt_issues, fun f h => ?_, fun f h => ?_⟩, fun s c => ⟨fun f h => ?_, fun f h => ?_, fun xs d mode ceil => ?_⟩,
    fun s c => ⟨fun f => execXmov_issues, fun f h => ⟨_, execXset_issues h, s.cur.issuing.xsetOut_spec f⟩⟩⟩
  · obtain ⟨hfill, hpos, -⟩ := packCount_fills f.mod
    have hnan := congrArg (f.vc.getLsbD 3 && ·) (scaleNan_eq (act := s.activeOf (.vpack f)) s.cur f.vd.toNat hpos)
    refine ⟨execVpack_off h, execVpack_trap h hnan, fun ha ht => ⟨_, _, execVpack_on h hnan ha ht, ?_, fun l q _ _ hq => ?_⟩⟩
    · simp only [List.any_eq_true, mem_lanesOf, List.mem_range, (s.packed_fst f _ _).2]
      exact ⟨fun ⟨l, ⟨hl, ha⟩, q, hq, hy⟩ => ⟨l, q, hl, ha, hq, hy⟩, fun ⟨l, q, hl, ha, hq, hy⟩ => ⟨l, ⟨hl, ha⟩, q, hq, hy⟩⟩
    · rw [← (s.packed_fst f l q).1]
      exact packElems_extract _ (by rwa [hfill])
  · obtain ⟨-, hpos, -⟩ := packCount_fills f.ty
    have hnan := congrArg (f.vc.getLsbD 3 && ·) (scaleNan_eq (act := s.activeOf (.vunpack f)) s.cur f.va.toNat hpos)
    exact ⟨execVunpack_off h, execVunpack_trap h hnan, execVunpack_on h hnan⟩
  · exact ⟨execVrq_off h, fun ha => ⟨_, execVrq_on h ha, vrq_after h.at_.live ha⟩⟩
  · exact ⟨execXmaxe_off h, fun ha => ⟨_, execXmaxe_on h ha, xmaxe_after h.at_.live ha⟩⟩
  · exact ⟨requantise_special, requantise_zero, fun h ha => ⟨(requantise_elems h ha).1, (requantise_elems h ha).2, by rintro rfl; exact requantise_floor h ha⟩⟩

end Sys2Proof.Machine
end
